-- ==== Sys2Proof/Word.lean ====
section
/-! DEFINITION. The word types of the Q832 and nothing else (R2, R3, R11, R34): every helper over bits that a test could show wrong
stands in Sys2Proof/Machine/Bits.lean. -/

namespace Sys2Proof

/-- A v register, a memory double word (R11). -/
abbrev Word := BitVec 64

/-- An instruction, header, literal or extension word (R123). -/
abbrev Word32 := BitVec 32

/-- One byte (R3). -/
abbrev Byte := BitVec 8

/-- A virtual address of a job, VA[56:0] (R57). -/
abbrev Va := BitVec 57

/-- A 6-bit register field (R130). -/
abbrev Reg := BitVec 6

end Sys2Proof
end

