-- ==== Sys2Proof/Syntax.lean ====
section
/-! DEFINITION. The instructions and happenings of spec/opcode_table.json: one constructor of `Instr` per row (R143 to R157 for the
instructions; the happenings are the packets of R315, the Halyard events of R288, the management flits of R431, and the timers,
completions and outside acts of the rules named at each). Operands are the fields of the encoding, or what the happening carries. -/

namespace Sys2Proof

/-- Element width of the integer majors and of BIT, CMP, SLIDE, LDS and STS (R143, R145, R146). -/
inductive IntW | d | w | h | b
  deriving DecidableEq, Repr, Inhabited

/-- Element format of the floating-point majors (R147). -/
inductive FpW | s | h | bf
  deriving DecidableEq, Repr, Inhabited

/-- Integer compare conditions (R146). -/
inductive Cond | eq | ne | lt | le | ltu | leu
  deriving DecidableEq, Repr, Inhabited

/-- Floating-point compare conditions (R189). -/
inductive FCond | eq | ne | lt | le | un
  deriving DecidableEq, Repr, Inhabited

/-- CVT format codes 0 to 12 (R148). -/
inductive Fmt | i8 | u8 | i16 | u16 | i32 | u32 | i64 | u64 | s | h | bf | e4m3 | e5m2
  deriving DecidableEq, Repr, Inhabited

/-- CVTS types (R195). -/
inductive CvtsT | e4m3 | e5m2 | i8
  deriving DecidableEq, Repr, Inhabited

/-- VOTE modes (R203). -/
inductive VoteMode | all | any | eq | ballot
  deriving DecidableEq, Repr, Inhabited

/-- RED and SCAN types (R151). -/
inductive RedT | d | w | s | h | bf | du | wu
  deriving DecidableEq, Repr, Inhabited

/-- RED and SCAN operations (R151). -/
inductive RedOp | add | min | max | and | or | xor
  deriving DecidableEq, Repr, Inhabited

/-- REDMAXI types (R206). -/
inductive MaxT | s | h | bf | d | w | du | wu
  deriving DecidableEq, Repr, Inhabited

/-- Full-empty qualifier of LDS (R149). -/
inductive FeL | none | wf | wfc
  deriving DecidableEq, Repr, Inhabited

/-- Operand types 0 to 3 of ATOM (R150); type 4 is AADDF. -/
inductive AtomTy | d | w | du | wu
  deriving DecidableEq, Repr, Inhabited

/-- Orders 0 to 5 (R105). -/
inductive Order | none | acq | rel | ar | sc | ord
  deriving DecidableEq, Repr, Inhabited

/-- Scopes 0 to 4 (R104). -/
inductive Scope | blk | clu | die | pkg | pod
  deriving DecidableEq, Repr, Inhabited

/-- Fence orders (R229). -/
inductive FenceO | acq | rel | ar
  deriving DecidableEq, Repr, Inhabited

/-- MWALK combines (R259). -/
inductive WalkOp | a96 | i32 | max | min
  deriving DecidableEq, Repr, Inhabited

/-- CANCEL levels (R262). -/
inductive Level | grid | graph | phase | job
  deriving DecidableEq, Repr, Inhabited

/-- What a submission names (R283). -/
inductive SubKind | launch | phase | graph
  deriving DecidableEq, Repr, Inhabited

/-- A fabric packet (R314, R315): header fields, the 32 bytes of TSPEC, and the flits after the header. `job` and `user` are the
address space and mode of the access, which the layout of R314 gives no place. (DESIGN CHOICE, log 6.) -/
structure Packet where
  typ   : Nat
  dst   : Nat
  src   : Nat
  vc    : Nat
  pen   : Bool
  col   : Bool
  host  : Bool
  ctlResvd : Nat
  path  : Nat
  n     : Nat
  seq   : Nat
  pser  : Nat
  score : Nat
  hjob  : Nat
  lvl   : Nat
  base  : BitVec 64
  tspec : BitVec 256
  offs  : List (BitVec 16)
  data  : List (BitVec 64)
  seals : List Byte
  masks : List Byte
  job   : Nat
  user  : Bool
  deriving DecidableEq, Repr, Inhabited

/-- Header of a Halyard event (R287): SEQ (0 as sent), ORIGIN, JOB. -/
structure EvHdr where
  seq    : Nat
  origin : Nat
  job    : Nat
  deriving DecidableEq, Repr, Inhabited

/-- A management flit (R431): MTYPE, ORIGIN, LINK, A, B, DATA (its 48 bytes as six words). -/
structure Mgmt where
  mtype  : Nat
  origin : Nat
  link   : Nat
  a      : BitVec 64
  b      : BitVec 32
  data   : List (BitVec 64)
  deriving DecidableEq, Repr, Inhabited

/-- What the boot ROM finds in a power-on sequence (R447): which stages fail, the fields of the two configuration record slots and
whether their signatures verify, the link states after training. -/
structure BootFindings where
  fwSigOk   : Bool
  fwVer     : Nat
  slotOk    : List Bool
  d2dOk     : Bool
  stacksOk  : Bool
  edramOk   : Bool
  keyOk     : Bool
  linkUp    : List Bool
  deriving DecidableEq, Repr, Inhabited

/-- One reading of the monitors (R452): slack per die in ps, and again after each step of R453; eye height per link in mV. -/
structure Readings where
  slack    : List Nat
  slackAfter : List (List Nat)
  eye      : List Nat
  deriving DecidableEq, Repr, Inhabited

/-- What a scrub pass of a stack finds (R412, R413): PAs of uncorrectable granules with the data the logic die then holds, and
(granule PA, errors corrected in its row, bits corrected). -/
structure ScrubFindings where
  stack     : Nat
  ue        : List (Nat × BitVec 64)
  ce        : List (Nat × Nat × Nat)
  deriving DecidableEq, Repr, Inhabited

/-- One constructor per row of spec/opcode_table.json, in the table's order. -/
inductive Instr where
  -- INT.D, INT.W, INT.H, INT.B (R143, R166)
  | add (w : IntW) (d a b : Reg) (l : BitVec 3)
  | sub (w : IntW) (d a b : Reg) (l : BitVec 3)
  | mul (w : IntW) (d a b : Reg) (l : BitVec 3)
  | mulh (w : IntW) (d a b : Reg) (l : BitVec 3)
  | mulhu (w : IntW) (d a b : Reg) (l : BitVec 3)
  | div (w : IntW) (d a b : Reg) (l : BitVec 3)
  | divu (w : IntW) (d a b : Reg) (l : BitVec 3)
  | rem (w : IntW) (d a b : Reg) (l : BitVec 3)
  | remu (w : IntW) (d a b : Reg) (l : BitVec 3)
  | shl (w : IntW) (d a b : Reg) (l : BitVec 3)
  | shr (w : IntW) (d a b : Reg) (l : BitVec 3)
  | sra (w : IntW) (d a b : Reg) (l : BitVec 3)
  | rol (w : IntW) (d a b : Reg) (l : BitVec 3)
  | min (w : IntW) (d a b : Reg) (l : BitVec 3)
  | max (w : IntW) (d a b : Reg) (l : BitVec 3)
  | minu (w : IntW) (d a b : Reg) (l : BitVec 3)
  | maxu (w : IntW) (d a b : Reg) (l : BitVec 3)
  | abs (w : IntW) (d a : Reg)
  | neg (w : IntW) (d a : Reg)
  | adds (w : IntW) (d a b : Reg) (l : BitVec 3)
  | subs (w : IntW) (d a b : Reg) (l : BitVec 3)
  | addus (w : IntW) (d a b : Reg) (l : BitVec 3)
  | subus (w : IntW) (d a b : Reg) (l : BitVec 3)
  | dot2s (d a b : Reg) (l : BitVec 3)
  | dot4s (d a b : Reg) (l : BitVec 3)
  | rshr (w : IntW) (d a b : Reg) (l : BitVec 3)
  | rshrs (w : IntW) (d a b : Reg) (l : BitVec 3)
  | qmulr (w : IntW) (d a b : Reg) (l : BitVec 3)
  | nrws (w : IntW) (d a b : Reg) (l : BitVec 3)
  | lea (d a b : Reg) (l : BitVec 3)
  -- INT.I and LDI (R144)
  | addi (d a : Reg) (i : BitVec 11)
  | andi (d a : Reg) (i : BitVec 11)
  | ori (d a : Reg) (i : BitVec 11)
  | xori (d a : Reg) (i : BitVec 11)
  | shli (d a : Reg) (i : BitVec 6)
  | shri (d a : Reg) (i : BitVec 6)
  | srai (d a : Reg) (i : BitVec 6)
  | ldiS (d : Reg) (i : BitVec 11)
  | ldiW (d : Reg) (x : Word32)
  | ldiWu (d : Reg) (x : Word32)
  | ldiHi (d : Reg) (x : Word32)
  | ldiD (d : Reg) (lo hi : Word32)
  -- BIT (R145)
  | and (d a b : Reg) (l : BitVec 3)
  | or (d a b : Reg) (l : BitVec 3)
  | xor (d a b : Reg) (l : BitVec 3)
  | andn (d a b : Reg) (l : BitVec 3)
  | popc (w : IntW) (d a : Reg)
  | clz (w : IntW) (d a : Reg)
  | ctz (w : IntW) (d a : Reg)
  | brev (w : IntW) (d a : Reg)
  | bfx (d a b : Reg)
  | bfxS (d a b : Reg)
  | bfi (d a b : Reg)
  -- CMP (R146)
  | cmpm (w : IntW) (c : Cond) (d a b : Reg) (l : BitVec 3)
  | cmp (w : IntW) (c : Cond) (p : BitVec 3) (a b : Reg)
  | bsel (d a b : Reg) (l : BitVec 3)
  -- FP.S, FP.H, FP.BF (R147)
  | fadd (t : FpW) (d a b : Reg) (l : BitVec 3)
  | fsub (t : FpW) (d a b : Reg) (l : BitVec 3)
  | fmul (t : FpW) (d a b : Reg) (l : BitVec 3)
  | fmin (t : FpW) (d a b : Reg) (l : BitVec 3)
  | fmax (t : FpW) (d a b : Reg) (l : BitVec 3)
  | fminn (t : FpW) (d a b : Reg) (l : BitVec 3)
  | fmaxn (t : FpW) (d a b : Reg) (l : BitVec 3)
  | fabs (t : FpW) (d a : Reg)
  | fneg (t : FpW) (d a : Reg)
  | fcmp (t : FpW) (c : FCond) (p : BitVec 3) (a b : Reg) (l : BitVec 3)
  | fdiv (t : FpW) (d a b : Reg) (l : BitVec 3)
  | fsqrt (t : FpW) (d a : Reg)
  | scalex (t : FpW) (d a b : Reg) (l : BitVec 3)
  | cvts (t : CvtsT) (d a b : Reg)
  | fcmpm (t : FpW) (c : FCond) (d a b : Reg) (l : BitVec 3)
  | fma (t : FpW) (d a b : Reg) (l : BitVec 3)
  | fms (t : FpW) (d a b : Reg) (l : BitVec 3)
  | fnma (t : FpW) (d a b : Reg) (l : BitVec 3)
  | frcp (t : FpW) (d a : Reg)
  | frsq (t : FpW) (d a : Reg)
  | fexp2 (t : FpW) (d a : Reg)
  | flog2 (t : FpW) (d a : Reg)
  | fsin (t : FpW) (d a : Reg)
  | fcos (t : FpW) (d a : Reg)
  | cvt (tgt src : Fmt) (d a : Reg)
  | cvtRs (tgt src : Fmt) (d a e : Reg)
  -- LANE (R151)
  | lpset (n : BitVec 3) (a : Reg)
  | shfl (d a b : Reg)
  | slide (up : Bool) (w : IntW) (d a b : Reg)
  | push (d a b : Reg) (p : BitVec 3)
  | bcast (d a : Reg) (n : BitVec 5)
  | vote (m : VoteMode) (d : Reg) (neg : Bool) (p : BitVec 3)
  | red (t : RedT) (o : RedOp) (d a : Reg)
  | scan (t : RedT) (o : RedOp) (d a : Reg)
  | redmaxi (t : MaxT) (d a b : Reg)
  -- LD, ST, LDF, LDS/STS, LDWS, LDG/STG, PREF (R149)
  | lddShort (d b : Reg) (o : BitVec 6) (k : BitVec 3) (l : BitVec 4)
  | ldd (d b : Reg) (o : BitVec 26) (k : BitVec 3) (l : BitVec 4)
  | ldw (d b : Reg) (o : BitVec 26) (k : BitVec 3) (l : BitVec 4)
  | ldwu (d b : Reg) (o : BitVec 26) (k : BitVec 3) (l : BitVec 4)
  | ldh (d b : Reg) (o : BitVec 26) (k : BitVec 3) (l : BitVec 4)
  | ldhu (d b : Reg) (o : BitVec 26) (k : BitVec 3) (l : BitVec 4)
  | ldb (d b : Reg) (o : BitVec 26) (k : BitVec 3) (l : BitVec 4)
  | ldbu (d b : Reg) (o : BitVec 26) (k : BitVec 3) (l : BitVec 4)
  | stdShort (d b : Reg) (o : BitVec 6)
  | std (d b : Reg) (o : BitVec 26) (ord : Bool)
  | stw (d b : Reg) (o : BitVec 26) (ord : Bool)
  | sth (d b : Reg) (o : BitVec 26) (ord : Bool)
  | stb (d b : Reg) (o : BitVec 26) (ord : Bool)
  | ldfSShort (d b : Reg) (o : BitVec 6) (k : BitVec 3) (l : BitVec 4)
  | ldfS (d b : Reg) (o : BitVec 26) (k : BitVec 3) (l : BitVec 4)
  | ldfBf (d b : Reg) (o : BitVec 26) (k : BitVec 3) (l : BitVec 4)
  | ldsShort (d b : Reg) (o : BitVec 5) (k : BitVec 3) (l : BitVec 4)
  | stsShort (d b : Reg) (o : BitVec 5)
  | lds (w : IntW) (q : FeL) (d b : Reg) (o : BitVec 26) (k : BitVec 3) (l : BitVec 4)
  | sts (w : IntW) (sf : Bool) (d b : Reg) (o : BitVec 26)
  | ldwsDShort (d b : Reg) (o : BitVec 6) (k : BitVec 3) (l : BitVec 4)
  | ldwsD (d b : Reg) (o : BitVec 26) (k : BitVec 3) (l : BitVec 4)
  | ldwsW (d b : Reg) (o : BitVec 26) (k : BitVec 3) (l : BitVec 4)
  | ldgDShort (d b : Reg) (o : BitVec 5) (k : BitVec 3) (l : BitVec 4)
  | stgDShort (d b : Reg) (o : BitVec 5)
  | ldgD (d b : Reg) (o : BitVec 26) (k : BitVec 3) (l : BitVec 4)
  | ldgW (d b : Reg) (o : BitVec 26) (k : BitVec 3) (l : BitVec 4)
  | stgD (d b : Reg) (o : BitVec 26) (ord : Bool)
  | stgW (d b : Reg) (o : BitVec 26) (ord : Bool)
  | prefL1Short (b : Reg) (o : BitVec 6)
  | prefL1 (b : Reg) (o : BitVec 26)
  | prefL2 (b : Reg) (o : BitVec 26)
  -- ATOM (R149, R150)
  | aaddDShort (d b : Reg) (o : BitVec 6) (k : BitVec 3) (l : BitVec 4)
  | aadd (t : AtomTy) (d b : Reg) (o : BitVec 26) (k : BitVec 3) (l : BitVec 4) (od : Order) (sc : Scope)
  | aaddf (d b : Reg) (o : BitVec 26) (k : BitVec 3) (l : BitVec 4) (od : Order) (sc : Scope)
  | amin (t : AtomTy) (d b : Reg) (o : BitVec 26) (k : BitVec 3) (l : BitVec 4) (od : Order) (sc : Scope)
  | amax (t : AtomTy) (d b : Reg) (o : BitVec 26) (k : BitVec 3) (l : BitVec 4) (od : Order) (sc : Scope)
  | aand (t : AtomTy) (d b : Reg) (o : BitVec 26) (k : BitVec 3) (l : BitVec 4) (od : Order) (sc : Scope)
  | aor (t : AtomTy) (d b : Reg) (o : BitVec 26) (k : BitVec 3) (l : BitVec 4) (od : Order) (sc : Scope)
  | axor (t : AtomTy) (d b : Reg) (o : BitVec 26) (k : BitVec 3) (l : BitVec 4) (od : Order) (sc : Scope)
  | axch (t : AtomTy) (d b : Reg) (o : BitVec 26) (k : BitVec 3) (l : BitVec 4) (od : Order) (sc : Scope)
  | acas (t : AtomTy) (d b : Reg) (o : BitVec 26) (k : BitVec 3) (l : BitVec 4) (od : Order) (sc : Scope)
  -- SYNC (R229)
  | fence (o : FenceO) (sc : Scope)
  | acq (d b : Reg) (o : BitVec 26) (k : BitVec 3) (l : BitVec 4) (sc : Scope)
  | rel (d b : Reg) (o : BitVec 26) (sc : Scope)
  | rbind (d b : Reg) (o : BitVec 26)
  | runbind (b : Reg) (o : BitVec 26)
  | aflush (k : BitVec 3) (l : BitVec 4)
  | digrd (d : Reg) (k : BitVec 3) (l : BitVec 4)
  -- SIG (R232)
  | sigdecShort (d b : Reg) (o : BitVec 6)
  | sigdec (d b : Reg) (o : BitVec 26) (od : Order) (sc : Scope)
  | siginc (d b : Reg) (o : BitVec 26) (od : Order) (sc : Scope)
  | sigset (d b : Reg) (o : BitVec 26) (od : Order) (sc : Scope)
  | sigwait (d b : Reg) (o : BitVec 26) (k : BitVec 3) (l : BitVec 4) (od : Order) (sc : Scope)
  | sigarm (d b : Reg) (o : BitVec 26) (od : Order) (sc : Scope)
  -- BAR (R234)
  | bar (n : BitVec 4)
  | bara (n : BitVec 4)
  | barw (n : BitVec 4)
  | gbar (n : BitVec 4)
  | grbar (n : BitVec 4)
  -- MAT, MDESC (R250)
  | mzero (t : BitVec 3) (k : BitVec 3) (l : BitVec 4)
  | mzeroExt (t : BitVec 3) (k : BitVec 3) (l : BitVec 4)
  | mma (t : BitVec 3) (da db : BitVec 4) (x y z : Reg) (k : BitVec 3) (l : BitVec 4)
  | mmak (t : BitVec 3) (da db : BitVec 4) (x y z : Reg) (n : BitVec 14) (k : BitVec 3) (l : BitVec 4)
  | mconv (t : BitVec 3) (da db : BitVec 4) (x y z : Reg) (n : BitVec 14) (k : BitVec 3) (l : BitVec 4)
  | mwalk (op : WalkOp) (t : BitVec 3) (da db dO : BitVec 4) (c : BitVec 10) (k : BitVec 3) (l : BitVec 4)
  | mdrain (rs z : Bool) (t : BitVec 3) (dO : BitVec 4) (x y : Reg) (k : BitVec 3) (l : BitVec 4)
  | mrow (i32 : Bool) (t : BitVec 3) (x y : Reg) (k : BitVec 3) (l : BitVec 4)
  | mwait (t : BitVec 3) (k : BitVec 3) (l : BitVec 4)
  | mfence
  | mstat (clr : Bool) (t : BitVec 3) (x : Reg) (k : BitVec 3) (l : BitVec 4)
  | cbload (n : BitVec 3) (x : Reg) (k : BitVec 3) (l : BitVec 4)
  | mdesc (da : BitVec 4) (x : Reg) (k : BitVec 3) (l : BitVec 4)
  | mshape (da : BitVec 4) (x : Reg) (k : BitVec 3) (l : BitVec 4)
  | manchor (reg : Bool) (t : BitVec 3) (x : Reg) (i : BitVec 14) (k : BitVec 3) (l : BitVec 4)
  -- CPY, COL, POP, SNAP, TASK, FAB (R262)
  | cpy (x : Reg) (k : BitVec 3) (l : BitVec 4)
  | cpys (x : Reg) (k : BitVec 3) (l : BitVec 4)
  | cpyr (x : Reg) (k : BitVec 3) (l : BitVec 4)
  | cpyq (x y z : Reg) (k : BitVec 3) (l : BitVec 4)
  | put (x y z : Reg) (k : BitVec 3) (l : BitVec 4)
  | putf (x y : Reg) (k : BitVec 3) (l : BitVec 4)
  | get (x y z : Reg) (k : BitVec 3) (l : BitVec 4)
  | getVer (x y z : Reg) (k : BitVec 3) (l : BitVec 4)
  | coll (x : Reg) (k : BitVec 3) (l : BitVec 4)
  | collVer (x : Reg) (k : BitVec 3) (l : BitVec 4)
  | reshard (x y : Reg) (k : BitVec 3) (l : BitVec 4)
  | resample (x y z : Reg) (k : BitVec 3)
  | resampleU (x y z u : Reg) (k : BitVec 3)
  | popseed (x : Reg) (k : BitVec 3) (l : BitVec 4)
  | snap (x y : Reg) (k : BitVec 3) (l : BitVec 4)
  | snapwait (x : Reg) (k : BitVec 3) (l : BitVec 4)
  | snapstat (x : Reg) (k : BitVec 3) (l : BitVec 4)
  | launch (x y : Reg) (k : BitVec 3) (l : BitVec 4)
  | cancel (lv : Level) (x : Reg) (k : BitVec 3) (l : BitVec 4)
  | phase (x y : Reg) (k : BitVec 3) (l : BitVec 4)
  | graphrun (x y : Reg) (k : BitVec 3) (l : BitVec 4)
  | wcflush (k : BitVec 3) (l : BitVec 4)
  | fenceack (k : BitVec 3) (l : BitVec 4)
  -- BRA, JMP (R133, R153)
  | bra (c : BitVec 4) (o : BitVec 22)
  | jmp (r : Reg)
  | brx (r : Reg)
  | call (o : BitVec 22)
  | callx (r : Reg)
  | ret
  -- THR (R154)
  | mft (d : Reg) (s : BitVec 9)
  | movc (d : Reg) (c : BitVec 5)
  | clrf (m : BitVec 6)
  | mpush (x : Word32)
  | mpop
  | exit
  | yield
  | nop
  | pand (d a b : BitVec 3)
  | por (d a b : BitVec 3)
  | pxor (d a b : BitVec 3)
  | pnot (d a : BitVec 3)
  | pmov (d a : BitVec 3)
  -- SYS (R285)
  | trap (n : BitVec 9)
  | eret
  | mfs (d : Reg) (r : BitVec 9)
  | mts (r : BitVec 9) (a : Reg)
  | bkpt (n : BitVec 9)
  | halt
  | replay (a : Reg) (tok : Bool)
  | shoot (a : Reg) (sc : BitVec 2)
  | preempt (a : Reg) (resume : Bool)
  | rollback (a : Reg)
  | ldraw (d a : Reg) (s : BitVec 2)
  | jobctl (a : Reg) (close : Bool)
  -- happenings of the package: registers, issue, timers, completions
  | preemptCtlWrite (v : Word)
  | issueCycle (core part dt : Nat)
  | starvation (core bidx grid tid : Nat)
  | yieldExpiry (core bidx grid tid : Nat)
  | formationDeadlock (bidx grid : Nat)
  | fullEmptyTimeLimit (id : Nat)
  | loadResult (id : Nat)
  | storePerformed (id : Nat)
  | wsRefreshWindow (die : Nat) (dt : Nat)
  | blockRetire (bidx grid : Nat)
  | gridCompletion (grid : Nat)
  | stagedBatchApply (grid : Nat)
  | ordTicketRelease (die : Nat)
  | wcLineTimeout (core line : Nat)
  | pageWalk (die job : Nat) (va : Va)
  | heatWindow (die : Nat)
  | pageMigrationComplete (die : Nat) (page : Nat)
  | pageReplicationComplete (die : Nat) (page : Nat)
  | shootdownAck (die id : Nat)
  -- packets (R315)
  | writePacket (p : Packet)
  | vwritePacket (p : Packet)
  | readPacket (p : Packet)
  | vreadPacket (p : Packet)
  | dataPacket (p : Packet)
  | flagPacket (p : Packet)
  | ackPacket (p : Packet)
  | atomPacket (p : Packet)
  | atomrPacket (p : Packet)
  | chunkPacket (p : Packet)
  | swredPacket (p : Packet)
  | burgeePacket (p : Packet)
  | logPacket (p : Packet)
  | ackTimeoutResend (idx : Nat)
  | hostSubmission (kind : SubKind) (job : Nat) (va : Va)
  -- Halyard events (R288)
  | submitEvent (h : EvHdr) (va : Va) (c : Nat) (flags : Byte)
  | admitEvent (h : EvHdr) (grid : Nat)
  | finishEvent (h : EvHdr) (grid pkg : Nat)
  | blockEvent (h : EvHdr) (grid : Nat)
  | unblockEvent (h : EvHdr) (grid : Nat)
  | cancelEvent (h : EvHdr) (va : Va) (lv : Level)
  | faultEvent (h : EvHdr) (code grid core rung : Nat) (addr : Word) (bidx seq : Nat)
  | lossEvent (h : EvHdr) (pkg reason : Nat)
  | joinEvent (h : EvHdr) (pkg last : Nat) (h0 h1 : Word)
  | fenceEvent (h : EvHdr) (pkg reason ckpt : Nat)
  | digestEvent (h : EvHdr) (ckpt : Nat) (h0 h1 : Word)
  | rebalanceEvent (h : EvHdr) (grid kind gen spkg dpkg nch rank0 slot0 : Nat)
  | snapcommitEvent (h : EvHdr) (epoch cutSeq : Nat) (manif : Va) (kind : Nat)
  | snapopenEvent (h : EvHdr) (va : Va) (epoch : Nat)
  | ticketEvent (h : EvHdr)
  | jobEvent (h : EvHdr) (va : Va) (close : Bool)
  | preemptcfgEvent (h : EvHdr) (pkg : Nat) (en : Bool)
  -- management (R431) and links
  | heartbeat (link seq : Nat)
  | heartbeatTick (link : Nat)
  | death (pkg link : Nat)
  | hretx (origin first count target : Nat)
  | ireq (origin f target : Nat)
  | image (origin k chunk target : Nat) (data : List (BitVec 64))
  | note (m : Mgmt)
  | release (a : Word) (target : Nat)
  | linkSilent (link : Nat)
  | linkTrainingAttempt (link : Nat) (ok : Bool)
  | gapLeafRetx
  | gapGroupRetx
  | gapTimeout
  | halyardFailover
  | managementReset
  -- dispatch, pre-emption, engines
  | dispatchRecord (cls pos : Nat)
  | coreHalt (core grid : Nat)
  | haltTimeout (core : Nat)
  | contextSaveComplete (core grid : Nat)
  | contextMove (bidx grid toCore : Nat) (carve : Bool)
  | copyChunk (id : Nat)
  | matrixGrant (cluster : Nat)
  | matrixGrantComplete (cluster : Nat)
  | matrixEntryStarving (cluster id : Nat)
  | drainWritesComplete (cluster id : Nat)
  | mwalkCombine (cluster id : Nat)
  | codebookRebuild (die : Nat)
  | collChunkReduce (die id chunk : Nat)
  | collCheckNotice (die id rank : Nat) (fault : Bool)
  | reshardComplete (die id : Nat)
  | cloneImageCopy (grid : Nat)
  | preservationCopy (job page : Nat)
  | snapshotDone (job : Nat)
  | faultQueueWrite (die : Nat)
  | scrubPass (f : ScrubFindings)
  -- bring-up, ageing, outside acts (22)
  | powerOn (f : BootFindings)
  | marginMonitor (r : Readings)
  | fieldRecordWrite (hours : Nat)
  | attestationRequest
  | podFormation (pkgs : List Nat)
  | managementLinkRetrain (link : Nat)
  | powerLoss (cutShort : Bool)
  | attestationReportDone
  | reservedEventType (h : EvHdr) (typ : Nat)
  | reservedPacketType (p : Packet)
  | snapshotContextTransfer (job core : Nat)
  | hostControlRequest (job : Nat) (kind : Nat) (va : Va) (lv : Level) (close : Bool)
  deriving DecidableEq, Repr, Inhabited

end Sys2Proof
end

