-- ==== Sys2Proof/WellFormed.lean ====
section
/-! DEFINITION. Which instructions the encoding of revision 1 admits (R137, R143 to R157, R250, R262), and which happenings name parts
the package has (R13, R14). The checks that need the running block (register counts, handles, modes) are clause-entry checks of
Sys2Proof/Machine/Ops.lean. -/

set_option linter.constructorNameAsVariable false

namespace Sys2Proof

/-- tok = 7 with la ≠ 0 is a decode fault (R137). -/
def tokAny (k : BitVec 3) (l : BitVec 4) : Bool := k != 7 || l == 0

/-- A form that writes a register or waits names a token 0 to 6 (R250, R262). -/
def tokNamed (k : BitVec 3) : Bool := k != 7

/-- DIV to REMU exist in INT.D and INT.W only (R143). -/
def IntW.isDW : IntW → Bool
  | .d | .w => true
  | .h | .b => false

/-- QMULR exists in INT.W and INT.H only (R143). -/
def IntW.isWH : IntW → Bool
  | .w | .h => true
  | .d | .b => false

/-- NRWS does not exist in INT.B (R143). -/
def IntW.notB : IntW → Bool
  | .b => false
  | .d | .w | .h => true

/-- Types .du and .wu stand with AMIN and AMAX only (R150). -/
def AtomTy.signed : AtomTy → Bool
  | .d | .w => true
  | .du | .wu => false

/-- AND, OR and XOR take integer types only (R151). -/
def redOk (t : RedT) (o : RedOp) : Bool :=
  match o with
  | .add | .min | .max => true
  | .and | .or | .xor =>
    match t with
    | .d | .w | .du | .wu => true
    | .s | .h | .bf => false

/-- System register numbers of R157. -/
def sysRegs : List (BitVec 9) :=
  [0x000, 0x001, 0x002, 0x003, 0x010, 0x011, 0x012, 0x013, 0x014, 0x015, 0x100, 0x101, 0x102, 0x103]

/-- SIG takes orders 0 to 4 (R149). -/
def Order.notOrd : Order → Bool
  | .ord => false
  | .none | .acq | .rel | .ar | .sc => true

/-- A packet's fields lie in their ranges (R314). -/
def Packet.inRange (p : Packet) : Bool :=
  p.dst < 4096 && p.src < 4096 && p.vc < 8 && p.path < 16 && p.n ≤ 32 && p.score < 1024 && p.lvl < 16 &&
    p.data.length == p.n && p.seals.length == p.n && p.masks.length == p.n

/-- The checks of the encoding on each instruction, and of the unit counts on each happening. -/
def Instr.wellFormed : Instr → Bool
  | .add _ _ _ _ _ | .sub _ _ _ _ _ | .mul _ _ _ _ _ | .mulh _ _ _ _ _ | .mulhu _ _ _ _ _ => true
  | .div w _ _ _ _ | .divu w _ _ _ _ | .rem w _ _ _ _ | .remu w _ _ _ _ => w.isDW
  | .shl _ _ _ _ _ | .shr _ _ _ _ _ | .sra _ _ _ _ _ | .rol _ _ _ _ _ => true
  | .min _ _ _ _ _ | .max _ _ _ _ _ | .minu _ _ _ _ _ | .maxu _ _ _ _ _ => true
  | .abs _ _ _ | .neg _ _ _ => true
  | .adds _ _ _ _ _ | .subs _ _ _ _ _ | .addus _ _ _ _ _ | .subus _ _ _ _ _ => true
  | .dot2s _ _ _ _ | .dot4s _ _ _ _ | .rshr _ _ _ _ _ | .rshrs _ _ _ _ _ => true
  | .qmulr w _ _ _ _ => w.isWH
  | .nrws w _ _ _ _ => w.notB
  | .lea _ _ _ _ => true
  | .addi _ _ _ | .andi _ _ _ | .ori _ _ _ | .xori _ _ _ => true
  | .shli _ _ _ | .shri _ _ _ | .srai _ _ _ => true
  | .ldiS _ _ | .ldiW _ _ | .ldiWu _ _ | .ldiHi _ _ | .ldiD _ _ _ => true
  | .and _ _ _ _ | .or _ _ _ _ | .xor _ _ _ _ | .andn _ _ _ _ => true
  | .popc _ _ _ | .clz _ _ _ | .ctz _ _ _ | .brev _ _ _ => true
  | .bfx _ _ _ | .bfxS _ _ _ | .bfi _ _ _ => true
  | .cmpm _ _ _ _ _ _ | .cmp _ _ _ _ _ | .bsel _ _ _ _ => true
  | .fadd _ _ _ _ _ | .fsub _ _ _ _ _ | .fmul _ _ _ _ _ | .fmin _ _ _ _ _ | .fmax _ _ _ _ _ => true
  | .fminn _ _ _ _ _ | .fmaxn _ _ _ _ _ | .fabs _ _ _ | .fneg _ _ _ | .fcmp _ _ _ _ _ _ => true
  | .fdiv _ _ _ _ _ | .fsqrt _ _ _ | .scalex _ _ _ _ _ | .cvts _ _ _ _ | .fcmpm _ _ _ _ _ _ => true
  | .fma _ _ _ _ _ | .fms _ _ _ _ _ | .fnma _ _ _ _ _ => true
  | .frcp _ _ _ | .frsq _ _ _ | .fexp2 _ _ _ | .flog2 _ _ _ | .fsin _ _ _ | .fcos _ _ _ => true
  | .cvt t u _ _ => t != u
  | .cvtRs t u _ _ e => t != u && e != 0
  | .lpset n _ => n != 0
  | .shfl _ _ _ | .slide _ _ _ _ _ | .push _ _ _ _ | .bcast _ _ _ => true
  | .vote m d _ _ => m == .ballot || d.extractLsb' 3 3 == 0
  | .red t o _ _ | .scan t o _ _ => redOk t o
  | .redmaxi _ _ _ _ => true
  | .lddShort _ _ _ k l | .ldd _ _ _ k l | .ldw _ _ _ k l | .ldwu _ _ _ k l | .ldh _ _ _ k l | .ldhu _ _ _ k l
  | .ldb _ _ _ k l | .ldbu _ _ _ k l => tokAny k l
  | .stdShort _ _ _ | .std _ _ _ _ | .stw _ _ _ _ | .sth _ _ _ _ | .stb _ _ _ _ => true
  | .ldfSShort _ _ _ k l | .ldfS _ _ _ k l | .ldfBf _ _ _ k l | .ldsShort _ _ _ k l => tokAny k l
  | .stsShort _ _ _ => true
  | .lds _ _ _ _ _ k l => tokAny k l
  | .sts _ _ _ _ _ => true
  | .ldwsDShort _ _ _ k l | .ldwsD _ _ _ k l | .ldwsW _ _ _ k l | .ldgDShort _ _ _ k l => tokAny k l
  | .stgDShort _ _ _ => true
  | .ldgD _ _ _ k l | .ldgW _ _ _ k l => tokAny k l
  | .stgD _ _ _ _ | .stgW _ _ _ _ => true
  | .prefL1Short _ _ | .prefL1 _ _ | .prefL2 _ _ => true
  | .aaddDShort _ _ _ k l => tokAny k l
  | .aadd t _ _ _ k l _ _ | .aand t _ _ _ k l _ _ | .aor t _ _ _ k l _ _ | .axor t _ _ _ k l _ _
  | .axch t _ _ _ k l _ _ | .acas t _ _ _ k l _ _ => t.signed && tokAny k l
  | .amin _ _ _ _ k l _ _ | .amax _ _ _ _ k l _ _ => tokAny k l
  | .aaddf _ _ _ k l _ _ => tokAny k l
  | .fence _ _ => true
  | .acq _ _ _ k l _ => tokAny k l
  | .rel _ _ _ _ | .rbind _ _ _ | .runbind _ _ => true
  | .aflush k l | .digrd _ k l => tokAny k l
  | .sigdecShort _ _ _ => true
  | .sigdec _ _ _ o _ | .siginc _ _ _ o _ | .sigset _ _ _ o _ | .sigarm _ _ _ o _ => o.notOrd
  | .sigwait _ _ _ k l o _ => tokAny k l && o.notOrd
  | .bar _ | .bara _ | .barw _ | .gbar _ | .grbar _ => true
  | .mzero _ k l | .mzeroExt _ k l => tokAny k l
  | .mma _ _ _ _ _ _ k l | .mmak _ _ _ _ _ _ _ k l | .mconv _ _ _ _ _ _ _ k l => tokAny k l
  | .mwalk _ _ _ _ _ c k l => c != 0 && tokAny k l
  | .mdrain _ _ _ _ _ _ k l => tokAny k l
  | .mrow _ _ _ _ k _ | .mwait _ k _ | .mstat _ _ _ k _ => tokNamed k
  | .mfence => true
  | .cbload _ _ k l | .mdesc _ _ k l | .mshape _ _ k l => tokAny k l
  | .manchor r _ x i k l => tokAny k l && (if r then i == 0 else x == 0)
  | .cpy _ k l | .cpys _ k l | .cpyr _ k l => tokAny k l
  | .cpyq _ _ _ k _ => tokNamed k
  | .put _ _ _ k l | .putf _ _ k l | .get _ _ _ k l | .getVer _ _ _ k l => tokAny k l
  | .coll _ k l | .collVer _ k l | .reshard _ _ k l => tokAny k l
  | .resample _ _ _ k | .resampleU _ _ _ _ k => tokNamed k
  | .popseed _ k l => tokAny k l
  | .snap _ _ k _ | .snapwait _ k _ | .snapstat _ k _ | .launch _ _ k _ => tokNamed k
  | .cancel _ _ k l => tokAny k l
  | .phase _ _ k _ | .graphrun _ _ k _ => tokNamed k
  | .wcflush k l => tokAny k l
  | .fenceack k _ => tokNamed k
  | .bra c _ => c != 0xF
  | .jmp _ | .brx _ | .call _ | .callx _ | .ret => true
  | .mft _ s => s < 18
  | .movc _ _ | .clrf _ | .mpush _ | .mpop | .exit | .yield | .nop => true
  | .pand _ _ _ | .por _ _ _ | .pxor _ _ _ | .pnot _ _ | .pmov _ _ => true
  | .trap _ | .eret => true
  | .mfs _ r | .mts r _ => sysRegs.contains r
  | .bkpt _ | .halt | .replay _ _ | .shoot _ _ | .preempt _ _ | .rollback _ => true
  | .ldraw _ _ s => s != 3
  | .jobctl _ _ => true
  | .preemptCtlWrite _ => true
  | .issueCycle c q _ => c < 832 && q < 4
  | .starvation c _ _ t | .yieldExpiry c _ _ t => c < 832 && t < 1024
  | .formationDeadlock _ _ | .fullEmptyTimeLimit _ | .loadResult _ | .storePerformed _ => true
  | .wsRefreshWindow d _ => d < 4
  | .blockRetire _ _ | .gridCompletion _ | .stagedBatchApply _ => true
  | .ordTicketRelease d => d < 4
  | .wcLineTimeout c n => c < 832 && n < 64
  | .pageWalk d _ _ | .heatWindow d | .pageMigrationComplete d _ | .pageReplicationComplete d _ | .shootdownAck d _ => d < 4
  | .writePacket p | .vwritePacket p | .readPacket p | .vreadPacket p | .dataPacket p | .flagPacket p | .ackPacket p
  | .atomPacket p | .atomrPacket p | .chunkPacket p | .swredPacket p | .burgeePacket p | .logPacket p => p.inRange
  | .ackTimeoutResend _ | .hostSubmission _ _ _ => true
  | .submitEvent _ _ c _ => c < 65536
  | .admitEvent _ g | .blockEvent _ g | .unblockEvent _ g => g < 65536
  | .finishEvent _ g p => g < 65536 && p < 4096
  | .cancelEvent _ _ _ | .faultEvent _ _ _ _ _ _ _ _ => true
  | .lossEvent _ p _ | .joinEvent _ p _ _ _ | .fenceEvent _ p _ _ => p < 4096
  | .digestEvent _ _ _ _ | .rebalanceEvent _ _ _ _ _ _ _ _ _ | .snapcommitEvent _ _ _ _ _ | .snapopenEvent _ _ _
  | .ticketEvent _ | .jobEvent _ _ _ => true
  | .preemptcfgEvent _ p _ => p < 4096
  | .heartbeat l _ | .heartbeatTick l => l < 16
  | .death p l => p < 4096 && l < 16
  | .hretx _ _ _ _ | .ireq _ _ _ => true
  | .image _ _ _ _ d => d.length == 6
  | .note _ | .release _ _ => true
  | .linkSilent l | .linkTrainingAttempt l _ => l < 16
  | .gapLeafRetx | .gapGroupRetx | .gapTimeout | .halyardFailover | .managementReset => true
  | .dispatchRecord c _ => c < 4
  | .coreHalt c _ | .haltTimeout c | .contextSaveComplete c _ => c < 832
  | .contextMove _ _ c _ => c < 832
  | .copyChunk _ => true
  | .matrixGrant c | .matrixGrantComplete c | .matrixEntryStarving c _ | .drainWritesComplete c _ | .mwalkCombine c _ => c < 208
  | .codebookRebuild d | .collChunkReduce d _ _ | .collCheckNotice d _ _ _ | .reshardComplete d _ => d < 4
  | .cloneImageCopy _ | .preservationCopy _ _ | .snapshotDone _ => true
  | .faultQueueWrite d => d < 4
  | .scrubPass f => f.stack < 8
  | .powerOn _ | .marginMonitor _ | .fieldRecordWrite _ | .attestationRequest | .podFormation _ => true
  | .managementLinkRetrain l => l < 16
  | .powerLoss _ | .attestationReportDone | .reservedEventType _ _ | .reservedPacketType _ => true
  | .snapshotContextTransfer _ c => c < 832
  | .hostControlRequest _ k _ _ _ => k < 2

end Sys2Proof
end

