-- ==== Sys2Proof/Decode.lean ====
section
/-! DEFINITION. The decoder and the encoder of encoding revision 1: formats (R130 to R136), the opcode maps (R141 to R157), the decode
causes that a word alone shows (R386), and the encoder written from the same tables. A decode works on the words from the instruction
to the end of its clause and answers the instruction and how many words it took. -/

set_option linter.constructorNameAsVariable false

namespace Sys2Proof

/-- The DECODE causes a word can show (R386), each under its own name. -/
inductive DecodeFault where
  | outsideClass | controlNotLast | wordMissing | illegalMajor | reservedMajor | reservedMinor | badField | registerRange
  | tokenRule | lanePattern | extensionWord
  deriving DecidableEq, Repr

/-- The cause code of R386. -/
def DecodeFault.cause : DecodeFault → Nat
  | .outsideClass => 0x07 | .controlNotLast => 0x08 | .wordMissing => 0x09 | .illegalMajor => 0x10 | .reservedMajor => 0x11
  | .reservedMinor => 0x12 | .badField => 0x13 | .registerRange => 0x14 | .tokenRule => 0x15 | .lanePattern => 0x16
  | .extensionWord => 0x17

/-- A decoded instruction with the words it took, or the cause. -/
abbrev Decoded := Except DecodeFault (Instr × Nat)

/-! ### Fields of one word (R130 to R136) -/

def fOp (w : Word32) : BitVec 6 := w.extractLsb' 26 6
def fD (w : Word32) : Reg := w.extractLsb' 20 6
def fA (w : Word32) : Reg := w.extractLsb' 14 6
def fB (w : Word32) : Reg := w.extractLsb' 8 6
def fL (w : Word32) : BitVec 3 := w.extractLsb' 5 3
def fFn (w : Word32) : BitVec 5 := w.extractLsb' 0 5
def fIfn (w : Word32) : BitVec 3 := w.extractLsb' 11 3
def fImm (w : Word32) : BitVec 11 := w.extractLsb' 0 11
def fTok (w : Word32) : BitVec 3 := w.extractLsb' 5 3
def fLa (w : Word32) : BitVec 4 := w.extractLsb' 1 4
def fX (w : Word32) : BitVec 1 := w.extractLsb' 0 1
def fEfn (w : Word32) : BitVec 5 := w.extractLsb' 21 5
def fTa (w : Word32) : BitVec 3 := w.extractLsb' 18 3
def fDa (w : Word32) : BitVec 4 := w.extractLsb' 14 4
def fDb (w : Word32) : BitVec 4 := w.extractLsb' 10 4
def fQ (w : Word32) : BitVec 2 := w.extractLsb' 8 2
def fSd (w : Word32) : Reg := w.extractLsb' 15 6
def fSa (w : Word32) : Reg := w.extractLsb' 9 6
def fImm9 (w : Word32) : BitVec 9 := w.extractLsb' 0 9
def fCond (w : Word32) : BitVec 4 := w.extractLsb' 22 4
def fOff22 (w : Word32) : BitVec 22 := w.extractLsb' 0 22
/-- Extension word of the M format (R132). -/
def xOff (x : Word32) : BitVec 20 := x.extractLsb' 12 20
def xScope (x : Word32) : BitVec 3 := x.extractLsb' 9 3
def xOrder (x : Word32) : BitVec 3 := x.extractLsb' 6 3
def xFe (x : Word32) : BitVec 3 := x.extractLsb' 3 3
def xSub (x : Word32) : BitVec 3 := x.extractLsb' 0 3
/-- Extension word of the E format (R135). -/
def xVx (x : Word32) : Reg := x.extractLsb' 26 6
def xVy (x : Word32) : Reg := x.extractLsb' 20 6
def xVz (x : Word32) : Reg := x.extractLsb' 14 6
def xImm (x : Word32) : BitVec 14 := x.extractLsb' 0 14

/-- The 26-bit displacement {off6, off20} (R132). -/
def disp26 (w x : Word32) : BitVec 26 := fB w ++ xOff x

/-! ### Codes of operand fields -/

def intWOf : BitVec 2 → IntW
  | 0 => .d | 1 => .w | 2 => .h | 3 => .b
def intWCode : IntW → BitVec 2
  | .d => 0 | .w => 1 | .h => 2 | .b => 3
def fpWOf : BitVec 2 → Option FpW
  | 0 => some .s | 1 => some .h | 2 => some .bf | _ => none
def fpWCode : FpW → BitVec 2
  | .s => 0 | .h => 1 | .bf => 2
def condOf : BitVec 3 → Option Cond
  | 0 => some .eq | 1 => some .ne | 2 => some .lt | 3 => some .le | 4 => some .ltu | 5 => some .leu | _ => none
def condCode : Cond → BitVec 3
  | .eq => 0 | .ne => 1 | .lt => 2 | .le => 3 | .ltu => 4 | .leu => 5
def fcondOf : BitVec 3 → Option FCond
  | 0 => some .eq | 1 => some .ne | 2 => some .lt | 3 => some .le | 4 => some .un | _ => none
def fcondCode : FCond → BitVec 3
  | .eq => 0 | .ne => 1 | .lt => 2 | .le => 3 | .un => 4
def fmtOf : BitVec 4 → Option Fmt
  | 0 => some .i8 | 1 => some .u8 | 2 => some .i16 | 3 => some .u16 | 4 => some .i32 | 5 => some .u32 | 6 => some .i64
  | 7 => some .u64 | 8 => some .s | 9 => some .h | 10 => some .bf | 11 => some .e4m3 | 12 => some .e5m2 | _ => none
def fmtCode : Fmt → BitVec 4
  | .i8 => 0 | .u8 => 1 | .i16 => 2 | .u16 => 3 | .i32 => 4 | .u32 => 5 | .i64 => 6 | .u64 => 7 | .s => 8 | .h => 9
  | .bf => 10 | .e4m3 => 11 | .e5m2 => 12
def cvtsOf : BitVec 3 → Option CvtsT
  | 0 => some .e4m3 | 1 => some .e5m2 | 2 => some .i8 | _ => none
def cvtsCode : CvtsT → BitVec 3
  | .e4m3 => 0 | .e5m2 => 1 | .i8 => 2
def redTOf : BitVec 3 → Option RedT
  | 0 => some .d | 1 => some .w | 2 => some .s | 3 => some .h | 4 => some .bf | 5 => some .du | 6 => some .wu | _ => none
def redTCode : RedT → BitVec 3
  | .d => 0 | .w => 1 | .s => 2 | .h => 3 | .bf => 4 | .du => 5 | .wu => 6
def redOpOf : BitVec 3 → Option RedOp
  | 0 => some .add | 1 => some .min | 2 => some .max | 3 => some .and | 4 => some .or | 5 => some .xor | _ => none
def redOpCode : RedOp → BitVec 3
  | .add => 0 | .min => 1 | .max => 2 | .and => 3 | .or => 4 | .xor => 5
def maxTOf : BitVec 3 → Option MaxT
  | 0 => some .s | 1 => some .h | 2 => some .bf | 3 => some .d | 4 => some .w | 5 => some .du | 6 => some .wu | _ => none
def maxTCode : MaxT → BitVec 3
  | .s => 0 | .h => 1 | .bf => 2 | .d => 3 | .w => 4 | .du => 5 | .wu => 6
def voteOf : BitVec 6 → Option VoteMode
  | 0 => some .all | 1 => some .any | 2 => some .eq | 3 => some .ballot | _ => none
def voteCode : VoteMode → BitVec 6
  | .all => 0 | .any => 1 | .eq => 2 | .ballot => 3
def atomTyOf : BitVec 3 → Option AtomTy
  | 0 => some .d | 1 => some .w | 2 => some .du | 3 => some .wu | _ => none
def atomTyCode : AtomTy → BitVec 3
  | .d => 0 | .w => 1 | .du => 2 | .wu => 3
def orderOf : BitVec 3 → Option Order
  | 0 => some .none | 1 => some .acq | 2 => some .rel | 3 => some .ar | 4 => some .sc | 5 => some .ord | _ => none
def orderCode : Order → BitVec 3
  | .none => 0 | .acq => 1 | .rel => 2 | .ar => 3 | .sc => 4 | .ord => 5
def scopeOf : BitVec 3 → Option Scope
  | 0 => some .blk | 1 => some .clu | 2 => some .die | 3 => some .pkg | 4 => some .pod | _ => none
def scopeCode : Scope → BitVec 3
  | .blk => 0 | .clu => 1 | .die => 2 | .pkg => 3 | .pod => 4
def fenceOf : BitVec 3 → Option FenceO
  | 1 => some .acq | 2 => some .rel | 3 => some .ar | _ => none
def fenceCode : FenceO → BitVec 3
  | .acq => 1 | .rel => 2 | .ar => 3
def walkOf : BitVec 2 → WalkOp
  | 0 => .a96 | 1 => .i32 | 2 => .max | 3 => .min
def walkCode : WalkOp → BitVec 2
  | .a96 => 0 | .i32 => 1 | .max => 2 | .min => 3
def levelOf : BitVec 2 → Level
  | 0 => .grid | 1 => .graph | 2 => .phase | 3 => .job
def levelCode : Level → BitVec 2
  | .grid => 0 | .graph => 1 | .phase => 2 | .job => 3
def feLOf : BitVec 3 → Option FeL
  | 0 => some .none | 2 => some .wf | 3 => some .wfc | _ => none
def feLCode : FeL → BitVec 3
  | .none => 0 | .wf => 2 | .wfc => 3
def boolCode (b : Bool) : BitVec 1 := if b then 1 else 0
def ordCode (b : Bool) : BitVec 3 := if b then 5 else 0

/-- The first check that fails, else the instruction. -/
def verdict : List (Bool × DecodeFault) → Instr → Nat → Decoded
  | [], i, n => .ok (i, n)
  | (bad, f) :: t, i, n => if bad then .error f else verdict t i n

/-- A field code that may be reserved (cause 0x12) names its operand. -/
def minor {α : Type} (o : Option α) (k : α → Decoded) : Decoded :=
  match o with
  | some x => k x
  | none => .error .reservedMinor

/-- A field code that may be a value the field must not hold (cause 0x13). -/
def field {α : Type} (o : Option α) (k : α → Decoded) : Decoded :=
  match o with
  | some x => k x
  | none => .error .badField

/-! ### R and I formats -/

/-- One-source forms: vb = 0 (cause 0x13), then lpm = 0 (cause 0x16) (R166, R185). -/
def oneSource (w : Word32) (i : Instr) : Decoded :=
  verdict [(fB w != 0, .badField), (fL w != 0, .lanePattern)] i 1

/-- Forms without a lane pattern (R165). -/
def noPattern (w : Word32) (i : Instr) : Decoded := verdict [(fL w != 0, .lanePattern)] i 1

/-- INT.D, INT.W, INT.H, INT.B (R143). -/
def decodeInt (e : IntW) (w : Word32) : Decoded :=
  let d := fD w; let a := fA w; let b := fB w; let l := fL w
  let onlyIf (ok : Bool) (i : Instr) : Decoded := if ok then .ok (i, 1) else .error .reservedMinor
  match (fFn w).toNat with
  | 0 => .ok (.add e d a b l, 1) | 1 => .ok (.sub e d a b l, 1) | 2 => .ok (.mul e d a b l, 1)
  | 3 => .ok (.mulh e d a b l, 1) | 4 => .ok (.mulhu e d a b l, 1)
  | 5 => onlyIf e.isDW (.div e d a b l) | 6 => onlyIf e.isDW (.divu e d a b l)
  | 7 => onlyIf e.isDW (.rem e d a b l) | 8 => onlyIf e.isDW (.remu e d a b l)
  | 9 => .ok (.shl e d a b l, 1) | 10 => .ok (.shr e d a b l, 1) | 11 => .ok (.sra e d a b l, 1) | 12 => .ok (.rol e d a b l, 1)
  | 13 => .ok (.min e d a b l, 1) | 14 => .ok (.max e d a b l, 1) | 15 => .ok (.minu e d a b l, 1) | 16 => .ok (.maxu e d a b l, 1)
  | 17 => oneSource w (.abs e d a) | 18 => oneSource w (.neg e d a)
  | 19 => .ok (.adds e d a b l, 1) | 20 => .ok (.subs e d a b l, 1) | 21 => .ok (.addus e d a b l, 1) | 22 => .ok (.subus e d a b l, 1)
  | 23 => onlyIf (e == .w) (.dot2s d a b l) | 24 => onlyIf (e == .w) (.dot4s d a b l)
  | 25 => .ok (.rshr e d a b l, 1) | 26 => .ok (.rshrs e d a b l, 1)
  | 27 => onlyIf e.isWH (.qmulr e d a b l) | 28 => onlyIf e.notB (.nrws e d a b l)
  | 29 => onlyIf (e == .d) (.lea d a b l)
  | _ => .error .reservedMinor

/-- INT.I (R144). -/
def decodeImm (w : Word32) : Decoded :=
  let d := fD w; let a := fA w; let i := fImm w
  let sh (x : Instr) : Decoded := verdict [(i.extractLsb' 6 5 != 0, .badField)] x 1
  match (fIfn w).toNat with
  | 0 => .ok (.addi d a i, 1) | 1 => .ok (.andi d a i, 1) | 2 => .ok (.ori d a i, 1) | 3 => .ok (.xori d a i, 1)
  | 4 => sh (.shli d a (i.extractLsb' 0 6)) | 5 => sh (.shri d a (i.extractLsb' 0 6)) | 6 => sh (.srai d a (i.extractLsb' 0 6))
  | _ => .error .reservedMinor

/-- LDI with its literal words (R144, R171). -/
def decodeLdi (w : Word32) (rest : List Word32) : Decoded :=
  let d := fD w
  let bad := fA w != 0 || fImm w != 0
  match (fIfn w).toNat, rest with
  | 0, _ => verdict [(fA w != 0, .badField)] (.ldiS d (fImm w)) 1
  | 1, x :: _ => verdict [(bad, .badField)] (.ldiW d x) 2
  | 2, x :: _ => verdict [(bad, .badField)] (.ldiWu d x) 2
  | 3, x :: _ => verdict [(bad, .badField)] (.ldiHi d x) 2
  | 4, x :: y :: _ => verdict [(bad, .badField)] (.ldiD d x y) 3
  | 1, [] | 2, [] | 3, [] | 4, [] | 4, [_] => .error .wordMissing
  | _, _ => .error .reservedMinor

/-- BIT (R145). -/
def decodeBit (w : Word32) : Decoded :=
  let d := fD w; let a := fA w; let b := fB w; let l := fL w
  let e := intWOf ((fFn w).extractLsb' 0 2)
  match (fFn w).toNat with
  | 0 => .ok (.and d a b l, 1) | 1 => .ok (.or d a b l, 1) | 2 => .ok (.xor d a b l, 1) | 3 => .ok (.andn d a b l, 1)
  | 4 | 5 | 6 | 7 => oneSource w (.popc e d a)
  | 8 | 9 | 10 | 11 => oneSource w (.clz e d a)
  | 12 | 13 | 14 | 15 => oneSource w (.ctz e d a)
  | 16 | 17 | 18 | 19 => oneSource w (.brev e d a)
  | 20 => noPattern w (.bfx d a b) | 21 => noPattern w (.bfxS d a b) | 22 => noPattern w (.bfi d a b)
  | _ => .error .reservedMinor

/-- CMP (R146). -/
def decodeCmp (w : Word32) : Decoded :=
  let e := intWOf ((fFn w).extractLsb' 3 2)
  match ((fFn w).extractLsb' 0 3).toNat with
  | 6 => field (condOf ((fD w).extractLsb' 3 3)) fun c => noPattern w (.cmp e c ((fD w).extractLsb' 0 3) (fA w) (fB w))
  | 7 => if e == .d then .ok (.bsel (fD w) (fA w) (fB w) (fL w), 1) else .error .reservedMinor
  | _ => minor (condOf ((fFn w).extractLsb' 0 3)) fun c => .ok (.cmpm e c (fD w) (fA w) (fB w) (fL w), 1)

/-- FP.S, FP.H, FP.BF (R147). -/
def decodeFp (t : FpW) (w : Word32) : Decoded :=
  let d := fD w; let a := fA w; let b := fB w; let l := fL w
  match (fFn w).toNat with
  | 0 => .ok (.fadd t d a b l, 1) | 1 => .ok (.fsub t d a b l, 1) | 2 => .ok (.fmul t d a b l, 1)
  | 3 => .ok (.fmin t d a b l, 1) | 4 => .ok (.fmax t d a b l, 1) | 5 => .ok (.fminn t d a b l, 1) | 6 => .ok (.fmaxn t d a b l, 1)
  | 7 => oneSource w (.fabs t d a) | 8 => oneSource w (.fneg t d a)
  | 9 => field (fcondOf (d.extractLsb' 3 3)) fun c => .ok (.fcmp t c (d.extractLsb' 0 3) a b l, 1)
  | 10 => .ok (.fdiv t d a b l, 1) | 11 => oneSource w (.fsqrt t d a) | 12 => .ok (.scalex t d a b l, 1)
  | 13 => if t == .s then minor (cvtsOf l) fun c => .ok (.cvts c d a b, 1) else .error .reservedMinor
  | 16 => .ok (.fcmpm t .eq d a b l, 1) | 17 => .ok (.fcmpm t .ne d a b l, 1) | 18 => .ok (.fcmpm t .lt d a b l, 1)
  | 19 => .ok (.fcmpm t .le d a b l, 1) | 20 => .ok (.fcmpm t .un d a b l, 1)
  | _ => .error .reservedMinor

/-- FMA (R147): fn[4] must be zero, a reserved format or operation is a reserved minor value. -/
def decodeFma (w : Word32) : Decoded :=
  minor (fpWOf ((fFn w).extractLsb' 2 2)) fun t =>
    match ((fFn w).extractLsb' 0 2).toNat with
    | 0 => verdict [((fFn w).extractLsb' 4 1 != 0, .badField)] (.fma t (fD w) (fA w) (fB w) (fL w)) 1
    | 1 => verdict [((fFn w).extractLsb' 4 1 != 0, .badField)] (.fms t (fD w) (fA w) (fB w) (fL w)) 1
    | 2 => verdict [((fFn w).extractLsb' 4 1 != 0, .badField)] (.fnma t (fD w) (fA w) (fB w) (fL w)) 1
    | _ => .error .reservedMinor

/-- SFU (R147). -/
def decodeSfu (w : Word32) : Decoded :=
  minor (fpWOf ((fFn w).extractLsb' 3 2)) fun t =>
    match ((fFn w).extractLsb' 0 3).toNat with
    | 0 => oneSource w (.frcp t (fD w) (fA w)) | 1 => oneSource w (.frsq t (fD w) (fA w)) | 2 => oneSource w (.fexp2 t (fD w) (fA w))
    | 3 => oneSource w (.flog2 t (fD w) (fA w)) | 4 => oneSource w (.fsin t (fD w) (fA w)) | 5 => oneSource w (.fcos t (fD w) (fA w))
    | _ => .error .reservedMinor

/-- CVT and CVT.rs (R148). -/
def decodeCvt (w : Word32) : Decoded :=
  minor (fmtOf (w.extractLsb' 4 4)) fun t =>
    minor (fmtOf (w.extractLsb' 0 4)) fun u =>
      if t == u then .error .reservedMinor
      else if fB w == 0 then .ok (.cvt t u (fD w) (fA w), 1) else .ok (.cvtRs t u (fD w) (fA w) (fB w), 1)

/-- LANE (R151, R196 to R206). -/
def decodeLane (w : Word32) : Decoded :=
  let d := fD w; let a := fA w; let b := fB w; let l := fL w
  match (fFn w).toNat with
  | 0 => verdict [(b != 0 || d == 0 || decide (7 < d.toNat), .badField), (l != 0, .lanePattern)] (.lpset (d.extractLsb' 0 3) a) 1
  | 1 => noPattern w (.shfl d a b)
  | 2 => .ok (.slide (l.extractLsb' 2 1 == 1) (intWOf (l.extractLsb' 0 2)) d a b, 1)
  | 3 => .ok (.push d a b l, 1)
  | 4 => verdict [(b.extractLsb' 5 1 != 0, .badField), (l != 0, .lanePattern)] (.bcast d a (b.extractLsb' 0 5)) 1
  | 5 => minor (voteOf b) fun m =>
      verdict [(a.extractLsb' 4 2 != 0 || (m != .ballot && d.extractLsb' 3 3 != 0), .badField), (l != 0, .lanePattern)]
        (.vote m d (a.extractLsb' 3 1 == 1) (a.extractLsb' 0 3)) 1
  | 6 => minor (redTOf (b.extractLsb' 3 3)) fun t => minor (redOpOf (b.extractLsb' 0 3)) fun o =>
      if redOk t o then noPattern w (.red t o d a) else .error .reservedMinor
  | 7 => minor (redTOf (b.extractLsb' 3 3)) fun t => minor (redOpOf (b.extractLsb' 0 3)) fun o =>
      if redOk t o then noPattern w (.scan t o d a) else .error .reservedMinor
  | 8 => minor (maxTOf l) fun t => .ok (.redmaxi t d a b, 1)
  | _ => .error .reservedMinor

/-! ### M format -/

/-- tok = 7 with la ≠ 0 (R137). -/
def badTok (w : Word32) : Bool := fTok w == 7 && fLa w != 0
/-- A form without a result has tok = 7, la = 0 (R137). -/
def noTok (w : Word32) : Bool := fTok w != 7 || fLa w != 0

/-- A load of order 0 with an extension word: fe, order and scope zero (R149). -/
def ldX (w x : Word32) (i : Instr) : Decoded :=
  verdict [(xFe x != 0 || xOrder x != 0 || xScope x != 0, .badField), (badTok w, .tokenRule)] i 2
/-- A store of orders 0 and 5 with an extension word (R149, R212). -/
def stX (w x : Word32) (i : Instr) : Decoded :=
  verdict [(xFe x != 0 || (xOrder x != 0 && xOrder x != 5) || xScope x != 0, .badField), (noTok w, .tokenRule)] i 2

/-- The extension word that X = 1 asks for, else cause 0x09 (R123, R132). -/
def withExt (rest : List Word32) (k : Word32 → Decoded) : Decoded :=
  match rest with
  | x :: _ => k x
  | [] => .error .wordMissing

def decodeLd (w : Word32) (rest : List Word32) : Decoded :=
  let d := fD w; let b := fA w; let k := fTok w; let l := fLa w
  if fX w == 0 then verdict [(badTok w, .tokenRule)] (.lddShort d b (fB w) k l) 1
  else withExt rest fun x =>
    let o := disp26 w x
    match (xSub x).toNat with
    | 0 => ldX w x (.ldd d b o k l) | 1 => ldX w x (.ldw d b o k l) | 2 => ldX w x (.ldwu d b o k l) | 3 => ldX w x (.ldh d b o k l)
    | 4 => ldX w x (.ldhu d b o k l) | 5 => ldX w x (.ldb d b o k l) | 6 => ldX w x (.ldbu d b o k l)
    | _ => .error .reservedMinor

def decodeSt (w : Word32) (rest : List Word32) : Decoded :=
  let d := fD w; let b := fA w
  if fX w == 0 then verdict [(noTok w, .tokenRule)] (.stdShort d b (fB w)) 1
  else withExt rest fun x =>
    let o := disp26 w x; let r := xOrder x == 5
    match (xSub x).toNat with
    | 0 => stX w x (.std d b o r) | 1 => stX w x (.stw d b o r) | 2 => stX w x (.sth d b o r) | 3 => stX w x (.stb d b o r)
    | _ => .error .reservedMinor

def decodeLdf (w : Word32) (rest : List Word32) : Decoded :=
  let d := fD w; let b := fA w; let k := fTok w; let l := fLa w
  if fX w == 0 then verdict [(badTok w, .tokenRule)] (.ldfSShort d b (fB w) k l) 1
  else withExt rest fun x =>
    match (xSub x).toNat with
    | 0 => ldX w x (.ldfS d b (disp26 w x) k l) | 1 => ldX w x (.ldfBf d b (disp26 w x) k l)
    | _ => .error .reservedMinor

/-- LDS/STS (R134, R149): a reserved fe, or .sf on LDS, .wf or .wfc on STS, is cause 0x13. -/
def decodeSp (w : Word32) (rest : List Word32) : Decoded :=
  let d := fD w; let b := fA w; let k := fTok w; let l := fLa w
  if fX w == 0 then
    if (fB w).extractLsb' 5 1 == 0 then verdict [(badTok w, .tokenRule)] (.ldsShort d b ((fB w).extractLsb' 0 5) k l) 1
    else verdict [(noTok w, .tokenRule)] (.stsShort d b ((fB w).extractLsb' 0 5)) 1
  else withExt rest fun x =>
    let o := disp26 w x; let e := intWOf ((xSub x).extractLsb' 0 2)
    if (xSub x).extractLsb' 2 1 == 0 then
      field (feLOf (xFe x)) fun q =>
        verdict [(xOrder x != 0 || xScope x != 0, .badField), (badTok w, .tokenRule)] (.lds e q d b o k l) 2
    else verdict [(decide (1 < (xFe x).toNat) || xOrder x != 0 || xScope x != 0, .badField), (noTok w, .tokenRule)]
      (.sts e (xFe x == 1) d b o) 2

def decodeLdws (w : Word32) (rest : List Word32) : Decoded :=
  let d := fD w; let b := fA w; let k := fTok w; let l := fLa w
  if fX w == 0 then verdict [(badTok w, .tokenRule)] (.ldwsDShort d b (fB w) k l) 1
  else withExt rest fun x =>
    match (xSub x).toNat with
    | 0 => ldX w x (.ldwsD d b (disp26 w x) k l) | 1 => ldX w x (.ldwsW d b (disp26 w x) k l)
    | _ => .error .reservedMinor

def decodeGs (w : Word32) (rest : List Word32) : Decoded :=
  let d := fD w; let b := fA w; let k := fTok w; let l := fLa w
  if fX w == 0 then
    if (fB w).extractLsb' 5 1 == 0 then verdict [(badTok w, .tokenRule)] (.ldgDShort d b ((fB w).extractLsb' 0 5) k l) 1
    else verdict [(noTok w, .tokenRule)] (.stgDShort d b ((fB w).extractLsb' 0 5)) 1
  else withExt rest fun x =>
    let o := disp26 w x; let r := xOrder x == 5
    match (xSub x).toNat with
    | 0 => ldX w x (.ldgD d b o k l) | 1 => ldX w x (.ldgW d b o k l) | 2 => stX w x (.stgD d b o r) | 3 => stX w x (.stgW d b o r)
    | _ => .error .reservedMinor

def decodePref (w : Word32) (rest : List Word32) : Decoded :=
  let b := fA w
  if fX w == 0 then verdict [(fD w != 0, .badField), (noTok w, .tokenRule)] (.prefL1Short b (fB w)) 1
  else withExt rest fun x =>
    let bad := fD w != 0 || xFe x != 0 || xOrder x != 0 || xScope x != 0
    match (xSub x).toNat with
    | 0 => verdict [(bad, .badField), (noTok w, .tokenRule)] (.prefL1 b (disp26 w x)) 2
    | 1 => verdict [(bad, .badField), (noTok w, .tokenRule)] (.prefL2 b (disp26 w x)) 2
    | _ => .error .reservedMinor

/-- ATOM (R149, R150, R222): a reserved fe is cause 0x13, another combination that R150 marks reserved is cause 0x12. -/
def decodeAtom (w : Word32) (rest : List Word32) : Decoded :=
  let d := fD w; let b := fA w; let k := fTok w; let l := fLa w
  if fX w == 0 then verdict [(badTok w, .tokenRule)] (.aaddDShort d b (fB w) k l) 1
  else withExt rest fun x =>
    let o := disp26 w x
    let sub := (xSub x).toNat
    if xFe x == 4 then
      if sub == 0 then
        field (orderOf (xOrder x)) fun od => field (scopeOf (xScope x)) fun sc =>
          verdict [(badTok w, .tokenRule)] (.aaddf d b o k l od sc) 2
      else .error .reservedMinor
    else
      minor (atomTyOf (xFe x)) fun t =>
        if !t.signed && sub != 1 && sub != 2 then .error .reservedMinor
        else field (orderOf (xOrder x)) fun od => field (scopeOf (xScope x)) fun sc =>
          let i : Instr := match sub with
            | 0 => .aadd t d b o k l od sc | 1 => .amin t d b o k l od sc | 2 => .amax t d b o k l od sc
            | 3 => .aand t d b o k l od sc | 4 => .aor t d b o k l od sc | 5 => .axor t d b o k l od sc
            | 6 => .axch t d b o k l od sc | _ => .acas t d b o k l od sc
          verdict [(badTok w, .tokenRule)] i 2

/-- SYNC (R229). -/
def decodeSync (w : Word32) (rest : List Word32) : Decoded :=
  let d := fD w; let b := fA w; let k := fTok w; let l := fLa w
  if fX w == 0 then .error (if badTok w then .tokenRule else .extensionWord)
  else withExt rest fun x =>
    let o := disp26 w x
    let plain := xFe x != 0 || xOrder x != 0 || xScope x != 0
    match (xSub x).toNat with
    | 0 => field (fenceOf (xOrder x)) fun f => field (scopeOf (xScope x)) fun sc =>
        verdict [(d != 0 || b != 0 || o != 0 || xFe x != 0, .badField), (noTok w, .tokenRule)] (.fence f sc) 2
    | 1 => field (scopeOf (xScope x)) fun sc =>
        verdict [(xFe x != 0 || xOrder x != 1, .badField), (badTok w, .tokenRule)] (.acq d b o k l sc) 2
    | 2 => field (scopeOf (xScope x)) fun sc =>
        verdict [(xFe x != 0 || xOrder x != 2, .badField), (noTok w, .tokenRule)] (.rel d b o sc) 2
    | 3 => verdict [(plain, .badField), (noTok w, .tokenRule)] (.rbind d b o) 2
    | 4 => verdict [(plain || d != 0, .badField), (noTok w, .tokenRule)] (.runbind b o) 2
    | 5 => verdict [(plain || d != 0 || b != 0 || o != 0, .badField), (badTok w, .tokenRule)] (.aflush k l) 2
    | 6 => verdict [(plain || b != 0 || o != 0, .badField), (badTok w, .tokenRule)] (.digrd d k l) 2
    | _ => .error .reservedMinor

/-- SIG (R149, R232). -/
def decodeSig (w : Word32) (rest : List Word32) : Decoded :=
  let d := fD w; let b := fA w; let k := fTok w; let l := fLa w
  if fX w == 0 then verdict [(noTok w, .tokenRule)] (.sigdecShort d b (fB w)) 1
  else withExt rest fun x =>
    let o := disp26 w x
    if 4 < (xSub x).toNat then .error .reservedMinor
    else field (orderOf (xOrder x)) fun od => field (scopeOf (xScope x)) fun sc =>
      let bad := xFe x != 0 || !od.notOrd
      match (xSub x).toNat with
      | 0 => verdict [(bad, .badField), (noTok w, .tokenRule)] (.sigdec d b o od sc) 2
      | 1 => verdict [(bad, .badField), (noTok w, .tokenRule)] (.siginc d b o od sc) 2
      | 2 => verdict [(bad, .badField), (noTok w, .tokenRule)] (.sigset d b o od sc) 2
      | 3 => verdict [(bad, .badField), (badTok w, .tokenRule)] (.sigwait d b o k l od sc) 2
      | _ => verdict [(bad, .badField), (noTok w, .tokenRule)] (.sigarm d b o od sc) 2

/-- BAR (R152). -/
def decodeBar (w : Word32) : Decoded :=
  let n := w.extractLsb' 0 4
  let chk (i : Instr) : Decoded := verdict [(fD w != 0 || fA w != 0 || w.extractLsb' 4 7 != 0, .badField)] i 1
  match (fIfn w).toNat with
  | 0 => chk (.bar n) | 1 => chk (.bara n) | 2 => chk (.barw n) | 3 => chk (.gbar n) | 4 => chk (.grbar n)
  | _ => .error .reservedMinor

/-! ### E format -/

/-- Which tok a form takes (R250, R262). -/
inductive TokRule | any | named | never
  deriving DecidableEq, Repr

def TokRule.bad (r : TokRule) (w : Word32) : Bool :=
  match r with
  | .any => badTok w
  | .named => fTok w == 7
  | .never => noTok w

/-- An E form without an extension word. -/
def eNoX (w : Word32) (bad : Bool) (r : TokRule) (i : Instr) : Decoded :=
  verdict [(fX w == 1, .extensionWord)] i 1 |> fun res =>
    verdict [(bad, .badField), (r.bad w, .tokenRule)] i 1 |> fun first =>
      match first with
      | .error f => .error f
      | .ok _ => res

/-- An E form that must carry its extension word: `bad` judges the first word, `badX` the extension (causes 0x13, 0x15, 0x17 in order). -/
def eX (w : Word32) (rest : List Word32) (bad : Bool) (r : TokRule) (k : Word32 → Bool × Instr) : Decoded :=
  if fX w == 0 then verdict [(bad, .badField), (r.bad w, .tokenRule), (true, .extensionWord)] .nop 1
  else withExt rest fun x => verdict [(bad || (k x).1, .badField), (r.bad w, .tokenRule)] (k x).2 2

/-- X = 1 asks for a word inside the clause before anything else of the word is judged (cause 0x09 precedes 0x10). -/
def eGuard (w : Word32) (rest : List Word32) (d : Decoded) : Decoded :=
  if fX w == 1 && rest.isEmpty then .error .wordMissing else d

/-- MAT (R250). DESIGN CHOICE (log 82): bits of imm14 that a form's Extension column does not list must be zero, as its unused register fields
must (cause 0x13); R250 says it of vx, vy and vz alone. -/
def decodeMat (w : Word32) (rest : List Word32) : Decoded :=
  let t := fTa w; let da := fDa w; let db := fDb w; let q := fQ w; let k := fTok w; let l := fLa w
  eGuard w rest <|
  match (fEfn w).toNat with
  | 0 =>
    if fX w == 0 then verdict [(da != 0 || db != 0 || q != 0, .badField), (badTok w, .tokenRule)] (.mzero t k l) 1
    else withExt rest fun x =>
      verdict [(da != 0 || db != 0 || q != 0 || x != 0, .badField), (badTok w, .tokenRule)] (.mzeroExt t k l) 2
  | 1 => eX w rest (q != 0) .any fun x => (xImm x != 0, .mma t da db (xVx x) (xVy x) (xVz x) k l)
  | 2 => eX w rest (q != 0) .any fun x => (false, .mmak t da db (xVx x) (xVy x) (xVz x) (xImm x) k l)
  | 3 => eX w rest (q != 0) .any fun x => (false, .mconv t da db (xVx x) (xVy x) (xVz x) (xImm x) k l)
  | 4 => eX w rest false .any fun x => (xVx x != 0 || xVy x != 0 || xVz x != 0 || (xImm x).extractLsb' 0 10 == 0,
      .mwalk (walkOf q) t da db ((xImm x).extractLsb' 10 4) ((xImm x).extractLsb' 0 10) k l)
  | 5 => eX w rest (db != 0) .any fun x => (xVz x != 0 || xImm x != 0,
      .mdrain (q.extractLsb' 0 1 == 1) (q.extractLsb' 1 1 == 1) t da (xVx x) (xVy x) k l)
  | 6 => eX w rest (da != 0 || db != 0 || decide (1 < q.toNat)) .named fun x => (xVz x != 0 || xImm x != 0,
      .mrow (q == 1) t (xVx x) (xVy x) k l)
  | 7 => eNoX w (da != 0 || db != 0 || q != 0) .named (.mwait t k l)
  | 8 => eNoX w (t != 0 || da != 0 || db != 0 || q != 0) .never .mfence
  | 9 => eX w rest (da != 0 || db != 0 || decide (1 < q.toNat)) .named fun x => (xVy x != 0 || xVz x != 0 || xImm x != 0,
      .mstat (q == 1) t (xVx x) k l)
  | 10 => eX w rest (t != 0 || da != 0 || db != 0 || q != 0) .any fun x =>
      (xVy x != 0 || xVz x != 0 || (xImm x).extractLsb' 3 11 != 0, .cbload ((xImm x).extractLsb' 0 3) (xVx x) k l)
  | _ => .error .reservedMinor

/-- MDESC (R250). -/
def decodeMdesc (w : Word32) (rest : List Word32) : Decoded :=
  let t := fTa w; let da := fDa w; let db := fDb w; let q := fQ w; let k := fTok w; let l := fLa w
  eGuard w rest <|
  match (fEfn w).toNat with
  | 0 => eX w rest (t != 0 || db != 0 || q != 0) .any fun x => (xVy x != 0 || xVz x != 0 || xImm x != 0, .mdesc da (xVx x) k l)
  | 1 => eX w rest (t != 0 || db != 0 || q != 0) .any fun x => (xVy x != 0 || xVz x != 0 || xImm x != 0, .mshape da (xVx x) k l)
  | 2 => eX w rest (da != 0 || db != 0 || decide (1 < q.toNat)) .any fun x =>
      (xVy x != 0 || xVz x != 0 || (if q == 1 then xImm x != 0 else xVx x != 0), .manchor (q == 1) t (xVx x) (xImm x) k l)
  | _ => .error .reservedMinor

/-- ta, da and db are zero in the forms of R262. -/
def noHandles (w : Word32) : Bool := fTa w != 0 || fDa w != 0 || fDb w != 0

/-- CPY (R262). -/
def decodeCpy (w : Word32) (rest : List Word32) : Decoded :=
  let q := fQ w; let k := fTok w; let l := fLa w; let h := noHandles w
  eGuard w rest <|
  match (fEfn w).toNat with
  | 0 => eX w rest (h || q != 0) .any fun x => (xVy x != 0 || xVz x != 0 || xImm x != 0, .cpy (xVx x) k l)
  | 1 => eX w rest (h || q != 0) .any fun x => (xVy x != 0 || xVz x != 0 || xImm x != 0, .cpys (xVx x) k l)
  | 2 => eX w rest (h || q != 0) .any fun x => (xVy x != 0 || xVz x != 0 || xImm x != 0, .cpyr (xVx x) k l)
  | 3 => eX w rest (h || q != 0) .named fun x => (xImm x != 0, .cpyq (xVx x) (xVy x) (xVz x) k l)
  | 4 => eX w rest (h || q != 0) .any fun x => (xImm x != 0, .put (xVx x) (xVy x) (xVz x) k l)
  | 5 => eX w rest (h || q != 0) .any fun x => (xVz x != 0 || xImm x != 0, .putf (xVx x) (xVy x) k l)
  | 6 => eX w rest (h || decide (1 < q.toNat)) .any fun x => (xImm x != 0,
      if q == 0 then .get (xVx x) (xVy x) (xVz x) k l else .getVer (xVx x) (xVy x) (xVz x) k l)
  | _ => .error .reservedMinor

/-- COL (R262). -/
def decodeCol (w : Word32) (rest : List Word32) : Decoded :=
  let q := fQ w; let k := fTok w; let l := fLa w; let h := noHandles w
  eGuard w rest <|
  match (fEfn w).toNat with
  | 0 => eX w rest (h || decide (1 < q.toNat)) .any fun x => (xVy x != 0 || xVz x != 0 || xImm x != 0,
      if q == 0 then .coll (xVx x) k l else .collVer (xVx x) k l)
  | 1 => eX w rest (h || q != 0) .any fun x => (xVz x != 0 || xImm x != 0, .reshard (xVx x) (xVy x) k l)
  | _ => .error .reservedMinor

/-- RESAMPLE has tok 0 to 6 and la = 0 (R263). -/
def popTokBad (w : Word32) : Bool := fTok w == 7 || fLa w != 0

/-- POP (R262, R263). -/
def decodePop (w : Word32) (rest : List Word32) : Decoded :=
  let q := fQ w; let k := fTok w; let l := fLa w; let h := noHandles w
  let pop (f : Word32 → Bool × Instr) : Decoded :=
    if fX w == 0 then verdict [(h || q != 0, .badField), (popTokBad w, .tokenRule), (true, .extensionWord)] .nop 1
    else withExt rest fun x => verdict [(h || q != 0 || (f x).1, .badField), (popTokBad w, .tokenRule)] (f x).2 2
  eGuard w rest <|
  match (fEfn w).toNat with
  | 0 => pop fun x => (xImm x != 0, .resample (xVx x) (xVy x) (xVz x) k)
  | 1 => pop fun x => ((xImm x).extractLsb' 6 8 != 0, .resampleU (xVx x) (xVy x) (xVz x) ((xImm x).extractLsb' 0 6) k)
  | 2 => eX w rest (h || q != 0) .any fun x => (xVy x != 0 || xVz x != 0 || xImm x != 0, .popseed (xVx x) k l)
  | _ => .error .reservedMinor

/-- SNAP (R262). -/
def decodeSnap (w : Word32) (rest : List Word32) : Decoded :=
  let q := fQ w; let k := fTok w; let l := fLa w; let h := noHandles w
  eGuard w rest <|
  match (fEfn w).toNat with
  | 0 => eX w rest (h || q != 0) .named fun x => (xVz x != 0 || xImm x != 0, .snap (xVx x) (xVy x) k l)
  | 1 => eX w rest (h || q != 0) .named fun x => (xVy x != 0 || xVz x != 0 || xImm x != 0, .snapwait (xVx x) k l)
  | 2 => eX w rest (h || q != 0) .named fun x => (xVy x != 0 || xVz x != 0 || xImm x != 0, .snapstat (xVx x) k l)
  | _ => .error .reservedMinor

/-- TASK (R262). -/
def decodeTask (w : Word32) (rest : List Word32) : Decoded :=
  let q := fQ w; let k := fTok w; let l := fLa w; let h := noHandles w
  eGuard w rest <|
  match (fEfn w).toNat with
  | 0 => eX w rest (h || q != 0) .named fun x => (xVz x != 0 || xImm x != 0, .launch (xVx x) (xVy x) k l)
  | 1 => eX w rest h .any fun x => (xVy x != 0 || xVz x != 0 || xImm x != 0, .cancel (levelOf q) (xVx x) k l)
  | 2 => eX w rest (h || q != 0) .named fun x => (xVz x != 0 || xImm x != 0, .phase (xVx x) (xVy x) k l)
  | 3 => eX w rest (h || q != 0) .named fun x => (xVz x != 0 || xImm x != 0, .graphrun (xVx x) (xVy x) k l)
  | _ => .error .reservedMinor

/-- FAB (R262). -/
def decodeFab (w : Word32) (rest : List Word32) : Decoded :=
  eGuard w rest <|
  match (fEfn w).toNat with
  | 0 => eNoX w (noHandles w || fQ w != 0) .any (.wcflush (fTok w) (fLa w))
  | 1 => eNoX w (noHandles w || fQ w != 0) .named (.fenceack (fTok w) (fLa w))
  | _ => .error .reservedMinor

/-! ### B and S formats -/

/-- JMP (R153). -/
def decodeJmp (w : Word32) : Decoded :=
  let r : Reg := w.extractLsb' 16 6
  let low := w.extractLsb' 0 16 != 0
  match (fCond w).toNat with
  | 0 => verdict [(low, .badField)] (.jmp r) 1 | 1 => verdict [(low, .badField)] (.brx r) 1
  | 2 => .ok (.call (fOff22 w), 1)
  | 3 => verdict [(low, .badField)] (.callx r) 1 | 4 => verdict [(fOff22 w != 0, .badField)] .ret 1
  | _ => .error .reservedMinor

/-- THR (R154). -/
def decodeThr (w : Word32) (rest : List Word32) : Decoded :=
  let d := fSd w; let a := fSa w; let i := fImm9 w
  let none3 := d != 0 || a != 0 || i != 0
  let p (x : Reg) : Bool := x.extractLsb' 3 3 != 0
  let lo (x : Reg) : BitVec 3 := x.extractLsb' 0 3
  match (fEfn w).toNat with
  | 0 => if 17 < i.toNat then .error .reservedMinor else verdict [(a != 0, .badField)] (.mft d i) 1
  | 1 => verdict [(a != 0 || i.extractLsb' 5 4 != 0, .badField)] (.movc d (i.extractLsb' 0 5)) 1
  | 2 => verdict [(d != 0 || a != 0 || i.extractLsb' 6 3 != 0, .badField)] (.clrf (i.extractLsb' 0 6)) 1
  | 3 => withExt rest fun x => verdict [(none3, .badField)] (.mpush x) 2
  | 4 => verdict [(none3, .badField)] .mpop 1 | 5 => verdict [(none3, .badField)] .exit 1
  | 6 => verdict [(none3, .badField)] .yield 1 | 7 => verdict [(none3, .badField)] .nop 1
  | 8 => verdict [(p d || p a || i.extractLsb' 3 6 != 0, .badField)] (.pand (lo d) (lo a) (i.extractLsb' 0 3)) 1
  | 9 => verdict [(p d || p a || i.extractLsb' 3 6 != 0, .badField)] (.por (lo d) (lo a) (i.extractLsb' 0 3)) 1
  | 10 => verdict [(p d || p a || i.extractLsb' 3 6 != 0, .badField)] (.pxor (lo d) (lo a) (i.extractLsb' 0 3)) 1
  | 11 => verdict [(p d || p a || i != 0, .badField)] (.pnot (lo d) (lo a)) 1
  | 12 => verdict [(p d || p a || i != 0, .badField)] (.pmov (lo d) (lo a)) 1
  | _ => .error .reservedMinor

/-- SYS (R157, R285): an imm9 outside the listed values is a reserved minor value. -/
def decodeSys (w : Word32) : Decoded :=
  let d := fSd w; let a := fSa w; let i := fImm9 w
  let sel (top : Nat) (bad : Bool) (x : Instr) : Decoded :=
    if top < i.toNat then .error .reservedMinor else verdict [(bad, .badField)] x 1
  match (fEfn w).toNat with
  | 0 => verdict [(d != 0 || a != 0, .badField)] (.trap i) 1
  | 1 => sel 0 (d != 0 || a != 0) .eret
  | 2 => if sysRegs.contains i then verdict [(a != 0, .badField)] (.mfs d i) 1 else .error .reservedMinor
  | 3 => if sysRegs.contains i then verdict [(d != 0, .badField)] (.mts i a) 1 else .error .reservedMinor
  | 4 => verdict [(d != 0 || a != 0, .badField)] (.bkpt i) 1
  | 5 => sel 0 (d != 0 || a != 0) .halt
  | 6 => sel 1 (d != 0) (.replay a (i == 1))
  | 7 => sel 3 (d != 0) (.shoot a (i.extractLsb' 0 2))
  | 8 => sel 1 (d != 0) (.preempt a (i == 1))
  | 9 => sel 0 (d != 0) (.rollback a)
  | 10 => sel 2 false (.ldraw d a (i.extractLsb' 0 2))
  | 11 => sel 1 (d != 0) (.jobctl a (i == 1))
  | _ => .error .reservedMinor

/-- The decoder (R141): the words of the clause from this instruction on. -/
def decode : List Word32 → Decoded
  | [] => .error .wordMissing
  | w :: rest =>
    match (fOp w).toNat with
    | 0x01 => decodeInt .d w | 0x02 => decodeInt .w w | 0x03 => decodeInt .h w | 0x04 => decodeInt .b w
    | 0x05 => decodeImm w | 0x06 => decodeBit w | 0x07 => decodeCmp w
    | 0x08 => decodeFp .s w | 0x09 => decodeFp .h w | 0x0A => decodeFp .bf w
    | 0x0B => decodeFma w | 0x0C => decodeSfu w | 0x0D => decodeCvt w | 0x0E => decodeLdi w rest | 0x0F => decodeLane w
    | 0x10 => decodeLd w rest | 0x11 => decodeSt w rest | 0x12 => decodeLdf w rest | 0x13 => decodeSp w rest
    | 0x14 => decodeLdws w rest | 0x15 => decodeGs w rest | 0x16 => decodePref w rest
    | 0x18 => decodeAtom w rest | 0x19 => decodeSync w rest | 0x1A => decodeSig w rest | 0x1B => decodeBar w
    | 0x1C => decodeMat w rest | 0x1D => decodeMdesc w rest | 0x1E => decodeCpy w rest | 0x1F => decodeCol w rest
    | 0x20 => verdict [(fCond w == 0xF, .badField)] (.bra (fCond w) (fOff22 w)) 1
    | 0x21 => decodeJmp w | 0x22 => decodeThr w rest | 0x23 => decodePop w rest | 0x24 => decodeSnap w rest
    | 0x25 => decodeTask w rest | 0x26 => decodeFab w rest | 0x3E => decodeSys w
    | 0x00 | 0x3F => .error .illegalMajor
    | _ => .error .reservedMajor

/-! ### Clauses -/

/-- Majors and THR functions that every class of 000 to 101 takes (R125). -/
def isAlu (w : Word32) : Bool :=
  let op := (fOp w).toNat; let fn := (fEfn w).toNat
  (1 ≤ op && op ≤ 0x0F) || (op == 0x22 && (fn ≤ 2 || 7 ≤ fn))

/-- Whether a clause class admits the word (R125): class 110 takes every major. An illegal or reserved major, and a reserved THR
function, belongs to no narrower class. -/
def classAdmits (cls : Nat) (w : Word32) : Bool :=
  let op := (fOp w).toNat; let fn := (fEfn w).toNat
  let alu := isAlu w && (op != 0x22 || fn ≤ 12)
  match cls with
  | 0 => alu
  | 1 => alu || (0x10 ≤ op && op ≤ 0x16) || (0x18 ≤ op && op ≤ 0x1B)
  | 2 => alu || op == 0x1C || op == 0x1D
  | 3 => alu || op == 0x1E
  | 4 => alu || op == 0x1F || op == 0x26
  | 5 => alu || op == 0x20 || op == 0x21 || (0x23 ≤ op && op ≤ 0x25) || op == 0x3E || (op == 0x22 && 3 ≤ fn && fn ≤ 6)
  | 6 => true
  | _ => false

/-- Control transfers (R126), and RESAMPLE and RESAMPLE.u, which stand last as well (R263). -/
def mustBeLast (w : Word32) : Bool :=
  let op := (fOp w).toNat; let fn := (fEfn w).toNat
  op == 0x20 || op == 0x21 || (op == 0x22 && fn == 5) || (op == 0x23 && fn ≤ 1)

/-- Words a control transfer or RESAMPLE takes. -/
def lastLen (w : Word32) : Nat := if fOp w == 0x23 && fX w == 1 then 2 else 1

/-- Decode one instruction inside a clause of class `cls` (R384 step 2): class, place, then the word. -/
def decodeIn (cls : Nat) (ws : List Word32) : Decoded :=
  match ws with
  | [] => .error .wordMissing
  | w :: rest =>
    if !classAdmits cls w then .error .outsideClass
    else if mustBeLast w && (rest.length + 1 != lastLen w || !(cls == 5 || cls == 6)) then
      if fOp w == 0x23 && rest.length + 1 < lastLen w then .error .wordMissing else .error .controlNotLast
    else decode (w :: rest)

/-- Header fields (R124). -/
def hSig (h : Word32) : BitVec 2 := h.extractLsb' 30 2
def hCnt (h : Word32) : Nat := (h.extractLsb' 26 4).toNat
def hCls (h : Word32) : Nat := (h.extractLsb' 23 3).toNat
def hWait (h : Word32) : BitVec 8 := h.extractLsb' 15 8
def hMeet (h : Word32) : Bool := h.extractLsb' 14 1 == 1
def hGuard (h : Word32) : BitVec 4 := h.extractLsb' 10 4
def hPri (h : Word32) : Nat := (h.extractLsb' 8 2).toNat

/-- The first header check that fails: DECODE causes 0x01 to 0x06 (R384 step 1, R386). -/
def headerCause (h : Word32) : Option Nat :=
  if hSig h != 2 then some 0x01
  else if hCnt h == 0 then some 0x02
  else if hCls h == 7 then some 0x03
  else if hGuard h == 0xF then some 0x04
  else if 1 < hPri h then some 0x05
  else if h.extractLsb' 0 8 != 0 then some 0x06
  else none

/-- A clause header built from its fields (R124). -/
def mkHeader (cnt : BitVec 4) (cls : BitVec 3) (wait : BitVec 8) (meet : Bool) (guard : BitVec 4) (pri : BitVec 2) : Word32 :=
  (2#2 ++ cnt ++ cls ++ wait ++ boolCode meet ++ guard ++ pri ++ 0#8 : BitVec 32)

/-- The words of a clause body: every instruction with its 1-based word index, or the first cause with its index (R384 step 2).
`fuel` is the number of words. -/
def decodeBody (cls : Nat) : (fuel idx : Nat) → List Word32 → Except (DecodeFault × Nat) (List (Instr × Nat))
  | 0, _, _ => .ok []
  | _ + 1, _, [] => .ok []
  | f + 1, idx, w :: rest =>
    match decodeIn cls (w :: rest) with
    | .error e => .error (e, idx)
    | .ok (i, n) =>
      match decodeBody cls f (idx + n) ((w :: rest).drop n) with
      | .error e => .error e
      | .ok t => .ok ((i, idx) :: t)

/-- Little-endian words of a byte list (R3); bytes short of a word are dropped. -/
def wordsOfBytes : List Byte → List Word32
  | b0 :: b1 :: b2 :: b3 :: t => (b3 ++ b2 ++ b1 ++ b0 : BitVec 32) :: wordsOfBytes t
  | _ => []

/-- Decoding of any bytes (R3, R123). -/
def decodeBytes (bs : List Byte) : Decoded := decode (wordsOfBytes bs)

/-- The instruction the decoder reads from the bits of an opcode-table row: the words above `nbits` are zero. -/
def decodeTableWord (nbits w : Nat) : Option Instr :=
  let v := w % 2 ^ nbits
  match decode [BitVec.ofNat 32 v, BitVec.ofNat 32 (v / 2 ^ 32), BitVec.ofNat 32 (v / 2 ^ 64)] with
  | .ok (i, _) => some i
  | .error _ => none

/-! ### The encoder -/

def encR (op : BitVec 6) (d a b : Reg) (l : BitVec 3) (fn : BitVec 5) : Word32 := (op ++ d ++ a ++ b ++ l ++ fn : BitVec 32)
def encI (op : BitVec 6) (d a : Reg) (fn : BitVec 3) (i : BitVec 11) : Word32 := (op ++ d ++ a ++ fn ++ i : BitVec 32)
def encM (op : BitVec 6) (d b : Reg) (o : BitVec 6) (k : BitVec 3) (l : BitVec 4) (x : BitVec 1) : Word32 :=
  (op ++ d ++ b ++ o ++ k ++ l ++ x : BitVec 32)
def encMx (o : BitVec 26) (sc od fe sub : BitVec 3) : Word32 := (o.extractLsb' 0 20 ++ sc ++ od ++ fe ++ sub : BitVec 32)
def encE (op : BitVec 6) (fn : BitVec 5) (t : BitVec 3) (da db : BitVec 4) (q : BitVec 2) (k : BitVec 3) (l : BitVec 4) (x : BitVec 1) :
    Word32 := (op ++ fn ++ t ++ da ++ db ++ q ++ k ++ l ++ x : BitVec 32)
def encEx (x y z : Reg) (i : BitVec 14) : Word32 := (x ++ y ++ z ++ i : BitVec 32)
def encS (op : BitVec 6) (fn : BitVec 5) (d a : Reg) (i : BitVec 9) : Word32 := (op ++ fn ++ d ++ a ++ i : BitVec 32)
def encB (op : BitVec 6) (c : BitVec 4) (o : BitVec 22) : Word32 := (op ++ c ++ o : BitVec 32)

/-- Major of an integer width (R141). -/
def intMajor : IntW → BitVec 6
  | .d => 1 | .w => 2 | .h => 3 | .b => 4
/-- Major of a floating-point format (R141). -/
def fpMajor : FpW → BitVec 6
  | .s => 8 | .h => 9 | .bf => 10

/-- An M form with its extension word. -/
def encMM (op : BitVec 6) (d b : Reg) (o : BitVec 26) (k : BitVec 3) (l : BitVec 4) (sc od fe sub : BitVec 3) : List Word32 :=
  [encM op d b (o.extractLsb' 20 6) k l 1, encMx o sc od fe sub]
/-- An E form with its extension word. -/
def encEE (op : BitVec 6) (fn : BitVec 5) (t : BitVec 3) (da db : BitVec 4) (q : BitVec 2) (k : BitVec 3) (l : BitVec 4) (x y z : Reg)
    (i : BitVec 14) : List Word32 := [encE op fn t da db q k l 1, encEx x y z i]

def encAtom (sub : BitVec 3) (t : AtomTy) (d b : Reg) (o : BitVec 26) (k : BitVec 3) (l : BitVec 4) (od : Order) (sc : Scope) : List Word32 :=
  encMM 0x18 d b o k l (scopeCode sc) (orderCode od) (atomTyCode t) sub

def z3 (x : BitVec 3) : Reg := (0#3 ++ x : BitVec 6)

/-- The words of an instruction (R143 to R157); a happening has none. -/
def encode : Instr → List Word32
  | .add w d a b l => [encR (intMajor w) d a b l 0] | .sub w d a b l => [encR (intMajor w) d a b l 1]
  | .mul w d a b l => [encR (intMajor w) d a b l 2] | .mulh w d a b l => [encR (intMajor w) d a b l 3]
  | .mulhu w d a b l => [encR (intMajor w) d a b l 4] | .div w d a b l => [encR (intMajor w) d a b l 5]
  | .divu w d a b l => [encR (intMajor w) d a b l 6] | .rem w d a b l => [encR (intMajor w) d a b l 7]
  | .remu w d a b l => [encR (intMajor w) d a b l 8] | .shl w d a b l => [encR (intMajor w) d a b l 9]
  | .shr w d a b l => [encR (intMajor w) d a b l 10] | .sra w d a b l => [encR (intMajor w) d a b l 11]
  | .rol w d a b l => [encR (intMajor w) d a b l 12] | .min w d a b l => [encR (intMajor w) d a b l 13]
  | .max w d a b l => [encR (intMajor w) d a b l 14] | .minu w d a b l => [encR (intMajor w) d a b l 15]
  | .maxu w d a b l => [encR (intMajor w) d a b l 16] | .abs w d a => [encR (intMajor w) d a 0 0 17]
  | .neg w d a => [encR (intMajor w) d a 0 0 18] | .adds w d a b l => [encR (intMajor w) d a b l 19]
  | .subs w d a b l => [encR (intMajor w) d a b l 20] | .addus w d a b l => [encR (intMajor w) d a b l 21]
  | .subus w d a b l => [encR (intMajor w) d a b l 22] | .dot2s d a b l => [encR 2 d a b l 23] | .dot4s d a b l => [encR 2 d a b l 24]
  | .rshr w d a b l => [encR (intMajor w) d a b l 25] | .rshrs w d a b l => [encR (intMajor w) d a b l 26]
  | .qmulr w d a b l => [encR (intMajor w) d a b l 27] | .nrws w d a b l => [encR (intMajor w) d a b l 28]
  | .lea d a b l => [encR 1 d a b l 29]
  | .addi d a i => [encI 5 d a 0 i] | .andi d a i => [encI 5 d a 1 i] | .ori d a i => [encI 5 d a 2 i] | .xori d a i => [encI 5 d a 3 i]
  | .shli d a i => [encI 5 d a 4 (0#5 ++ i)] | .shri d a i => [encI 5 d a 5 (0#5 ++ i)] | .srai d a i => [encI 5 d a 6 (0#5 ++ i)]
  | .ldiS d i => [encI 0xE d 0 0 i] | .ldiW d x => [encI 0xE d 0 1 0, x] | .ldiWu d x => [encI 0xE d 0 2 0, x]
  | .ldiHi d x => [encI 0xE d 0 3 0, x] | .ldiD d x y => [encI 0xE d 0 4 0, x, y]
  | .and d a b l => [encR 6 d a b l 0] | .or d a b l => [encR 6 d a b l 1] | .xor d a b l => [encR 6 d a b l 2]
  | .andn d a b l => [encR 6 d a b l 3]
  | .popc w d a => [encR 6 d a 0 0 (1#3 ++ intWCode w)] | .clz w d a => [encR 6 d a 0 0 (2#3 ++ intWCode w)]
  | .ctz w d a => [encR 6 d a 0 0 (3#3 ++ intWCode w)] | .brev w d a => [encR 6 d a 0 0 (4#3 ++ intWCode w)]
  | .bfx d a b => [encR 6 d a b 0 20] | .bfxS d a b => [encR 6 d a b 0 21] | .bfi d a b => [encR 6 d a b 0 22]
  | .cmpm w c d a b l => [encR 7 d a b l (intWCode w ++ condCode c)]
  | .cmp w c p a b => [encR 7 (condCode c ++ p) a b 0 (intWCode w ++ 6#3)]
  | .bsel d a b l => [encR 7 d a b l 7]
  | .fadd t d a b l => [encR (fpMajor t) d a b l 0] | .fsub t d a b l => [encR (fpMajor t) d a b l 1]
  | .fmul t d a b l => [encR (fpMajor t) d a b l 2] | .fmin t d a b l => [encR (fpMajor t) d a b l 3]
  | .fmax t d a b l => [encR (fpMajor t) d a b l 4] | .fminn t d a b l => [encR (fpMajor t) d a b l 5]
  | .fmaxn t d a b l => [encR (fpMajor t) d a b l 6] | .fabs t d a => [encR (fpMajor t) d a 0 0 7]
  | .fneg t d a => [encR (fpMajor t) d a 0 0 8] | .fcmp t c p a b l => [encR (fpMajor t) (fcondCode c ++ p) a b l 9]
  | .fdiv t d a b l => [encR (fpMajor t) d a b l 10] | .fsqrt t d a => [encR (fpMajor t) d a 0 0 11]
  | .scalex t d a b l => [encR (fpMajor t) d a b l 12] | .cvts t d a b => [encR 8 d a b (cvtsCode t) 13]
  | .fcmpm t c d a b l => [encR (fpMajor t) d a b l (2#2 ++ fcondCode c)]
  | .fma t d a b l => [encR 0xB d a b l (0#1 ++ fpWCode t ++ 0#2)] | .fms t d a b l => [encR 0xB d a b l (0#1 ++ fpWCode t ++ 1#2)]
  | .fnma t d a b l => [encR 0xB d a b l (0#1 ++ fpWCode t ++ 2#2)]
  | .frcp t d a => [encR 0xC d a 0 0 (fpWCode t ++ 0#3)] | .frsq t d a => [encR 0xC d a 0 0 (fpWCode t ++ 1#3)]
  | .fexp2 t d a => [encR 0xC d a 0 0 (fpWCode t ++ 2#3)] | .flog2 t d a => [encR 0xC d a 0 0 (fpWCode t ++ 3#3)]
  | .fsin t d a => [encR 0xC d a 0 0 (fpWCode t ++ 4#3)] | .fcos t d a => [encR 0xC d a 0 0 (fpWCode t ++ 5#3)]
  | .cvt t u d a => [(0xD#6 ++ d ++ a ++ 0#6 ++ fmtCode t ++ fmtCode u : BitVec 32)]
  | .cvtRs t u d a e => [(0xD#6 ++ d ++ a ++ e ++ fmtCode t ++ fmtCode u : BitVec 32)]
  | .lpset n a => [encR 0xF (z3 n) a 0 0 0] | .shfl d a b => [encR 0xF d a b 0 1]
  | .slide u w d a b => [encR 0xF d a b (boolCode u ++ intWCode w) 2] | .push d a b p => [encR 0xF d a b p 3]
  | .bcast d a n => [encR 0xF d a (0#1 ++ n) 0 4]
  | .vote m d n p => [encR 0xF d (0#2 ++ boolCode n ++ p) (voteCode m) 0 5]
  | .red t o d a => [encR 0xF d a (redTCode t ++ redOpCode o) 0 6] | .scan t o d a => [encR 0xF d a (redTCode t ++ redOpCode o) 0 7]
  | .redmaxi t d a b => [encR 0xF d a b (maxTCode t) 8]
  | .lddShort d b o k l => [encM 0x10 d b o k l 0]
  | .ldd d b o k l => encMM 0x10 d b o k l 0 0 0 0 | .ldw d b o k l => encMM 0x10 d b o k l 0 0 0 1
  | .ldwu d b o k l => encMM 0x10 d b o k l 0 0 0 2 | .ldh d b o k l => encMM 0x10 d b o k l 0 0 0 3
  | .ldhu d b o k l => encMM 0x10 d b o k l 0 0 0 4 | .ldb d b o k l => encMM 0x10 d b o k l 0 0 0 5
  | .ldbu d b o k l => encMM 0x10 d b o k l 0 0 0 6
  | .stdShort d b o => [encM 0x11 d b o 7 0 0]
  | .std d b o r => encMM 0x11 d b o 7 0 0 (ordCode r) 0 0 | .stw d b o r => encMM 0x11 d b o 7 0 0 (ordCode r) 0 1
  | .sth d b o r => encMM 0x11 d b o 7 0 0 (ordCode r) 0 2 | .stb d b o r => encMM 0x11 d b o 7 0 0 (ordCode r) 0 3
  | .ldfSShort d b o k l => [encM 0x12 d b o k l 0]
  | .ldfS d b o k l => encMM 0x12 d b o k l 0 0 0 0 | .ldfBf d b o k l => encMM 0x12 d b o k l 0 0 0 1
  | .ldsShort d b o k l => [encM 0x13 d b (0#1 ++ o) k l 0] | .stsShort d b o => [encM 0x13 d b (1#1 ++ o) 7 0 0]
  | .lds w q d b o k l => encMM 0x13 d b o k l 0 0 (feLCode q) (0#1 ++ intWCode w)
  | .sts w f d b o => encMM 0x13 d b o 7 0 0 0 (0#2 ++ boolCode f) (1#1 ++ intWCode w)
  | .ldwsDShort d b o k l => [encM 0x14 d b o k l 0]
  | .ldwsD d b o k l => encMM 0x14 d b o k l 0 0 0 0 | .ldwsW d b o k l => encMM 0x14 d b o k l 0 0 0 1
  | .ldgDShort d b o k l => [encM 0x15 d b (0#1 ++ o) k l 0] | .stgDShort d b o => [encM 0x15 d b (1#1 ++ o) 7 0 0]
  | .ldgD d b o k l => encMM 0x15 d b o k l 0 0 0 0 | .ldgW d b o k l => encMM 0x15 d b o k l 0 0 0 1
  | .stgD d b o r => encMM 0x15 d b o 7 0 0 (ordCode r) 0 2 | .stgW d b o r => encMM 0x15 d b o 7 0 0 (ordCode r) 0 3
  | .prefL1Short b o => [encM 0x16 0 b o 7 0 0]
  | .prefL1 b o => encMM 0x16 0 b o 7 0 0 0 0 0 | .prefL2 b o => encMM 0x16 0 b o 7 0 0 0 0 1
  | .aaddDShort d b o k l => [encM 0x18 d b o k l 0]
  | .aadd t d b o k l od sc => encAtom 0 t d b o k l od sc
  | .aaddf d b o k l od sc => encMM 0x18 d b o k l (scopeCode sc) (orderCode od) 4 0
  | .amin t d b o k l od sc => encAtom 1 t d b o k l od sc | .amax t d b o k l od sc => encAtom 2 t d b o k l od sc
  | .aand t d b o k l od sc => encAtom 3 t d b o k l od sc | .aor t d b o k l od sc => encAtom 4 t d b o k l od sc
  | .axor t d b o k l od sc => encAtom 5 t d b o k l od sc | .axch t d b o k l od sc => encAtom 6 t d b o k l od sc
  | .acas t d b o k l od sc => encAtom 7 t d b o k l od sc
  | .fence f sc => encMM 0x19 0 0 0 7 0 (scopeCode sc) (fenceCode f) 0 0
  | .acq d b o k l sc => encMM 0x19 d b o k l (scopeCode sc) 1 0 1 | .rel d b o sc => encMM 0x19 d b o 7 0 (scopeCode sc) 2 0 2
  | .rbind d b o => encMM 0x19 d b o 7 0 0 0 0 3 | .runbind b o => encMM 0x19 0 b o 7 0 0 0 0 4
  | .aflush k l => encMM 0x19 0 0 0 k l 0 0 0 5 | .digrd d k l => encMM 0x19 d 0 0 k l 0 0 0 6
  | .sigdecShort d b o => [encM 0x1A d b o 7 0 0]
  | .sigdec d b o od sc => encMM 0x1A d b o 7 0 (scopeCode sc) (orderCode od) 0 0
  | .siginc d b o od sc => encMM 0x1A d b o 7 0 (scopeCode sc) (orderCode od) 0 1
  | .sigset d b o od sc => encMM 0x1A d b o 7 0 (scopeCode sc) (orderCode od) 0 2
  | .sigwait d b o k l od sc => encMM 0x1A d b o k l (scopeCode sc) (orderCode od) 0 3
  | .sigarm d b o od sc => encMM 0x1A d b o 7 0 (scopeCode sc) (orderCode od) 0 4
  | .bar n => [encI 0x1B 0 0 0 (0#7 ++ n)] | .bara n => [encI 0x1B 0 0 1 (0#7 ++ n)] | .barw n => [encI 0x1B 0 0 2 (0#7 ++ n)]
  | .gbar n => [encI 0x1B 0 0 3 (0#7 ++ n)] | .grbar n => [encI 0x1B 0 0 4 (0#7 ++ n)]
  | .mzero t k l => [encE 0x1C 0 t 0 0 0 k l 0] | .mzeroExt t k l => encEE 0x1C 0 t 0 0 0 k l 0 0 0 0
  | .mma t da db x y z k l => encEE 0x1C 1 t da db 0 k l x y z 0
  | .mmak t da db x y z n k l => encEE 0x1C 2 t da db 0 k l x y z n
  | .mconv t da db x y z n k l => encEE 0x1C 3 t da db 0 k l x y z n
  | .mwalk op t da db o c k l => encEE 0x1C 4 t da db (walkCode op) k l 0 0 0 (o ++ c)
  | .mdrain rs z t o x y k l => encEE 0x1C 5 t o 0 (boolCode z ++ boolCode rs) k l x y 0 0
  | .mrow i t x y k l => encEE 0x1C 6 t 0 0 (0#1 ++ boolCode i) k l x y 0 0
  | .mwait t k l => [encE 0x1C 7 t 0 0 0 k l 0] | .mfence => [encE 0x1C 8 0 0 0 0 7 0 0]
  | .mstat c t x k l => encEE 0x1C 9 t 0 0 (0#1 ++ boolCode c) k l x 0 0 0
  | .cbload n x k l => encEE 0x1C 10 0 0 0 0 k l x 0 0 (0#11 ++ n)
  | .mdesc da x k l => encEE 0x1D 0 0 da 0 0 k l x 0 0 0 | .mshape da x k l => encEE 0x1D 1 0 da 0 0 k l x 0 0 0
  | .manchor r t x i k l => encEE 0x1D 2 t 0 0 (0#1 ++ boolCode r) k l x 0 0 i
  | .cpy x k l => encEE 0x1E 0 0 0 0 0 k l x 0 0 0 | .cpys x k l => encEE 0x1E 1 0 0 0 0 k l x 0 0 0
  | .cpyr x k l => encEE 0x1E 2 0 0 0 0 k l x 0 0 0 | .cpyq x y z k l => encEE 0x1E 3 0 0 0 0 k l x y z 0
  | .put x y z k l => encEE 0x1E 4 0 0 0 0 k l x y z 0 | .putf x y k l => encEE 0x1E 5 0 0 0 0 k l x y 0 0
  | .get x y z k l => encEE 0x1E 6 0 0 0 0 k l x y z 0 | .getVer x y z k l => encEE 0x1E 6 0 0 0 1 k l x y z 0
  | .coll x k l => encEE 0x1F 0 0 0 0 0 k l x 0 0 0 | .collVer x k l => encEE 0x1F 0 0 0 0 1 k l x 0 0 0
  | .reshard x y k l => encEE 0x1F 1 0 0 0 0 k l x y 0 0
  | .resample x y z k => encEE 0x23 0 0 0 0 0 k 0 x y z 0 | .resampleU x y z u k => encEE 0x23 1 0 0 0 0 k 0 x y z (0#8 ++ u)
  | .popseed x k l => encEE 0x23 2 0 0 0 0 k l x 0 0 0
  | .snap x y k l => encEE 0x24 0 0 0 0 0 k l x y 0 0 | .snapwait x k l => encEE 0x24 1 0 0 0 0 k l x 0 0 0
  | .snapstat x k l => encEE 0x24 2 0 0 0 0 k l x 0 0 0
  | .launch x y k l => encEE 0x25 0 0 0 0 0 k l x y 0 0 | .cancel lv x k l => encEE 0x25 1 0 0 0 (levelCode lv) k l x 0 0 0
  | .phase x y k l => encEE 0x25 2 0 0 0 0 k l x y 0 0 | .graphrun x y k l => encEE 0x25 3 0 0 0 0 k l x y 0 0
  | .wcflush k l => [encE 0x26 0 0 0 0 0 k l 0] | .fenceack k l => [encE 0x26 1 0 0 0 0 k l 0]
  | .bra c o => [encB 0x20 c o] | .jmp r => [encB 0x21 0 (r ++ 0#16)] | .brx r => [encB 0x21 1 (r ++ 0#16)]
  | .call o => [encB 0x21 2 o] | .callx r => [encB 0x21 3 (r ++ 0#16)] | .ret => [encB 0x21 4 0]
  | .mft d s => [encS 0x22 0 d 0 s] | .movc d c => [encS 0x22 1 d 0 (0#4 ++ c)] | .clrf m => [encS 0x22 2 0 0 (0#3 ++ m)]
  | .mpush x => [encS 0x22 3 0 0 0, x] | .mpop => [encS 0x22 4 0 0 0] | .exit => [encS 0x22 5 0 0 0] | .yield => [encS 0x22 6 0 0 0]
  | .nop => [encS 0x22 7 0 0 0]
  | .pand d a b => [encS 0x22 8 (z3 d) (z3 a) (0#6 ++ b)] | .por d a b => [encS 0x22 9 (z3 d) (z3 a) (0#6 ++ b)]
  | .pxor d a b => [encS 0x22 10 (z3 d) (z3 a) (0#6 ++ b)] | .pnot d a => [encS 0x22 11 (z3 d) (z3 a) 0]
  | .pmov d a => [encS 0x22 12 (z3 d) (z3 a) 0]
  | .trap n => [encS 0x3E 0 0 0 n] | .eret => [encS 0x3E 1 0 0 0] | .mfs d r => [encS 0x3E 2 d 0 r] | .mts r a => [encS 0x3E 3 0 a r]
  | .bkpt n => [encS 0x3E 4 0 0 n] | .halt => [encS 0x3E 5 0 0 0] | .replay a s => [encS 0x3E 6 0 a (0#8 ++ boolCode s)]
  | .shoot a s => [encS 0x3E 7 0 a (0#7 ++ s)] | .preempt a s => [encS 0x3E 8 0 a (0#8 ++ boolCode s)]
  | .rollback a => [encS 0x3E 9 0 a 0] | .ldraw d a s => [encS 0x3E 10 d a (0#7 ++ s)]
  | .jobctl a s => [encS 0x3E 11 0 a (0#8 ++ boolCode s)]
  | .preemptCtlWrite _ | .issueCycle _ _ _ | .starvation _ _ _ _ | .yieldExpiry _ _ _ _ | .formationDeadlock _ _
  | .fullEmptyTimeLimit _ | .loadResult _ | .storePerformed _ | .wsRefreshWindow _ _ | .blockRetire _ _ | .gridCompletion _
  | .stagedBatchApply _ | .ordTicketRelease _ | .wcLineTimeout _ _ | .pageWalk _ _ _ | .heatWindow _ | .pageMigrationComplete _ _
  | .pageReplicationComplete _ _ | .shootdownAck _ _ | .writePacket _ | .vwritePacket _ | .readPacket _ | .vreadPacket _
  | .dataPacket _ | .flagPacket _ | .ackPacket _ | .atomPacket _ | .atomrPacket _ | .chunkPacket _ | .swredPacket _
  | .burgeePacket _ | .logPacket _ | .ackTimeoutResend _ | .hostSubmission _ _ _ | .submitEvent _ _ _ _ | .admitEvent _ _
  | .finishEvent _ _ _ | .blockEvent _ _ | .unblockEvent _ _ | .cancelEvent _ _ _ | .faultEvent _ _ _ _ _ _ _ _
  | .lossEvent _ _ _ | .joinEvent _ _ _ _ _ | .fenceEvent _ _ _ _ | .digestEvent _ _ _ _ | .rebalanceEvent _ _ _ _ _ _ _ _ _
  | .snapcommitEvent _ _ _ _ _ | .snapopenEvent _ _ _ | .ticketEvent _ | .jobEvent _ _ _ | .preemptcfgEvent _ _ _
  | .heartbeat _ _ | .heartbeatTick _ | .death _ _ | .hretx _ _ _ _ | .ireq _ _ _ | .image _ _ _ _ _ | .note _ | .release _ _
  | .linkSilent _ | .linkTrainingAttempt _ _ | .gapLeafRetx | .gapGroupRetx | .gapTimeout | .halyardFailover | .managementReset
  | .dispatchRecord _ _ | .coreHalt _ _ | .haltTimeout _ | .contextSaveComplete _ _ | .contextMove _ _ _ _ | .copyChunk _
  | .matrixGrant _ | .matrixGrantComplete _ | .matrixEntryStarving _ _ | .drainWritesComplete _ _ | .mwalkCombine _ _
  | .codebookRebuild _ | .collChunkReduce _ _ _ | .collCheckNotice _ _ _ _ | .reshardComplete _ _ | .cloneImageCopy _
  | .preservationCopy _ _ | .snapshotDone _ | .faultQueueWrite _ | .scrubPass _ | .powerOn _ | .marginMonitor _
  | .fieldRecordWrite _ | .attestationRequest | .podFormation _ | .managementLinkRetrain _ | .powerLoss _ | .attestationReportDone
  | .reservedEventType _ _ | .reservedPacketType _ | .snapshotContextTransfer _ _ | .hostControlRequest _ _ _ _ _ => []

/-- Whether a row is an instruction, which stands in code; the others are happenings. -/
def Instr.isInstruction (i : Instr) : Bool := !(encode i).isEmpty

end Sys2Proof
end

