-- ==== Sys2Proof/Config.lean ====
section
/-! DEFINITION. What an implementation of the Q832 fixes and the spec does not: free values (no body, so nothing can be proved of a
value of them) and the cryptographic functions the spec names without defining. Log 10 and 11. -/

namespace Sys2Proof

/-- A free 64-bit value, applied to `State.free` where the spec leaves a value open (log 10): an operand element under R118, a special
function no enclosure decides, the destination of a chunk whose A96 anchors differ (R324), an error of LDRAW, a temperature. -/
opaque Config.freeWord : Nat → Word

/-- The free order in which an engine adds the contributions of an element (R90; log 10): the key of a contribution in a pass (named by
`State.free`), by element and contribution. They are added in the order of their keys, and one whose key is odd is summed exactly with the
next. -/
opaque Config.freeOrder : Nat → Nat → Nat → Word

/-- The DRAM row of a package physical address within its stack: the manual counts corrected errors by row and does not say which granules a row
holds (R409, R413; log 10). -/
opaque Config.dramRow : Nat → Word

/-- SHA-384 of a byte string, as a number of 384 bits (R451, R164 name it and do not define it; log 11). -/
opaque Config.sha384 : List Byte → Nat

/-- The firmware image of a version (R451 hashes it; log 11). -/
opaque Config.firmwareImage : Nat → List Byte

/-- The ECDSA signature (r, s) on brainpoolP384r1 that the package's key pair gives a digest (R451; log 11). -/
opaque Config.ecdsaSign : Nat → Nat → Nat × Nat

/-- The public key of the key pair that the security block derives from a seed number (R451; log 11). -/
opaque Config.publicKey : Nat → List Byte

end Sys2Proof
end

