-- ==== Sys2Proof/Machine/State.lean ====
section
/-! DEFINITION. The state of one Q832 package as plain data: every piece of state the spec gives the machine, one structure per part
(INVENTORY.md, State, lists each with its rule and its reset value), and the machine right after reset. -/

namespace Sys2Proof.Machine

/-- Reasons a step stops. -/
inductive Fault where
  /-- Raised by `step` alone, while power is off and no POWER_ON is next (R447 and R454: a package without power does nothing). Safe:
  the hardware does nothing either. -/
  | noPower
  deriving DecidableEq, Repr, Inhabited

/-- Instructions without a meaning. -/
inductive Refusal where
  /-- Raised by a refused arm of `exec` alone: no meaning written. Safe. -/
  | notModelled (mnemonic : String)
  deriving DecidableEq, Repr, Inhabited

/-- A table by number; what it does not list has the table's default. -/
abbrev Tab (α : Type) := List (Nat × α)

/-- Bytes with seals (R75, R412). `cells`: bytes that are not zero, addresses rising; an unlisted byte reads zero (R447 stage 4: memory
is filled with zero granules). `errs`: stored seal XOR sound seal of the granules (by granule number) where that is not zero, rising.
`poison`: granules whose POISON bit is set, rising. -/
structure Memory where
  cells  : List Host.Cell
  errs   : List Host.Cell
  poison : List Nat
  deriving DecidableEq, Repr, Inhabited

/-- Thread status (R37). -/
inductive Status
  | ready | issuing | token | formation | meeting | barrier | signal | fullEmpty | parked | yielded | shelved | exited
  deriving DecidableEq, Repr, Inhabited

/-- What an atomic does (R221). -/
inductive AtomOp | add | addf | min | max | and | or | xor | xch | cas
  deriving DecidableEq, Repr, Inhabited

/-- Signal writes (R232). -/
inductive SigOp | dec | inc | set
  deriving DecidableEq, Repr, Inhabited

/-- One lane's access of majors 0x10 to 0x1A, or a transfer that waits for its target (R395). -/
inductive AccOp
  | ld (n : Nat) (sx g : Bool)
  | st (n : Nat) (ord g : Bool)
  | ldf (bf : Bool)
  | lds (n : Nat) (q : FeL)
  | sts (n : Nat) (sf : Bool)
  | ldws (n : Nat)
  | atom (o : AtomOp) (t : AtomTy) (od : Order) (sc : Scope)
  | acq (sc : Scope)
  | rel (sc : Scope)
  | rbind
  | runbind
  | sig (o : SigOp) (od : Order) (sc : Scope)
  | sigwait (od : Order) (sc : Scope)
  | sigarm (od : Order) (sc : Scope)
  | jump (target : Va) (depth : Nat)
  | fence (o : FenceO) (sc : Scope)
  | reissue
  deriving DecidableEq, Repr, Inhabited

/-- One lane's access with its operands: effective address (R207), vd and v(vd + 1), destination, token, lookahead. -/
structure Acc where
  op : AccOp
  ea : Word
  x  : Word
  y  : Word
  d  : Reg
  k  : Nat
  l  : Nat
  deriving DecidableEq, Repr, Inhabited

/-- Which barrier (R44, R234). -/
inductive BarKind | block | gang | grid
  deriving DecidableEq, Repr, Inhabited

/-- What a thread brings to a RESAMPLE (R275): destination, token (7 none), weight, target, supplied draw, clause header and index. -/
structure Sample where
  d   : Reg
  k   : Nat
  w   : Nat
  n   : Nat
  u   : Option Nat
  hdr : Va
  idx : Nat
  deriving DecidableEq, Repr, Inhabited

/-- One thread (R34, R35, R37). -/
structure Thread where
  tid       : Nat
  pc        : Va
  regs      : List Word
  preds     : BitVec 7
  toks      : List Nat
  stores    : Nat
  meet      : List Va
  callDepth : Nat
  tstat     : BitVec 6
  status    : Status
  priv      : Bool
  ageMark   : Nat
  readySince : Nat
  starving  : Bool
  flushes   : Nat
  segment   : Nat
  order     : Nat
  lid       : Word
  parent    : Word
  met       : Bool
  goto      : Option Va
  /-- TRAP n of the running clause: n, clause header, index (R372). -/
  trapAfter : Option (Nat × Va × Nat)
  /-- An MFENCE of the troop holds its matrix instructions while the store count is not zero (R258). -/
  mfence    : Bool
  /-- Its arrival at a RESAMPLE (R275). -/
  sample    : Option Sample
  yieldAfter : Bool
  until_    : Nat
  bar       : Option (BarKind × Nat × Nat)
  bara      : List (Nat × Nat)
  parked    : List (Nat × Acc)
  kept      : Status
  deriving DecidableEq, Repr, Inhabited

/-- A member of an issue group (R39). -/
structure Member where
  tid    : Nat
  lane   : Nat
  active : Bool
  deriving DecidableEq, Repr, Inhabited

/-- A lookahead window (R138): the outstanding result and how many more instructions may issue before it. -/
structure Window where
  id   : Nat
  left : Nat
  deriving DecidableEq, Repr, Inhabited

/-- An issue group executing a clause (R38 to R40), with the clause it fetched. `idx` counts words from 1 (R373). `parked`: a parked
sub-group of R404 or a parked home group of R405; `held`: the wait-table tokens a parked home group waits for. -/
structure Group where
  gid     : Nat
  part    : Nat
  home    : Bool
  hdr     : Va
  header  : Word32
  words   : List Word32
  idx     : Nat
  members : List Member
  stamp   : Nat
  stampTid : Nat
  windows : List Window
  parked  : Bool
  held    : List Nat
  deriving DecidableEq, Repr, Inhabited

/-- An extent entry (R64). -/
structure Extent where
  vabase : Nat
  pages  : Nat
  frame  : Nat
  pkg    : Nat
  fmt    : Nat
  geom   : Nat
  cbslot : Nat
  w      : Bool
  v      : Bool
  u      : Bool
  deriving DecidableEq, Repr, Inhabited

/-- A binding (R109, R230): the thread that made it; whether it has taken effect for the whole block; the block barriers, as (instance,
generation), whose completion gives it that effect; the threads for which a RUNBIND has removed it, and the barriers that remove it for
the others. -/
structure Bind where
  base : Nat
  len  : Nat
  obj  : Nat
  tid  : Nat
  all  : Bool
  via  : List (Nat × Nat)
  off  : List Nat
  offVia : List (Nat × Nat)
  deriving DecidableEq, Repr, Inhabited

/-- An accumulator tile (R88 to R91, R248, R256): elements that are not finite zero by position 64·row + column, each (integer I,
special state SP); anchor; overflow, drain overflow, drain saturation and anchor mismatch flags; progress; operations outstanding. -/
structure Tile where
  elems  : List (Nat × Int × Nat)
  anchor : Int
  aov    : Bool
  dof    : Bool
  dsat   : Bool
  mism   : Bool
  prog   : Nat
  deriving DecidableEq, Repr, Inhabited

/-- A resident or shelved block (R46, R47). -/
structure Block where
  grid    : Nat
  bidx    : Nat
  cx      : Nat
  cy      : Nat
  cz      : Nat
  gang    : Nat
  grank   : Nat
  gsize   : Nat
  core    : Nat
  slots   : List Nat
  threads : List Thread
  scratch : Memory
  full    : List Nat
  consts  : List Word
  lps     : List (List (BitVec 6))
  descs   : List (Option (List Word))
  tiles   : List Tile
  binds   : List Bind
  extents : List Extent
  groups  : List Group
  /-- 0 resident, 1 halted, 2 saved on the shelf, 3 saved in the carve-out, 4 cancelled with issued work under way. -/
  place   : Nat
  /-- The core whose frame addresses, with `slots`, its threads' frames are at (R374). -/
  frames  : Nat
  deriving DecidableEq, Repr, Inhabited

/-- A role (R47): troops, registers, private bytes. -/
structure Role where
  troops : Nat
  regs   : Nat
  priv   : Nat
  deriving DecidableEq, Repr, Inhabited

/-- The fields of a launch record (R298). -/
structure Launch where
  entry  : Word
  gx     : Nat
  gy     : Nat
  gz     : Nat
  sx     : Nat
  sy     : Nat
  sz     : Nat
  roles  : List Role
  scratch : Nat
  acc    : Nat
  desc   : Nat
  pgang  : Nat
  fgang  : Nat
  flags  : Nat
  cbmask : Nat
  nwait  : Nat
  nrange : Nat
  creq   : Nat
  foot   : Nat
  job    : Nat
  popcap : Nat
  compl  : Nat
  priv   : Nat
  seed   : Word
  collbind : Nat
  waits  : List Nat
  consts : List Word
  ranges : List (Nat × Bool × Nat)
  deriving DecidableEq, Repr, Inhabited

/-- A grid the package runs (R46 to R56). -/
structure Grid where
  handle  : Nat
  recVa   : Nat
  l       : Launch
  user    : Bool
  /-- Blocks this package has still to dispatch, as (index, gang, rank, size), ascending; and whether anything was dispatched. -/
  todo    : List (Nat × Nat × Nat × Nat)
  leases  : List Nat
  /-- BIDX of the blocks that have retired on this package. -/
  retired : List Nat
  total   : Nat
  h0      : Word
  h1      : Word
  seed    : Word
  gen     : Nat
  /-- Batches of R224 applied so far, as (k, BIDX); and the f every thread takes at least (grid barrier). -/
  applied : List (Nat × Nat)
  faulted : Bool
  decided : Bool
  local_  : Bool
  unit    : Nat
  gbase   : Nat
  /-- Where the flush and the release order are stopped (R457): the wait-table token, 0 until the grid is decided, 2^33 while an answer
  of another package is awaited. -/
  flushTok : Option Nat
  ordTok  : Option Nat
  /-- Destination and SEQ of the packet whose answer the batch being applied awaits (R224). -/
  flushSent : Option (Nat × Nat)
  /-- Next gang index, and whether the fallback size is in use (R49); since when its cores halt for a pre-emption (R305); its rows are
  shelved; the record has been read; the wait-table token the reading is parked on. -/
  gangNo  : Nat
  fallback : Bool
  halting : Option Nat
  shelved : Bool
  loaded  : Bool
  loadTok : Option Nat
  /-- Counters of CANCEL.grid events applied before the record had been read. -/
  cancels : List Nat
  /-- What the other packages of the grid have last said of it, as (package, what, value, further), and what this one has told them; the
  place in the release order of the last operation in the digest (R44, R224, R225; log 66). -/
  peers : List (Nat × Nat × Nat × Nat)
  told  : List (Nat × Nat)
  dkey  : Nat
  /-- The extent table its blocks on the package receive (R63). -/
  table : Option (List Extent)
  deriving DecidableEq, Repr, Inhabited

/-- A barrier instance (R234): kind, grid, block or gang number, instance number; generation; arrivals (BIDX, TID). -/
structure BarInst where
  kind : BarKind
  grid : Nat
  idx  : Nat
  n    : Nat
  gen  : Nat
  arrivals : List (Nat × Nat)
  /-- Every thread has arrived; a grid barrier's flush is under way (R236). -/
  full : Bool
  /-- Number below which the arrived threads' stores are performed before any thread departs (R45). -/
  mark : Nat
  deriving DecidableEq, Repr, Inhabited

/-- Name of a thread: grid handle, BIDX, TID. -/
structure Tref where
  grid : Nat
  bidx : Nat
  tid  : Nat
  deriving DecidableEq, Repr, Inhabited

/-- What an outstanding result waits for (R137). -/
inductive PendKind
  | result (v : Word) (flags : BitVec 6)      -- the value is there; LOAD_RESULT writes it
  | remote (asks : List (Nat × Nat)) (got : List (Nat × Byte))  -- answers to come (destination, SEQ); bytes by VA that are there
  | fullEmpty (off n : Nat) (clear : Bool)     -- R217
  | signal (pa : Nat) (od : Order) (sc : Scope) (t : Int) -- R232
  | flush (batch : Nat)                        -- R224
  | digest                                     -- R228
  | refresh (off n : Nat)                      -- R74
  | ticket                                     -- a .ord atomic (R225)
  | scTicket                                   -- an .sc atomic waiting for its TICKET event (R112)
  | engine (op : Nat)                          -- R137: an engine operation
  | fenceack (iss : List Nat)                  -- R272, R319
  | mwait (ids : List Nat)                     -- R257: matrix entries to complete
  | ready (dests : List (Reg × Word))          -- done; LOAD_RESULT writes the registers and lowers the token
  | held                                       -- until a page's move or preservation ends, or earlier accesses are performed (R65, R102, R343)
  | onEntry (tok : Nat)                        -- faulted after its issue: until the wait-table entry closes (R378, R456)
  deriving DecidableEq, Repr, Inhabited

/-- An outstanding long-latency result of one thread: token (7: the thread's next instruction waits), destination, the clause and
index of the instruction (R415), cycles waited, whether the wait counts in PERF_STALL_MEM (R20). -/
structure Pend where
  id   : Nat
  who  : Tref
  tok  : Nat
  acc  : Acc
  kind : PendKind
  hdr  : Va
  idx  : Nat
  aged : Nat
  mem  : Bool
  deriving DecidableEq, Repr, Inhabited

/-- Where a store goes. -/
inductive Place
  | pa (a : Nat)            -- this package's memory
  | scratch (a : Nat)       -- the block's scratchpad
  | held                    -- a page that moves: translated again when it is performed (R65)
  deriving DecidableEq, Repr, Inhabited

/-- An issued write that has not been performed (R210): the first byte's place, its VA and the bytes; `set`: sets full bits; the cycle of
its issue (R209); the wait-table token it is parked on, 0 for none. The pieces of one store have one `id`. -/
structure PWrite where
  id    : Nat
  who   : Tref
  job   : Nat
  place : Place
  va    : Nat
  bytes : List Byte
  set   : Bool
  at_   : Nat
  token : Nat
  deriving DecidableEq, Repr, Inhabited

/-- A fault record (R377). `entry`: the wait-table index whose count COUNT takes when the record is written. -/
structure FRec where
  code  : Nat
  flags : Nat
  token : Nat
  addr  : Word
  pc    : Word
  idx   : Nat
  rung  : Nat
  core  : Nat
  tid   : Nat
  grid  : Nat
  job   : Nat
  count : Nat
  bidx  : Nat
  seq   : Nat
  detail : Word
  entry : Option Nat
  deriving DecidableEq, Repr, Inhabited

/-- A wait-table entry (R378). -/
structure WaitEntry where
  index : Nat
  job   : Nat
  page  : Nat
  gen   : Nat
  count : Nat
  deriving DecidableEq, Repr, Inhabited

/-- An armed entry (R233). -/
structure Arm where
  obj  : Nat
  job  : Nat
  user : Bool
  t    : Int
  kind : Nat
  addr : Nat
  deriving DecidableEq, Repr, Inhabited

/-- A staged atomic (R223, R414). -/
structure Staged where
  va    : Nat
  x     : Word32
  order : Nat
  who   : Tref
  batch : Nat
  spilled : Bool
  deriving DecidableEq, Repr, Inhabited

/-- An .ord operation in a ticket unit (R225): its position, its access, and the pending result or the store it belongs to. -/
structure Ticket where
  id   : Nat
  seg  : Nat
  who  : Tref
  order : Nat
  acc  : Acc
  deriving DecidableEq, Repr, Inhabited

/-- A line of the write-combining buffer (R19, R317): peer package, line VA, bytes by offset, threads whose stores it holds. -/
structure WcLine where
  peer  : Nat
  job   : Nat
  user  : Bool
  va    : Nat
  bytes : List (Nat × Byte)
  whos  : List (Nat × Tref)
  born  : Nat
  deriving DecidableEq, Repr, Inhabited

/-- Cached translation (R62): job, page VA >> 16, the leaf entry. -/
structure TlbEntry where
  job  : Nat
  page : Nat
  pte  : Word
  deriving DecidableEq, Repr, Inhabited

/-- One core (R19, R20, R307, R319). -/
structure Core where
  perfIssue    : Word
  perfStallSp  : Word
  perfStallMem : Word
  perfForm     : Word
  wc     : List WcLine
  iss    : List Nat
  ackp   : List Nat
  acked  : List (Nat × Nat)
  staged : List Staged
  /-- Context of held blocks (grid, BIDX, KiB, and where: on the shelf, or from which KiB of the core's carve-out on). -/
  held   : List (Nat × Nat × Nat × Option Nat)
  snapHeld : Bool
  busy   : Bool
  deriving DecidableEq, Repr, Inhabited

/-- A page the placement engine of a die counts (R68): job, page, home accesses, writes, requester slots (package, accesses). -/
structure Heat where
  job   : Nat
  page  : Nat
  home  : Nat
  wr    : Nat
  reqs  : List (Nat × Nat)
  deriving DecidableEq, Repr, Inhabited

/-- One die (R25, R68, R74, R225, R233, R375 to R378). -/
structure Die where
  faultq  : Word
  holding : List FRec
  lost    : Bool
  waits   : List WaitEntry
  gens    : Tab Nat
  arms    : List Arm
  tickets : List Ticket
  codebooks : List (List (BitVec 16))
  ws      : Memory
  wsPhase : Nat
  tlb     : List TlbEntry
  heat    : List Heat
  /-- Cycle in which the last counting window ended (R68). -/
  heatAt  : Nat
  deriving DecidableEq, Repr, Inhabited

/-- A Halyard event as the package sends it (R288, R289). -/
inductive Event
  | submit (h : EvHdr) (va : Va) (c : Nat) (flags : Byte)
  | admission (h : EvHdr) (grid : Nat)
  | finish (h : EvHdr) (grid pkg : Nat)
  | block (h : EvHdr) (grid : Nat)
  | unblock (h : EvHdr) (grid : Nat)
  | cancel (h : EvHdr) (va : Va) (lv : Level)
  | fault (h : EvHdr) (code grid core rung : Nat) (addr : Word) (bidx seq : Nat)
  | loss (h : EvHdr) (pkg reason : Nat)
  | join (h : EvHdr) (pkg last : Nat) (h0 h1 : Word)
  | fence (h : EvHdr) (pkg reason ckpt : Nat)
  | digest (h : EvHdr) (ckpt : Nat) (h0 h1 : Word)
  | rebalance (h : EvHdr) (grid kind gen spkg dpkg nch rank0 slot0 : Nat)
  | snapcommit (h : EvHdr) (epoch cutSeq : Nat) (manif : Va) (kind : Nat)
  | snapopen (h : EvHdr) (va : Va) (epoch : Nat)
  | ticket (h : EvHdr)
  | job (h : EvHdr) (va : Va) (close : Bool)
  | preemptcfg (h : EvHdr) (pkg : Nat) (en : Bool)
  | reserved (h : EvHdr) (typ : Nat)
  deriving DecidableEq, Repr, Inhabited

/-- A submitted record (R283, R297): what it is (0 launch, 1 phase, 2 graph), where, of which job and mode, the unit it belongs to (0
none), the outstanding result of the submitting thread (0 none), the wait-table token it is parked on (0 none), whether its SUBMIT
went to the pod, and for a launch its fields; whether the host submitted it, to whom its status is returned (R331). -/
structure Sub where
  kind  : Nat
  va    : Nat
  job   : Nat
  user  : Bool
  unit  : Nat
  pend  : Nat
  token : Nat
  sent  : Bool
  host  : Bool
  l     : Launch
  /-- The handle the pod gave it (R289). -/
  handle : Option Nat
  deriving DecidableEq, Repr, Inhabited

/-- A graph, phase or job (R50, R299): number, level (1 graph, 2 phase, 3 job), its parent unit, job, mode, counter VA, members not yet
decremented, the counters of those that have been, and whether it has been cancelled. -/
structure WUnit where
  id      : Nat
  level   : Nat
  parent  : Nat
  job     : Nat
  user    : Bool
  counter : Nat
  left    : Nat
  done    : List Nat
  decided : Bool
  deriving DecidableEq, Repr, Inhabited

/-- What a matrix entry does (R238): elements' whole new state, an anchor, passes over descriptors, a convolution, a walk with its
combine, a drain (stochastic, zeroing), a row read (INT32), a status read (clearing). -/
inductive MKind
  | mzero
  | manchor (a : Int)
  | mma
  | mconv
  | mwalk (o : WalkOp) (c : Nat)
  | mdrain (rs z : Bool)
  | mrow (i32 : Bool)
  | mstat (clr : Bool)
  deriving DecidableEq, Repr, Inhabited

/-- Who issued an engine operation: core, lowest active member, its block, mode; the record or descriptor it works from (R377, R402,
R403); what it may do in the weight store's window: 0 nothing, 1 read operands (the matrix engine), 2 write (a copy) (R27, R58, R208). -/
structure EngBy where
  core : Nat
  grid : Nat
  bidx : Nat
  tid  : Nat
  job  : Nat
  user : Bool
  recVa : Nat
  /-- SCORE of its packets: 0x3FF for an engine, the core for PUT and GET (R269, R314). -/
  score : Nat
  store : Nat
  deriving DecidableEq, Repr, Inhabited

/-- An entry of a cluster's reservation table (R238, R239, R247). `who`: (TID, lane) of the members; `da`, `db`, `dO`: captured records;
`passes`: passes of the operation, or of the running chunk of a walk; `chunks`: finished chunks; `phase`: 0 waits for its next grant, 1
granted, 2 drain writes or a combine are outstanding, 10 more while parked on `token`; `next`: the tile as the
running grant leaves it; `out`: what a drain writes; `part`: elements of the walk's finished chunk already combined. -/
structure MEntry where
  id     : Nat
  kind   : MKind
  grid   : Nat
  bidx   : Nat
  core   : Nat
  by_    : EngBy
  who    : List (Nat × Nat)
  tile   : Nat
  da     : List Word
  db     : List Word
  dO     : List Word
  x      : Nat
  y      : Nat
  z      : Nat
  dreg   : Reg
  passes : Nat
  prog   : Nat
  chunks : List Nat
  chunk  : Nat
  born   : Nat
  since  : Option Nat
  starving : Bool
  phase  : Nat
  token  : Nat
  next   : Option Tile
  out    : List (Nat × List Byte)
  part   : Nat
  deriving DecidableEq, Repr, Inhabited

/-- A granule range asked from another package by an engine operation: packet, operation, first VA, granules, the VA of the operation's record
(R402). -/
structure EngAsk where
  dst : Nat
  seq : Nat
  op  : Nat
  va  : Nat
  n   : Nat
  recVa : Nat
  deriving DecidableEq, Repr, Inhabited

/-- A codebook load (R260): its operation number, die, slot, the VA of the entries, and the wait-table token it is parked on. -/
structure Rebuild where
  op    : Nat
  die   : Nat
  slot  : Nat
  va    : Nat
  by_   : EngBy
  token : Option Nat
  deriving DecidableEq, Repr, Inhabited

/-- A copy (R264 to R268): its operation, record fields as read at acceptance or resumption, progress, invalid blocks, phase (0 running,
1 suspended, 2 parked, 3 halted by a pre-emption), token, the running chunk's writes that are left with their progress, CPYS and CPYR operations
that wait; what it is doing (0 chunks, or writing its record: 1 as accepted or resumed, 2 as suspended, 3 at its end) and what is left of that
write; and STATE and status once it is decided (R231). -/
structure Copy where
  op     : Nat
  by_    : EngBy
  die    : Nat
  dst    : Nat
  src    : Nat
  rowlen : Nat
  rows   : Nat
  dstr   : Nat
  sstr   : Nat
  mode   : Nat
  signal : Nat
  prow   : Nat
  poff   : Nat
  invblk : Nat
  phase  : Nat
  token  : Nat
  out    : List (Nat × List Byte × Byte)
  ahead  : Nat
  stops  : List Nat
  goes   : List Nat
  stage  : Nat
  tail   : List (Nat × List Byte × Byte)
  ends   : Option (Nat × Nat)
  deriving DecidableEq, Repr, Inhabited

/-- A one-sided transfer (R269 to R271): kind 0 PUT, 1 GET, 2 GET.ver, 3 PUTF; destination and source of what is left, bytes left; for
GET.ver the version word's VA, the expected version, the signal and the stage (0 first read, 1 data, 2 second read, 3 result); `token`: the
wait-table token it is parked on. -/
structure Xfer where
  op    : Nat
  kind  : Nat
  by_   : EngBy
  dst   : Nat
  src   : Nat
  left  : Nat
  ver   : Nat
  want  : Word
  sig   : Nat
  stage : Nat
  status : Nat
  token : Option Nat
  /-- Bytes in all (R426). -/
  total  : Nat
  deriving DecidableEq, Repr, Inhabited

/-- One granule of a contribution to a collective (R323): contributing rank, further ranks already added by a switch (R327), offset in
the contribution and VA of its first byte, how many bytes, the granule and its error syndrome. -/
structure CPiece where
  rank : Nat
  more : Nat
  off  : Nat
  va   : Nat
  n    : Nat
  gran : List Byte
  err  : Byte
  deriving DecidableEq, Repr, Inhabited

/-- A collective at this rank (R273, R274, R320 to R329). `kind`: 0 COLL, 1 COLL.ver, 2 RESHARD, 3 bound to `grid` (R325, with SBASE);
`no`: which collective of its ID at this package; `d`: the captured descriptor; `ranks`, `aux`: packages of the ranks and permute targets;
`moves`: of a reshard, source rank, destination rank, source, destination, bytes; `phase`: 0 waits for the layout epoch, 1 first version
read, 2 transfers, 3 second version read, 4 waits for notices; `todo`: ranges of this rank's source still to send; `ready`: ready segments;
`stage`: contributions that are there; `heads`: what the other ranks' descriptors say; `notices`: (rank, status); `chunks`: finished chunks;
`out`: writes left of chunk `outOf`; `landed`: segments decremented; `token`: the wait-table token it is parked on; `refetch`: contributions
that failed their seal are read again. -/
structure Coll where
  op     : Nat
  by_    : EngBy
  die    : Nat
  kind   : Nat
  no     : Nat
  grid   : Nat
  sbase  : Nat
  d      : List Byte
  ranks  : List Nat
  aux    : List Nat
  moves  : List (Nat × Nat × Nat × Nat × Nat)
  phase  : Nat
  todo   : List (Nat × Nat)
  ready  : List Nat
  stage  : List CPiece
  heads  : List (Nat × List Word)
  notices : List (Nat × Nat)
  chunks : List Nat
  out    : List (Nat × List Byte × Byte)
  outOf  : Nat
  landed : List Nat
  status : Nat
  token  : Option Nat
  refetch : Bool
  deriving DecidableEq, Repr, Inhabited

/-- A RESAMPLE exchange (R278, R334): words received as lists (package + 2^16 · GEN, words), the plan's words, images received (slot, words);
whether this package has sent its list, planned (as root), sent its images, begun to write those toward it; what is left of that, as (slot, VA,
bytes, syndrome); the packages whose images are acknowledged. -/
structure Exch where
  grid   : Nat
  lists  : List (Nat × List Word)
  plan   : List Word
  images : List (Nat × List Word)
  listed : Bool
  rooted : Bool
  imaged : Bool
  wrote  : Bool
  puts   : List (Nat × Nat × List Byte × Byte)
  done   : List Nat
  deriving DecidableEq, Repr, Inhabited

/-- What a replica knows of a grid beside its words (R289, R295, R296): origin package, record VA, job, core request, flags; the SEQ of its
ADMIT and of its shelving; the packages whose FINISH is applied; whether a FAULT event has named it (R382); cores per lost package still to
be placed again (R424). -/
structure PodGrid where
  handle : Nat
  origin : Nat
  va     : Nat
  job    : Nat
  c      : Nat
  flags  : Nat
  admission  : Option Nat
  shelf  : Option Nat
  done   : List Nat
  fault  : Bool
  replace_ : Nat
  /-- Packages with their cores at placement, ascending; and each later move of a lost package's share to others (R424). -/
  parts  : List (Nat × Nat)
  moves  : List (Nat × List (Nat × Nat))
  deriving DecidableEq, Repr, Inhabited

/-- A request packet kept until its answer comes (R433): the packet, the link that carried it last, and when;
and whether it has been sent, or waits because its die's link controller is full. -/
structure Kept where
  p    : Packet
  link : Nat
  at_  : Nat
  sent : Bool
  deriving DecidableEq, Repr, Inhabited

/-- A block's context as a cut captures it, with its asynchronous work (R339, R340): outstanding results, staged atomics with their core's,
tickets with their die, matrix entries, transfers, copies, collectives it issued. -/
structure SnapCtx where
  block   : Block
  pends   : List Pend
  staged  : List Staged
  tickets : List (Nat × Ticket)
  entries : List MEntry
  xfers   : List Xfer
  copies  : List Copy
  colls   : List Coll
  moved   : Bool
  deriving DecidableEq, Repr, Inhabited

/-- A manifest entry (R347). -/
structure Part where
  kind : Nat
  va   : Nat
  ver  : Nat
  h0   : Word
  h1   : Word
  loc  : Nat
  len  : Nat
  deriving DecidableEq, Repr, Inhabited

/-- The open epoch of a job at this package (R337 to R345). `fields`: bytes of the snapshot record; `phase`: 0 before the cut instant, 1
after it, 2 part written and BALCOUNT not yet answered, 3 done, 4 given up; `bal`: burgees (package, count); `log`: logged packets with arrival index and
path; `pages`: pages marked COW and not yet COPIED; `used`: bytes of the slice in use; `held`: packets held before the cut; `snapper`:
the package whose SNAPOPEN opened it. -/
structure Snap where
  job     : Nat
  epoch   : Nat
  cutSeq  : Nat
  recVa   : Nat
  snapper : Nat
  fields  : List Byte
  phase   : Nat
  bal     : List (Nat × Nat)
  log     : List (Nat × Nat × Packet)
  pages   : List Nat
  parts   : List Part
  used    : Nat
  ctxs    : List SnapCtx
  grids   : List Grid
  bars    : List BarInst
  subs    : List Sub
  units   : List WUnit
  image   : List (Nat × Word)
  podGrids : List PodGrid
  /-- Requests not yet answered at the cut instant, and the stores they carry (R340). -/
  kept    : List Kept
  flight  : List (Nat × Nat × WcLine)
  /-- Collectives issued by ID, and their chunks that came early, at the cut (R340). -/
  collNos : List (Nat × Nat × Nat)
  early   : List Packet
  deriving DecidableEq, Repr, Inhabited

/-- A rollback under way (R349): job, the manifest named, its epoch; the step (0 chain, 1 pages, 2 pages named elsewhere or nowhere and the
log, 9 stopped by a failed digest); the header read next; the entries read with their package, newest manifest first; the entry done
next; contexts, log and record of lost packages this one stands for, as (package, KIND, bytes) (R438). -/
structure Roll where
  job     : Nat
  manif   : Nat
  epoch   : Nat
  step    : Nat
  va      : Nat
  entries : List (Nat × Part)
  next    : Nat
  bytes   : List (Nat × Nat × List Byte)
  deriving DecidableEq, Repr, Inhabited

/-- A rejoin under way (R428): how far (0 before the image, 1 events after it are applied, 2 JOIN sent), first SEQ received since the reset,
the neighbour asked, the image's applied SEQ and its chunks. -/
structure Rejoin where
  phase  : Nat
  first  : Option Nat
  asked  : Option Nat
  k      : Nat
  chunks : List (Nat × List Word)
  deriving DecidableEq, Repr, Inhabited

/-- A request this package has forwarded to the holder of its page (R455): the original, and the destination and SEQ of the forwarded one;
`touch`: a first touch decided here for the requester (R66). -/
structure Fwd where
  orig  : Packet
  dst   : Nat
  seq   : Nat
  touch : Bool
  deriving DecidableEq, Repr, Inhabited

/-- A placement move of a page homed here (R70): die, job, page, the package it goes to, whether it is a replication; `op`: the number its
packets are outstanding under; `failed`: the ring of the requester was empty. -/
structure Move where
  die    : Nat
  job    : Nat
  page   : Nat
  dst    : Nat
  repl   : Bool
  op     : Nat
  failed : Bool
  deriving DecidableEq, Repr, Inhabited

/-- A page that a placement copy brings here (R70): its frame and how many packets of it have come. -/
structure Incoming where
  job   : Nat
  page  : Nat
  frame : Nat
  count : Nat
  deriving DecidableEq, Repr, Inhabited

/-- A shootdown under way (R62): its number, the page, the one core it names (or every core of the dies), the dies and the packages that
have still to acknowledge it. -/
structure Shoot where
  id   : Nat
  page : Nat
  core : Option Nat
  dies : List Nat
  pkgs : List (Nat × Nat)
  deriving DecidableEq, Repr, Inhabited

/-- The field records (R454). -/
structure Field where
  wcount  : Nat
  hours   : Nat
  cycles  : Nat
  age     : Nat
  offsets : List Int
  classes : List Nat
  seals   : List Nat
  stackFlds  : List (Nat × Nat × Nat)
  links   : List (Nat × Nat)
  diverg  : Nat × Nat
  halt    : List Nat
  gaps    : List Nat
  temp    : List Nat
  deriving DecidableEq, Repr, Inhabited

/-- Which group issues (R302). -/
structure Cur where
  grid : Nat
  bidx : Nat
  gid  : Nat
  deriving DecidableEq, Repr, Inhabited

/-- The whole package. -/
structure State where
  powered : Bool
  now     : Nat
  pkgId   : Word
  placeWeights : Word
  preemptCtl   : Word
  mem     : Memory
  cores   : Tab Core
  dies    : Tab Die
  blocks  : List Block
  grids   : List Grid
  bars    : List BarInst
  pend    : List Pend
  writes  : List PWrite
  /-- The next ticket of the die-0 sequencer, and the .sc operations with a ticket that are not yet performed, as (the Halyard's, ticket,
  result) (R112). -/
  scNext  : Nat
  scOut   : List (Bool × Nat × Nat)
  job0Root : Nat
  ringPa  : Nat
  ringLen : Nat
  podSeq  : Nat
  words   : Tab Word
  podPkgs : List Nat
  podGrids : List PodGrid
  /-- Events received and not yet applied, by SEQ (R287); the last events applied, latest first; the highest SEQ known; since when a gap is
  open and how far its handling has come (R419). -/
  evBuf   : List Event
  evTail  : List Event
  evKnown : Nat
  gap     : Option (Nat × Nat)
  /-- Packages FENCED and lost; senders counted, as (package, sender); digests applied, as (checkpoint, sender, h0, h1); checkpoints with
  their majority; packages this one has sent FENCE for and those whose JOIN has been applied since their fence; the hold; the
  withdrawal; the rejoin (R421 to R429). -/
  fenced  : List Nat
  lost    : List Nat
  fenceVotes : List (Nat × Nat)
  lossVotes  : List (Nat × Nat)
  digests : List (Nat × Nat × Word × Word)
  majority : List (Nat × Word × Word)
  fenceSent : List Nat
  /-- Checkpoint named by the effective FENCE of a package; SEQ of the JOIN by which it last came back (R418, R429). -/
  fenceCkpt : Tab Nat
  joined  : Tab Nat
  hold    : Bool
  withdrawn : Bool
  rejoin  : Option Rejoin
  /-- Substitutes, as (job, lost package, substitute, position in the job's list) (R425). -/
  aliases : List (Nat × Nat × Nat × Nat)
  /-- The replica test hook: event number, word, mask (R439). -/
  hook    : Option (Nat × Nat × Word)
  /-- The open epoch, SNAPOPENs that wait for another job's (job, record VA, epoch, sender), rollbacks, and the contexts of the cuts
  taken (R337, R345, R349). -/
  snap    : Option Snap
  snapWait : List (Nat × Nat × Nat × Nat)
  rolls   : List Roll
  saves   : List Snap
  /-- Code lines fetched from other packages (job, VA / 128 and mode, bytes), or fewer bytes of the fault found there, and those asked for
  (job, VA / 128 and mode, package and SEQ). -/
  lines    : List (Nat × Nat × List Byte)
  lineAsks : List (Nat × Nat × Nat)
  /-- The four class queues (R297), records whose reading is parked or whose class is not yet known, and graphs and phases. -/
  queues  : List (List Sub)
  subs    : List Sub
  units   : List WUnit
  /-- The reservation table of each cluster (R238), codebook rebuilds (R260), granules engines fetch from other packages, and writes made
  while matrix entries are outstanding: granule and the number of the write (R118). -/
  clusters : Tab (List MEntry)
  /-- Entries of halted blocks, which have left their tables until their blocks resume (R305). -/
  aside    : List MEntry
  rebuilds : List Rebuild
  engAsks  : List EngAsk
  engGot   : List (Nat × Nat × List (Byte × Byte))
  opWrites : List (Nat × Nat)
  copies   : List Copy
  xfers    : List Xfer
  /-- Collectives of this package's ranks, how many this package has taken by (job, ID), chunks of collectives not yet issued here, and the
  layout epoch of each job (R274, R322). -/
  colls    : List Coll
  collNos  : List (Nat × Nat × Nat)
  earlyChunks : List Packet
  epochs   : Tab Nat
  exchs    : List Exch
  /-- Sequence numbers sent per destination and VC (R314), packets kept until they are acknowledged (R433), the colour (R338) and the
  packets sent and received per package and colour. -/
  seqOut  : Tab Nat
  retained : List Kept
  /-- The next SEQ of each (source, VC); packets held at ingress; request packets delivered and not yet performed; answers given, as
  (source, SEQ, answer); requests forwarded (R318, R433, R455). -/
  seqIn   : Tab Nat
  ingress : List Packet
  inbox   : List Packet
  answers : List (Nat × Nat × Packet)
  fwds    : List Fwd
  /-- Requests whose answer is withheld until their grid is decided, as (grid, job, request); 2^32 where no row shows the grid (R410 cause 0x05); SIGWAITs of other packages (R232). -/
  withheld : List (Nat × Nat × Packet)
  remWaits : List (Nat × Packet)
  /-- Colour of each package by the events applied here (R338, R341), and the free level each last sent (R67). -/
  pkgCol  : Tab Nat
  lvls    : Tab Nat
  /-- Colour of the last packet of each (source, VC) delivered here. -/
  colIn   : Tab Nat
  /-- Placement moves from and to this package (R70), shootdowns (R62). -/
  moves    : List Move
  incoming : List Incoming
  shoots   : List Shoot
  /-- Write-combining lines sent and not yet answered: destination, SEQ, line (R317, R210). -/
  inFlight : List (Nat × Nat × WcLine)
  /-- Signal decrements parked on a wait-table entry (R231): job, user mode, VA, status, token. -/
  sigHeld : List (Nat × Bool × Nat × Nat × Nat)
  /-- Entries of packets that a FAULTED answer gave back, each held on a wait-table token of this package (R456). -/
  remHeld : List (Nat × Packet)
  colour  : Bool
  /-- LINK_STAT (R313); per link when a flit was last received, when it was last sent, when training began, attempts failed in a row (R430);
  deaths forwarded, as (subject, link); LINK records forwarded, as (cause, peer, link, time) (R417). -/
  linkStat  : Word
  linkHeard : Tab Nat
  linkSent  : Tab Nat
  linkTrain : Tab Nat
  linkFails : Tab Nat
  deaths    : List (Nat × Nat)
  linkRecs  : List (Nat × Nat × Nat × Nat)
  /-- The accepted configuration record and the two slots in flash (R449), the running firmware's version, the field records and their two
  copies in flash (R454), the supply offsets in use (R453), the nonce of an attestation request taken (R451). -/
  config  : List Byte
  cfgSlots : List (List Byte)
  fwVer   : Nat
  field   : Field
  flash   : List (Option Field)
  offsets : List Int
  attest  : Option (List Byte)
  /-- Scrub passes per stack and corrected errors per DRAM row of the current pass (R412, R413). -/
  scrubs  : Tab Nat
  rowCe   : Tab Nat
  /-- A core has not halted in time: the package publishes no further DIGEST (R417). -/
  quiet   : Bool
  sentTo  : Tab Nat
  recvFrom : Tab Nat
  outPackets : List Packet
  outEvents  : List Event
  outMgmt    : List Mgmt
  /-- Statuses of submissions returned to the host, as (job, record VA, status) (R331). -/
  outHost    : List (Nat × Nat × Nat)
  /-- Events re-sent on VC 2 from the tail, with the package they go to; packages that still wait for events of a run, as (package, next
  SEQ, last SEQ) (R419, R428). -/
  outRetx    : List (Nat × Event)
  tailFor    : List (Nat × Nat × Nat)
  agenda  : List Instr
  issuing : Option Cur
  turn    : Nat
  free    : Nat
  nextId  : Nat
  deriving DecidableEq, Repr, Inhabited

/-- Field records without a count (R454; log 3). -/
def fieldInit : Field :=
  { wcount := 0, hours := 0, cycles := 0, age := 0, offsets := [0, 0, 0, 0], classes := List.replicate 13 0, seals := List.replicate 8 0
    stackFlds := List.replicate 8 (0, 0, 0), links := List.replicate 16 (0, 0), diverg := (0, 0), halt := List.replicate 16 0
    gaps := List.replicate 16 0, temp := List.replicate 16 0 }

/-- The package right after reset (R7): at the end of bring-up stage 7, powered, no configuration record accepted, no block, memory
zero-filled, every register at its reset column (INVENTORY.md, State). -/
def State.reset : State :=
  { powered := true, now := 0, pkgId := 0, placeWeights := 0x0404014001000000, preemptCtl := 0,
    mem := { cells := [], errs := [], poison := [] }, cores := [], dies := [], blocks := [], grids := [], bars := [], pend := [],
    writes := [], scNext := 0, scOut := [], job0Root := 0, ringPa := 0, ringLen := 0, podSeq := 0, words := [], podPkgs := [], podGrids := [], evBuf := [], evTail := [],
    evKnown := 0, gap := none, fenced := [], lost := [], fenceVotes := [], lossVotes := [], digests := [], majority := [], fenceSent := [], fenceCkpt := [], joined := [],
    hold := false, withdrawn := false, rejoin := none, aliases := [], hook := none, snap := none, snapWait := [], rolls := [], saves := [],
    lines := [], lineAsks := [],
    queues := [[], [], [], []], subs := [], units := [], clusters := [], aside := [], rebuilds := [], engAsks := [], engGot := [], opWrites := [], copies := [], xfers := [], colls := [],
    collNos := [], earlyChunks := [], epochs := [], exchs := [], seqOut := [], retained := [], seqIn := [], ingress := [], inbox := [], answers := [], fwds := [],
    withheld := [], remWaits := [], pkgCol := [], lvls := [], colIn := [], moves := [], incoming := [], shoots := [], linkStat := 0, linkHeard := [],
    linkSent := [], linkTrain := [], linkFails := [], deaths := [], linkRecs := [], config := [], cfgSlots := [[], []], fwVer := 0,
    field := fieldInit, flash := [none, none], offsets := [0, 0, 0, 0], attest := none, scrubs := [], rowCe := [], inFlight := [], sigHeld := [], remHeld := [], colour := false, quiet := false, sentTo := [], recvFrom := [],
    outPackets := [], outEvents := [], outMgmt := [], outHost := [], outRetx := [], tailFor := [],
    agenda := [], issuing := none, turn := 0, free := 0, nextId := 1 }

end Sys2Proof.Machine
end

