-- ==== Sys2Proof/Machine/Bits.lean ====
section
/-! DEFINITION. Bits, packed elements, tables and bytes with seals: the helpers everything else rests on (R2, R3, R75, R165). -/

namespace Sys2Proof.Machine

open Sys2Proof

/-- Width in bits of an integer element (R143). -/
def intBits : IntW → Nat
  | .d => 64 | .w => 32 | .h => 16 | .b => 8

/-- Width in bits of a floating-point element (R185). -/
def fpBits : FpW → Nat
  | .s => 32 | .h => 16 | .bf => 16

/-- Element i of width w of v, unsigned (R165). -/
def elt (w : Nat) (v : Word) (i : Nat) : Nat := (v.toNat >>> (w * i)) % 2 ^ w

/-- Signed reading s(x) of a w-bit value (R166). -/
def sgn (w : Nat) (x : Nat) : Int := if x < 2 ^ (w - 1) then (x : Int) else (x : Int) - (2 ^ w : Nat)

/-- The w-bit value of an integer modulo 2^w. -/
def wrap (w : Nat) (x : Int) : Nat := (x % ((2 ^ w : Nat) : Int)).toNat

/-- The register whose first n elements of width w are f 0 to f (n − 1), the bits above them zero. -/
def packN (w : Nat) (f : Nat → Nat) : Nat → Nat
  | 0 => 0
  | n + 1 => packN w f n + (f n % 2 ^ w) <<< (w * n)

/-- The register whose elements of width w are f 0, f 1, … (R165). -/
def pack (w : Nat) (f : Nat → Nat) : Word := BitVec.ofNat 64 (packN w f (64 / w))

/-- Saturation of x to signed w bits, and whether it clamped (R166). -/
def satS (w : Nat) (x : Int) : Int × Bool :=
  if x < -((2 ^ (w - 1) : Nat) : Int) then (-((2 ^ (w - 1) : Nat) : Int), true)
  else if x ≥ ((2 ^ (w - 1) : Nat) : Int) then (((2 ^ (w - 1) : Nat) : Int) - 1, true)
  else (x, false)

/-- Saturation of x to unsigned w bits, and whether it clamped (R166). -/
def satU (w : Nat) (x : Int) : Int × Bool :=
  if x < 0 then (0, true) else if x ≥ ((2 ^ w : Nat) : Int) then (((2 ^ w : Nat) : Int) - 1, true) else (x, false)

/-- floor(log2 x) for x > 0, and 0 for 0. -/
def log2 (x : Nat) : Nat := Nat.log2 x

/-- Bits hi..lo of a number. -/
def bits (x hi lo : Nat) : Nat := (x >>> lo) % 2 ^ (hi + 1 - lo)

/-- Bit i of a number. -/
def bitOf (x i : Nat) : Bool := (x >>> i) % 2 == 1

/-- 1 for true. -/
def b2n (b : Bool) : Nat := if b then 1 else 0

/-- x with bits hi..lo set to v. -/
def setBits (x hi lo v : Nat) : Nat := x - bits x hi lo <<< lo + (v % 2 ^ (hi + 1 - lo)) <<< lo

/-- m64 of R99, the 64-bit finaliser. -/
def m64 (x : Word) : Word :=
  let x := x + 0x9E3779B97F4A7C15#64
  let x := (x ^^^ (x >>> 30)) * 0xBF58476D1CE4E5B9#64
  let x := (x ^^^ (x >>> 27)) * 0x94D049BB133111EB#64
  x ^^^ (x >>> 31)

/-- A table's entry, or the default. -/
def tget {α : Type} (dflt : α) : Tab α → Nat → α
  | [], _ => dflt
  | (k, v) :: r, i => if k == i then v else tget dflt r i

/-- A table with one entry set. -/
def tset {α : Type} : Tab α → Nat → α → Tab α
  | [], i, x => [(i, x)]
  | (k, v) :: r, i, x => if k == i then (i, x) :: r else (k, v) :: tset r i x

/-- The byte at an address; unlisted bytes are zero. -/
def cellsGet : List Host.Cell → Nat → Byte
  | [], _ => 0
  | (b, x) :: r, a => if a < b then 0 else if a == b then x else cellsGet r a

/-- One byte written, keeping the canonical form (rising, no zero). -/
def cellsSet : List Host.Cell → Nat → Byte → List Host.Cell
  | [], a, v => if v == 0 then [] else [(a, v)]
  | (b, x) :: r, a, v =>
    if a < b then (if v == 0 then (b, x) :: r else (a, v) :: (b, x) :: r)
    else if a == b then (if v == 0 then r else (a, v) :: r)
    else (b, x) :: cellsSet r a v

/-- Addresses rise strictly from lo on and no byte is zero. -/
def cellsOk : Nat → List Host.Cell → Bool
  | _, [] => true
  | lo, (b, x) :: r => lo ≤ b && x != 0 && cellsOk (b + 1) r

/-- Strictly rising from lo on. -/
def risingOk : Nat → List Nat → Bool
  | _, [] => true
  | lo, b :: r => lo ≤ b && risingOk (b + 1) r

/-- Set or clear membership, keeping the order. -/
def markSet : List Nat → Nat → Bool → List Nat
  | [], a, v => if v then [a] else []
  | b :: r, a, v =>
    if a < b then (if v then a :: b :: r else b :: r)
    else if a == b then (if v then b :: r else r)
    else b :: markSet r a v

/-- The canonical form of a memory. -/
def Memory.wf (m : Memory) : Bool := cellsOk 0 m.cells && cellsOk 0 m.errs && risingOk 0 m.poison

/-- No byte listed: every byte zero, every seal sound (R447 stage 4). -/
def Memory.empty : Memory := { cells := [], errs := [], poison := [] }

/-- One byte read. -/
def Memory.get (m : Memory) (a : Nat) : Byte := cellsGet m.cells a

/-- n bytes from a. -/
def Memory.read (m : Memory) (a : Nat) : Nat → List Byte
  | 0 => []
  | n + 1 => m.get a :: Memory.read m (a + 1) n

/-- Little-endian number of bytes (R3). -/
def leNat : List Byte → Nat
  | [] => 0
  | b :: r => b.toNat + 256 * leNat r

/-- n bytes of a number, little-endian. -/
def leBytes (x : Nat) : Nat → List Byte
  | 0 => []
  | n + 1 => BitVec.ofNat 8 x :: leBytes (x / 256) n

/-- n bytes from a as a number. -/
def Memory.num (m : Memory) (a n : Nat) : Nat := leNat (m.read a n)

/-- Stored seal XOR sound seal of granule q. -/
def Memory.err (m : Memory) (q : Nat) : Byte := cellsGet m.errs q

/-- Some granule that bytes a to a + n − 1 touch fails its seal check (R76). -/
def Memory.bad (m : Memory) (a n : Nat) : Bool :=
  (List.range ((a + n + 7) / 8 - a / 8)).any fun i => m.err (a / 8 + i) != 0

/-- First granule of the range that fails its check, by address. -/
def Memory.badAt (m : Memory) (a n : Nat) : Option Nat :=
  ((List.range ((a + n + 7) / 8 - a / 8)).find? fun i => m.err (a / 8 + i) != 0).map fun i => a / 8 + i

/-- Bytes written one after another, seals untouched. -/
def cellsPut : List Host.Cell → Nat → List Byte → List Host.Cell
  | cs, _, [] => cs
  | cs, a, b :: r => cellsPut (cellsSet cs a b) (a + 1) r

/-- Granules q to q + n − 1 take error syndrome e, and poison where p. -/
def sealPut (e : Byte) (p : Bool) : Nat → Memory → Nat → Memory
  | 0, m, _ => m
  | n + 1, m, q => sealPut e p n { m with errs := cellsSet m.errs q e, poison := markSet m.poison q p } (q + 1)

/-- A write with sound seals: whole granules replace data, seal and poison (R411, R412); a granule written in part keeps its syndrome,
which the check of R77 has found zero. -/
def Memory.write (m : Memory) (a : Nat) (bs : List Byte) : Memory :=
  let lo := (a + 7) / 8
  let hi := (a + bs.length) / 8
  sealPut 0 false (hi - lo) { m with cells := cellsPut m.cells a bs } lo

/-- One whole granule written with a given syndrome (R76: a copy carries the seal). -/
def Memory.writeGranule (m : Memory) (q : Nat) (bs : List Byte) (e : Byte) : Memory :=
  sealPut e false 1 { m with cells := cellsPut m.cells (8 * q) bs } q

/-- A number of n bytes written. -/
def Memory.writeNum (m : Memory) (a n x : Nat) : Memory := m.write a (leBytes x n)

/-- A byte of the bring-up page that software does not change: all but the attestation mailbox (R4, R7, R446, R451). -/
def roByte (a : Nat) : Bool := a < 0x10000 && !(0x800 ≤ a && a < 0xA00)

/-- What a write of software, of an engine or of another package leaves of the bytes it names: read-only bytes stay (R7). -/
def Memory.kept (m : Memory) (a : Nat) (bs : List Byte) : List Byte :=
  if 0x10000 ≤ a then bs else bs.zipIdx.map fun x => if roByte (a + x.2) then m.get (a + x.2) else x.1

/-- Bytes written by software, an engine or another package (R7, R76). -/
def Memory.put (m : Memory) (a : Nat) (bs : List Byte) : Memory := m.write a (m.kept a bs)

/-- As `put`, one whole granule with a given syndrome; a granule with a read-only byte keeps data and seal. -/
def Memory.putGranule (m : Memory) (q : Nat) (bs : List Byte) (e : Byte) : Memory :=
  if roByte (8 * q) then m else m.writeGranule q bs e

/-- One bit step of the CRC of R75. -/
def crcStep (c : Byte) : Byte := if c.getLsbD 7 then (c <<< 1) ^^^ 0x07 else c <<< 1

/-- One byte of the CRC of R75. -/
def crcByte (c b : Byte) : Byte :=
  crcStep (crcStep (crcStep (crcStep (crcStep (crcStep (crcStep (crcStep (c ^^^ b))))))))

/-- seal8(d, va) of R75: eight data bytes, then the tag VA[10:3]. -/
def seal8 (d : List Byte) (va : Nat) : Byte := crcByte (d.foldl crcByte 0) (BitVec.ofNat 8 (va / 8))

/-- crcb(b) of R75: the seal of zero data with tag b. -/
def crcb (b : Byte) : Byte := crcByte 0 b

/-- The seal stored with granule q. -/
def Memory.sealOf (m : Memory) (q : Nat) : Byte := seal8 (m.read (8 * q) 8) (8 * q) ^^^ m.err q

/-- The cells lo to lo + n − 1 copied to hi on. -/
def cellsCopy (l : List Host.Cell) (lo hi n : Nat) : List Host.Cell :=
  l.filter (fun c => c.1 < hi) ++ (l.filter fun c => lo ≤ c.1 && c.1 < lo + n).map (fun c => (hi + (c.1 - lo), c.2))
    ++ l.filter fun c => hi + n ≤ c.1

/-- n bytes copied from src to dst with their seals, both multiples of 8 (R76). -/
def Memory.copyRange (m : Memory) (src dst n : Nat) : Memory :=
  { cells := cellsCopy m.cells src dst n
    errs := cellsCopy m.errs (src / 8) (dst / 8) (n / 8)
    poison := m.poison.filter (fun q => q < dst / 8)
      ++ (m.poison.filter fun q => src / 8 ≤ q && q < src / 8 + n / 8).map (fun q => dst / 8 + (q - src / 8))
      ++ m.poison.filter fun q => dst / 8 + n / 8 ≤ q }

/-- Replace the first entry that meets p. -/
def replaceFirst {α : Type} (p : α → Bool) (f : α → α) : List α → List α
  | [] => []
  | x :: r => if p x then f x :: r else x :: replaceFirst p f r

/-- Insert by key, after equal keys. -/
def insertBy {α : Type} (le : α → α → Bool) (x : α) : List α → List α
  | [] => [x]
  | y :: r => if le y x then y :: insertBy le x r else x :: y :: r

/-- Insertion sort, stable. -/
def sortBy {α : Type} (le : α → α → Bool) (l : List α) : List α := l.foldl (fun acc x => insertBy le x acc) []

/-- Split a list into pieces of n (fuel: the list's length). -/
def chunks {α : Type} (n : Nat) : Nat → List α → List (List α)
  | 0, _ => []
  | fuel + 1, l => if l.isEmpty then [] else l.take n :: chunks n fuel (l.drop n)

end Sys2Proof.Machine
end

