-- ==== Sys2Proof/Machine/Float.lean ====
section
/-! DEFINITION. Number formats and exact arithmetic (04: R79 to R98, R100): decoding, one rounding step for every format and mode,
the arithmetic of R186 to R195, and the special functions of R190 by enclosure. -/

namespace Sys2Proof.Machine

open Sys2Proof

/-- TSTAT flags (R156). -/
def fSAT : BitVec 6 := 32
def fNV : BitVec 6 := 16
def fDZ : BitVec 6 := 8
def fOF : BitVec 6 := 4
def fUF : BitVec 6 := 2
def fNX : BitVec 6 := 1

/-- A flag where a condition holds. -/
def flagIf (c : Bool) (f : BitVec 6) : BitVec 6 := if c then f else 0

/-- A floating-point format (R79): exponent and fraction widths, bias, and whether it is E4M3 (no infinity). -/
structure FFmt where
  eb   : Nat
  fb   : Nat
  bias : Nat
  e4m3 : Bool
  deriving DecidableEq, Repr, Inhabited

def ffS : FFmt := { eb := 8, fb := 23, bias := 127, e4m3 := false }
def ffH : FFmt := { eb := 5, fb := 10, bias := 15, e4m3 := false }
def ffB : FFmt := { eb := 8, fb := 7, bias := 127, e4m3 := false }
def ffE4 : FFmt := { eb := 4, fb := 3, bias := 7, e4m3 := true }
def ffE5 : FFmt := { eb := 5, fb := 2, bias := 15, e4m3 := false }

/-- The format of a floating-point major (R185). -/
def fpFmt : FpW → FFmt
  | .s => ffS | .h => ffH | .bf => ffB

/-- Width in bits. -/
def FFmt.width (f : FFmt) : Nat := 1 + f.eb + f.fb

/-- Sign bit. -/
def FFmt.sign (f : FFmt) (x : Nat) : Bool := bitOf x (f.eb + f.fb)

/-- Largest finite magnitude's code (R79). -/
def FFmt.maxFin (f : FFmt) : Nat := if f.e4m3 then 0x7E else (2 ^ f.eb - 1) <<< f.fb - 1

/-- Code of +inf where the format has one. -/
def FFmt.infC (f : FFmt) : Nat := (2 ^ f.eb - 1) <<< f.fb

/-- The canonical NaN (R81). -/
def FFmt.nanC (f : FFmt) : Nat := if f.e4m3 then 0x7F else f.infC + 2 ^ (f.fb - 1)

/-- A sign put on a magnitude code. -/
def FFmt.signed (f : FFmt) (neg : Bool) (m : Nat) : Nat := if neg then m + 2 ^ (f.eb + f.fb) else m

/-- An exact value: NaN (signalling or not), infinity, or (−1)^neg · m · 2^e with zero signed (R79). -/
inductive FVal
  | nan (sig : Bool)
  | inf (neg : Bool)
  | fin (neg : Bool) (m : Nat) (e : Int)
  deriving DecidableEq, Repr, Inhabited

/-- The value of a code (R79, R81). -/
def FFmt.val (f : FFmt) (x : Nat) : FVal :=
  let neg := f.sign x
  let mag := x % 2 ^ (f.eb + f.fb)
  let e := mag >>> f.fb
  let fr := mag % 2 ^ f.fb
  if f.e4m3 && mag == 0x7F then .nan false
  else if !f.e4m3 && e == 2 ^ f.eb - 1 then
    (if fr == 0 then .inf neg else .nan (f.fb ≥ 7 && fr < 2 ^ (f.fb - 1)))
  else if e == 0 then .fin neg fr (1 - (f.bias : Int) - f.fb)
  else .fin neg (fr + 2 ^ f.fb) ((e : Int) - f.bias - f.fb)

def FVal.isNan : FVal → Bool
  | .nan _ => true | _ => false
def FVal.isSnan : FVal → Bool
  | .nan true => true | _ => false
def FVal.isInf : FVal → Bool
  | .inf _ => true | _ => false
def FVal.isZero : FVal → Bool
  | .fin _ 0 _ => true | _ => false
def FVal.neg : FVal → Bool
  | .nan _ => false | .inf n => n | .fin n _ _ => n
/-- −x; a NaN is unchanged. -/
def FVal.negate : FVal → FVal
  | .nan s => .nan s | .inf n => .inf (!n) | .fin n m e => .fin (!n) m e

/-- Rounding modes: nearest even, toward zero, stochastic with row word and lane (R95, R98). -/
inductive Rnd
  | ne
  | tz
  | st (w l : Nat)
  deriving DecidableEq, Repr, Inhabited

/-- rotl32 (R2). -/
def rotl32 (x n : Nat) : Nat := (x <<< (n % 32) ||| (x >>> (32 - n % 32))) % 2 ^ 32

/-- The draw q of R98. -/
def rsDraw (w l : Nat) : Nat := (rotl32 w ((7 * l) % 32)) ^^^ ((0x9E3779B9 * (l >>> 5)) % 2 ^ 32)

/-- m divided by 2^sh as an integer under a mode: the result and whether it is inexact. `sticky`: the exact value lies above m. -/
def roundShift (r : Rnd) (m sh : Nat) (sticky : Bool) : Nat × Bool :=
  let q := m >>> sh
  let rem := m % 2 ^ sh
  let half := 2 ^ sh / 2
  let up := match r with
    | .ne => sh != 0 && (half < rem || (rem == half && (sticky || q % 2 == 1)))
    | .tz => false
    | .st w l => rsDraw w l < (rem <<< 32) >>> sh
  (q + b2n (up && (rem != 0 || sticky)), rem != 0 || sticky)

/-- Magnitude m · 2^e (above it where sticky) rounded to the format's grid with no upper bound: the magnitude code and whether it is
inexact (R79, R95). DESIGN CHOICE (log 71): beyond the largest finite value the next magnitude of R98 is the grid's next, with no bound on the
exponent; the overflow rule comes after it. -/
def FFmt.grid (f : FFmt) (r : Rnd) (m : Nat) (e : Int) (sticky : Bool) : Nat × Bool :=
  if m == 0 then (0, sticky) else
  let emin : Int := 1 - (f.bias : Int) - f.fb
  let q : Int := max ((Nat.log2 m : Int) + e - f.fb) emin
  let sh := q - e
  let (sig, nx) := if sh ≤ 0 then (m <<< (-sh).toNat, sticky) else roundShift r m sh.toNat sticky
  if sig < 2 ^ f.fb then (sig, nx) else (((q - emin).toNat + 1) <<< f.fb + (sig - 2 ^ f.fb), nx)

/-- One rounding to the format with overflow, underflow and inexact flags (R95, R96): overflow gives ±inf, or ±448 in E4M3. -/
def FFmt.round (f : FFmt) (r : Rnd) (neg : Bool) (m : Nat) (e : Int) (sticky : Bool) : Nat × BitVec 6 :=
  let (c, nx) := f.grid r m e sticky
  if f.maxFin < c then (f.signed neg (if f.e4m3 then f.maxFin else f.infC), fOF ||| fNX)
  else (f.signed neg c, flagIf (nx && c < 2 ^ f.fb) fUF ||| flagIf nx fNX)

/-- A value put into a format: R96 for infinities and NaNs, `round` for the rest. -/
def FFmt.put (f : FFmt) (r : Rnd) : FVal → Nat × BitVec 6
  | .nan s => (f.nanC, flagIf s fNV)
  | .inf n => if f.e4m3 then (f.signed n f.maxFin, fOF ||| fNX) else (f.signed n f.infC, 0)
  | .fin n m e => f.round r n m e false

/-- Signed integer significand at exponent e0 ≤ e. -/
def scaled (neg : Bool) (m : Nat) (e e0 : Int) : Int :=
  let v : Int := (m <<< (e - e0).toNat : Nat)
  if neg then -v else v

/-- Exact sum of two finite values; a zero sum is −0 only of two negative zeros (R186). -/
def addFin (n1 : Bool) (m1 : Nat) (e1 : Int) (n2 : Bool) (m2 : Nat) (e2 : Int) : FVal :=
  let e0 := min e1 e2
  let s := scaled n1 m1 e1 e0 + scaled n2 m2 e2 e0
  if s == 0 then .fin (n1 && n2 && m1 == 0 && m2 == 0) 0 0 else .fin (s < 0) s.natAbs e0

/-- a + b before rounding, and NV (R186). -/
def FVal.add : FVal → FVal → FVal × BitVec 6
  | .nan s, b => (.nan false, flagIf (s || b.isSnan) fNV)
  | _, .nan s => (.nan false, flagIf s fNV)
  | .inf n1, .inf n2 => if n1 == n2 then (.inf n1, 0) else (.nan false, fNV)
  | .inf n, _ => (.inf n, 0)
  | _, .inf n => (.inf n, 0)
  | .fin n1 m1 e1, .fin n2 m2 e2 => (addFin n1 m1 e1 n2 m2 e2, 0)

/-- a · b before rounding, and NV (R186). -/
def FVal.mul : FVal → FVal → FVal × BitVec 6
  | .nan s, b => (.nan false, flagIf (s || b.isSnan) fNV)
  | _, .nan s => (.nan false, flagIf s fNV)
  | .inf n1, b => if b.isZero then (.nan false, fNV) else (.inf (n1 != b.neg), 0)
  | a, .inf n2 => if a.isZero then (.nan false, fNV) else (.inf (a.neg != n2), 0)
  | .fin n1 m1 e1, .fin n2 m2 e2 => (.fin (n1 != n2) (m1 * m2) (e1 + e2), 0)

/-- a · b + c before rounding, and NV: 0 · inf sets NV whatever c is (R187). -/
def FVal.fma (a b c : FVal) : FVal × BitVec 6 :=
  let (p, f1) := a.mul b
  if a.isNan || b.isNan then (.nan false, f1 ||| flagIf c.isSnan fNV)
  else if p.isNan then (.nan false, fNV)
  else let (r, f2) := p.add c
    (r, f1 ||| f2)

/-- FADD, FSUB, FMUL on codes (R186). -/
def FFmt.add (f : FFmt) (a b : Nat) : Nat × BitVec 6 :=
  let (v, g) := (f.val a).add (f.val b)
  let (c, h) := f.put .ne v
  (c, g ||| h)
def FFmt.sub (f : FFmt) (a b : Nat) : Nat × BitVec 6 :=
  let (v, g) := (f.val a).add (f.val b).negate
  let (c, h) := f.put .ne v
  (c, g ||| h)
def FFmt.mul (f : FFmt) (a b : Nat) : Nat × BitVec 6 :=
  let (v, g) := (f.val a).mul (f.val b)
  let (c, h) := f.put .ne v
  (c, g ||| h)

/-- FMA, FMS, FNMA on codes: signs of the product and of c (R187). -/
def FFmt.fma (f : FFmt) (np nc : Bool) (a b c : Nat) : Nat × BitVec 6 :=
  let va := if np then (f.val a).negate else f.val a
  let vc := if nc then (f.val c).negate else f.val c
  let (v, g) := va.fma (f.val b) vc
  let (r, h) := f.put .ne v
  (r, g ||| h)

/-- Quotient m1 · 2^e1 / (m2 · 2^e2) to 64 bits and more: significand, exponent, sticky. -/
def divFin (m1 : Nat) (e1 : Int) (m2 : Nat) (e2 : Int) : Nat × Int × Bool :=
  let k := 64 + Nat.log2 m2
  let n := m1 <<< k
  (n / m2, e1 - e2 - k, n % m2 != 0)

/-- FDIV (R186). -/
def FFmt.div (f : FFmt) (a b : Nat) : Nat × BitVec 6 :=
  match f.val a, f.val b with
  | .nan s, y => (f.nanC, flagIf (s || y.isSnan) fNV)
  | _, .nan s => (f.nanC, flagIf s fNV)
  | .inf _, .inf _ => (f.nanC, fNV)
  | .inf n, y => (f.signed (n != y.neg) f.infC, 0)
  | .fin n _ _, .inf n2 => (f.signed (n != n2) 0, 0)
  | .fin n1 m1 e1, .fin n2 m2 e2 =>
    if m2 == 0 then (if m1 == 0 then (f.nanC, fNV) else (f.signed (n1 != n2) f.infC, fDZ))
    else let (q, e, st) := divFin m1 e1 m2 e2
      f.round .ne (n1 != n2) q e st

/-- Largest r with r² ≤ x, from bit i downwards. -/
def isqrtFrom (x : Nat) : Nat → Nat → Nat
  | 0, r => r
  | i + 1, r => let t := r + 2 ^ i
    isqrtFrom x i (if t * t ≤ x then t else r)

/-- Integer square root. -/
def isqrt (x : Nat) : Nat := isqrtFrom x (Nat.log2 x / 2 + 1) 0

/-- m · 2^e as m' · 2^(2h). -/
def evenExp (m : Nat) (e : Int) : Nat × Int := if e % 2 == 0 then (m, e / 2) else (2 * m, (e - 1) / 2)

/-- FSQRT (R186). -/
def FFmt.sqrt (f : FFmt) (a : Nat) : Nat × BitVec 6 :=
  match f.val a with
  | .nan s => (f.nanC, flagIf s fNV)
  | .inf n => if n then (f.nanC, fNV) else (f.infC, 0)
  | .fin n m e =>
    if m == 0 then (f.signed n 0, 0) else if n then (f.nanC, fNV) else
    let (m', h) := evenExp m e
    let x := m' <<< 80
    let r := isqrt x
    f.round .ne false r (h - 40) (r * r != x)

/-- FRCP (R190, R191). -/
def FFmt.rcp (f : FFmt) (a : Nat) : Nat × BitVec 6 :=
  match f.val a with
  | .nan s => (f.nanC, flagIf s fNV)
  | .inf n => (f.signed n 0, 0)
  | .fin n m e =>
    if m == 0 then (f.signed n f.infC, fDZ)
    else let (q, e', st) := divFin 1 0 m e
      f.round .ne n q e' st

/-- FRSQ (R190, R191). -/
def FFmt.rsq (f : FFmt) (a : Nat) : Nat × BitVec 6 :=
  match f.val a with
  | .nan s => (f.nanC, flagIf s fNV)
  | .inf n => if n then (f.nanC, fNV) else (0, 0)
  | .fin n m e =>
    if m == 0 then (f.signed n f.infC, fDZ) else if n then (f.nanC, fNV) else
    let (m', h) := evenExp m e
    let k := 64 + Nat.log2 m'
    let r := isqrt (2 ^ (2 * k) / m')
    f.round .ne false r (-h - k) (r * r * m' != 2 ^ (2 * k))

/-- FMIN and FMAX keys: −0 below +0 (R188). -/
def FFmt.ordKey (f : FFmt) (x : Nat) : Int :=
  let mag : Int := (x % 2 ^ (f.eb + f.fb) : Nat)
  if f.sign x then -mag - 1 else mag

/-- FMIN, FMAX, FMINN, FMAXN (R188): `mx` the larger, `num` the numeric variants. -/
def FFmt.minmax (f : FFmt) (mx num : Bool) (a b : Nat) : Nat × BitVec 6 :=
  let va := f.val a
  let vb := f.val b
  let nv := flagIf (va.isSnan || vb.isSnan) fNV
  if va.isNan || vb.isNan then
    (if num && !vb.isNan then b else if num && !va.isNan then a else f.nanC, nv)
  else if mx then (if f.ordKey a < f.ordKey b then b else a, 0)
  else (if f.ordKey b < f.ordKey a then b else a, 0)

/-- Compare conditions and NV (R189). -/
def FFmt.cmp (f : FFmt) (c : FCond) (a b : Nat) : Bool × BitVec 6 :=
  let va := f.val a
  let vb := f.val b
  let nan := va.isNan || vb.isNan
  let snan := va.isSnan || vb.isSnan
  let zero := va.isZero && vb.isZero
  let eq := !nan && (zero || a == b)
  let lt := !nan && !zero && f.ordKey a < f.ordKey b
  match c with
  | .eq => (eq, flagIf snan fNV)
  | .ne => (!eq, flagIf snan fNV)
  | .lt => (lt, flagIf nan fNV)
  | .le => (lt || eq, flagIf nan fNV)
  | .un => (nan, flagIf snan fNV)

/-- SCALEX (R192). -/
def FFmt.scalex (f : FFmt) (a : Nat) (n : Int) : Nat × BitVec 6 :=
  match f.val a with
  | .nan s => (f.nanC, flagIf s fNV)
  | .inf _ => (a, 0)
  | .fin neg m e =>
    if m == 0 then (a, 0)
    else f.round .ne neg m (e + max (-100000) (min 100000 n)) false

/- Special functions (R190): fixed point with 320 fraction bits; every constant and series below is within 2^16 units of its value. -/

/-- Fraction bits of the enclosure. -/
def fxP : Nat := 320

/-- Largest error, in units of 2^−fxP. -/
def fxErr : Nat := 2 ^ 16

/-- Sum over odd n of x^n / n with alternating sign where `alt`; t = x^n in fixed point, x2 = x². -/
def oddSeries (alt : Bool) (x2 : Int) : Nat → Nat → Int → Bool → Int
  | 0, _, _, _ => 0
  | k + 1, n, t, neg =>
    let d := t / (n : Int)
    (if neg then -d else d) + oddSeries alt x2 k (n + 2) (t * x2 / (2 ^ fxP : Nat)) (alt && !neg)

/-- arctan (1/n), by its series. -/
def atanInv (n : Nat) : Int :=
  let x : Int := (2 ^ fxP / n : Nat)
  oddSeries true (x * x / (2 ^ fxP : Nat)) 160 1 x false

/-- π in fixed point (Machin's formula). -/
def fxPi : Int := 16 * atanInv 5 - 4 * atanInv 239

/-- artanh of a fixed-point x with |x| ≤ 1/3. -/
def fxAtanh (x : Int) : Int := oddSeries false (x * x / (2 ^ fxP : Nat)) 210 1 x false

/-- ln 2 in fixed point. -/
def fxLn2 : Int := 2 * fxAtanh ((2 ^ fxP : Nat) / 3)

/-- Sum of x^n / n! from term number n on; t = x^(n−1)/(n−1)!. -/
def expSeries (x : Int) : Nat → Nat → Int → Int
  | 0, _, _ => 0
  | k + 1, n, t => let t' := t * x / (2 ^ fxP : Nat) / (n : Int)
    t' + expSeries x k (n + 1) t'

/-- exp of a fixed-point x in [0, 1). -/
def fxExp (x : Int) : Int := (2 ^ fxP : Nat) + expSeries x 80 1 (2 ^ fxP : Nat)

/-- sin and cos terms: t is the last term, n the next factor. -/
def trigSeries (x2 : Int) : Nat → Nat → Int → Int
  | 0, _, _ => 0
  | k + 1, n, t => let t' := -(t * x2 / (2 ^ fxP : Nat) / ((n * (n + 1) : Nat) : Int))
    t' + trigSeries x2 k (n + 2) t'

/-- sin x and cos x of a fixed-point x in [0, 2). -/
def fxSin (x : Int) : Int := x + trigSeries (x * x / (2 ^ fxP : Nat)) 50 2 x
def fxCos (x : Int) : Int := (2 ^ fxP : Nat) + trigSeries (x * x / (2 ^ fxP : Nat)) 50 1 (2 ^ fxP : Nat)

/-- The rounding of an irrational value known within fxErr: v · 2^(sh − fxP), where both ends of the enclosure round alike; otherwise
the free value (log 10). -/
def FFmt.enclosed (f : FFmt) (neg : Bool) (v : Nat) (sh : Int) (free : Word) : Nat × BitVec 6 :=
  let lo := f.round .ne neg (v - fxErr) (sh - fxP) true
  let hi := f.round .ne neg (v + fxErr) (sh - fxP) true
  if lo == hi then lo else (free.toNat % 2 ^ f.width, lo.2)

/-- m · 2^e in fixed point (truncated). -/
def toFx (m : Nat) (e : Int) : Nat := if e + fxP ≥ 0 then m <<< (e + fxP).toNat else m >>> (-(e + fxP)).toNat

/-- Integer part and fraction of a magnitude m · 2^e; the fraction in fixed point (exact where e ≥ −fxP, R79). -/
def splitFx (m : Nat) (e : Int) : Nat × Nat :=
  let v := toFx m e
  (v >>> fxP, v % 2 ^ fxP)

/-- FEXP2 (R190, R191). -/
def FFmt.exp2 (f : FFmt) (a : Nat) (free : Word) : Nat × BitVec 6 :=
  match f.val a with
  | .nan s => (f.nanC, flagIf s fNV)
  | .inf n => if n then (0, 0) else (f.infC, 0)
  | .fin n m e =>
    if m == 0 then (f.round .ne false 1 0 false)
    else if (Nat.log2 m : Int) + e > 12 then f.round .ne false 1 (if n then -5000 else 5000) true
    else
      let (i, fr) := splitFx m e
      if fr == 0 then f.round .ne false 1 (if n then -(i : Int) else i) false
      else
        let (i', fr') : Int × Nat := if n then (-(i : Int) - 1, 2 ^ fxP - fr) else ((i : Int), fr)
        f.enclosed false (fxExp ((fr' : Int) * fxLn2 / (2 ^ fxP : Nat))).toNat i' free

/-- FLOG2 (R190, R191). -/
def FFmt.log2 (f : FFmt) (a : Nat) (free : Word) : Nat × BitVec 6 :=
  match f.val a with
  | .nan s => (f.nanC, flagIf s fNV)
  | .inf n => if n then (f.nanC, fNV) else (f.infC, 0)
  | .fin n m e =>
    if m == 0 then (f.signed true f.infC, fDZ) else if n then (f.nanC, fNV) else
    let k : Int := (Nat.log2 m : Int) + e
    if m == 2 ^ Nat.log2 m then f.round .ne (k < 0) k.natAbs 0 false
    else
      let y : Int := (m <<< (fxP - Nat.log2 m) : Nat)
      let one : Int := (2 ^ fxP : Nat)
      let z := (y - one) * one / (y + one)
      let v := k * one + 2 * fxAtanh z * one / fxLn2
      f.enclosed (v < 0) v.natAbs 0 free

/-- FSIN: sin(π · a) (R190, R191). -/
def FFmt.sinpi (f : FFmt) (a : Nat) (free : Word) : Nat × BitVec 6 :=
  match f.val a with
  | .nan s => (f.nanC, flagIf s fNV)
  | .inf _ => (f.nanC, fNV)
  | .fin n m e =>
    if m == 0 then (f.signed n 0, 0) else
    let (i, fr) := if e ≥ 0 then (m <<< (e.toNat % 400), 0) else splitFx m e
    if fr == 0 then (f.signed n 0, 0)
    else
      let neg := n != (i % 2 == 1)
      if fr == 2 ^ (fxP - 1) then f.round .ne neg 1 0 false
      else
        let x := if fr > 2 ^ (fxP - 1) then 2 ^ fxP - fr else fr
        f.enclosed neg (fxSin ((x : Int) * fxPi / (2 ^ fxP : Nat))).toNat 0 free

/-- FCOS: cos(π · a) (R190, R191). -/
def FFmt.cospi (f : FFmt) (a : Nat) (free : Word) : Nat × BitVec 6 :=
  match f.val a with
  | .nan s => (f.nanC, flagIf s fNV)
  | .inf _ => (f.nanC, fNV)
  | .fin _ m e =>
    let (i, fr) : Nat × Nat :=
      if e > 0 then (0, 0) else if e == 0 then (m, 0) else splitFx m e
    if fr == 0 then f.round .ne (i % 2 == 1) 1 0 false
    else if fr == 2 ^ (fxP - 1) then (0, 0)
    else
      let neg := (i % 2 == 1) != (fr > 2 ^ (fxP - 1))
      let x := if fr > 2 ^ (fxP - 1) then 2 ^ fxP - fr else fr
      if 4 * x > 2 ^ fxP then f.enclosed neg (fxSin (((2 ^ (fxP - 1) - x : Nat) : Int) * fxPi / (2 ^ fxP : Nat))).toNat 0 free
      else f.enclosed neg (fxCos ((x : Int) * fxPi / (2 ^ fxP : Nat))).toNat 0 free

/- Conversions (R148, R193 to R195). -/

/-- Element width of a CVT format. -/
def fmtBits : Fmt → Nat
  | .i8 | .u8 | .e4m3 | .e5m2 => 8
  | .i16 | .u16 | .h | .bf => 16
  | .i32 | .u32 | .s => 32
  | .i64 | .u64 => 64

/-- The floating-point format of a CVT code. -/
def fmtFloat : Fmt → Option FFmt
  | .s => some ffS | .h => some ffH | .bf => some ffB | .e4m3 => some ffE4 | .e5m2 => some ffE5
  | _ => none

/-- A signed integer code. -/
def fmtSigned : Fmt → Bool
  | .i8 | .i16 | .i32 | .i64 => true
  | _ => false

/-- The exact value of a source element (R194). -/
def fmtVal (t : Fmt) (x : Nat) : FVal :=
  match fmtFloat t with
  | some f => f.val x
  | none => let v : Int := if fmtSigned t then sgn (fmtBits t) x else (x : Int)
    .fin (v < 0) v.natAbs 0

/-- An exact value rounded to an integer and saturated: the value, and whether rounding was inexact and whether it saturated (R96). -/
def toIntSat (r : Rnd) (w : Nat) (sg : Bool) : FVal → Int × BitVec 6
  | .nan _ => (0, fNV ||| fSAT)
  | .inf n => ((if sg then satS w else satU w) (if n then -(2 ^ 80 : Nat) else (2 ^ 80 : Nat))).1 |> fun v => (v, fNV ||| fSAT)
  | .fin n m e =>
    let (q, nx) := if e ≥ 0 then (m <<< e.toNat, false) else roundShift r m (-e).toNat false
    let (v, sat) := (if sg then satS w else satU w) (if n then -(q : Int) else q)
    (v, flagIf sat (fNV ||| fSAT) ||| flagIf nx fNX)

/-- One element converted (R194, R96). -/
def cvtEl (r : Rnd) (tgt src : Fmt) (x : Nat) : Nat × BitVec 6 :=
  match fmtFloat tgt with
  | some f => f.put r (fmtVal src x)
  | none => let (v, g) := toIntSat r (fmtBits tgt) (fmtSigned tgt) (fmtVal src x)
    (wrap (fmtBits tgt) v, g)

/-- One element of a quantisation with scale exponent e (R85, R195): the byte and whether it differs from the exact value. -/
def quantEl (t : CvtsT) (n : Bool) (m : Nat) (ex : Int) : Byte × Bool :=
  match t with
  | .i8 =>
    let (q, nx) := if ex ≥ 0 then (m <<< ex.toNat, false) else roundShift .ne m (-ex).toNat false
    let c := min q 127
    (BitVec.ofInt 8 (if n then -(c : Int) else c), nx || c != q)
  | .e4m3 =>
    let (c, nx) := ffE4.grid .ne m ex false
    (BitVec.ofNat 8 (ffE4.signed n (min c ffE4.maxFin)), nx || ffE4.maxFin < c)
  | .e5m2 =>
    let (c, nx) := ffE5.grid .ne m ex false
    (BitVec.ofNat 8 (ffE5.signed n (min c ffE5.maxFin)), nx || ffE5.maxFin < c)

/-- One element of CVTS (R195): byte and flags. -/
def cvtsEl (t : CvtsT) (s : Nat) (x : Nat) : Byte × BitVec 6 :=
  match ffS.val x with
  | .fin n m e => if s == 0xFF then (0, fNV) else
    let (b, nx) := quantEl t n m (e + 127 - s)
    (b, flagIf nx fNX)
  | _ => (0, fNV)

/-- The key of R100 on an FP32 code. -/
def key32 (u : Nat) : Nat :=
  if (ffS.val u).isNan then 2 ^ 32 else if u < 2 ^ 31 then u + 2 ^ 31 else 2 ^ 32 - 1 - u

end Sys2Proof.Machine
end

