-- ==== Sys2Proof/Machine/Operands.lean ====
section
/-! DEFINITION. Operands: registers, predicates and tokens of a thread (R34), lane patterns (R196, R197), effective addresses (R132,
R207), and what an instruction names: registers (R11, R386), handles (R388), privilege (R157), home formation (R41). -/

namespace Sys2Proof.Machine

open Sys2Proof

/-- Register v(r) of a thread; a number beyond the role's count never executes (R386 cause 0x14). -/
def Thread.reg (th : Thread) (r : Reg) : Word := th.regs.getD r.toNat 0

/-- v(r) written. -/
def Thread.setReg (th : Thread) (r : Reg) (v : Word) : Thread := { th with regs := th.regs.set r.toNat v }

/-- The register after r of a pair (R149, R206). -/
def nextReg (r : Reg) : Reg := r + 1

/-- Predicate p; p7 reads true (R34). -/
def Thread.pred (th : Thread) (p : BitVec 3) : Bool := p == 7 || th.preds.getLsbD p.toNat

/-- Predicate p written; a write to p7 is discarded (R174, R177). -/
def Thread.setPred (th : Thread) (p : BitVec 3) (v : Bool) : Thread :=
  if p == 7 then th
  else { th with preds := if v then th.preds ||| (1 : BitVec 7) <<< p.toNat else th.preds &&& ~~~((1 : BitVec 7) <<< p.toNat) }

/-- Flags set, never cleared (R97). -/
def Thread.setFlags (th : Thread) (f : BitVec 6) : Thread := { th with tstat := th.tstat ||| f }

/-- Token count k. -/
def Thread.tok (th : Thread) (k : Nat) : Nat := th.toks.getD k 0

/-- Token count k set. -/
def Thread.setTok (th : Thread) (k n : Nat) : Thread := { th with toks := th.toks.set k n }

/-- Home troop (R35). -/
def Thread.htroop (th : Thread) : Nat := th.tid / 32

/-- A guard or BRA condition: bit 3 negates, bits 2:0 name a predicate (R124, R133). -/
def Thread.cond (th : Thread) (c : BitVec 4) : Bool := th.pred (c.extractLsb' 0 3) != c.getLsbD 3

/-- A thread of the block, by TID. -/
def Block.thread? (b : Block) (tid : Nat) : Option Thread := b.threads.find? fun th => th.tid == tid

/-- The active member at a lane of a group. -/
def Group.atLane (g : Group) (lane : Nat) : Option Member := g.members.find? fun m => m.active && m.lane == lane

/-- The active thread at a lane (R197, R198). -/
def laneThread (b : Block) (g : Group) (lane : Nat) : Option Thread := (g.atLane lane).bind fun m => b.thread? m.tid

/-- Entry of a lane pattern (R196). -/
def patEntry (b : Block) (l : BitVec 3) (lane : Nat) : Nat := ((b.lps.getD (l.toNat - 1) []).getD lane 32).toNat

/-- The vb operand of a lane, after the lane pattern (R130, R197). -/
def vbOf (b : Block) (g : Group) (m : Member) (th : Thread) (l : BitVec 3) (r : Reg) : Word :=
  if l == 0 then th.reg r
  else
    let e := patEntry b l m.lane
    if e < 32 then ((laneThread b g e).map fun t => t.reg r).getD 0 else 0

/-- Effective address with a long displacement (R132, R207). -/
def eaLong (th : Thread) (r : Reg) (o : BitVec 26) : Word := th.reg r + o.signExtend 64

/-- Effective address of a short form: sext(off6, 6) · 8 (R132). -/
def eaShort (th : Thread) (r : Reg) (o : BitVec 6) : Word := th.reg r + (o.signExtend 64 <<< 3)

/-- Effective address of a short form of majors 0x13 and 0x15: sext(off5, 5) · 8 (R134). -/
def eaShort5 (th : Thread) (r : Reg) (o : BitVec 5) : Word := th.reg r + (o.signExtend 64 <<< 3)

/-- The v registers an instruction names, pairs included (R11, R149, R206, R386 cause 0x14). -/
def Instr.regs : Instr → List Nat
  | .add _ d a b _ | .sub _ d a b _ | .mul _ d a b _ | .mulh _ d a b _ | .mulhu _ d a b _ | .div _ d a b _ | .divu _ d a b _
  | .rem _ d a b _ | .remu _ d a b _ | .shl _ d a b _ | .shr _ d a b _ | .sra _ d a b _ | .rol _ d a b _ | .min _ d a b _
  | .max _ d a b _ | .minu _ d a b _ | .maxu _ d a b _ | .adds _ d a b _ | .subs _ d a b _ | .addus _ d a b _ | .subus _ d a b _
  | .rshr _ d a b _ | .rshrs _ d a b _ | .qmulr _ d a b _ | .nrws _ d a b _ => [d.toNat, a.toNat, b.toNat]
  | .dot2s d a b _ | .dot4s d a b _ | .lea d a b _ | .and d a b _ | .or d a b _ | .xor d a b _ | .andn d a b _ | .bsel d a b _
    => [d.toNat, a.toNat, b.toNat]
  | .abs _ d a | .neg _ d a | .popc _ d a | .clz _ d a | .ctz _ d a | .brev _ d a => [d.toNat, a.toNat]
  | .addi d a _ | .andi d a _ | .ori d a _ | .xori d a _ => [d.toNat, a.toNat]
  | .shli d a _ | .shri d a _ | .srai d a _ => [d.toNat, a.toNat]
  | .ldiS d _ => [d.toNat]
  | .ldiW d _ | .ldiWu d _ | .ldiHi d _ => [d.toNat]
  | .ldiD d _ _ => [d.toNat]
  | .bfx d a b | .bfxS d a b | .bfi d a b => [d.toNat, a.toNat, b.toNat]
  | .cmpm _ _ d a b _ => [d.toNat, a.toNat, b.toNat]
  | .cmp _ _ _ a b => [a.toNat, b.toNat]
  | .fadd _ d a b _ | .fsub _ d a b _ | .fmul _ d a b _ | .fmin _ d a b _ | .fmax _ d a b _ | .fminn _ d a b _ | .fmaxn _ d a b _
  | .fdiv _ d a b _ | .scalex _ d a b _ | .fma _ d a b _ | .fms _ d a b _ | .fnma _ d a b _ => [d.toNat, a.toNat, b.toNat]
  | .fabs _ d a | .fneg _ d a | .fsqrt _ d a | .frcp _ d a | .frsq _ d a | .fexp2 _ d a | .flog2 _ d a | .fsin _ d a | .fcos _ d a
    => [d.toNat, a.toNat]
  | .fcmp _ _ _ a b _ => [a.toNat, b.toNat]
  | .cvts _ d a b => [d.toNat, a.toNat, b.toNat]
  | .fcmpm _ _ d a b _ => [d.toNat, a.toNat, b.toNat]
  | .cvt _ _ d a => [d.toNat, a.toNat]
  | .cvtRs _ _ d a e => [d.toNat, a.toNat, e.toNat]
  | .lpset _ a => [a.toNat]
  | .shfl d a b => [d.toNat, a.toNat, b.toNat]
  | .slide _ _ d a b => [d.toNat, a.toNat, b.toNat]
  | .push d a b _ => [d.toNat, a.toNat, b.toNat]
  | .bcast d a _ => [d.toNat, a.toNat]
  | .vote md d _ _ => if md = .ballot then [d.toNat] else []
  | .red _ _ d a | .scan _ _ d a => [d.toNat, a.toNat]
  | .redmaxi _ d a b => [d.toNat, d.toNat + 1, a.toNat, b.toNat]
  | .lddShort d b _ _ _ | .ldfSShort d b _ _ _ | .ldwsDShort d b _ _ _ | .aaddDShort d b _ _ _ => [d.toNat, b.toNat]
  | .ldd d b _ _ _ | .ldw d b _ _ _ | .ldwu d b _ _ _ | .ldh d b _ _ _ | .ldhu d b _ _ _ | .ldb d b _ _ _ | .ldbu d b _ _ _
  | .ldfS d b _ _ _ | .ldfBf d b _ _ _ | .ldwsD d b _ _ _ | .ldwsW d b _ _ _ | .ldgD d b _ _ _ | .ldgW d b _ _ _
    => [d.toNat, b.toNat]
  | .stdShort d b _ => [d.toNat, b.toNat]
  | .std d b _ _ | .stw d b _ _ | .sth d b _ _ | .stb d b _ _ | .stgD d b _ _ | .stgW d b _ _ => [d.toNat, b.toNat]
  | .ldsShort d b _ _ _ | .ldgDShort d b _ _ _ => [d.toNat, b.toNat]
  | .stsShort d b _ | .stgDShort d b _ => [d.toNat, b.toNat]
  | .lds _ _ d b _ _ _ => [d.toNat, b.toNat]
  | .sts _ _ d b _ => [d.toNat, b.toNat]
  | .prefL1Short b _ => [b.toNat]
  | .prefL1 b _ | .prefL2 b _ => [b.toNat]
  | .aadd _ d b _ _ _ _ _ | .amin _ d b _ _ _ _ _ | .amax _ d b _ _ _ _ _ | .aand _ d b _ _ _ _ _ | .aor _ d b _ _ _ _ _
  | .axor _ d b _ _ _ _ _ | .axch _ d b _ _ _ _ _ => [d.toNat, b.toNat]
  | .aaddf d b _ _ _ _ _ => [d.toNat, b.toNat]
  | .acas _ d b _ _ _ _ _ => [d.toNat, d.toNat + 1, b.toNat]
  | .acq d b _ _ _ _ => [d.toNat, b.toNat]
  | .rel d b _ _ => [d.toNat, b.toNat]
  | .rbind d b _ => [d.toNat, d.toNat + 1, b.toNat]
  | .runbind b _ => [b.toNat]
  | .digrd d _ _ => [d.toNat, d.toNat + 1]
  | .sigdecShort d b _ => [d.toNat, b.toNat]
  | .sigdec d b _ _ _ | .siginc d b _ _ _ | .sigset d b _ _ _ => [d.toNat, b.toNat]
  | .sigwait d b _ _ _ _ _ => [d.toNat, b.toNat]
  | .sigarm d b _ _ _ => [d.toNat, d.toNat + 1, b.toNat]
  | .mma _ _ _ x y z _ _ => [x.toNat, y.toNat, z.toNat]
  | .mmak _ _ _ x y z _ _ _ | .mconv _ _ _ x y z _ _ _ => [x.toNat, y.toNat, z.toNat]
  | .mdrain _ _ _ _ x y _ _ => [x.toNat, y.toNat]
  | .mrow _ _ x y _ _ => [x.toNat, y.toNat]
  | .mstat _ _ x _ _ => [x.toNat]
  | .cbload _ x _ _ => [x.toNat]
  | .mdesc _ x _ _ | .mshape _ x _ _ => [x.toNat]
  | .manchor r _ x _ _ _ => if r then [x.toNat] else []
  | .cpy x _ _ | .cpys x _ _ | .cpyr x _ _ | .coll x _ _ | .collVer x _ _ | .popseed x _ _ | .snapwait x _ _ | .snapstat x _ _
    => [x.toNat]
  | .cpyq x y z _ _ | .put x y z _ _ | .get x y z _ _ | .getVer x y z _ _ => [x.toNat, y.toNat, z.toNat]
  | .putf x y _ _ | .reshard x y _ _ | .snap x y _ _ | .launch x y _ _ | .phase x y _ _ | .graphrun x y _ _ => [x.toNat, y.toNat]
  | .resample x y z _ => [x.toNat, y.toNat, z.toNat]
  | .resampleU x y z u _ => [x.toNat, y.toNat, z.toNat, u.toNat]
  | .cancel _ x _ _ => [x.toNat]
  | .jmp r | .brx r | .callx r => [r.toNat]
  | .mft d _ => [d.toNat]
  | .movc d _ => [d.toNat]
  | .mfs d _ => [d.toNat]
  | .mts _ a => [a.toNat]
  | .replay a _ => [a.toNat]
  | .shoot a _ => [a.toNat]
  | .preempt a _ => [a.toNat]
  | .rollback a => [a.toNat]
  | .ldraw d a _ => [d.toNat, a.toNat]
  | .jobctl a _ => [a.toNat]
  | _ => []

/-- CVTS, whose lpm field is its type and no lane pattern (R185, R195). -/
def isCvts (w : Word32) : Bool := fOp w == 8 && fFn w == 13

/-- A first word that makes its clause require home formation (R41): LANE, the matrix, copy, collective and population majors, or a
lane pattern on a major that takes one (R165, R185). -/
def wordHome (w : Word32) : Bool :=
  let op := (fOp w).toNat
  op == 0x0F || (0x1C ≤ op && op ≤ 0x1F) || op == 0x23
    || (fL w != 0 && ((1 ≤ op && op ≤ 4) || (6 ≤ op && op ≤ 0x0B)) && !isCvts w)

/-- The instruction requires home formation (R41). -/
def Instr.needsHome (i : Instr) : Bool := match encode i with
  | w :: _ => wordHome w
  | [] => false

/-- An instruction that requires every live member to be active (R42): matrix, copy, collective, population. -/
def Instr.wholeTroop (i : Instr) : Bool := match encode i with
  | w :: _ => let op := (fOp w).toNat
    (0x1C ≤ op && op ≤ 0x1F) || op == 0x23
  | [] => false

/-- Words of the instruction. -/
def Instr.len (i : Instr) : Nat := (encode i).length

/-- PRIV cause in user mode (R387 causes 0x01 and 0x02, R157). -/
def Instr.privCause : Instr → Option Nat
  | .eret | .mts _ _ | .halt | .replay _ _ | .shoot _ _ | .preempt _ _ | .rollback _ | .ldraw _ _ _ | .jobctl _ _ => some 1
  | .mfs _ r => if r.toNat < 0x100 then some 2 else none
  | _ => none

/-- Tile named (R388 cause 0x03). -/
def Instr.tile : Instr → Option Nat
  | .mzero t _ _ | .mzeroExt t _ _ | .mma t _ _ _ _ _ _ _ | .mmak t _ _ _ _ _ _ _ _ | .mconv t _ _ _ _ _ _ _ _
  | .mwalk _ t _ _ _ _ _ _ | .mdrain _ _ t _ _ _ _ _ | .mrow _ t _ _ _ _ | .mwait t _ _ | .mstat _ t _ _ _ | .manchor _ t _ _ _ _
    => some t.toNat
  | _ => none

/-- Descriptor slots used (R388 causes 0x01 and 0x02). -/
def Instr.slotsUsed : Instr → List Nat
  | .mma _ da db _ _ _ _ _ | .mmak _ da db _ _ _ _ _ _ | .mconv _ da db _ _ _ _ _ _ => [da.toNat, db.toNat]
  | .mwalk _ _ da db dO _ _ _ => [da.toNat, db.toNat, dO.toNat]
  | .mdrain _ _ _ dO _ _ _ _ => [dO.toNat]
  | _ => []

/-- Descriptor slot filled (R388 cause 0x01, R389). -/
def Instr.slotFilled : Instr → Option Nat
  | .mdesc da _ _ _ | .mshape da _ _ _ => some da.toNat
  | _ => none

/-- Codebook slot written (R388 cause 0x04). -/
def Instr.codebook : Instr → Option Nat
  | .cbload n _ _ _ => some n.toNat
  | _ => none

/-- AADDF with orders 1 to 4 (R223, R386 cause 0x13). -/
def Instr.aaddfSync : Instr → Bool
  | .aaddf _ _ _ _ _ od _ => od = .acq || od = .rel || od = .ar || od = .sc
  | _ => false

end Sys2Proof.Machine
end

