-- ==== Sys2Proof/Machine/Ops.lean ====
section
/-! DEFINITION. The shared operations of every family: finding the group that issues, its lanes, the end of a clause (R39), the job's
tables and translation (R57 to R66, R402), fault records and queues (R370 to R378), TAKING A TRAP (R372 to R374), parking (R378, R404,
R405) and the completion of long-latency results (R137). -/

namespace Sys2Proof.Machine

open Sys2Proof

/- Parts of the state. -/

/-- A core at reset (R20, R319; log 3). -/
def coreInit : Core :=
  { perfIssue := 0, perfStallSp := 0, perfStallMem := 0, perfForm := 0, wc := [], iss := List.replicate 16 0,
    ackp := List.replicate 16 0, acked := [], staged := [], held := [], snapHeld := false, busy := false }

/-- A die at reset (R375, R447; log 3). -/
def dieInit : Die :=
  { faultq := 0, holding := [], lost := false, waits := [], gens := [], arms := [], tickets := [],
    codebooks := List.replicate 8 (List.replicate 16 0), ws := Memory.empty, wsPhase := 0, tlb := [], heat := [], heatAt := 0 }

def State.core (s : State) (i : Nat) : Core := tget coreInit s.cores i
def State.setCore (s : State) (i : Nat) (c : Core) : State := { s with cores := tset s.cores i c }
def State.updCore (s : State) (i : Nat) (f : Core → Core) : State := s.setCore i (f (s.core i))
def State.die (s : State) (i : Nat) : Die := tget dieInit s.dies i
def State.setDie (s : State) (i : Nat) (d : Die) : State := { s with dies := tset s.dies i d }
def State.updDie (s : State) (i : Nat) (f : Die → Die) : State := s.setDie i (f (s.die i))

/-- This package's number (R15). -/
def State.pkg (s : State) : Nat := (s.pkgId.extractLsb' 0 12).toNat

/-- Die of a core (R14). -/
def dieOf (core : Nat) : Nat := core / 208

def isBlock (g b : Nat) (x : Block) : Bool := x.grid == g && x.bidx == b
def State.block? (s : State) (g b : Nat) : Option Block := s.blocks.find? (isBlock g b)
def State.grid? (s : State) (h : Nat) : Option Grid := s.grids.find? fun x => x.handle == h
def State.updGrid (s : State) (h : Nat) (f : Grid → Grid) : State :=
  { s with grids := replaceFirst (fun x => x.handle == h) f s.grids }
def State.updBlock (s : State) (g b : Nat) (f : Block → Block) : State :=
  { s with blocks := replaceFirst (isBlock g b) f s.blocks }

/-- Thread tid of a block changed. -/
def Block.updThread (b : Block) (tid : Nat) (f : Thread → Thread) : Block :=
  { b with threads := replaceFirst (fun th => th.tid == tid) f b.threads }
def Block.updGroup (b : Block) (gid : Nat) (f : Group → Group) : Block :=
  { b with groups := replaceFirst (fun g => g.gid == gid) f b.groups }
def State.updThread (s : State) (r : Tref) (f : Thread → Thread) : State :=
  s.updBlock r.grid r.bidx fun b => b.updThread r.tid f
def State.thread? (s : State) (r : Tref) : Option Thread := (s.block? r.grid r.bidx).bind fun b => b.thread? r.tid

/-- The launch record fields of a block's grid, empty where the grid is unknown. -/
def State.launchOf (s : State) (h : Nat) : Launch := ((s.grid? h).map fun g => g.l).getD default

/-- The job of a grid. -/
def State.jobOf (s : State) (h : Nat) : Nat := (s.launchOf h).job

/-- The ordered flag of a grid (R298). -/
def State.ordered (s : State) (h : Nat) : Bool := bitOf (s.launchOf h).flags 1

/-- The group that won its issue cycle, with its block. -/
def State.cur? (s : State) : Option (Block × Group) :=
  match s.issuing with
  | none => none
  | some c => match s.block? c.grid c.bidx with
    | none => none
    | some b => (b.groups.find? fun g => g.gid == c.gid).map fun g => (b, g)

/-- The member of a group with a TID. -/
def Group.member? (g : Group) (tid : Nat) : Option Member := g.members.find? fun m => m.tid == tid

/-- The active members with their threads, ascending TID (R209). -/
def activeLanes (b : Block) (g : Group) : List (Member × Thread) :=
  b.threads.filterMap fun th => match g.member? th.tid with
    | some m => if m.active then some (m, th) else none
    | none => none

/-- Every active thread of the group changed, each from the old state (R198). -/
def mapActive (b : Block) (g : Group) (f : Member → Thread → Thread) : Block :=
  { b with threads := b.threads.map fun th => match g.member? th.tid with
      | some m => if m.active then f m th else th
      | none => th }

/-- A fresh number. -/
def State.fresh (s : State) : State := { s with nextId := s.nextId + 1 }

/- The end of an instruction and of a clause (R39). -/

/-- Number of instruction words of the group's clause (R124). -/
def Group.cnt (g : Group) : Nat := hCnt g.header

/-- Address of the next clause header (R123). -/
def Group.fall (g : Group) : Va := g.hdr + BitVec.ofNat 57 (4 * (g.cnt + 1))

/-- A member at the end of its clause: its own target or the fall-through header; YIELD and PRI restart its age mark (R39, R128,
R183). -/
def clauseEndThread (s : State) (g : Group) (m : Member) (th : Thread) : Thread :=
  let pc := if m.active then th.goto.getD g.fall else g.fall
  let th := { th with pc := pc, goto := none, met := false, readySince := s.now, starving := false,
                      ageMark := if hPri g.header == 1 || th.yieldAfter then s.now else th.ageMark }
  if th.status != .issuing then th
  else if th.yieldAfter then { th with status := .yielded, yieldAfter := false, until_ := s.now + 32 }
  else { th with status := .ready }

/-- The clause ends: every member returns to the grouping stage on its own (R39). -/
def endClause (s : State) (b : Block) (g : Group) : Block :=
  { b with
    groups := b.groups.filter fun x => x.gid != g.gid
    threads := b.threads.map fun th => match g.member? th.tid with
      | some m => clauseEndThread s g m th
      | none => th }

/-- The group after n words: later instructions of its lookahead windows are one fewer (R138), the members' pc moves on. -/
def stepGroup (g : Group) (n : Nat) (add : List Window) : Group :=
  { g with idx := g.idx + n
           windows := (g.windows.map fun w => { w with left := w.left - 1 }) ++ add }

/-- A blocking result (tok = 7) of the group is outstanding (R137). -/
def gates (s : State) (g : Group) : Bool := g.windows.any fun w => s.pend.any fun p => p.id == w.id && p.tok == 7

/-- Every active member of the group executes: none waits in BARRIER, SIGNAL, FULLEMPTY or PARKED (R37). -/
def allIssuing (b : Block) (g : Group) : Bool := (activeLanes b g).all fun m => m.2.status == .issuing

/-- The clause is over: past its last word, no blocking result outstanding, no active member waiting; or no member is active. -/
def clauseOver (s : State) (b : Block) (g : Group) : Bool :=
  !(g.members.any fun m => m.active) || (g.idx > g.cnt && !gates s g && allIssuing b g)

/-- The group of the block moves on by n words, opening windows; at the end of the clause its members return to the grouping stage. -/
def advanceBlock (s : State) (b : Block) (g : Group) (n : Nat) (add : List Window) : Block :=
  let g' := stepGroup g n add
  if clauseOver s b g' then endClause s b g'
  else
    { b with
      groups := replaceFirst (fun x => x.gid == g.gid) (fun _ => g') b.groups
      threads := b.threads.map fun th => match g.member? th.tid with
        | some m => if m.active then { th with pc := g.hdr + BitVec.ofNat 57 (4 * g'.idx) } else th
        | none => th }

/-- Instruction words issued; the issue slot is free again. -/
def State.idle (s : State) : State := { s with issuing := none }

/- The job's tables and translation. -/

/-- An access's outcome at this package: its PA and the leaf entry's fields; another package; held by a move (R65); a fault code. -/
inductive XRes
  | here (pa : Nat) (pte : Word)
  | away (pkg : Nat)
  | held
  | bad (code : Nat)
  deriving DecidableEq, Repr, Inhabited

/- Fields of a page-table entry (R60). -/
def pteP (p : Word) : Bool := p.getLsbD 0
def pteW (p : Word) : Bool := p.getLsbD 1
def pteU (p : Word) : Bool := p.getLsbD 2
def pteSize (p : Word) : Bool := p.getLsbD 10
def pteFmt (p : Word) : Nat := bits p.toNat 14 11
def pteGeom (p : Word) : Nat := bits p.toNat 16 15
def pteCb (p : Word) : Nat := bits p.toNat 19 17
def pteSnap (p : Word) : Nat := bits p.toNat 21 20
def ptePlace (p : Word) : Nat := bits p.toNat 23 22
def pteDsm (p : Word) : Bool := p.getLsbD 28
def pteFrame (p : Word) : Nat := bits p.toNat 51 29
def ptePkg (p : Word) : Nat := bits p.toNat 63 52

/-- A page-table entry with bits hi..lo set. -/
def pteSet (p : Word) (hi lo v : Nat) : Word := BitVec.ofNat 64 (setBits p.toNat hi lo v)

/-- The PA is populated: a stack offset below 48 GiB (R24). -/
def populated (pa : Nat) : Bool := pa < 2 ^ 39 && pa % 2 ^ 36 < 0xC00000000

/-- PA of the leaf entry of a VA, or the fault its walk meets: a seal (SEAL 0x08), reserved bits (0x0C), an unpopulated table (0x0A), an
absent non-leaf entry (0x01) (R59, R402, R410). -/
def leafAddr (m : Memory) (root va : Nat) : Except Nat Nat :=
  let level (tbl idx : Nat) : Except Nat Nat :=
    let a := tbl + 8 * idx
    if !populated a then .error 0x040A
    else if m.bad a 8 then .error 0x0508
    else
      let e := BitVec.ofNat 64 (m.num a 8)
      if e &&& ~~~(0x000FFFFFE0000001#64) != 0 then .error 0x040C
      else if !pteP e then .error 0x0401
      else .ok (pteFrame e <<< 16)
  match level root (bits va 56 42) with
  | .error c => .error c
  | .ok t1 => match level t1 (bits va 41 29) with
    | .error c => .error c
    | .ok t0 =>
      let a := t0 + 8 * bits va 28 16
      if !populated a then .error 0x040A else if m.bad a 8 then .error 0x0508 else .ok a

/-- The leaf entry at an address; a 2 MiB group must be aligned and identical (R59). -/
def leafEntry (m : Memory) (a : Nat) : Except Nat Word :=
  let e := BitVec.ofNat 64 (m.num a 8)
  if pteP e && pteSize e &&
      (pteFrame e % 32 != 0 || (List.range 32).any fun i => m.num (a / 256 * 256 + 8 * i) 8 != e.toNat)
  then .error 0x040C else .ok e

/-- A leaf entry replaced; that of a 2 MiB page in all of its 32 places (R59, R60). -/
def Memory.putLeaf (m : Memory) (a : Nat) (e : Word) : Memory :=
  if pteSize e then (List.range 32).foldl (fun m i => m.writeNum (a / 256 * 256 + 8 * i) 8 e.toNat) m else m.writeNum a 8 e.toNat

/-- A walk of three levels (R59): the leaf entry's PA and value. -/
def walk (m : Memory) (root va : Nat) : Except Nat (Nat × Word) :=
  match leafAddr m root va with
  | .error c => .error c
  | .ok a => match leafEntry m a with
    | .error c => .error c
    | .ok e => .ok (a, e)

/-- The PA a leaf entry gives (R59). -/
def ptePa (p : Word) (va : Nat) : Nat :=
  if pteSize p then (pteFrame p / 32) <<< 21 + va % 2 ^ 21 else pteFrame p <<< 16 + va % 2 ^ 16

/-- A privileged hardware translation to this package's memory with a given root; none where the page is not present here. -/
def hwPaRoot (s : State) (root va : Nat) : Option Nat :=
  match walk s.mem root va with
  | .error _ => none
  | .ok (_, e) =>
    if pteP e && ptePkg e == s.pkg && ptePlace e < 2 && populated (ptePa e va) then some (ptePa e va) else none

/-- Job-table word w of job j (R291). -/
def State.jobWord (s : State) (j w : Nat) : Word := tget 0 s.words (0x50000 + 4 * j + w)

/-- PA of job j's record, read in job 0's space (R293). -/
def jobRecPa (s : State) (j : Nat) : Option Nat := hwPaRoot s s.job0Root (s.jobWord j 0).toNat

/-- n bytes of job 0's space at a VA as a number, read by hardware page by page; none where a page is absent. -/
def job0Num (s : State) (va n : Nat) : Option Nat :=
  if va % 2 ^ 16 + n ≤ 2 ^ 16 then (hwPaRoot s s.job0Root va).map fun pa => s.mem.num pa n
  else ((List.range n).mapM fun i => hwPaRoot s s.job0Root (va + i)).map fun pas => leNat (pas.map fun pa => s.mem.get pa)

/-- The packages of a job in the order of its list: job 0 has the pod's (R293, R66). -/
def jobPkgs (s : State) (j : Nat) : List Nat :=
  if j == 0 then s.podPkgs
  else match jobRecPa s j with
    | none => []
    | some pa =>
      ((List.range (s.mem.num (pa + 2) 2)).mapM fun x => job0Num s (s.mem.num (pa + 8) 8 + 2 * x) 2).getD []

/-- Position of this package in the job's list. -/
def jobPos (s : State) (j : Nat) : Option Nat := (jobPkgs s j).findIdx? fun p => p == s.pkg

/-- PA of the root table that a job's root list gives for a position (R59, R293). -/
def rootAt (s : State) (j x : Nat) : Option Nat :=
  match jobRecPa s j with
  | none => none
  | some pa => (job0Num s (s.mem.num (pa + 16) 8 + 8 * x) 8).map fun e => bits e 22 0 <<< 16

/-- PA of the root table of a job at this package (R59, R293; job 0: log 5). -/
def jobRoot (s : State) (j : Nat) : Option Nat :=
  if j == 0 then some s.job0Root else (jobPos s j).bind (rootAt s j)

/-- The package that stands for a package number of the partitioned segment in a job, and its position where it is a substitute (R425). -/
def aliasOf (s : State) (j p : Nat) : Nat × Option Nat :=
  match s.aliases.find? fun a => a.1 == j && a.2.1 == p with
  | some a => (a.2.2.1, some a.2.2.2)
  | none => (p, none)

/-- A privileged hardware translation in a job's space. -/
def hwPa (s : State) (j va : Nat) : Option Nat :=
  match jobRoot s j with
  | none => none
  | some r => hwPaRoot s r va

/-- n bytes read by hardware from a job's space; none where the page is absent or a seal fails. -/
def hwRead (s : State) (j va n : Nat) : Option Nat :=
  match hwPa s j va with
  | none => none
  | some pa => if s.mem.bad pa n then none else some (s.mem.num pa n)

/-- n bytes written by hardware into a job's space, where the page is present. -/
def hwWrite (s : State) (j va : Nat) (bs : List Byte) : Option State :=
  match hwPa s j va with
  | none => none
  | some pa => some { s with mem := s.mem.write pa bs }

/-- The directory package of a shared page (R66). -/
def directoryOf (s : State) (j va : Nat) : Nat :=
  let ps := jobPkgs s j
  if ps.isEmpty then s.pkg else ps.getD ((m64 (BitVec.ofNat 64 (va / 2 ^ 16))).toNat % ps.length) s.pkg

/-- A translation as an extent gives it (R64). -/
def Extent.hit (e : Extent) (va : Nat) (write : Bool) : Bool :=
  e.v && e.vabase ≤ va / 2 ^ 16 && va / 2 ^ 16 < e.vabase + e.pages && (!write || e.w)

/-- The leaf entry an extent stands for (R64). -/
def Extent.pte (e : Extent) (va : Nat) : Word :=
  BitVec.ofNat 64 (e.pkg <<< 52 + (e.frame + (va / 2 ^ 16 - e.vabase)) <<< 29 + e.cbslot <<< 17 + e.geom <<< 15 + e.fmt <<< 11
    + b2n e.u <<< 2 + b2n e.w <<< 1 + 1)

/-- What a present leaf entry gives an access, in the order of R402: 0x0A, U (0x03), W (0x02). -/
def pteRes (s : State) (e : Word) (va : Nat) (write user : Bool) : XRes :=
  if !populated (ptePa e va) then .bad 0x040A
  else if user && !pteU e then .bad 0x0403
  else if ptePlace e == 2 || (ptePkg e != s.pkg) then .away (ptePkg e)
  else if ptePlace e == 3 then .held
  else if write && (!pteW e || ptePlace e == 1) then .bad 0x0402
  else .here (ptePa e va) e

/-- The free-frame ring's header (R67): its PA and length stand in the bring-up record. -/
structure Ring where
  pa  : Nat
  len : Nat
  deriving DecidableEq, Repr, Inhabited

/-- A range of PAs filled with zero granules, seals sound (R66). -/
def Memory.clear (m : Memory) (lo n : Nat) : Memory :=
  { cells := m.cells.filter fun c => !(lo ≤ c.1 && c.1 < lo + n)
    errs := m.errs.filter fun c => !(lo / 8 ≤ c.1 && c.1 < (lo + n) / 8)
    poison := m.poison.filter fun q => !(lo / 8 ≤ q && q < (lo + n) / 8) }

/-- One frame taken from this package's ring: entry CONS, with CONS raised (R67). -/
def takeFrame (s : State) (ring : Ring) : Option (Nat × State) :=
  let prod := s.mem.num ring.pa 8
  let cons := s.mem.num (ring.pa + 8) 8
  if cons < prod && ring.len != 0 then
    some (s.mem.num (ring.pa + 64 + 8 * (cons % ring.len)) 8 % 2 ^ 23,
      { s with mem := s.mem.writeNum (ring.pa + 8) 8 (cons + 1) })
  else none

/-- The package's free level (R67). -/
def freeLevel (s : State) (ring : Ring) : Nat :=
  min 15 (log2 (s.mem.num ring.pa 8 - s.mem.num (ring.pa + 8) 8 + 1))

/-- Where bring-up left the ring: RINGPA and RINGLEN of the configuration record in use (R67, R449), kept at words of the bring-up page
(`State.ring`). -/
def State.ringOf (s : State) : Ring := { pa := s.ringPa, len := s.ringLen }

/-- The translation agent's lookup: the die's cached entry, else a walk that fills the cache (R62, R64). -/
def agentLookup (s : State) (die j va : Nat) : State × Except Nat Word :=
  match (s.die die).tlb.find? fun t => t.job == j && t.page == va / 2 ^ 16 with
  | some t => (s, .ok t.pte)
  | none => match jobRoot s j with
    | none => (s, .error 0x0401)
    | some r => match walk s.mem r va with
      | .error c => (s, .error c)
      | .ok (_, e) =>
        -- an entry that names a package the job has lost reads as P = 0 (R425)
        if pteP e && s.aliases.any (fun a => a.1 == j && a.2.1 == ptePkg e) then (s, .ok (pteSet e 0 0 0))
        else if pteP e then (s.updDie die fun d => { d with tlb := d.tlb ++ [{ job := j, page := va / 2 ^ 16, pte := e }] }, .ok e)
        else (s, .ok e)

/-- First touch at this package, which is the page's directory (R66): a frame of the ring, zero granules, the entry LOCAL; MEMORY cause
0x01 where the ring is empty (R409); the page enters with DSM 1 (R344). -/
def firstTouch (s : State) (die j va : Nat) : State × Except Nat Word :=
  match jobRoot s j with
  | none => (s, .error 0x0401)
  | some r => match walk s.mem r va with
    | .error c => (s, .error c)
    | .ok (a, e) => match takeFrame s s.ringOf with
      | none => (s, .error 0x0601)
      | some (fr, s') =>
        let e' := pteSet (pteSet (pteSet (pteSet (pteSet (pteSet e 63 52 s.pkg) 51 29 fr) 28 28 1) 23 22 0) 10 10 0) 0 0 1
        let s' := { s' with mem := (s'.mem.clear (fr <<< 16) (2 ^ 16)).putLeaf a e' }
        (s'.updDie die fun d => { d with tlb := d.tlb ++ [{ job := j, page := va / 2 ^ 16, pte := e' }] }, .ok e')

/-- An access of this package to the page is outstanding at the page's directory, or the directory, this package, has its first touch under
way for another: later accesses wait (R66, R455). -/
def atDirectory (s : State) (j va : Nat) : Bool :=
  let page := va / 2 ^ 16
  (s.retained.any fun k => k.p.job == j && k.p.base.toNat / 2 ^ 16 == page && k.p.dst == directoryOf s j va && k.p.src == s.pkg
      && k.p.dst != s.pkg && k.p.typ != 5 && k.p.typ < 9 && !s.fwds.any fun f => f.dst == k.p.dst && f.seq == k.p.seq)
  || s.fwds.any fun f => f.touch && f.orig.job == j && f.orig.base.toNat / 2 ^ 16 == page

/-- Translation of one access of a job at this package: extents, then the agent; the partitioned segment of another package and a shared
page held elsewhere leave the package (R64 to R66, R401). -/
def translateGen (touch : Bool) (s : State) (die j : Nat) (exts : List Extent) (va : Nat) (write user : Bool) : State × XRes :=
  match exts.find? fun e => e.hit va write with
  | some e =>
    let p := e.pte va
    if !populated (ptePa p va) then (s, .bad 0x040A)
    else if user && !e.u then (s, .bad 0x0403)
    else if e.pkg != s.pkg then (s, .away e.pkg)
    else (s, .here (ptePa p va) p)
  | none =>
    let (q, pos) := aliasOf s j (bits va 55 44)
    if va / 2 ^ 56 == 1 && q != s.pkg then
      (if (jobPkgs s j).contains q then (s, .away q) else (s, .bad 0x040B))
    else if va / 2 ^ 56 == 1 && pos.isSome then
      -- a lost package's addresses, translated with the root of its position (R425)
      (match (pos.bind (rootAt s j)).map fun r => walk s.mem r va with
      | some (.ok (_, e)) => (s, if pteP e then pteRes s e va write user else .bad 0x0401)
      | some (.error c) => (s, .bad c)
      | none => (s, .bad 0x0401))
    else
      let (s, r) := agentLookup s die j va
      match r with
      | .error c => (s, .bad c)
      | .ok e =>
        if pteP e then (s, pteRes s e va write user)
        else if va / 2 ^ 56 == 1 || j == 0 then (s, .bad 0x0401)
        else if atDirectory s j va then (s, .held)
        else if directoryOf s j va != s.pkg then (s, .away (directoryOf s j va))
        else if !touch then (s, .bad 0x0401)
        else
          let (s, r) := firstTouch s die j va
          match r with
          | .error c => (s, .bad c)
          | .ok e => (s, pteRes s e va write user)

/-- Translation of a data access. -/
def translate (s : State) (die j : Nat) (exts : List Extent) (va : Nat) (write user : Bool) : State × XRes :=
  translateGen true s die j exts va write user

/-- Translation of an instruction fetch: a page with P = 0 at its directory is not touched (R395 cause 0x81; DEDUCED, log 16). -/
def translateCode (s : State) (die j : Nat) (exts : List Extent) (va : Nat) (user : Bool) : State × XRes :=
  translateGen false s die j exts va false user

/- Fault records (R370 to R378). -/

/-- 64 bytes of a record (R377). -/
def recBytes (s : State) (r : FRec) (count : Nat) (lost : Bool) : List Byte :=
  leBytes r.code 2 ++ leBytes (r.flags ||| b2n lost <<< 4) 2 ++ leBytes r.token 4 ++ leBytes r.addr.toNat 8 ++ leBytes r.pc.toNat 8
    ++ leBytes (r.idx % 16) 1 ++ leBytes r.rung 1 ++ leBytes r.core 2 ++ leBytes s.pkg 2 ++ leBytes r.tid 2 ++ leBytes r.grid 2
    ++ leBytes r.job 2 ++ leBytes count 4 ++ leBytes r.bidx 8 ++ leBytes r.seq 8 ++ leBytes r.detail.toNat 8

/-- Lowest rung of a code (R370, R395, R402, R409, R410; R417 gives the rest where they are raised). -/
def rungOf (code : Nat) : Nat :=
  let c := code % 256
  match code / 256 with
  | 1 | 2 | 3 | 8 | 9 => 3
  | 4 => if [3, 4, 5, 6, 7, 8, 0x0A, 0x0B, 0x80, 0x82].contains c then 3 else 1
  | 5 => if [5, 6, 7].contains c then 3 else 1
  | 6 => if c == 3 then 3 else if c == 0x10 then 2 else 1
  | 7 => 2
  | 0x0D => 0
  | _ => 2

/-- Header PA of a die's fault queue (R375). -/
def faultqBase (s : State) (die : Nat) : Nat := bits (s.die die).faultq.toNat 38 6 <<< 6

/-- STATE and HOST of a link in LINK_STAT (R313): 0 DOWN, 1 TRAINING, 2 UP, 3 SILENT, 4 DEAD. -/
def linkState (s : State) (j : Nat) : Nat := bits s.linkStat.toNat (4 * j + 2) (4 * j)
def linkHost (s : State) (j : Nat) : Bool := bitOf s.linkStat.toNat (4 * j + 3)

/-- The path a packet takes (R312): of the UP links that are not the host bridge's, all with empty queues in this model, the lowest;
link 0 where none is UP (log 9). -/
def pathOf (s : State) : Nat := ((List.range 16).find? fun j => linkState s j == 2 && !linkHost s j).getD 0

/-- The record is of the package's system grid: the co-resident EXPRESS grid of job 0 (R380). -/
def ofSystemGrid (s : State) (r : FRec) : Bool :=
  r.core != 0x3FF && r.job == 0 && s.grids.any fun g => g.handle == r.grid && bitOf g.l.flags 0 && bits g.l.flags 4 3 == 0

/-- A counter raised by n, saturating at w bits (R454). -/
def satAdd (w c n : Nat) : Nat := min (2 ^ w - 1) (c + n)

/-- Entry i of a list of counters raised by 1. -/
def countAt (w : Nat) (xs : List Nat) (i : Nat) : List Nat := xs.zipIdx.map fun x => if x.2 == i then satAdd w x.1 1 else x.1

/-- The field records count a fault by its class, and a SEAL fault by its cause (R454). -/
def countFault (s : State) (code : Nat) : State :=
  let f := s.field
  let f := if 1 ≤ code / 256 && code / 256 ≤ 13 then { f with classes := countAt 128 f.classes (code / 256 - 1) } else f
  { s with field := if code / 256 == 5 && code % 256 != 0 then { f with seals := countAt 64 f.seals (code % 256 - 1) } else f }

/-- A record takes the queue route: it joins the die's holding buffer in the order of detection; one that is not PARKED is dropped
where the buffer holds 64, which raises DROP (R376). With `pod` it also sends a FAULT event and carries POD (R382). The system grid's own
records are also sent as NOTE (R380, R431). -/
def queueRecAs (pod : Bool) (s : State) (die : Nat) (r : FRec) : State :=
  let s := countFault s r.code
  let r := if pod then { r with flags := r.flags ||| 2 } else r
  let s := if pod then
      { s with outEvents := s.outEvents ++ [.fault { seq := 0, origin := s.pkg, job := r.job } r.code r.grid r.core r.rung r.addr r.bidx
                                              r.seq] }
    else s
  let s := if ofSystemGrid s r then
      { s with outMgmt := s.outMgmt ++ [{ mtype := 6, origin := s.pkg, link := pathOf s, a := BitVec.ofNat 64 (r.code + r.core <<< 16)
                                          b := r.pc.extractLsb' 0 32, data := [] }] }
    else s
  if (s.die die).holding.length ≥ 64 && r.flags % 2 == 0 then
    let s := { s with mem := s.mem.writeNum (faultqBase s die + 32) 8 (s.mem.num (faultqBase s die + 32) 8 + 1) }
    s.updDie die fun d => { d with lost := true }
  else s.updDie die fun d => { d with holding := d.holding ++ [r] }

/-- A record of rung 3 or more, or of class SCHED, LINK or SNAP, is forwarded to the pod (R382). -/
def queueRec (s : State) (die : Nat) (r : FRec) : State :=
  queueRecAs (r.rung ≥ 3 || (0x0A ≤ r.code / 256 && r.code / 256 ≤ 0x0C)) s die r

/-- DETAIL of a record: the ring's package for a first touch that found its ring empty (R409). -/
def detailOf (s : State) (code : Nat) (detail : Word) : Word := if code == 0x0601 then BitVec.ofNat 64 s.pkg else detail

/-- DETAIL of a SEAL record: the computed and the stored seal of the granule that failed, and the consumer (R410). -/
def sealDetail (bs : List Byte) (va code : Nat) (err : Byte) : Word :=
  BitVec.ofNat 64 ((seal8 bs va).toNat + (seal8 bs va ^^^ err).toNat <<< 8 + (code % 256) <<< 16)

/-- A record of a thread of a group. -/
def threadRec (s : State) (b : Block) (hdr : Va) (idx tid code : Nat) (addr detail : Word) (count : Nat) : FRec :=
  { code := code, flags := 0, token := 0, addr := addr, pc := hdr.zeroExtend 64, idx := idx, rung := rungOf code, core := b.core,
    tid := tid, grid := b.grid, job := s.jobOf b.grid, count := count, bidx := b.bidx,
    seq := s.podSeq, detail := detailOf s code detail, entry := none }

/-- A record of a unit that is not a core (R377). -/
def unitRec (s : State) (code : Nat) (addr detail : Word) (grid job : Nat) : FRec :=
  { code := code, flags := 0, token := 0, addr := addr, pc := 0, idx := 0, rung := rungOf code, core := 0x3FF, tid := 0, grid := grid,
    job := job, count := 1, bidx := 0, seq := s.podSeq, detail := detailOf s code detail, entry := none }

/-- An access joins the open entry of its job and page, or opens the lowest free one with the next generation (R378). The answer: the
token (2^32 where no entry is free: the access is held as if parked) and whether an entry was opened. -/
def waitEntry (s : State) (die job page : Nat) : State × Nat × Bool :=
  let d := s.die die
  match d.waits.find? fun w => w.job == job && w.page == page with
  | some w =>
    (s.setDie die { d with waits := replaceFirst (fun x => x.index == w.index) (fun x => { x with count := x.count + 1 }) d.waits },
      die <<< 30 + w.index <<< 20 + w.gen, false)
  | none =>
    match (List.range 1024).find? fun i => !(d.waits.any fun w => w.index == i) with
    | none => (s, 2 ^ 32, false)
    | some i =>
      let gen := tget 0 d.gens i % (2 ^ 20 - 1) + 1
      (s.setDie die { d with waits := d.waits ++ [{ index := i, job := job, page := page, gen := gen, count := 1 }]
                             gens := tset d.gens i gen },
        die <<< 30 + i <<< 20 + gen, true)

/- Traps (R372 to R374). -/

/-- The troop slot of a thread's home troop on its core: partition · 16 + slot (R18, R374). -/
def slotOf (b : Block) (tid : Nat) : Nat := (tid / 32) % 4 * 16 + b.slots.getD (tid / 32) 0

/-- VECTOR of the die's fault queue header, zero where it cannot be read (R375). -/
def vectorOf (s : State) (die : Nat) : Nat :=
  let a := faultqBase s die + 24
  if populated a && !s.mem.bad a 8 then s.mem.num a 8 else 0

/-- Frame address of a thread (R374). -/
def frameVa (s : State) (b : Block) (tid : Nat) : Nat :=
  vectorOf s (dieOf b.core) + 0x10000 + 64 * (2048 * b.core + 32 * slotOf b tid + tid % 32)

/-- TAKING A TRAP (R372): the vector entry of the class, read as a privileged hardware access; the record with the resume pc and mode 0
stored at the thread's frame; the thread privileged at the handler. None where the entry is zero, the thread is privileged, or the
frame cannot be stored. -/
def takeTrap (s : State) (b : Block) (th : Thread) (r : FRec) (resume : Va) : Option State :=
  let v := (hwRead s r.job (vectorOf s (dieOf b.core) + 8 * (r.code / 256)) 8).getD 0
  if v == 0 || th.priv then none
  else match hwWrite s r.job (frameVa s b th.tid) (recBytes s { r with pc := resume.zeroExtend 64 } r.count false) with
    | none => none
    | some s =>
      some ((countFault s r.code).updThread { grid := b.grid, bidx := b.bidx, tid := th.tid } fun t =>
        -- a YIELD of the clause that the trap ends keeps its hold and its restart of the age mark (R183)
        { t with priv := true, pc := BitVec.ofNat 57 v, status := if t.yieldAfter || t.status == .yielded then .yielded else .ready
                 goto := none, met := false, readySince := s.now, trapAfter := none, bar := none, yieldAfter := false
                 until_ := if t.yieldAfter then s.now + 32 else t.until_, ageMark := if t.yieldAfter then s.now else t.ageMark })

/-- A thread leaves its group. -/
def dropMember (b : Block) (gid tid : Nat) : Block :=
  b.updGroup gid fun g => { g with members := g.members.filter fun m => m.tid != tid }

/-- Threads, in ascending TID, take the thread route or park with TOKEN 0; those that park share one record (R372, R384). `resume`: the
resume pc of each. -/
def trapOrPark (die : Nat) (r : FRec) (gid : Nat) (resume : Thread → Va) : List Thread → State → Nat → State
  | [], s, n => if n == 0 then s else queueRec s die { r with flags := 1, count := n }
  | th :: rest, s, n =>
    match s.block? r.grid r.bidx with
    | none => s
    | some b =>
      let ref : Tref := { grid := b.grid, bidx := b.bidx, tid := th.tid }
      let pri := b.groups.any fun g => g.gid == gid && hPri g.header == 1
      let s := s.updBlock b.grid b.bidx fun b => dropMember b gid th.tid
      let pc := resume th
      match takeTrap s b th { r with tid := th.tid } pc with
      | some s =>
        -- the trap ends the clause for the thread: PRI restarts its age mark (R128, R372)
        let s := s.updThread ref fun t => if pri then { t with ageMark := s.now } else t
        trapOrPark die r gid resume rest s n
      | none =>
        trapOrPark die r gid resume rest
          (s.updThread ref fun t => { t with status := .parked, pc := pc, bar := none }) (n + 1)

/-- Traps of TRAP n whose clause has ended, one record for the threads of one TRAP (R372, R373, R377): the resume pc is the thread's own
next pc. -/
def endTraps (s : State) (grid bidx : Nat) : State :=
  match s.block? grid bidx with
  | none => s
  | some b =>
    let due := b.threads.filter fun th => th.trapAfter.isSome && !(b.groups.any fun g => (g.member? th.tid).isSome)
    ((due.filterMap fun th => th.trapAfter).eraseDups).foldl (fun s (x : Nat × Va × Nat) =>
      let ths := due.filter fun th => th.trapAfter == some x
      let r := threadRec s b x.2.1 x.2.2 ((ths.map fun th => th.tid).headD 0) 0x0D00 0 (BitVec.ofNat 64 x.1) ths.length
      -- a thread that has exited stays EXITED: its trap leaves a record and no more (R37; log 65)
      let gone := ths.filter fun th => th.status == .exited
      let s := if gone.isEmpty then s else queueRec s (dieOf b.core) { r with tid := (gone.map fun th => th.tid).headD 0, count := gone.length }
      let s := ths.foldl (fun s th => s.updThread { grid := grid, bidx := bidx, tid := th.tid } fun t => { t with trapAfter := none }) s
      trapOrPark (dieOf b.core) r 0 (fun t => t.pc) (ths.filter fun th => th.status != .exited) s 0) s

/-- A group whose clause is over ends it. -/
def settleGroup (s : State) (grid bidx gid : Nat) : State :=
  match s.block? grid bidx with
  | none => s
  | some b => match b.groups.find? fun g => g.gid == gid with
    | none => s
    | some g =>
      if clauseOver s b g && !g.parked then endTraps (s.updBlock grid bidx fun b => endClause s b g) grid bidx else s

/-- Every group of the block whose clause is over ends it. -/
def settleBlock (s : State) (grid bidx : Nat) : State :=
  match s.block? grid bidx with
  | none => s
  | some b => b.groups.foldl (fun s g => settleGroup s grid bidx g.gid) s

/-- After an instruction of n words that left the block as b and the group's members as in g. -/
def advance (s : State) (b : Block) (g : Group) (n : Nat) (add : List Window) : State :=
  (endTraps (s.updBlock b.grid b.bidx fun _ => advanceBlock s b g n add) b.grid b.bidx).idle

/-- As `advance`, with the block and group as they now stand in s. -/
def advanceIn (s : State) (grid bidx gid n : Nat) (add : List Window) : State :=
  match s.block? grid bidx with
  | none => s.idle
  | some b => match b.groups.find? fun g => g.gid == gid with
    | none => s.idle
    | some g => advance s b g n add

/-- A fault of the thread route for given threads of the group (R371 second case, R372). -/
def threadFault (s : State) (b : Block) (g : Group) (ths : List Thread) (code idx : Nat) (addr detail : Word) : State :=
  let r := threadRec s b g.hdr idx ((ths.map fun t => t.tid).headD 0) code addr detail ths.length
  settleGroup (trapOrPark (dieOf b.core) r g.gid (fun _ => g.hdr) ths s 0) b.grid b.bidx g.gid

/-- Every member of the group, guard-false members included (R384, R396). -/
def groupThreads (b : Block) (g : Group) : List Thread := b.threads.filter fun th => (g.member? th.tid).isSome

/-- A clause-entry fault of the whole group (R384). -/
def groupFault (s : State) (b : Block) (g : Group) (code idx : Nat) (detail : Word) : State :=
  threadFault s b g (groupThreads b g) code idx 0 detail

/- Clause-entry conditions of one instruction that depend on the block (R386 cause 0x14 and 0x13, R387, R388). -/

/-- Registers beyond the count of some member's role (R11), AADDF orders in an ordered grid (R223). -/
def entryDecode (s : State) (b : Block) (g : Group) (i : Instr) : Option Nat :=
  if Instr.aaddfSync i && s.ordered b.grid then some 0x0113
  else if (Instr.regs i).any fun r => (groupThreads b g).any fun th => th.regs.length ≤ r then some 0x0114
  else none

/-- Privilege (R387). SNAP: only the job's coordinator grid (R281). -/
def entryPriv (s : State) (b : Block) (g : Group) (i : Instr) : Option Nat :=
  if (groupThreads b g).all fun th => th.priv then none
  else match Instr.privCause i with
    | some c => some (0x0200 + c)
    | none => match i with
      | .snap _ _ _ _ =>
        if (s.launchOf b.grid).compl == (s.jobWord (s.jobOf b.grid) 1).toNat then none else some 0x0203
      | _ => none

/-- Handles (R388, R389): `filled` are the slots an earlier MDESC or MSHAPE of the clause names. -/
def entryHandle (s : State) (b : Block) (g : Group) (filled : List Nat) (i : Instr) : Option Nat :=
  let l := s.launchOf b.grid
  let slots := Instr.slotsUsed i ++ (Instr.slotFilled i).toList
  if slots.any fun d => l.desc ≤ d then some 0x0301
  else if (Instr.slotsUsed i).any fun d => (b.descs.getD d none).isNone && !filled.contains d then some 0x0302
  else if ((Instr.tile i).map fun t => decide (l.acc ≤ t)).getD false then some 0x0303
  else if ((Instr.codebook i).map fun c => !bitOf l.cbmask c && !(groupThreads b g).all fun th => th.priv).getD false then some 0x0304
  else none

/-- The first condition an instruction breaks in the group that issues it. -/
def entryFault (s : State) (b : Block) (g : Group) (i : Instr) : Option Nat :=
  (entryDecode s b g i).or ((entryPriv s b g i).or (entryHandle s b g [] i))

/-- The first word of an instruction as the DETAIL of a clause-entry record (R384). -/
def firstWord (i : Instr) : Word := ((encode i).headD 0).zeroExtend 64

/-- An instruction issued by the current group: the clause-entry conditions that depend on the block, then its effect. With no group
issuing, nothing happens. -/
def issue (i : Instr) (s : State) (k : Block → Group → State) : Host.Outcome State Fault Refusal :=
  .next (match s.cur? with
    | none => s
    | some (b, g) => match entryFault s b g i with
      | some code => (groupFault s b g code g.idx (firstWord i)).idle
      | none => k b g)

/-- A register-only instruction: every active lane from the old state, then the next word. -/
def onLanes (i : Instr) (s : State) (f : Block → Group → Member → Thread → Thread) : Host.Outcome State Fault Refusal :=
  issue i s fun b g => advance s (mapActive b g (f b g)) g (Instr.len i) []

/- Long-latency results (R137, R138). -/

/-- A register result put into its thread: destination, flags, token, and the wait of tok = 7. A write without a result that is still
outstanding (REL, signals) stands as tok = 8 and leaves the store count. The results of a thread that has exited are discarded (R182). -/
def finishThread (p : Pend) (dests : List (Reg × Word)) (f : BitVec 6) (th : Thread) : Thread :=
  let gone := th.status == .exited || (th.status == .shelved && th.kept == .exited)
  let th := if gone then th else dests.foldl (fun t x => t.setReg x.1 x.2) (th.setFlags f)
  let th := if p.tok < 7 then th.setTok p.tok (th.tok p.tok - 1) else if p.tok == 8 then { th with stores := th.stores - 1 } else th
  if gone then th
  else if p.tok == 7 && (th.status == .signal || th.status == .fullEmpty) then { th with status := .issuing }
  else if p.tok == 7 && th.status == .shelved && (th.kept == .signal || th.kept == .fullEmpty) then { th with kept := .issuing } else th

/-- An outstanding result is written: register, flags, token count (R137). -/
def complete (s : State) (p : Pend) (dests : List (Reg × Word)) (f : BitVec 6) : State :=
  { s.updThread p.who (finishThread p dests f) with pend := s.pend.filter fun q => q.id != p.id }

/-- A result enters the list of outstanding ones and raises its token. -/
def addPend (s : State) (p : Pend) : State :=
  let s := { s with pend := s.pend ++ [p], nextId := s.nextId + 1 }
  if p.tok < 7 then s.updThread p.who fun th => th.setTok p.tok (th.tok p.tok + 1)
  else if p.tok == 8 then s.updThread p.who fun th => { th with stores := th.stores + 1 } else s

/-- The result is still outstanding. -/
def State.waitsOn (s : State) (id : Nat) : Bool := s.pend.any fun p => p.id == id

/-- A LINK record of the link's die (R14): forwarded at most once per cause, peer and link in 1 ms (R417, R418). -/
def linkRec (s : State) (code link peer typ : Nat) : State :=
  let old := s.linkRecs.any fun x => x.1 == code && x.2.1 == peer && x.2.2.1 == link && s.now < x.2.2.2 + 800000
  let s := if old then s
    else { s with linkRecs := s.linkRecs.filter (fun x => !(x.1 == code && x.2.1 == peer && x.2.2.1 == link)) ++ [(code, peer, link, s.now)] }
  let r := unitRec s code 0 (BitVec.ofNat 64 (link + peer <<< 4 + typ <<< 16)) 0 0
  queueRecAs (!old) s (link / 4) (if code == 0x0B06 then { r with rung := 4 } else r)

end Sys2Proof.Machine
end

