-- ==== Sys2Proof/Machine/Send.lean ====
section
/-! DEFINITION. What leaves the package: fabric packets with their numbering (R314 to R319, R338), Halyard events (R287) and management
flits (R431). -/

namespace Sys2Proof.Machine

open Sys2Proof

/-- A packet without entries. -/
def blankPacket : Packet :=
  { typ := 0, dst := 0, src := 0, vc := 0, pen := false, col := false, host := false, ctlResvd := 0, path := 0, n := 0, seq := 0,
    pser := 0, score := 0x3FF, hjob := 0, lvl := 0, base := 0, tspec := 0, offs := [], data := [], seals := [], masks := [], job := 0,
    user := false }

/-- Counts of packets exchanged are kept by package and colour (R338). -/
def colKey (p : Nat) (c : Bool) : Nat := 2 * p + b2n c

/-- The die's link controller holds fewer than 16,384 packets that it has sent and that are not yet acknowledged (R433); a packet belongs to
the die of the link it was numbered for (R13). -/
def linkRoom (s : State) (path : Nat) : Bool :=
  (s.retained.filter fun k => k.sent && k.p.path / 4 == path / 4).length < 16384

/-- A numbered packet leaves on a link: it is counted under the package's colour (R338). -/
def leave (s : State) (p : Packet) (link : Nat) : State :=
  { s with
    outPackets := if s.withdrawn then s.outPackets else s.outPackets ++ [p]
    sentTo := if p.vc < 2 then tset s.sentTo (colKey p.dst s.colour) (tget 0 s.sentTo (colKey p.dst s.colour) + 1) else s.sentTo
    linkSent := tset s.linkSent link s.now }

/-- A numbered request is kept until it is acknowledged, and leaves at once where its die's controller has room (R433). -/
def leaveKept (s : State) (p : Packet) (link : Nat) : State :=
  let go := linkRoom s p.path
  let s := if go then leave s p link else s
  { s with retained := s.retained ++ [{ p := p, link := link, at_ := s.now, sent := go }] }

/-- A request that had to wait leaves now, in the package's colour of now; it keeps its numbers (R338, R433). -/
def leaveLate (s : State) (k : Kept) : State :=
  let link := if linkState s k.link == 2 then k.link else pathOf s
  let p := { k.p with col := s.colour, lvl := freeLevel s s.ringOf }
  leave { s with retained := s.retained.map fun (x : Kept) => if x == k then { p := p, link := link, at_ := s.now, sent := true } else x } p link

/-- Requests that wait for room leave in the order in which they were made, as far as there is room (R433). -/
def sendWaiting (s : State) : State :=
  (s.retained.filter fun k => !k.sent).foldl (fun s k => if linkRoom s k.p.path then leaveLate s k else s) s

/-- A packet numbered and sent (R314, R319, R338): SEQ per destination and VC, PSER and path of a request, the free level, the colour. The PSER of a
packet that is not a core's is its SEQ, so that its answer names it (log 18). A request is kept until it is acknowledged, and waits to be sent where
its die's controller is full (R433). The answer is the state and the packet as numbered. -/
def sendPacket (s : State) (p : Packet) : State × Packet :=
  let key := 8 * p.dst + p.vc
  let seq := tget 0 s.seqOut key
  let path := if p.vc == 0 then pathOf s else p.path
  let core := p.score < 832 && p.vc == 0
  let p := { p with
    src := s.pkg, seq := seq % 2 ^ 32, path := path, col := s.colour
    pser := if core then (s.core p.score).iss.getD path 0 else if p.vc == 0 then seq % 2 ^ 32 else p.pser
    lvl := if p.vc == 0 then freeLevel s s.ringOf else 0 }
  let s := { s with seqOut := tset s.seqOut key (seq + 1) }
  let s := if p.vc == 0 then leaveKept s p path else leave s p path
  let s := if core then s.updCore p.score fun k => { k with iss := k.iss.set path ((k.iss.getD path 0 + 1) % 2 ^ 32) } else s
  (s, p)

/-- An event sent to the Halyard with SEQ 0 (R287). -/
def sendEvent (s : State) (e : Event) : State := { s with outEvents := s.outEvents ++ [e] }

/-- The header of an event of this package (R287). -/
def evHdr (s : State) (job : Nat) : EvHdr := { seq := 0, origin := s.pkg, job := job }

/-- A management flit sent (R431). -/
def sendMgmt (s : State) (m : Mgmt) : State := { s with outMgmt := s.outMgmt ++ [m] }

/-- TSPEC of a packet from (byte offset from 32, bytes, value) fields (R315). -/
def tspecOf (fs : List (Nat × Nat × Nat)) : BitVec 256 :=
  BitVec.ofNat 256 (fs.foldl (fun acc f => acc + (f.2.2 % 2 ^ (8 * f.2.1)) <<< (8 * f.1)) 0)

/-- A TSPEC field: n bytes from byte 32 + o (R315). -/
def tfield (p : Packet) (o n : Nat) : Nat := (p.tspec.toNat >>> (8 * o)) % 2 ^ (8 * n)

/- Answers (R315, R318). -/

/-- TSPEC of an ACK to a request: PSER, path, flags (1 dropped, 2 FAULTED), code and mask of faulting entries. -/
def ackFs (p : Packet) (flags code mask : Nat) : List (Nat × Nat × Nat) := [(0, 4, p.pser), (4, 1, p.path), (5, 1, flags), (6, 2, code), (8, 4, mask)]

/-- TSPEC of a DATA answer. -/
def dataFs (p : Packet) : List (Nat × Nat × Nat) := [(0, 4, p.pser), (4, 1, p.path)]

/-- TSPEC of an ATOMR: old value, PSER, path; byte 45 the flags of a walk's combine (log 15). -/
def atomrFs (p : Packet) (old flags : Nat) : List (Nat × Nat × Nat) := [(0, 8, old), (8, 4, p.pser), (12, 1, p.path), (13, 1, flags)]

/-- The answer to a request: to the sending core or engine, with its PSER and path; kept for duplicates of the request (R318, R433). -/
def answer (s : State) (p : Packet) (typ : Nat) (fs : List (Nat × Nat × Nat)) (data : List (BitVec 64)) (seals : List Byte) : State :=
  let (s, a) := sendPacket s { blankPacket with
    typ := typ, dst := p.src, vc := 1, host := p.host, hjob := p.hjob, path := p.path, score := p.score, pser := p.pser, n := data.length
    base := p.base, job := p.job, user := p.user, data := data, seals := seals, masks := data.map fun _ => 0xFF, tspec := tspecOf fs }
  { s with answers := s.answers ++ [(p.src, p.seq, a)] }

/-- Entry e of a WRITE or VWRITE from bytes (address, value) of one granule: data with unwritten bytes zero, mask, and the seal over them
(R77, R315). -/
def entryOf (q : Nat) (bs : List (Nat × Byte)) : BitVec 64 × Byte × Byte :=
  let at_ (i : Nat) : Byte := ((bs.reverse.find? fun x => x.1 == 8 * q + i).map fun x => x.2).getD 0
  let d := (List.range 8).map at_
  let m := (List.range 8).foldl (fun acc i => acc + b2n (bs.any fun x => x.1 == 8 * q + i) <<< i) 0
  (BitVec.ofNat 64 (leNat d), seal8 d (8 * q), BitVec.ofNat 8 m)

/-- The granules some bytes lie in, ascending, each once. -/
def granulesOf (bs : List (Nat × Byte)) : List Nat :=
  bs.foldl (fun acc x => markSet acc (x.1 / 8) true) []

/-- The line of a write-combining entry sent as one WRITE: BASE at its first granule with stored bytes, entries up to the last (R317). -/
def wcPacket (core : Nat) (l : WcLine) : Packet :=
  let bs := l.bytes.map fun x => (l.va + x.1, x.2)
  let qs := granulesOf bs
  let q0 := qs.headD 0
  let n := qs.getLastD q0 + 1 - q0
  let es := (List.range n).map fun i => entryOf (q0 + i) bs
  { blankPacket with
    typ := 1, dst := l.peer, vc := 0, score := core, n := n, base := BitVec.ofNat 64 (8 * q0), job := l.job, user := l.user
    data := es.map fun e => e.1, seals := es.map fun e => e.2.1, masks := es.map fun e => e.2.2 }

/-- A write-combining line leaves the buffer: the line, kept with the packet that carries it until its answer (R317, R210). -/
def sendLine (s : State) (core : Nat) (l : WcLine) : State :=
  let s := s.updCore core fun k => { k with wc := k.wc.filter fun x => x != l }
  let (s, p) := sendPacket s (wcPacket core l)
  { s with inFlight := s.inFlight ++ [(p.dst, p.seq, l)] }

/-- Every line of the core that meets p is sent, oldest first. -/
def sendLines (s : State) (core : Nat) (p : WcLine → Bool) : State :=
  ((s.core core).wc.filter p).foldl (fun s l => sendLine s core l) s

/-- The name under which an operation's writes to other packages are outstanding. -/
def engWho (op : Nat) : Nat × Tref := (op, { grid := 2 ^ 40, bidx := op, tid := 0 })

/-- The operation has writes that are not yet answered. -/
def engOut (s : State) (op : Nat) : Bool := s.inFlight.any fun f => f.2.2.whos.contains (engWho op)

end Sys2Proof.Machine
end

