-- ==== Sys2Proof/Machine/Submit.lean ====
section
/-! DEFINITION. Launch, graph and phase records (R298, R299): reading them as the dispatcher does, their validity (R36, R47 to R49, R306,
R393), and entering them in the class queues (R283, R297). -/

namespace Sys2Proof.Machine

open Sys2Proof

/-- The number under which the dispatcher's reads of other packages are kept. -/
def dispOp : Nat := 2 ^ 42

/-- A read of the dispatcher that stops: the fault, its VA, the DETAIL of a seal fault, and the completion signal the fault decides. Code
0 stands for bytes to be asked of package `detail`. -/
structure ReadErr where
  code   : Nat
  va     : Nat
  detail : Word
  compl  : Nat
  deriving DecidableEq, Repr, Inhabited

/-- DETAIL of the record of a stopped read: the seals (R410), or the given access (R402). -/
def ReadErr.detailOr (e : ReadErr) (d : Nat) : Word := if e.code / 256 == 5 then e.detail else BitVec.ofNat 64 d

/-- A record's bytes, or the fault its reading meets: each page is translated as an access of the job in the given mode (R297). `sc`: the
SEAL cause of the consumer (R410). -/
def readAs (s : State) (die job va : Nat) (user : Bool) (sc : Nat) : Nat → State × Except ReadErr (List Byte)
  | 0 => (s, .ok [])
  | n + 1 =>
    let (s, r) := translate s die job [] va false user
    match r with
    | .here pa _ =>
      (match s.mem.badAt pa 1 with
      | some q => (s, .error { code := sc, va := va / 8 * 8, detail := sealDetail (s.mem.read (8 * q) 8) (8 * q) sc (s.mem.err q), compl := 0 })
      | none => match readAs s die job (va + 1) user sc n with
        | (s, .ok bs) => (s, .ok (s.mem.get pa :: bs))
        | e => e)
    | .bad c => (s, .error { code := c, va := va, detail := 0, compl := 0 })
    | .away p => match s.engGot.find? fun x => x.1 == dispOp && x.2.1 == va / 8 with
      | none => (s, .error { code := 0, va := va, detail := BitVec.ofNat 64 p, compl := 0 })
      | some x =>
        if (x.2.2.headD (0, 0)).2 != 0 then
          (s, .error { code := sc, va := va / 8 * 8
                       detail := sealDetail (x.2.2.map fun y => y.1) (va / 8 * 8) sc (x.2.2.headD (0, 0)).2, compl := 0 })
        else match readAs s die job (va + 1) user sc n with
          | (s, .ok bs) => (s, .ok ((x.2.2.getD (va % 8) (0, 0)).1 :: bs))
          | e => e
    | .held => (s, .error { code := 0, va := va, detail := BitVec.ofNat 64 s.pkg, compl := 0 })

/-- COMPL of a launch record as it stands in memory, its seal not looked at; 0 where it cannot be reached. -/
def complAt (s : State) (job va : Nat) (user : Bool) : Nat :=
  match (translate s 0 job [] (va + 80) false user).2 with
  | .here pa _ => s.mem.num pa 8
  | .away _ => ((s.engGot.find? fun x => x.1 == dispOp && x.2.1 == va / 8 + 10).map fun x => leNat (x.2.2.map fun y => y.1)).getD 0
  | _ => 0

/-- A launch record's reading that stops with rung 3 decides its completion signal (R297, R410). -/
def recordErr (s : State) (job va : Nat) (user : Bool) (e : ReadErr) : ReadErr :=
  if e.code == 0 || rungOf e.code == 1 then e else { e with compl := complAt s job va user }

/-- Bytes o to o + n − 1 of a record as a number. -/
def at_ (bs : List Byte) (o n : Nat) : Nat := leNat ((bs.drop o).take n)

/-- All bytes zero. -/
def zeros (bs : List Byte) (o n : Nat) : Bool := ((bs.drop o).take n).all fun b => b == 0

/-- The fields of a launch record (R298). -/
def launchOf (bs : List Byte) : Launch :=
  { entry := BitVec.ofNat 64 (at_ bs 0 8), gx := at_ bs 8 4, gy := at_ bs 12 2, gz := at_ bs 14 2, sx := at_ bs 16 2, sy := at_ bs 18 2,
    sz := at_ bs 20 2,
    roles := ((List.range 4).map fun i =>
      { troops := at_ bs (24 + 8 * i) 1, regs := at_ bs (25 + 8 * i) 1, priv := 16 * at_ bs (26 + 8 * i) 2 }).filter fun r => r.troops != 0
    scratch := at_ bs 56 4, acc := at_ bs 60 1, desc := at_ bs 61 1, pgang := at_ bs 62 1, fgang := at_ bs 63 1, flags := at_ bs 64 2,
    cbmask := at_ bs 66 1, nwait := at_ bs 67 1, nrange := at_ bs 68 1, creq := at_ bs 70 2, foot := at_ bs 72 2, job := at_ bs 74 2,
    popcap := at_ bs 76 4, compl := at_ bs 80 8, priv := at_ bs 88 8, seed := BitVec.ofNat 64 (at_ bs 96 8), collbind := at_ bs 104 8,
    waits := (List.range 8).map fun i => at_ bs (128 + 8 * i) 8
    consts := (List.range 32).map fun i => BitVec.ofNat 64 (at_ bs (192 + 8 * i) 8)
    ranges := (List.range 16).map fun i =>
      (at_ bs (448 + 16 * i) 8 % 2 ^ 57, bitOf (at_ bs (448 + 16 * i) 8) 63, at_ bs (456 + 16 * i) 8) }

/-- Threads of a block, troops, blocks of the grid (R36, R47). -/
def Launch.n (l : Launch) : Nat := l.sx * l.sy * l.sz
def Launch.t (l : Launch) : Nat := (l.roles.map fun r => r.troops).sum
def Launch.b (l : Launch) : Nat := l.gx * l.gy * l.gz
def Launch.cores_ (l : Launch) : Bool := bitOf l.flags 0
def Launch.ord (l : Launch) : Bool := bitOf l.flags 1
def Launch.pop (l : Launch) : Bool := bitOf l.flags 2
def Launch.cls (l : Launch) : Nat := bits l.flags 4 3
def Launch.pfast (l : Launch) : Bool := bitOf l.flags 5
def Launch.span (l : Launch) : Bool := bitOf l.flags 6
/-- Largest private size among the roles (R298). -/
def Launch.pmax (l : Launch) : Nat := (l.roles.map fun r => r.priv).foldl max 0

/-- Role index and role of a home troop (R47). -/
def roleAt : List Role → Nat → Nat → Nat × Role
  | [], i, _ => (i, default)
  | r :: rs, i, h => if h < r.troops then (i, r) else roleAt rs (i + 1) (h - r.troops)

/-- Role index and role of a thread. -/
def Launch.roleOf (l : Launch) (tid : Nat) : Nat × Role := roleAt l.roles 0 (tid / 32)

/-- Registers a block takes on partition q (R21, R48). -/
def Launch.regsOn (l : Launch) (q : Nat) : Nat :=
  ((List.range l.t).map fun h => if h % 4 == q then 32 * (roleAt l.roles 0 h).2.regs else 0).sum

/-- Troops a block puts on partition q (R47, R48). -/
def Launch.troopsOn (l : Launch) (q : Nat) : Nat := ((List.range l.t).filter fun h => h % 4 == q).length

/-- Whole KiB of scratchpad (R48). -/
def Launch.scratchK (l : Launch) : Nat := (l.scratch + 1023) / 1024

/-- Quotient, or a bound where nothing is asked. -/
def quot (a b : Nat) : Nat := if b == 0 then 4096 else a / b

/-- b: blocks that fit on an empty core under conditions 1 to 4 of R48 (R299). -/
def Launch.perCore (l : Launch) : Nat :=
  ((List.range 4).map fun q => min (quot 16 (l.troopsOn q)) (quot 8192 (l.regsOn q))).foldl min
    (min (quot 256 l.scratchK) (quot 64 l.desc))

/-- Blocks that fit in an empty cluster (R48 condition 5, R299). -/
def Launch.perCluster (l : Launch) : Nat := min (4 * l.perCore) (quot 8 l.acc)

/-- F: footprint of a block in bytes (R306). -/
def Launch.foot_ (l : Launch) : Nat :=
  ((List.range l.n).map fun t => 8 * (l.roleOf t).2.regs + 80).sum + 1024 * l.scratchK + 64 * l.desc + 49168 * l.acc + 1024

/-- A record is valid under R298, R36, R47, R48, R49, R306, R332 and R393; `user` and `job`: mode and job of the submission. DESIGN CHOICE (log
76): the used ROLES entries come first; a record with a zero entry before a used one is invalid. -/
def launchValid (bs : List Byte) (user : Bool) (job : Nat) : Bool :=
  let l := launchOf bs
  let used (i : Nat) : Bool := at_ bs (24 + 8 * i) 1 != 0
  (l.entry &&& 0xFE00000000000003#64 == 0)
  && 1 ≤ l.gx && l.gx ≤ 2 ^ 32 - 1 && 1 ≤ l.gy && 1 ≤ l.gz && 1 ≤ l.sx && 1 ≤ l.sy && 1 ≤ l.sz && l.n ≤ 1024
  && zeros bs 22 2 && zeros bs 69 1 && zeros bs 704 64 && bits l.flags 15 7 == 0
  && (List.range 4).all (fun i => zeros bs (28 + 8 * i) 4 && (used i || zeros bs (24 + 8 * i) 8))
  && used 0 && (!used 2 || used 1) && (!used 3 || used 2)
  && l.roles.all (fun r => r.troops ≤ 32 && [16, 24, 32, 48, 64].contains r.regs && r.priv ≤ (if l.pop then 4096 else 65536))
  && l.t ≤ 32 && 32 * (l.t - 1) < l.n && l.n ≤ 32 * l.t
  && l.scratch ≤ 262144 && l.acc ≤ 8 && l.desc ≤ 16
  && 1 ≤ l.pgang % 128 && l.pgang % 128 ≤ 64 && 1 ≤ l.fgang % 128 && l.fgang % 128 ≤ 64
  && l.nwait ≤ 8 && l.nrange ≤ 16
  && (!l.cores_ || l.creq == 0)
  && (!l.pfast || (1 ≤ l.foot && l.foot ≤ 256 && l.foot_ ≤ 1024 * l.foot))
  && (if l.pop then l.cores_ && l.popcap == l.b * l.n else l.popcap == 0)
  && l.priv % 16 == 0
  && (List.range 16).all (fun i => bits (at_ bs (448 + 16 * i) 8) 62 57 == 0)
  && 1 ≤ l.perCore && l.acc ≤ 8
  && (!user || l.job == job)

/-- A graph or phase record: list VA, count, counter VA; none where it is invalid (R299). -/
def listRecord (bs : List Byte) : Option (Nat × Nat × Nat) :=
  if zeros bs 10 8 && zeros bs 26 38 && 1 ≤ at_ bs 8 2 && at_ bs 8 2 ≤ 255 then some (at_ bs 0 8, at_ bs 8 2, at_ bs 18 8) else none

/-- What became of a submission: the status of R283, or parked on a VA by a rung-1 fault, or a rung-3 fault. -/
inductive SubRes
  | ask (va pkg : Nat)
  | status (n : Nat)
  | parked (e : ReadErr)
  | failed (e : ReadErr)
  deriving DecidableEq, Repr, Inhabited

/-- Bytes of an element of a collective's DTYPE (R321). -/
def collSize : Nat → Nat
  | 0 | 2 | 4 => 4
  | 1 | 3 => 8
  | 5 | 6 => 2
  | 7 => 16
  | _ => 1

/-- Offset of the lowest field of a collective descriptor that breaks R320, R321 or R328, as far as the descriptor alone shows. -/
def collBad (d : List Byte) : Option Nat :=
  let f (o n : Nat) : Nat := at_ d o n
  let op := f 8 1
  let ty := f 9 1 % 16
  let sf := f 9 1 / 16
  let ro := f 10 1
  let red := op ≤ 1
  let checks : List (Bool × Nat) :=
    [(op > 6, 8),
     (ty > 8 || sf > 4 || (red && ro ≥ 3 && ro ≤ 5 && 4 ≤ ty && ty ≤ 7) || (red && ty == 7 && ro != 0)
       || (op == 5 && (ty == 7 || ty == 8)) || (sf != 0 && ((op != 2 && op != 3) || (ty != 4 && ty != 5))), 9),
     (ro > 5, 10),
     (f 11 1 > 3, 11),
     (f 12 2 == 0 || f 12 2 > 4096, 12),
     (f 14 2 ≥ f 12 2, 14),
     ((op == 1 && f 12 2 != 0 && f 40 8 % f 12 2 != 0) || (1 ≤ sf && sf ≤ 3 && f 40 8 % 24 != 0) || (sf == 4 && f 40 8 % 2 != 0), 40),
     (!((List.range 9).any fun i => f 48 4 == 4096 <<< i), 48),
     ((f 64 8 != 0 || bitOf (f 11 1) 1) && f 72 4 == 0, 72),
     (op == 3 && f 76 2 ≥ f 12 2, 76),
     (op == 5 && (f 78 2 == 0 || f 78 2 > f 12 2 * f 40 8), 78),
     (op != 4 && op != 6 && sf != 4 && f 80 8 != 0, 80),
     (!zeros d 112 16, 112)]
  (checks.find? fun c => c.1).map fun c => c.2

/-- Two equal numbers stand in a list. -/
def repeats : List Nat → Bool
  | [] => false
  | x :: r => r.contains x || repeats r

/-- 2-byte numbers of a list. -/
def halves (bs : List Byte) : List Nat := (List.range (bs.length / 2)).map fun i => at_ bs (2 * i) 2

/-- What a record's COLLBIND names (R325): the binding's bytes, its descriptor, RANKS and the targets of a permute. -/
structure Bound where
  bind  : List Byte
  d     : List Byte
  ranks : List Nat
  aux   : List Nat
  deriving DecidableEq, Repr, Inhabited

/-- The binding breaks R320, R321 or R325: its reserved bytes, its descriptor's own limits, FLAGS.BOUND, its lists. -/
def Bound.bad (b : Bound) : Bool :=
  !zeros b.bind 12 4 || at_ b.bind 0 8 % 128 != 0 || (collBad b.d).isSome || !bitOf (at_ b.d 11 1) 1 || repeats b.ranks
    || (at_ b.d 8 1 == 4 && (repeats b.aux || b.aux.any fun t => at_ b.d 12 2 ≤ t))

/-- The binding and what it points to, read with the record; none where it is no binding (R297, R325). -/
def boundAt (s : State) (job : Nat) (user : Bool) (l : Launch) : State × Except ReadErr (Option Bound) :=
  match readAs s 0 job l.collbind user 0x0506 16 with
  | (s, .error e) => (s, .error e)
  | (s, .ok bb) => match readAs s 0 job (at_ bb 0 8) user 0x0506 128 with
    | (s, .error e) => (s, .error e)
    | (s, .ok d) =>
      if (collBad d).isSome then (s, .ok none)
      else match readAs s 0 job (at_ d 16 8) user 0x0504 (2 * at_ d 12 2) with
        | (s, .error e) => (s, .error e)
        | (s, .ok rb) =>
          let done (s : State) (aux : List Nat) : State × Except ReadErr (Option Bound) :=
            let b : Bound := { bind := bb, d := d, ranks := halves rb, aux := aux }
            (s, .ok (if b.bad then none else some b))
          if at_ d 8 1 == 4 then match readAs s 0 job (at_ d 80 8) user 0x0504 (2 * at_ d 12 2) with
            | (s, .error e) => (s, .error e)
            | (s, .ok ab) => done s (halves ab)
          else done s []

/-- The binding is this package's: its rank stands here (R320). -/
def Bound.here (s : State) (b : Bound) : Bool := b.ranks.getD (at_ b.d 14 2) 65536 == s.pkg

/-- The launch record at a VA, with the collective binding that it names, where it is valid (R298, R325). A binding of a grid without the
span flag has its rank on the package. -/
def launchAt (s : State) (va job : Nat) (user : Bool) : State × Except ReadErr (Option Launch) :=
  if va % 64 != 0 || va ≥ 2 ^ 57 then (s, .ok none)
  else match readAs s 0 job va user 0x0506 768 with
    | (s, .error e) => (s, .error (recordErr s job va user e))
    | (s, .ok bs) =>
      if !launchValid bs user job then (s, .ok none)
      else if (launchOf bs).collbind == 0 then (s, .ok (some (launchOf bs)))
      else match boundAt s job user (launchOf bs) with
        | (s, .error e) => (s, .error (recordErr s job va user e))
        | (s, .ok none) => (s, .ok none)
        | (s, .ok (some b)) => (s, .ok (if (launchOf bs).span || b.here s then some (launchOf bs) else none))

/-- The launches a list names, in order; none where any is invalid (R299). -/
def launchesAt (s : State) (job : Nat) (user : Bool) : List Nat → State × Except ReadErr (Option (List (Nat × Launch)))
  | [] => (s, .ok (some []))
  | va :: r =>
    match launchAt s va job user with
    | (s, .error e) => (s, .error e)
    | (s, .ok none) => (s, .ok none)
    | (s, .ok (some l)) => match launchesAt s job user r with
      | (s, .ok (some ls)) => (s, .ok (some ((va, l) :: ls)))
      | e => e

/-- A list of VAs as a record names it. -/
def vasAt (s : State) (va n job : Nat) (user : Bool) : State × Except ReadErr (List Nat) :=
  match readAs s 0 job va user 0x0504 (8 * n) with
  | (s, .error e) => (s, .error e)
  | (s, .ok bs) => (s, .ok ((List.range n).map fun i => at_ bs (8 * i) 8))

/-- A graph: its counter and launches (R299). -/
def graphAt (s : State) (va job : Nat) (user : Bool) : State × Except ReadErr (Option (Nat × List (Nat × Launch))) :=
  if va % 64 != 0 || va ≥ 2 ^ 57 then (s, .ok none)
  else match readAs s 0 job va user 0x0504 64 with
    | (s, .error e) => (s, .error e)
    | (s, .ok bs) => match listRecord bs with
      | none => (s, .ok none)
      | some (lv, n, c) => match vasAt s lv n job user with
        | (s, .error e) => (s, .error e)
        | (s, .ok vs) => match launchesAt s job user vs with
          | (s, .error e) => (s, .error e)
          | (s, .ok none) => (s, .ok none)
          | (s, .ok (some ls)) => (s, .ok (some (c, ls)))

/-- The graphs of a phase in order (R299). -/
def graphsAt (s : State) (job : Nat) (user : Bool) : List Nat → State × Except ReadErr (Option (List (Nat × List (Nat × Launch))))
  | [] => (s, .ok (some []))
  | va :: r =>
    match graphAt s va job user with
    | (s, .error e) => (s, .error e)
    | (s, .ok none) => (s, .ok none)
    | (s, .ok (some g)) => match graphsAt s job user r with
      | (s, .ok (some gs)) => (s, .ok (some (g :: gs)))
      | e => e

/-- Records enter their class queues at the tail; nothing is entered where any queue would pass 256 (R297, R299). -/
def enqueue (s : State) (subs : List Sub) : Option State :=
  if (List.range 4).any fun c => ((s.queues.getD c []).length + (subs.filter fun x => x.l.cls == c).length) > 256 then none
  else some { s with queues := (List.range 4).map fun c => s.queues.getD c [] ++ subs.filter fun x => x.l.cls == c }

/-- A queue record of an invalid submission (R393). -/
def invalidRec (s : State) (x : Sub) : State := queueRec s 0 (unitRec s 0x0730 (BitVec.ofNat 64 x.va) 0xFFFF 0 x.job)

/-- A launch of a submission. -/
def subOf (x : Sub) (unit va : Nat) (l : Launch) : Sub := { x with kind := 0, va := va, unit := unit, l := l, pend := 0, token := 0, host := false }

/-- One submission read, checked and entered (R283, R297, R299, R393). -/
def submit (s : State) (x : Sub) : State × SubRes :=
  let bad (e : ReadErr) : SubRes :=
    if e.code == 0 then .ask e.va e.detail.toNat else if rungOf e.code == 1 then .parked e else .failed e
  match x.kind with
  | 0 => match launchAt s x.va x.job x.user with
    | (s, .error e) => (s, bad e)
    | (s, .ok none) => (invalidRec s x, .status 1)
    | (s, .ok (some l)) => match enqueue s [subOf x x.unit x.va l] with
      | none => (s, .status 2)
      | some s => (s, .status 0)
  | 2 => match graphAt s x.va x.job x.user with
    | (s, .error e) => (s, bad e)
    | (s, .ok none) => (invalidRec s x, .status 1)
    | (s, .ok (some (c, ls))) =>
      match enqueue s (ls.map fun l => subOf x s.nextId l.1 l.2) with
      | none => (s, .status 2)
      | some s =>
        ({ s with
          nextId := s.nextId + 1
          units := s.units ++ [{ id := s.nextId, level := 1, parent := 0, job := x.job, user := x.user, counter := c,
                                 left := ls.length, done := [], decided := false }] }, .status 0)
  | _ =>
    if x.va % 64 != 0 || x.va ≥ 2 ^ 57 then (invalidRec s x, .status 1)
    else match readAs s 0 x.job x.va x.user 0x0504 64 with
      | (s, .error e) => (s, bad e)
      | (s, .ok bs) => match listRecord bs with
        | none => (invalidRec s x, .status 1)
        | some (lv, n, c) => match vasAt s lv n x.job x.user with
          | (s, .error e) => (s, bad e)
          | (s, .ok vs) => match graphsAt s x.job x.user vs with
            | (s, .error e) => (s, bad e)
            | (s, .ok none) => (invalidRec s x, .status 1)
            | (s, .ok (some gs)) =>
              let ph := s.nextId
              let subs := gs.zipIdx.flatMap fun g => g.1.2.map fun l => subOf x (ph + 1 + g.2) l.1 l.2
              match enqueue s subs with
              | none => (s, .status 2)
              | some s =>
                let top := ((s.units.find? fun u => u.level == 3 && u.job == x.job).map fun u => u.id).getD 0
                ({ s with
                  nextId := ph + 1 + gs.length
                  units := (s.units.map fun (u : WUnit) => if u.level == 3 && u.id == top then { u with left := u.left + 1 } else u)
                    ++ [{ id := ph, level := 2, parent := top, job := x.job, user := x.user, counter := c, left := gs.length
                          done := [], decided := false }]
                    ++ gs.zipIdx.map fun g => { id := ph + 1 + g.2, level := 1, parent := ph, job := x.job, user := x.user,
                                                counter := g.1.1, left := g.1.2.length, done := [], decided := false } }, .status 0)

/-- A READ of the 128-byte line of a VA sent for the dispatcher, once. -/
def dispAsk (s : State) (job : Nat) (user : Bool) (va pkg : Nat) : State :=
  let lva := va / 128 * 128
  if pkg == s.pkg || s.engAsks.any (fun a => a.op == dispOp && a.va == lva) then s
  else
    let (s, p) := sendPacket s { blankPacket with
      typ := 3, dst := pkg, base := BitVec.ofNat 64 lva, job := job, user := user, tspec := tspecOf [(0, 4, 16)] }
    { s with engAsks := s.engAsks ++ [{ dst := pkg, seq := p.seq, op := dispOp, va := lva, n := 16, recVa := va }] }

/-- Token of a submission that waits for bytes of another package. -/
def askTok : Nat := 2 ^ 34

/-- A submission made: entered, or kept parked on a wait-table entry of die 0 until a REPLAY (R297). A rung-3 fault of the reading
writes one record and answers status 1; the completion signal it decides is the second answer, 0 for none. -/
def submitNow (s : State) (x : Sub) : State × Option Nat × Nat :=
  match submit s x with
  | (s, .status n) => (s, some n, 0)
  | (s, .failed e) =>
    (queueRec s 0 (unitRec s e.code (BitVec.ofNat 64 e.va) (e.detailOr (7 + x.va <<< 4)) 0 x.job), some 1, e.compl)
  | (s, .ask va pkg) => ({ dispAsk s x.job x.user va pkg with subs := s.subs ++ [{ x with token := askTok }] }, none, 0)
  | (s, .parked e) =>
    let (s, tok, new) := waitEntry s 0 x.job (e.va / 2 ^ 16)
    let s := { s with subs := s.subs ++ [{ x with token := tok }] }
    (if new then
      queueRec s 0 { unitRec s e.code (BitVec.ofNat 64 e.va) (e.detailOr (7 + x.va <<< 4)) 0 x.job with
        flags := 1, token := tok, entry := some (bits tok 29 20) }
     else s, none, 0)

end Sys2Proof.Machine
end

