-- ==== Sys2Proof/Machine/Write.lean ====
section
/-! DEFINITION. Performing writes at this package: page state (R343, R344), signal objects, waits and armed actions (R231 to R233), full
bits and the loads that wait for them (R73, R217), and a thread's own outstanding stores (R102, R210). -/

namespace Sys2Proof.Machine

open Sys2Proof

/-- Address and value of the leaf entry of a VA in the package's tables. -/
def leafOf (s : State) (job va : Nat) : Option (Nat × Word) :=
  match jobRoot s job with
  | none => none
  | some r => (walk s.mem r va).toOption

/-- Writes to the page are held at the home slice: SNAPST COW or LOGGED (R343). -/
def writeHeld (s : State) (job va : Nat) : Bool :=
  ((leafOf s job va).map fun e => pteSnap e.2 == 1 || pteSnap e.2 == 3).getD false

/-- A write to a page whose DSM is 0 sets DSM (R344). -/
def noteDsm (s : State) (job va : Nat) : State :=
  match leafOf s job va with
  | some (a, e) => if pteP e && !pteDsm e then { s with mem := s.mem.putLeaf a (pteSet e 28 28 1) } else s
  | none => s

/- Signal objects (R231). -/

/-- COUNT as a signed number. -/
def sigCount (w : Word) : Int := sgn 60 (w.toNat % 2 ^ 60)

/-- ERR. -/
def sigErr (w : Word) : Bool := w.getLsbD 63

/-- STATUS. -/
def sigStatus (w : Word) : Nat := bits w.toNat 62 60

/-- COUNT replaced, wrapping modulo 2^60 (R232). -/
def sigWith (w : Word) (c : Int) : Word := pteSet w 59 0 (wrap 60 c)

/-- COUNT − 1 with a completion's status (R231). -/
def sigDone (w : Word) (status : Nat) : Word :=
  let w := sigWith w (sigCount w - 1)
  if status == 0 then w else pteSet (pteSet w 62 60 status) 63 63 1

/-- A SIGWAIT's condition (R232). -/
def sigMet (w : Word) (t : Int) : Bool := sigCount w ≤ t || sigErr w

/-- The die that holds a PA's home slice (R25). -/
def homeDie (pa : Nat) : Nat := pa / 2 ^ 36 / 2 % 4

/-- The home slice of a line on its die (R25). Every write to the line takes its place in the line's coherence order there (R26, R102): in
this model in the step that performs it, so that slices of one die need no state of their own. -/
def homeSlice (pa : Nat) : Nat := bits pa 10 7 ^^^ bits pa 14 11 ^^^ bits pa 18 15 ^^^ bits pa 22 19

/-- A SIGWAIT of another package that is satisfied is answered (R232). -/
def answerWait (s : State) (p : Pend) (w : Word) : State :=
  match s.remWaits.find? fun x => x.1 == p.id with
  | some x => answer { s with remWaits := s.remWaits.filter fun y => y.1 != p.id } x.2 9 (atomrFs x.2 w.toNat 0) [] []
  | none => s

/-- What an outstanding result waits for, replaced. -/
def setKind (s : State) (id : Nat) (k : PendKind) : State :=
  { s with pend := replaceFirst (fun p => p.id == id) (fun p => { p with kind := k }) s.pend }

/-- No .sc operation of the order with an earlier ticket is outstanding (R112). -/
def scTurn (s : State) (pod : Bool) (n : Nat) : Bool := !s.scOut.any fun x => x.1 == pod && x.2.1 < n && s.waitsOn x.2.2

/-- A result takes the next ticket of the die-0 sequencer (R112). -/
def drawTicket (s : State) (id : Nat) : State :=
  { s with scNext := s.scNext + 1, scOut := (s.scOut.filter fun x => s.waitsOn x.2.2) ++ [(false, s.scNext, id)] }

/-- SIGWAITs on the word that are now satisfied complete with it; one of order sc takes its ticket, of the die-0 sequencer or the Halyard,
and reads the word again in its turn (R112, R232). -/
def wakeWaits (s : State) (pa : Nat) : State :=
  let w := BitVec.ofNat 64 (s.mem.num pa 8)
  s.pend.foldl (fun s p => match p.kind with
    | .signal q od sc t =>
      if q == pa && sigMet w t then
        (if od = .sc && sc = .pod then sendEvent (setKind s p.id .scTicket) (.ticket (evHdr s (s.jobOf p.who.grid)))
         else if od = .sc && !scTurn s false s.scNext then drawTicket (setKind s p.id .held) p.id
         else answerWait (complete s p [(p.acc.d, w)] 0) p w)
      else s
    | _ => s) s

/-- Armed entries of the word that a fall of COUNT from `old` to `new` crosses: nearest the old value first, equal thresholds in arming
order (R233). -/
def crossed (arms : List Arm) (pa : Nat) (old new : Int) : List Arm :=
  sortBy (fun a b => a.t ≥ b.t) (arms.filter fun a => a.obj == pa && a.t < old && new ≤ a.t)

/-- Token of a signal decrement that is held at the home slice while its page moves or is preserved, for a unit of a die (R65, R343). -/
def heldTok (die : Nat) : Nat := 2 ^ 37 + die

/-- A fault of a unit's access to a signal object, at the die that makes it: rung 1 parks the decrement on a wait-table entry, rung 3 drops
it with one record of access kind 8 (R231). -/
def sigFault (s : State) (die job : Nat) (user : Bool) (va status code : Nat) : State :=
  if rungOf code == 1 then
    let (s, tok, new) := waitEntry s die job (va / 2 ^ 16)
    let s := { s with sigHeld := s.sigHeld ++ [(job, user, va, status, tok)] }
    if new then queueRec s die { unitRec s code (BitVec.ofNat 64 va) 8 0 job with flags := 1, token := tok, entry := some (bits tok 29 20) }
    else s
  else queueRec s die (unitRec s code (BitVec.ofNat 64 va) 8 0 job)

/-- A signal operation as an ATOM packet toward another package: operation number 16 + o (log 15). -/
def sigPacket (job : Nat) (user : Bool) (dst va o x y score : Nat) : Packet :=
  { blankPacket with typ := 8, dst := dst, vc := 0, score := score, n := 1, base := BitVec.ofNat 64 va, job := job, user := user
                     tspec := tspecOf [(0, 1, 16 + o), (8, 8, x), (16, 8, y)] }

/-- An address in the windows (R57, R58). -/
def inWindow (va : Nat) : Bool := va / 2 ^ 48 % 2 ^ 9 == 0x0FF

/-- Where a unit's aligned write of n bytes goes (R208, R231, R402): an address beyond the space, in a window or misaligned is a fault; a
page that moves or is being preserved holds it. -/
def unitPlace (s : State) (die job va n : Nat) (user : Bool) : State × XRes :=
  if va + n > 2 ^ 57 then (s, .bad 0x0404)
  else if inWindow va then (s, .bad 0x0405)
  else if va % n != 0 then (s, .bad 0x0408)
  else match translate s die job [] va true user with
    | (s, .here pa e) => (s, if writeHeld s job va then .held else .here pa e)
    | x => x

/-- A decrement of a signal object with a status, made by a unit of a die as an access of the job in the given mode (R231); `put` writes
the word. -/
def sigApply (put : State → Nat → Word → State) (s : State) (die job : Nat) (user : Bool) (va status : Nat) : State :=
  match unitPlace s die job va 8 user with
  | (s, .here pa _) =>
    if s.mem.bad pa 8 then sigFault s die job user va status 0x0503
    else put (noteDsm s job va) pa (sigDone (BitVec.ofNat 64 (s.mem.num pa 8)) status)
  | (s, .away p) => (sendPacket s (sigPacket job user p va 3 status 0 0x3FF)).1
  | (s, .held) => { s with sigHeld := s.sigHeld ++ [(job, user, va, status, heldTok die)] }
  | (s, .bad c) => sigFault s die job user va status c

/-- The action of an armed entry (R233): kind 0 decrements a signal object; kind 1 submits a launch record, and where its reading fails
decrements the record's COMPL with FAULT (R297, R410). -/
def fireArm (put : State → Nat → Word → State) (die : Nat) (s : State) (a : Arm) : State :=
  if a.kind == 0 then sigApply put s die a.job a.user a.addr 0
  else
    let (s, _, c) := submitNow s { kind := 0, va := a.addr, job := a.job, user := a.user, unit := 0, pend := 0, token := 0
                                   sent := false, host := false, l := default, handle := none }
    if c == 0 then s else sigApply put s die a.job a.user c 3

/-- While matrix entries are outstanding, written granules are noted with the number of the write (R118). -/
def noteOperand (s : State) (num g0 n : Nat) : State :=
  if s.clusters.any (fun c => !c.2.isEmpty) || !s.aside.isEmpty then
    { s with opWrites := s.opWrites ++ (List.range n).map fun i => (g0 + i, num) }
  else { s with opWrites := [] }

/-- Granule number of a scratchpad byte among the noted writes. -/
def scratchGran (grid bidx off : Nat) : Nat := 2 ^ 40 + (grid * 2 ^ 64 + bidx) * 2 ^ 15 + off / 8

/-- A word written at this package, with what hangs on it: satisfied waits, crossed thresholds and their actions after the crossing
write (R233). `fuel`: armed entries that may still fire. -/
def wordWrite : Nat → State → Nat → Word → State
  | 0, s, pa, v =>
    let s := noteOperand s s.nextId (pa / 8) 1
    wakeWaits { s with mem := s.mem.put pa (leBytes v.toNat 8) } pa
  | fuel + 1, s, pa, v =>
    let old := sigCount (BitVec.ofNat 64 (s.mem.num pa 8))
    let die := homeDie pa
    let hit := crossed (s.die die).arms pa old (sigCount v)
    let s := noteOperand s s.nextId (pa / 8) 1
    let s := wakeWaits { s with mem := s.mem.put pa (leBytes v.toNat 8) } pa
    let s := s.updDie die fun d => { d with arms := d.arms.filter fun a => !hit.contains a }
    hit.foldl (fireArm (wordWrite fuel) die) s

/-- Armed entries of the package. -/
def armCount (s : State) : Nat := ((List.range 4).map fun d => (s.die d).arms.length).sum

/-- A signal word written (R231 to R233). -/
def signalPut (s : State) (pa : Nat) (v : Word) : State := wordWrite (armCount s) s pa v

/-- An entry armed on the word at a PA: where COUNT is already at or below its threshold it fires at once, otherwise it joins the table of
the home slice's die (R233). -/
def armEntry (s : State) (a : Arm) : State :=
  if sigCount (BitVec.ofNat 64 (s.mem.num a.obj 8)) ≤ a.t then fireArm signalPut (homeDie a.obj) s a
  else s.updDie (homeDie a.obj) fun d => { d with arms := d.arms ++ [a] }

/-- A completion, a unit's counter or a cancellation decrements a signal object with its status, as an access of the job in the given
mode, made by a unit of a die (R231). -/
def signalDoneAt (s : State) (die job : Nat) (user : Bool) (va status : Nat) : State :=
  if va == 0 then s else sigApply signalPut s die job user va status

/-- As `signalDoneAt`, for a unit of the package's dispatcher, which stands on die 0 (R13; log 55). -/
def signalDone (s : State) (job : Nat) (user : Bool) (va status : Nat) : State := signalDoneAt s 0 job user va status

/-- After bytes of memory have changed, every word they touch is looked at by its waits and armed entries (R113, R233). -/
def afterWrite (s : State) (old : Memory) (pa n : Nat) : State :=
  (List.range ((pa + n + 7) / 8 - pa / 8)).foldl (fun s i =>
    let q := 8 * (pa / 8 + i)
    if s.pend.any (fun p => match p.kind with
        | .signal a _ _ _ => a == q
        | _ => false) || (s.die (homeDie q)).arms.any fun a => a.obj == q
    then
      let v := BitVec.ofNat 64 (s.mem.num q 8)
      wordWrite (armCount s) { s with mem := s.mem.writeNum q 8 (old.num q 8) } q v
    else s) s

/-- Bytes written to this package's memory, with sound seals (R76, R101), by the write of a number. -/
def memPutAs (s : State) (num pa : Nat) (bs : List Byte) : State :=
  let s := noteOperand s num (pa / 8) ((pa + bs.length + 7) / 8 - pa / 8)
  afterWrite { s with mem := s.mem.put pa bs } s.mem pa bs.length

/-- The same by a write made now. -/
def memPut (s : State) (pa : Nat) (bs : List Byte) : State := memPutAs s s.nextId pa bs

/- Full bits (R73, R217). -/

/-- A scratchpad load's value, zero-extended (R216). -/
def scratchVal (b : Block) (off n : Nat) : Word := BitVec.ofNat 64 (b.scratch.num off n)

/-- A load that waits for a granule of the block's scratchpad. -/
def waitsFull (grid bidx gran : Nat) (clr : Bool) (p : Pend) : Bool :=
  p.who.grid == grid && p.who.bidx == bidx &&
    (match p.kind with
      | .fullEmpty off _ c => off / 16 == gran && c == clr
      | _ => false)

/-- The bytes a waiting load reads. -/
def Pend.fullOf (p : Pend) : Nat × Nat := match p.kind with
  | .fullEmpty off n _ => (off, n)
  | _ => (0, 8)

/-- A thread whose access is dropped parks with TOKEN 0 (R456). -/
def parkDropped (s : State) (p : Pend) : State :=
  let s := { s with pend := s.pend.filter fun q => q.id != p.id }
  let gid := ((s.block? p.who.grid p.who.bidx).bind fun b => b.groups.find? fun g => (g.member? p.who.tid).isSome).map fun g => g.gid
  let s := s.updBlock p.who.grid p.who.bidx fun b => dropMember b (gid.getD 0) p.who.tid
  let s := s.updThread p.who fun (th : Thread) =>
    if th.status == .exited then th
    else if th.status == .shelved then { th with kept := .parked, parked := [(0, p.acc)], bar := none }
    else { th with status := .parked, parked := [(0, p.acc)], bar := none }
  settleGroup s p.who.grid p.who.bidx (gid.getD 0)

/-- An access that was let through at its issue faults when it is made at last (R65, R73, R140): as one that faults at another package, it
leaves its thread as it was, and waits on a wait-table entry for a rung-1 cause; a rung-3 cause drops it (R456; log 62). -/
def faultPend (s : State) (p : Pend) (code va : Nat) (detail : Word) : State :=
  match s.block? p.who.grid p.who.bidx with
  | none => s
  | some b =>
    let die := dieOf b.core
    let r : FRec := { threadRec s b p.hdr p.idx p.who.tid code (BitVec.ofNat 64 va) detail 1 with flags := 1 }
    if rungOf code == 1 then
      let (s, tok, new) := waitEntry s die (s.jobOf p.who.grid) (va / 2 ^ 16)
      let s := setKind s p.id (.onEntry tok)
      if new then queueRec s die { r with token := tok, entry := some (bits tok 29 20) } else s
    else parkDropped (queueRec s die r) p

/-- A waiting .wf or .wfc load takes its granule: its value, or SEAL cause 0x01 where a granule it reads fails its check (R76, R410). -/
def takeFull (s : State) (p : Pend) : State :=
  match s.block? p.who.grid p.who.bidx with
  | none => s
  | some b => match b.scratch.badAt p.fullOf.1 p.fullOf.2 with
    | some q =>
      faultPend s p 0x0501 (0x00FF000000000000 + 8 * q) (sealDetail (b.scratch.read (8 * q) 8) (8 * q) 0x0501 (b.scratch.err q))
    | none => complete s p [(p.acc.d, scratchVal b p.fullOf.1 p.fullOf.2)] 0

/-- A granule becomes full: every waiting .wf load completes, then the waiting .wfc load of lowest TID, which clears the bit (R73). -/
def granuleFull (s : State) (grid bidx gran : Nat) : State :=
  let s := s.updBlock grid bidx fun b => { b with full := markSet b.full gran true }
  let s := (s.pend.filter (waitsFull grid bidx gran false)).foldl takeFull s
  match sortBy (fun p q => p.who.tid ≤ q.who.tid) (s.pend.filter (waitsFull grid bidx gran true)) with
  | [] => s
  | p :: _ =>
    let t := takeFull s p
    if t.waitsOn p.id then t else t.updBlock grid bidx fun b => { b with full := markSet b.full gran false }

/-- Bytes written to a block's scratchpad by the write of a number; `set`: every granule touched becomes full (R73). -/
def scratchPutAs (s : State) (num grid bidx off : Nat) (bs : List Byte) (set : Bool) : State :=
  let s := noteOperand s num (scratchGran grid bidx off) ((off + bs.length + 7) / 8 - off / 8)
  let s := s.updBlock grid bidx fun b => { b with scratch := b.scratch.write off bs }
  if set then (List.range ((off + bs.length + 15) / 16 - off / 16)).foldl (fun s i => granuleFull s grid bidx (off / 16 + i)) s else s

/-- The same by a write made now. -/
def scratchPut (s : State) (grid bidx off : Nat) (bs : List Byte) (set : Bool) : State := scratchPutAs s s.nextId grid bidx off bs set

/- A thread's outstanding accesses (R102, R210). -/

/-- Bytes from ea. LDF is looked at page by page (R214). -/
def AccOp.size : AccOp → Nat
  | .ld n _ _ | .st n _ _ | .lds n _ | .sts n _ | .ldws n => n
  | .ldf _ => 1
  | .atom _ t _ _ => match t with
    | .d | .du => 8
    | .w | .wu => 4
  | _ => 8

/-- The bytes of the job's space an access reads or writes; of an LDF the line of its block (R83, R214). A SIGWAIT orders nothing after it
until it is satisfied. -/
def Acc.span (a : Acc) : Option (Nat × Nat) :=
  match a.op with
  | .ld _ _ _ | .st _ _ _ | .atom _ _ _ _ | .acq _ | .rel _ | .sig _ _ _ | .sigarm _ _ => some (a.ea.toNat, a.op.size)
  | .ldf _ => some (a.ea.toNat / 128 * 128, 128)
  | _ => none

/-- Two byte ranges share a byte. -/
def meets (a n b m : Nat) : Bool := a < b + m && b < a + n

/-- The result has not been read yet. -/
def PendKind.unread : PendKind → Bool
  | .remote _ _ | .held | .onEntry _ | .scTicket | .ticket => true
  | _ => false

/-- The thread has executed an AFLUSH before number `upTo` whose batch has still entries for some of the bytes (R121). -/
def flushBefore (s : State) (who : Tref) (upTo va n : Nat) : Bool :=
  s.pend.any fun p => p.who == who && p.id < upTo && (match p.kind with
    | .flush k => s.cores.any fun c => c.2.staged.any fun e =>
        e.who.grid == who.grid && e.who.bidx == who.bidx && e.batch ≤ k && meets e.va 4 va n
    | _ => false)

/-- An access of the thread before number `upTo` to some of the bytes is still to be made: outstanding, a flush of staged atomics, or an .ord
store in a ticket unit. -/
def accBefore (s : State) (who : Tref) (upTo va n : Nat) (tickets : Bool) : Bool :=
  flushBefore s who upTo va n ||
  s.pend.any (fun p => p.who == who && p.id < upTo && p.kind.unread && (match p.acc.span with
    | some x => meets x.1 x.2 va n
    | none => false))
  || tickets && (List.range 4).any fun d => (s.die d).tickets.any fun t =>
      t.who == who && t.id < upTo && meets t.acc.ea.toNat t.acc.op.size va n

/-- A write-combining line holds a store of the thread before number `upTo`. -/
def WcLine.of (l : WcLine) (who : Tref) (upTo : Nat) : Bool := l.whos.any fun w => w.2 == who && w.1 < upTo

/-- Stores of the thread before number `upTo` to other packages are in a write-combining buffer or not yet answered (R119, R210). -/
def linesBefore (s : State) (who : Tref) (upTo : Nat) : Bool :=
  s.cores.any (fun c => c.2.wc.any fun l => l.of who upTo) || s.inFlight.any fun f => f.2.2.of who upTo

/-- A line holds some of the bytes. -/
def WcLine.meets (l : WcLine) (job va n : Nat) : Bool := l.job == job && l.bytes.any fun x => va ≤ l.va + x.1 && l.va + x.1 < va + n

/-- A line with a store of the thread before number `upTo` holds some of the bytes, in a buffer or on its way (R102, R455). -/
def lineBefore (s : State) (who : Tref) (upTo job va n : Nat) : Bool :=
  s.cores.any (fun c => c.2.wc.any fun l => l.of who upTo && l.meets job va n)
    || s.inFlight.any fun f => f.2.2.of who upTo && f.2.2.meets job va n

/-- Stores of the thread before number `upTo` are not yet performed. -/
def storesBefore (s : State) (who : Tref) (upTo : Nat) : Bool :=
  s.writes.any (fun w => w.who == who && w.id < upTo) || linesBefore s who upTo

/-- A piece of store `id` is outstanding. -/
def pieceOut (s : State) (who : Tref) (id : Nat) : Bool :=
  s.writes.any (fun w => w.who == who && w.id == id) || s.cores.any (fun c => c.2.wc.any fun l => l.whos.contains (id, who))
    || s.inFlight.any fun f => f.2.2.whos.contains (id, who)

/-- A piece of a store is performed, or dropped: with the last one the thread's store count falls (R210). -/
def storeGone (s : State) (who : Tref) (id : Nat) : State :=
  if pieceOut s who id then s else s.updThread who fun th => { th with stores := th.stores - 1 }

/-- The page of a store has left this package, or is leaving it (R65, R70). -/
def pageLeft (s : State) (job va : Nat) : Bool := ((leafOf s job va).map fun e => pteP e.2 && 2 ≤ ptePlace e.2).getD false

/-- The store is performed. -/
def writeDone (s : State) (w : PWrite) : State :=
  storeGone { s with writes := s.writes.filter fun x => x != w } w.who w.id

/-- The granules of a write that it covers only in part (R77). -/
def partGranules (a n : Nat) : List Nat :=
  let q0 := a / 8
  let q1 := (a + n - 1) / 8
  (if q0 == q1 then [q0] else [q0, q1]).filter fun q => !(a ≤ 8 * q && 8 * q + 8 ≤ a + n)

/-- An issued store faults when it is performed (R65, R77): its granules wait on an entry of the die, and its thread does not park; a rung-3
cause drops it (as R456; log 62). -/
def faultWrite (s : State) (w : PWrite) (code va : Nat) (detail : Word) : State :=
  let core := ((s.block? w.who.grid w.who.bidx).map fun b => b.core).getD 0
  let die := dieOf core
  let r : FRec := { unitRec s code (BitVec.ofNat 64 va) detail w.who.grid w.job with core := core, tid := w.who.tid, bidx := w.who.bidx }
  if rungOf code == 1 then
    let (s, tok, new) := waitEntry s die w.job (va / 2 ^ 16)
    let s := { s with writes := replaceFirst (fun x => x == w) (fun x => { x with token := tok }) s.writes }
    if new then queueRec s die { r with flags := 1, token := tok, entry := some (bits tok 29 20) } else s
  else writeDone (queueRec s die r) w

/-- A store performed at a PA of this package, after the old seals of the granules it covers in part are checked (R77). -/
def performAt (s : State) (w : PWrite) (pa : Nat) : State :=
  match (partGranules pa w.bytes.length).find? fun q => s.mem.err q != 0 with
  | some q => faultWrite s w 0x0502 (w.va + 8 * q - pa) (sealDetail (s.mem.read (8 * q) 8) (8 * q) 0x0502 (s.mem.err q))
  | none => writeDone (memPutAs (noteDsm s w.job w.va) w.id pa w.bytes) w

/-- A store whose page moves, translated again: performed here, or, where the page has moved to another package, sent on as a WRITE whose
answer ends it (R65, R70). -/
def performMoved (s : State) (w : PWrite) : State :=
  match translate s 0 w.job [] w.va true false with
  | (s, .here a _) => if writeHeld s w.job w.va then s else performAt s w a
  | (s, .away p) =>
    let core := ((s.block? w.who.grid w.who.bidx).map fun b => b.core).getD 0x3FF
    let line : WcLine := { peer := p, job := w.job, user := ((s.grid? w.who.grid).map fun g => g.user).getD false, va := w.va / 128 * 128
                           bytes := w.bytes.zipIdx.map fun z => (w.va % 128 + z.2, z.1), whos := [(w.id, w.who)], born := s.now }
    let (s, pk) := sendPacket s (wcPacket core line)
    { s with inFlight := s.inFlight ++ [(p, pk.seq, line)], writes := s.writes.filter fun x => x != w }
  | (s, .held) => s
  | (s, .bad c) => faultWrite s w c w.va 1

/-- One outstanding store performed: the bytes written, the store count one lower; held while its page is (R65, R343). -/
def performWrite (s : State) (w : PWrite) : State :=
  match w.place with
  | .scratch a => writeDone (scratchPutAs s w.id w.who.grid w.who.bidx a w.bytes w.set) w
  | .pa a =>
    if pageLeft s w.job w.va then performMoved s w
    else if writeHeld s w.job w.va then s
    else performAt s w a
  | .held => performMoved s w

/-- Two outstanding stores write a byte in common, both in memory or both in the scratchpad. -/
def overlaps (a b : PWrite) : Bool :=
  (match a.place, b.place with
    | .scratch _, .scratch _ => true
    | .scratch _, _ => false
    | _, .scratch _ => false
    | _, _ => true)
  && meets a.va a.bytes.length b.va b.bytes.length

/-- Store x is performed before store w: an earlier store of the thread to the same bytes (R102), of a lane of lower TID in the same
instruction (R209: a store of the block issued in the same cycle); before an STS.sf, a release, every earlier store of the thread
(R108, R115). -/
def PWrite.before (x w : PWrite) : Bool :=
  x.id < w.id && ((x.who == w.who && (w.set || overlaps x w))
    || (x.who.grid == w.who.grid && x.who.bidx == w.who.bidx && x.at_ == w.at_ && overlaps x w))

/-- The place is in the block's scratchpad. -/
def Place.isScratch : Place → Bool
  | .scratch _ => true
  | _ => false

/-- A store cannot be performed yet: it is parked, or something that precedes it is outstanding: a store as `PWrite.before` says; an earlier
access of its thread to the same bytes (R102, R103), an .ord store or a store to another package among them; for an STS.sf every store
of its thread to other packages (R115). -/
def PWrite.blocked (s : State) (w : PWrite) : Bool :=
  w.token != 0 || s.writes.any (fun x => x.before w) || (w.set && linesBefore s w.who w.id)
    || (!w.place.isScratch && (accBefore s w.who w.id w.va w.bytes.length true || lineBefore s w.who w.id w.job w.va w.bytes.length))

/-- The thread's write-combining lines are sent (R317). -/
def sendOwn (s : State) (core : Nat) (who : Tref) : State := sendLines s core fun l => l.whos.any fun w => w.2 == who

/-- An outstanding store performed after those that precede it, as far as they can be. `fuel`: outstanding stores. -/
def performAfter : Nat → State → PWrite → State
  | 0, s, _ => s
  | fuel + 1, s, w =>
    let s := (s.writes.filter fun x => x.before w).foldl (performAfter fuel) s
    if s.writes.contains w && !w.blocked s then performWrite s w else s

/-- An outstanding store performed if nothing that precedes it keeps it; before an STS.sf the thread's lines are sent. -/
def performStore (s : State) (w : PWrite) : State :=
  let s := if w.set then sendOwn s (((s.block? w.who.grid w.who.bidx).map fun b => b.core).getD 0) w.who else s
  performAfter (s.writes.length + 1) s w

/-- The outstanding stores of a thread performed, as far as they can be (R45, R108, R111). -/
def drainThread (s : State) (who : Tref) : State := (s.writes.filter fun x => x.who == who).foldl performStore s

/-- As `drainThread`, and the thread's write-combining lines sent: what a release asks for (R108, R111, R119). It is complete when
`storesBefore` is false. -/
def flushThread (s : State) (core : Nat) (who : Tref) : State := sendOwn (drainThread s who) core who

end Sys2Proof.Machine
end

