-- ==== Sys2Proof/Machine/Heat.lean ====
section
/-! DEFINITION. Access counts and the placement engine (R65, R68 to R71): counting, the cost comparison, the start of a migration or
replication; shootdown at this package (R62). -/

namespace Sys2Proof.Machine

open Sys2Proof

/-- A page named by a shootdown: itself, or its 2 MiB group. -/
def samePage (page : Nat) (size : Bool) (q : Nat) : Bool := page == q || (size && page / 32 == q / 32)

/-- The extent overlaps a page, or the 2 MiB page it may be a part of: the frames of such a page are congruent to its addresses (R59, R62; log
23). -/
def Extent.meetsPage (x : Extent) (page : Nat) : Bool :=
  (x.vabase ≤ page && page < x.vabase + x.pages)
    || (x.frame % 32 == x.vabase % 32 && x.vabase / 32 ≤ page / 32 && page / 32 ≤ (x.vabase + x.pages - 1) / 32)

/-- The table with the extents that overlap a page no longer valid. -/
def clearPage (page : Nat) (xs : List Extent) : List Extent := xs.map fun (x : Extent) => if x.meetsPage page then { x with v := false } else x

/-- Cached translations of a page are invalidated on the dies that meet p, extents that overlap it on the cores that meet q (R62). -/
def shootOn (s : State) (job page : Nat) (p q : Nat → Bool) : State :=
  let s := ((List.range 4).filter p).foldl (fun s d => s.updDie d fun x =>
    { x with tlb := x.tlb.filter fun t => !(t.job == job && samePage page (pteSize t.pte) t.page) }) s
  { s with
    blocks := s.blocks.map fun (b : Block) =>
      if s.jobOf b.grid == job && q b.core then
        { b with extents := clearPage page b.extents } else b
    grids := s.grids.map fun (g : Grid) => if g.l.job == job then { g with table := g.table.map (clearPage page) } else g }

/-- A shootdown applied to this package's own cores. -/
def shootHere (s : State) (job page : Nat) : State := shootOn s job page (fun _ => true) fun _ => true

/-- A shootdown of a page in every address space: SHOOT names a VA and no job (R285; log 23). -/
def shootAny (s : State) (page : Nat) (p q : Nat → Bool) : State :=
  let s := ((List.range 4).filter p).foldl (fun s d => s.updDie d fun x =>
    { x with tlb := x.tlb.filter fun t => !samePage page (pteSize t.pte) t.page }) s
  { s with
    blocks := s.blocks.map fun (b : Block) =>
      if q b.core then
        { b with extents := clearPage page b.extents } else b
    grids := s.grids.map fun (g : Grid) => { g with table := g.table.map (clearPage page) } }

/-- The leaf entry of a page replaced. -/
def setLeaf (s : State) (job page : Nat) (f : Word → Word) : State :=
  match leafOf s job (page * 2 ^ 16) with
  | some (a, e) => { s with mem := s.mem.putLeaf a (f e) }
  | none => s

/- Counters (R68). -/

/-- Sum of an entry's counts. -/
def Heat.sum (h : Heat) : Nat := h.home + (h.reqs.map fun r => r.2).sum

/-- A 16-bit saturating count raised. -/
def up16 (n : Nat) : Nat := min 65535 (n + 1)

/-- A requester's slot raised; a new requester replaces the slot with the smallest count, of equal ones the higher package number. -/
def upSlot (reqs : List (Nat × Nat)) (q : Nat) : List (Nat × Nat) :=
  if reqs.any fun r => r.1 == q then reqs.map fun (r : Nat × Nat) => if r.1 == q then (q, up16 r.2) else r
  else if reqs.length < 4 then reqs ++ [(q, 1)]
  else match sortBy (fun (a b : Nat × Nat) => a.2 < b.2 || (a.2 == b.2 && a.1 ≥ b.1)) reqs with
    | [] => [(q, 1)]
    | r :: _ => reqs.map fun (x : Nat × Nat) => if x == r then (q, 1) else x

/-- One access counted in an entry. -/
def Heat.count (h : Heat) (me src : Nat) (write : Bool) : Heat :=
  let h := if write then { h with wr := up16 h.wr } else h
  if src == me then { h with home := up16 h.home } else { h with reqs := upSlot h.reqs src }

/-- The die's entries with one access counted; a page not yet tracked replaces the entry of smallest total where 16,384 are in use.
DESIGN CHOICE (log 72): of several entries with the smallest total the first listed goes, the one whose tracking began first; R68 ranks requester
slots only. -/
def countIn (hs : List Heat) (me job page src : Nat) (write : Bool) : List Heat :=
  if hs.any fun h => h.job == job && h.page == page then
    hs.map fun (h : Heat) => if h.job == job && h.page == page then h.count me src write else h
  else
    let hs := if hs.length < 16384 then hs
      else match sortBy (fun (a b : Heat) => a.sum ≤ b.sum) hs with
        | [] => []
        | x :: _ => hs.filter fun h => h != x
    hs ++ [({ job := job, page := page, home := 0, wr := 0, reqs := [] } : Heat).count me src write]

/- PLACE_WEIGHTS (R69). -/

def wEn (w : Word) : Bool := w.getLsbD 0
def wFt (w : Word) : Bool := w.getLsbD 1
def wThresh (w : Word) : Nat := max 1 (bits w.toNat 31 16)
def wReserve (w : Word) : Nat := bits w.toNat 39 36

/-- gain of R70. -/
def gainOf (w : Word) (a home depth : Nat) : Int :=
  (bits w.toNat 63 56 * a : Nat) - (bits w.toNat 55 48 * home : Nat) - (bits w.toNat 47 40 * depth : Nat)

/-- qdepth(q) of R70, 0 to 4,095: how many flits are queued is a matter of time, so it is a free value (log 9). -/
def queueDepth (s : State) : Nat := (Config.freeWord s.free).toNat % 4096

/- Moves (R70). -/

/-- The packets of a placement copy: WRITEs of whole granules with their seals, TSPEC byte 63 names the move, bytes 62:55 hold the home's
entry (log 18). -/
def movePackets (s : State) (job page : Nat) (e : Word) (dst op : Nat) (repl : Bool) : State :=
  let va := page * 2 ^ 16
  let pa := ptePa e va
  (List.range 256).foldl (fun s i =>
    let gs := (List.range 32).map fun k => (s.mem.read (pa + 256 * i + 8 * k) 8, s.mem.err ((pa + 256 * i) / 8 + k))
    let (s, p) := sendPacket s { blankPacket with
      typ := 1, dst := dst, n := 32, base := BitVec.ofNat 64 (va + 256 * i), job := job
      data := gs.map fun g => BitVec.ofNat 64 (leNat g.1)
      seals := gs.zipIdx.map fun g => seal8 g.1.1 (va + 256 * i + 8 * g.2) ^^^ g.1.2
      masks := gs.map fun _ => 0xFF
      tspec := tspecOf [(31, 1, if repl then 3 else 2), (23, 8, e.toNat)] }
    let line : WcLine := { peer := dst, job := job, user := false, va := va + 256 * i, bytes := [], whos := [engWho op], born := s.now }
    { s with inFlight := s.inFlight ++ [(dst, p.seq, line)] }) s

/-- A move begun: the home entry of a migration becomes MIGRATING and its own cores are shot down. -/
def startMove (s : State) (die job page : Nat) (e : Word) (dst : Nat) (repl : Bool) : State :=
  let op := s.nextId
  let s := { s with
    nextId := op + 1, moves := s.moves ++ [{ die := die, job := job, page := page, dst := dst, repl := repl, op := op, failed := false }] }
  let s := if repl then s else shootHere (setLeaf s job page fun x => pteSet x 23 22 3) job page
  movePackets s job page e dst op repl

/-- evaluate(page, q) of R70; it clears the page's counts (R68). A page in COW or LOGGED is not moved (R344). -/
def evaluate (s : State) (die job page : Nat) (e : Word) (h : Heat) (q : Nat) : State :=
  let w := s.placeWeights
  let depth := queueDepth s
  let s := { s.updDie die fun d => { d with heat := d.heat.map fun (x : Heat) =>
      if x.job == job && x.page == page then { x with home := 0, wr := 0, reqs := [] } else x } with free := s.free + 1 }
  let a := ((h.reqs.find? fun r => r.1 == q).map fun r => r.2).getD 0
  if !wEn w || wFt w || tget 0 s.lvls q < wReserve w || gainOf w a h.home depth ≤ 0 || pteSnap e == 1 || pteSnap e == 3
      || s.moves.any (fun m => m.job == job && m.page == page) then s
  else startMove s die job page e q (!pteW e && h.wr == 0)

/-- An access performed at this package, the home of a shared page of 64 KiB, is counted, and may set off an evaluation (R68, R70). -/
def noteHeat (s : State) (job va pa : Nat) (e : Word) (src : Nat) (write : Bool) : State :=
  if !wEn s.placeWeights || job == 0 || va / 2 ^ 56 == 1 || pteSize e || ptePlace e != 0 then s
  else
    let die := homeDie pa
    let page := va / 2 ^ 16
    let s := s.updDie die fun d => { d with heat := countIn d.heat s.pkg job page src write }
    if src == s.pkg then s
    else match (s.die die).heat.find? fun h => h.job == job && h.page == page with
      | none => s
      | some h =>
        if h.reqs.any (fun r => r.1 == src && wThresh s.placeWeights ≤ r.2) then
          evaluate s die job page (((leafOf s job va).map fun x => x.2).getD e) h src else s

end Sys2Proof.Machine
end

