-- ==== Sys2Proof/Machine/Issue.lean ====
section
/-! DEFINITION. The grouping stage and the issue arbiter (R37 to R43, R302), clause fetch and the clause-entry checks (R384 to R389), and
the instruction a group issues next. -/

namespace Sys2Proof.Machine

open Sys2Proof

/-- A fault of data translation as instruction fetch names it (R395): not present 0x81, U 0x82, everything else 0x80. -/
def fetchCode (c : Nat) : Nat :=
  if c == 0x0401 || c == 0x040C then 0x0481 else if c == 0x0403 then 0x0482 else if c == 0x0508 then c else 0x0480

/-- What a fetch that fails says: code, address, DETAIL (R395, R410). -/
abbrev FetchErr := Nat × Nat × Word

/-- The fault another package found in a code line, as it is kept: two bytes of the code, or with a bad seal also the granule in the line
and the record's DETAIL. -/
def lineErr (va : Nat) (bs : List Byte) : FetchErr :=
  let c := leNat (bs.take 2)
  if c / 256 == 5 && bs.length != 2 then (c, va / 128 * 128 + 8 * (bs.getD 2 0).toNat, BitVec.ofNat 64 (leNat (bs.drop 3)))
  else (if c / 256 == 5 then c else fetchCode c, va, 0)

/-- The word at a VA as the core fetches it (R76, R395); none where the line is not here yet (it is fetched from another package, or its
page is moving). -/
def fetchWord (s : State) (b : Block) (va : Nat) (user : Bool) : State × Option (Except FetchErr Word32) :=
  if va / 2 ^ 48 % 2 ^ 9 == 0x0FF then (s, some (.error (0x0480, va, 0)))
  else
    let (s, r) := translateCode s (dieOf b.core) (s.jobOf b.grid) b.extents va user
    match r with
    | .here pa _ => (s, some (match s.mem.badAt pa 4 with
      | some q => .error (0x0501, va + 8 * q - pa, sealDetail (s.mem.read (8 * q) 8) (8 * q) 0x0501 (s.mem.err q))
      | none => .ok (BitVec.ofNat 32 (s.mem.num pa 4))))
    | .bad c => (s, some (.error (fetchCode c, va, 0)))
    | .away p =>
      let job := s.jobOf b.grid
      let key := 2 * (va / 128) + b2n user
      (match s.lines.find? fun l => l.1 == job && l.2.1 == key with
      | some l =>
        -- fewer than 128 bytes are the fault its package found instead
        (s, some (if l.2.2.length != 128 then .error (lineErr va l.2.2)
                  else .ok (BitVec.ofNat 32 (leNat ((l.2.2.drop (va % 128)).take 4)))))
      | none =>
        if s.lineAsks.any fun a => a.1 == job && a.2.1 == key then (s, none)
        else
          let (s, q) := sendPacket s { blankPacket with
            typ := 3, dst := p, base := BitVec.ofNat 64 (va / 128 * 128), job := job, user := user, tspec := tspecOf [(0, 4, 16)] }
          ({ s with lineAsks := s.lineAsks ++ [(job, key, 2 ^ 32 * p + q.seq)] }, none))
    | .held => (s, none)

/-- n words from a VA. -/
def fetchWords (b : Block) (user : Bool) : Nat → State → Nat → State × Option (Except FetchErr (List Word32))
  | 0, s, _ => (s, some (.ok []))
  | n + 1, s, va =>
    let (s, r) := fetchWord s b va user
    match r with
    | none => (s, none)
    | some (.error c) => (s, some (.error c))
    | some (.ok w) =>
      let (s, r) := fetchWords b user n s (va + 4)
      match r with
      | none => (s, none)
      | some (.error c) => (s, some (.error c))
      | some (.ok ws) => (s, some (.ok (w :: ws)))

/-- The clause at a VA: header and words (R123). A header that is none is fetched alone. -/
def fetchClause (s : State) (b : Block) (va : Nat) (user : Bool) : State × Option (Except FetchErr (Word32 × List Word32)) :=
  let (s, r) := fetchWord s b va user
  match r with
  | none => (s, none)
  | some (.error c) => (s, some (.error c))
  | some (.ok h) =>
    if (headerCause h).isSome then (s, some (.ok (h, [])))
    else
      let (s, r) := fetchWords b user (hCnt h) s (va + 4)
      match r with
      | none => (s, none)
      | some (.error c) => (s, some (.error c))
      | some (.ok ws) => (s, some (.ok (h, ws)))

/-- Whether a clause requires home formation (R41); a clause that does not decode requires none and faults at entry. -/
def clauseHome (h : Word32) (ws : List Word32) : Bool :=
  match decodeBody (hCls h) ws.length 1 ws with
  | .ok is => is.any fun i => Instr.needsHome i.1
  | .error _ => false

/-- A word with its token fields or its lane pattern repaired, to find the registers it names beside a later cause (R384, R386). -/
def repairs (w : Word32) : List Word32 :=
  [w &&& ~~~(0xE0#32), (w &&& ~~~(0xFE#32)) ||| 0xE0#32, w &&& ~~~(0xFE#32)]

/-- The instruction-word checks in ascending index, each word's in ascending cause (R384 step 2): code and index of the first that
fails. -/
def wordsFault (s : State) (b : Block) (g : Group) (cls : Nat) : Nat → Nat → List Word32 → Option (Nat × Nat)
  | 0, _, _ => none
  | _ + 1, _, [] => none
  | f + 1, idx, w :: rest =>
    match decodeIn cls (w :: rest) with
    | .ok (i, n) => match entryDecode s b g i with
      | some c => some (c, idx)
      | none => wordsFault s b g cls f (idx + n) ((w :: rest).drop n)
    | .error e =>
      if e.cause ≤ 0x13 then some (0x0100 + e.cause, idx)
      else match (repairs w).findSome? fun w' => (decodeIn cls (w' :: rest)).toOption with
        | some (i, _) => some ((entryDecode s b g i).getD (0x0100 + e.cause), idx)
        | none => some (0x0100 + e.cause, idx)

/-- Handle checks in ascending index; slots that earlier MDESC and MSHAPE of the clause name count as filled (R388, R389). -/
def handlesFault (s : State) (b : Block) (g : Group) : List (Instr × Nat) → List Nat → Option (Nat × Nat)
  | [], _ => none
  | (i, idx) :: r, filled =>
    match entryHandle s b g filled i with
    | some c => some (c, idx)
    | none => handlesFault s b g r ((Instr.slotFilled i).toList ++ filled)

/-- All clause-entry checks (R384): the code and index of the first that fails. -/
def clauseFault (s : State) (b : Block) (g : Group) : Option (Nat × Nat) :=
  match headerCause g.header with
  | some c => some (0x0100 + c, 0)
  | none => match wordsFault s b g (hCls g.header) g.words.length 1 g.words with
    | some f => some f
    | none => match decodeBody (hCls g.header) g.words.length 1 g.words with
      | .error e => some (0x0100 + e.1.cause, e.2)
      | .ok is => match is.findSome? fun i => (entryPriv s b g i.1).map fun c => (c, i.2) with
        | some f => some f
        | none => handlesFault s b g is []

/-- Token an instruction would raise (R137). -/
def Instr.token (i : Instr) : Option Nat :=
  match encode i with
  | w :: _ =>
    let op := (fOp w).toNat
    if ((0x10 ≤ op && op ≤ 0x1A) || (0x1C ≤ op && op ≤ 0x1F) || (0x23 ≤ op && op ≤ 0x26)) && fTok w != 7
    then some (fTok w).toNat else none
  | [] => none

/-- The instruction counts in the store count (R210). -/
def Instr.counted : Instr → Bool
  | .stdShort _ _ _ | .std _ _ _ _ | .stw _ _ _ _ | .sth _ _ _ _ | .stb _ _ _ _ | .stgDShort _ _ _ | .stgD _ _ _ _ | .stgW _ _ _ _
  | .stsShort _ _ _ | .sts _ _ _ _ _ | .rel _ _ _ _ | .sigdecShort _ _ _ | .sigdec _ _ _ _ _ | .siginc _ _ _ _ _ | .sigset _ _ _ _ _
  | .sigarm _ _ _ _ _ | .call _ | .callx _ => true
  | _ => false

/-- An atomic of order .ord: in an ordered grid it counts in the store count (R210). -/
def Instr.ordAtomic : Instr → Bool
  | .aadd _ _ _ _ _ _ .ord _ | .amin _ _ _ _ _ _ .ord _ | .amax _ _ _ _ _ _ .ord _ | .aand _ _ _ _ _ _ .ord _ | .aor _ _ _ _ _ _ .ord _
  | .axor _ _ _ _ _ _ .ord _ | .axch _ _ _ _ _ _ .ord _ | .acas _ _ _ _ _ _ .ord _ | .aaddf _ _ _ _ _ .ord _ => true
  | _ => false

/-- MFT tstat and CLRF wait for earlier flag-setting results (R176). -/
def Instr.readsFlags : Instr → Bool
  | .mft _ sl => sl == 17
  | .clrf _ => true
  | _ => false

/-- The result can set flags when it is written: LDF (R176). -/
def Pend.setsFlags (p : Pend) : Bool := match p.acc.op with
  | .ldf _ => true
  | _ => false

/-- The instruction enters the cluster's reservation table (R238). -/
def Instr.entersTable : Instr → Bool
  | .mzero _ _ _ | .mzeroExt _ _ _ | .mma _ _ _ _ _ _ _ _ | .mmak _ _ _ _ _ _ _ _ _ | .mconv _ _ _ _ _ _ _ _ _
  | .mwalk _ _ _ _ _ _ _ _ | .mdrain _ _ _ _ _ _ _ _ | .mrow _ _ _ _ _ _ | .mstat _ _ _ _ _ | .manchor _ _ _ _ _ _ => true
  | _ => false

/-- A matrix instruction, majors 0x1C and 0x1D (R258). -/
def Instr.isMatrix (i : Instr) : Bool := match encode i with
  | w :: _ => fOp w == 0x1C || fOp w == 0x1D
  | [] => false

/-- Entries of a core's cluster (R18, R238). -/
def State.table (s : State) (core : Nat) : List MEntry := tget [] s.clusters (core / 4)

/-- The block's cluster has room for one more entry, and none of the block's own waits to enter again (R238, R305). -/
def tableRoom (s : State) (b : Block) : Bool :=
  (s.table b.core).length < 32 && !(s.aside.any fun e => e.grid == b.grid && e.bidx == b.bidx)

/-- An instruction may issue now: token counts below 63, store counts below 1,023, earlier flags written (R34, R137, R176). -/
def instrReady (s : State) (b : Block) (g : Group) (i : Instr) : Bool :=
  (!Instr.entersTable i || tableRoom s b)
  && (activeLanes b g).all fun m =>
    (!m.2.mfence || m.2.stores == 0 || !Instr.isMatrix i)
    && (match Instr.token i with
      | some k => m.2.tok k < 63
      | none => true)
    && (!(Instr.counted i || (Instr.ordAtomic i && s.ordered b.grid)) || m.2.stores < 1023)
    && (!Instr.readsFlags i ||
        !(s.pend.any fun p => p.who == { grid := b.grid, bidx := b.bidx, tid := m.2.tid } && p.setsFlags))

/-- The words of the group from its next instruction on. -/
def Group.rest (g : Group) : List Word32 := g.words.drop (g.idx - 1)

/-- The instruction a group issues next. -/
def Group.next? (g : Group) : Option Instr := (decode g.rest).toOption.map fun x => x.1

/-- A group that executes a clause can issue this cycle (R138, R302). -/
def issuable (s : State) (b : Block) (g : Group) : Bool :=
  !g.parked && (g.members.any fun m => m.active)
  && !(g.windows.any fun w => w.left == 0 && s.waitsOn w.id)
  && (activeLanes b g).all (fun m => m.2.status == .issuing)
  && (match g.next? with
    | some i => instrReady s b g i
    | none => true)

/-- What a thread at a clause boundary knows of its next clause. -/
structure Look where
  tid  : Nat
  hdr  : Option Word32
  home : Bool
  deriving DecidableEq, Repr, Inhabited

/-- A thread on the given partition at a clause boundary (R37). -/
def atBoundary (part : Nat) (th : Thread) : Bool :=
  th.tid / 32 % 4 == part &&
    (th.status == .ready || th.status == .token || th.status == .formation || th.status == .meeting)

/-- The clause WAIT holds back the thread (R124). -/
def waitHolds (h : Word32) (th : Thread) : Bool :=
  (List.range 7).any (fun j => (hWait h).getLsbD j && th.tok j != 0) || ((hWait h).getLsbD 7 && th.stores != 0)

/-- Fetches of the headers and clauses at which the partition's threads stand. -/
def lookAll (b : Block) : List Thread → State → State × List Look
  | [], s => (s, [])
  | th :: r, s =>
    let (s, c) := fetchClause s b th.pc.toNat (!th.priv)
    let k : Look := match c with
      | some (.ok (h, ws)) => { tid := th.tid, hdr := if (headerCause h).isSome then none else some h, home := clauseHome h ws }
      | _ => { tid := th.tid, hdr := none, home := false }
    let (s, ks) := lookAll b r s
    (s, k :: ks)

/-- Status of a thread at a clause boundary by WAIT and MEET (R37, R43, R124): WAIT is examined first, then the meeting (DEDUCED, log
13). -/
def boundaryStatus (ks : List Look) (th : Thread) : Status :=
  match (ks.find? fun k => k.tid == th.tid).bind fun k => k.hdr with
  | none => .ready
  | some h =>
    if waitHolds h th then .token
    else if hMeet h && th.meet.head? == some th.pc && !th.met then .meeting
    else .ready

/-- A live thread (R36, R37). -/
def Thread.live (th : Thread) : Bool := th.status != .exited

/-- A held meeting is released: every live thread of the home troop whose top of stack is the address is held there (R43). -/
def meetingOver (ths : List Thread) (th : Thread) : Bool :=
  th.status == .meeting &&
    (ths.filter fun t => t.tid / 32 == th.tid / 32 && t.live && t.meet.head? == some th.pc).all
      fun t => t.status == .meeting && t.pc == th.pc

/-- Statuses of the partition's threads brought up to date, meetings released (R37, R43). A thread in FORMATION stays there until its troop
forms (`blockCands`). -/
def refresh (now part : Nat) (ks : List Look) (b : Block) : Block :=
  let ths := b.threads.map fun th =>
    if atBoundary part th then
      let st := boundaryStatus ks th
      if st == th.status || (st == .ready && th.status == .formation) then th else { th with status := st, readySince := now }
    else th
  let ths' := ths.map fun th =>
    if th.tid / 32 % 4 == part && meetingOver ths th
    then { th with status := .ready, meet := th.meet.tail, met := true, readySince := now } else th
  { b with threads := ths' }

/-- A group not yet placed: home or packed, pc, members (R38). -/
structure Cand where
  home : Bool
  pc   : Va
  members : List Member
  deriving DecidableEq, Repr, Inhabited

/-- Home troops of the partition that stand READY at one PC (R38 step 1, R42). -/
def homeCands (part : Nat) (b : Block) : List Cand :=
  (List.range 32).filterMap fun h =>
    if h % 4 != part then none else
    let live := b.threads.filter fun th => th.tid / 32 == h && th.live
    match live with
    | [] => none
    | th :: _ =>
      if live.all fun t => (t.status == .ready || t.status == .formation) && t.pc == th.pc
      then some { home := true, pc := th.pc, members := live.map fun t => { tid := t.tid, lane := t.tid % 32, active := true } }
      else none

/-- Members packed 32 at a time, LANE by rank (R38 step 2). -/
def packCands (pc : Va) (tids : List Nat) : List Cand :=
  (chunks 32 tids.length tids).map fun c =>
    { home := false, pc := pc, members := c.zipIdx.map fun x => { tid := x.1, lane := x.2, active := true } }

/-- The PCs of some threads, each once. -/
def distinctPcs (ths : List Thread) : List Va := ths.foldl (fun acc th => if acc.contains th.pc then acc else acc ++ [th.pc]) []

/-- The candidates of a block on a partition, and the block with FORMATION entered where a clause needs it and left where the troop has
formed (R38, R41, R42). -/
def blockCands (now part : Nat) (ks : List Look) (b : Block) : Block × List Cand :=
  let home := homeCands part b
  let inHome (tid : Nat) : Bool := home.any fun c => c.members.any fun m => m.tid == tid
  let needs (tid : Nat) : Bool := ((ks.find? fun k => k.tid == tid).map fun k => k.home).getD false
  let stage (th : Thread) : Thread :=
    if th.tid / 32 % 4 != part then th
    else if th.status == .formation && (inHome th.tid || !needs th.tid) then { th with status := .ready, readySince := now }
    else if th.status == .ready && !inHome th.tid && needs th.tid then { th with status := .formation, readySince := now }
    else th
  let b' := { b with threads := b.threads.map stage }
  let loose := b'.threads.filter fun th =>
    th.tid / 32 % 4 == part && th.status == .ready && !inHome th.tid && !needs th.tid
  (b', home ++ (distinctPcs loose).flatMap fun pc => packCands pc ((loose.filter fun th => th.pc == pc).map fun th => th.tid))

/-- The rank of a candidate for the issue slot (R302): not starving, class, age stamp, TID. -/
structure Rank where
  calm  : Nat
  cls   : Nat
  stamp : Nat
  tid   : Nat
  deriving DecidableEq, Repr, Inhabited

/-- Earlier key first (R302). -/
def Rank.before (a b : Rank) : Bool :=
  if a.calm != b.calm then a.calm < b.calm
  else if a.cls != b.cls then a.cls < b.cls
  else if a.stamp != b.stamp then a.stamp < b.stamp
  else a.tid < b.tid

/-- Class of a grid (R52, R298). -/
def State.classOf (s : State) (h : Nat) : Nat := bits (s.launchOf h).flags 4 3

/-- Age stamp and its lowest TID over members (R302). -/
def stampOf (b : Block) (ms : List Member) : Nat × Nat :=
  let ths := b.threads.filter fun th => ms.any fun m => m.tid == th.tid
  let st := ths.foldl (fun acc th => min acc th.ageMark) ((ths.map fun t => t.ageMark).headD 0)
  (st, ((ths.filter fun th => th.ageMark == st).map fun t => t.tid).headD 0)

/-- What wins a slot: a group that executes a clause, or a candidate that enters one. -/
inductive Winner
  | running (b : Block) (g : Group)
  | entering (b : Block) (c : Cand)
  deriving DecidableEq, Repr, Inhabited

/-- The thread is starving: it has been READY for 256 consecutive cycles without issuing (R52). -/
def Thread.starves (now : Nat) (th : Thread) : Bool := th.starving || (th.status == .ready && th.readySince + 256 ≤ now)

def candRank (s : State) (b : Block) (c : Cand) : Rank :=
  let (st, t) := stampOf b c.members
  { calm := b2n (!(b.threads.any fun th => th.starves s.now && c.members.any fun m => m.tid == th.tid)), cls := s.classOf b.grid,
    stamp := st, tid := t }

def groupRank (s : State) (b : Block) (g : Group) : Rank :=
  { calm := 1, cls := s.classOf b.grid, stamp := g.stamp, tid := g.stampTid }

/-- The first of the best rank. -/
def bestOf : List (Rank × Winner) → Option (Rank × Winner)
  | [] => none
  | x :: r => match bestOf r with
    | none => some x
    | some y => if y.1.before x.1 then some y else some x

/-- A block's groups may issue: it is resident, not halted. -/
def Block.runs (b : Block) (core : Nat) : Bool := b.core == core && b.place == 0

/-- A fetch fault at clause entry (R395, R410, R404, R405): the whole group parks, on a wait-table entry where the cause has rung 1, and
the REPLAY fetches the clause again. -/
def parkEntry (s : State) (b : Block) (c : Cand) (e : FetchErr) : State :=
  let (code, va, detail) := e
  let die := dieOf b.core
  let tids := c.members.map fun m => m.tid
  let acc : Acc := { op := .reissue, ea := c.pc.zeroExtend 64, x := 0, y := 0, d := 0, k := 7, l := 0 }
  let r := { threadRec s b c.pc 0 (tids.headD 0) code (BitVec.ofNat 64 va) detail tids.length with flags := 1 }
  let s := { s with lines := s.lines.filter fun l => l.2.2.length == 128 || l.2.1 / 2 / 512 != va / 2 ^ 16 }
  let park (tok : Nat) (s : State) : State :=
    s.updBlock b.grid b.bidx fun b =>
      { b with
        threads := b.threads.map fun th =>
          if tids.contains th.tid then { th with status := .parked, parked := [(tok, acc)] } else th }
  if rungOf code == 1 then
    let (s, tok, new) := waitEntry s die (s.jobOf b.grid) (va / 2 ^ 16)
    let s := (tids.drop 1).foldl (fun s _ => (waitEntry s die (s.jobOf b.grid) (va / 2 ^ 16)).1) s
    let s := park tok s
    if new then queueRec s die { r with token := tok, entry := some (bits tok 29 20) } else s
  else queueRec (park 0 s) die r

/-- What becomes of a candidate: it cannot issue this cycle (its clause is still being fetched, its first instruction must wait); it is
gone without an instruction (a fault at clause entry, a guard that is false in every lane); it issues its first instruction. -/
inductive Entry
  | waits (s : State)
  | gone (s : State)
  | issues (s : State)

/-- The state a candidate leaves. -/
def Entry.state : Entry → State
  | .waits s | .gone s | .issues s => s

/-- A group enters a clause (R384): fetch, checks, guard (R39). A clause whose guard is false in every lane is passed over, and its threads
have not issued. -/
def enterClause (s : State) (b : Block) (c : Cand) (part : Nat) : Entry :=
  let user := b.threads.any fun th => !th.priv && c.members.any fun m => m.tid == th.tid
  let (s, r) := fetchClause s b c.pc.toNat user
  match r with
  | none => .waits s
  | some (.error e) => .gone (parkEntry s b c e)
  | some (.ok (h, ws)) =>
    let (st, stt) := stampOf b c.members
    let gid := s.nextId
    let guardOk (tid : Nat) : Bool := match b.thread? tid with
      | some th => th.cond (hGuard h)
      | none => false
    let g : Group :=
      { gid := gid, part := part, home := c.home, hdr := c.pc, header := h, words := ws, idx := 1,
        members := c.members, stamp := st, stampTid := stt, windows := [], parked := false, held := [] }
    let b' := { b with
      groups := b.groups ++ [g]
      threads := b.threads.map fun th =>
        if c.members.any fun m => m.tid == th.tid then { th with status := .issuing, starving := false } else th }
    let formed := { (s.updBlock b.grid b.bidx fun _ => b') with nextId := gid + 1 }
    let formed := formed.updCore b.core fun k =>
      { k with perfForm := if c.home then (k.perfForm.extractLsb' 32 32 ++ (k.perfForm.extractLsb' 0 32 + 1) : BitVec 64)
                           else (k.perfForm.extractLsb' 32 32 + 1 ++ k.perfForm.extractLsb' 0 32 : BitVec 64) }
    match clauseFault formed b' g with
    | some (code, idx) =>
      .gone (groupFault formed b' g code idx ((if idx == 0 then h else ws.getD (idx - 1) 0).zeroExtend 64))
    | none =>
      let g' := { g with members := c.members.map fun m => { m with active := guardOk m.tid } }
      let b'' := { b' with groups := b.groups ++ [g'] }
      if g'.members.any fun m => m.active then
        let t := formed.updBlock b.grid b.bidx fun _ =>
          { b'' with threads := b''.threads.map fun th => match g'.member? th.tid with
              | some m => if m.active then { th with pc := g'.hdr + 4 } else th
              | none => th }
        if issuable formed b'' g' then .issues { t with issuing := some { grid := b.grid, bidx := b.bidx, gid := gid } } else .waits s
      else .gone (formed.updBlock b.grid b.bidx fun _ =>
        let e := endClause formed b'' g'
        { e with threads := e.threads.map fun th => match b.thread? th.tid with
            | some old => if (g'.member? th.tid).isSome then
                { th with readySince := old.readySince, starving := old.starving, ageMark := old.ageMark } else th
            | none => th })

/-- The candidates of one block that can issue; the others of it have faulted, passed over their clause, or wait. -/
def enterAll (part grid bidx : Nat) : List Cand → State → State × List (Rank × Winner)
  | [], s => (s, [])
  | c :: r, s => match s.block? grid bidx with
    | none => (s, [])
    | some b => match enterClause s b c part with
      | .issues _ =>
        let (s, ws) := enterAll part grid bidx r s
        (s, (candRank s b c, Winner.entering b c) :: ws)
      | e => enterAll part grid bidx r e.state

/-- Every candidate of the core's partition. -/
def allCands (core part : Nat) : List Block → State → State × List (Rank × Winner)
  | [], s => (s, [])
  | b :: r, s =>
    if !b.runs core then allCands core part r s
    else
      let s := settleBlock s b.grid b.bidx
      let b := (s.block? b.grid b.bidx).getD b
      let (s, ks) := lookAll b (b.threads.filter (atBoundary part)) s
      let (b', cs) := blockCands s.now part ks (refresh s.now part ks b)
      let s := s.updBlock b.grid b.bidx fun _ => b'
      let running := (b'.groups.filter fun g => g.part == part && issuable s b' g).map fun g => (groupRank s b' g, Winner.running b' g)
      let (s, entering) := enterAll part b.grid b.bidx cs s
      let (s, more) := allCands core part r s
      (s, running ++ entering ++ more)

/-- A thread waits for memory (R20). -/
def waitsForMemory (s : State) (b : Block) (th : Thread) : Bool :=
  s.pend.any fun p => p.who == { grid := b.grid, bidx := b.bidx, tid := th.tid } && p.mem &&
    (p.tok == 7 ||
      (match p.kind with
        | .refresh _ _ => true
        | _ => false) ||
      (th.status == .token &&
        (match (fetchWord s b th.pc.toNat (!th.priv)).2 with
          | some (.ok h) => (hWait h).getLsbD p.tok
          | _ => false)))

/-- The wait of a full-empty load counts: its block is resident, its thread in FULLEMPTY on it or in TOKEN on its token (R415). -/
def agesFull (s : State) (p : Pend) : Bool :=
  match p.kind, s.block? p.who.grid p.who.bidx with
  | .fullEmpty _ _ _, some b => b.place == 0 && (match b.thread? p.who.tid with
    | none => false
    | some th => (p.tok == 7 && th.status == .fullEmpty) ||
      (p.tok < 7 && th.status == .token && (match (fetchWord s b th.pc.toNat (!th.priv)).2 with
        | some (.ok h) => (hWait h).getLsbD p.tok
        | _ => false)))
  | _, _ => false

/-- dt cycles pass (R415). -/
def passTime (s : State) (dt : Nat) : State :=
  { s with now := s.now + dt, pend := s.pend.map fun p => if dt != 0 && agesFull s p then { p with aged := p.aged + dt } else p }

/-- ISSUE_CYCLE (R302): a cycle of one partition. Time passes by dt; threads at clause boundaries are examined, groups formed, one issues;
a running group's next step executes its instruction, an entering group first passes the clause-entry checks. -/
def execIssueCycle (core part dt : Nat) (s : State) : Host.Outcome State Fault Refusal :=
  let s := { passTime s dt with issuing := none }
  let (s, cs) := allCands core part s.blocks s
  let s' := match bestOf cs with
    | none => s
    | some (_, .running b g) => { s with issuing := some { grid := b.grid, bidx := b.bidx, gid := g.gid } }
    | some (_, .entering b c) => match s.block? b.grid b.bidx with
      | some b => (enterClause s b c part).state
      | none => s
  .next (match s'.issuing with
    | some _ => s'.updCore core fun k => { k with perfIssue := k.perfIssue + 1 }
    | none =>
      if s'.blocks.any fun b => b.runs core && b.threads.any fun th => th.tid / 32 % 4 == part && waitsForMemory s' b th
      then s'.updCore core fun k => { k with perfStallMem := k.perfStallMem + 1 } else s')

/-- STARVATION: a thread that has been READY for 256 consecutive cycles is starving, and stays so until it issues (R52, R302); the arbiter sees
it from that cycle on (`Thread.starves`). -/
def execStarvation (core bidx grid tid : Nat) (s : State) : Host.Outcome State Fault Refusal :=
  .next (s.updBlock grid bidx fun b => if b.core != core then b else b.updThread tid fun th =>
    if th.status == .ready && th.readySince + 256 ≤ s.now then { th with starving := true } else th)

/-- YIELD_EXPIRY: 32 cycles after its YIELD clause ended a thread leaves YIELDED (R37, R183). -/
def execYieldExpiry (core bidx grid tid : Nat) (s : State) : Host.Outcome State Fault Refusal :=
  .next (s.updBlock grid bidx fun b => if b.core != core then b else b.updThread tid fun th =>
    if th.status == .yielded && th.until_ ≤ s.now then { th with status := .ready, readySince := s.now } else th)

/-- What the issuing group does next: the instruction its clause words hold at its index. A clause passed every check at entry, so a word
that does not decode there stands only in states no clause entry leaves; it takes its DECODE fault. -/
def issueNext (s : State) : Except State Instr :=
  match s.cur? with
  | none => .error s.idle
  | some (b, g) => match decode g.rest with
    | .ok (i, _) => .ok i
    | .error e => .error (groupFault s b g (0x0100 + e.cause) g.idx ((g.rest.headD 0).zeroExtend 64)).idle

/-- The partition whose turn it is, and the next turn; a cycle passes when every partition had its turn (R302). -/
def turnCycle (s : State) : Instr × State :=
  (.issueCycle (s.turn / 4 % 832) (s.turn % 4) (if s.turn % 3328 == 0 then 1 else 0), { s with turn := (s.turn + 1) % 3328 })

/-- The happening is POWER_ON. -/
def isPowerOn : Instr → Bool
  | .powerOn _ => true
  | _ => false

/-- The thread that runs a placed instruction: privileged, 64 registers of zero. -/
def probeThread : Thread :=
  { tid := 0, pc := 0, regs := List.replicate 64 0, preds := 0, toks := List.replicate 7 0, stores := 0, meet := [], callDepth := 0,
    tstat := 0, status := .issuing, priv := true, ageMark := 0, readySince := 0, starving := false, flushes := 0, segment := 0,
    order := 0, lid := 0, parent := 0, met := false, goto := none, trapAfter := none, mfence := false, sample := none, yieldAfter := false, until_ := 0, bar := none,
    bara := [], parked := [], kept := .issuing }

/-- The home group of that thread in a clause of class 110 whose words are given (R124). -/
def probeGroup (ws : List Word32) : Group :=
  { gid := 0, part := 0, home := true, hdr := 0, header := mkHeader (BitVec.ofNat 4 ws.length) 6 0 false 7 0, words := ws, idx := 1,
    members := [{ tid := 0, lane := 0, active := true }], stamp := 0, stampTid := 0, windows := [], parked := false, held := [] }

/-- Grid handle of the placed block. -/
def probeHandle : Nat := 0xFFFF

/-- The block of that thread, on core 0. -/
def probeBlock (ws : List Word32) : Block :=
  { grid := probeHandle, bidx := 0, cx := 0, cy := 0, cz := 0, gang := 0, grank := 0, gsize := 1, core := 0, slots := [0],
    threads := [probeThread], scratch := Memory.empty, full := [], consts := List.replicate 32 0,
    lps := List.replicate 7 ((List.range 32).map fun l => BitVec.ofNat 6 l), descs := List.replicate 16 none,
    tiles := List.replicate 8 { elems := [], anchor := 0, aov := false, dof := false, dsat := false, mism := false, prog := 0 },
    binds := [], extents := [], groups := [probeGroup ws], place := 0, frames := 0 }

/-- The grid of that block: one block of one thread, every tile, slot and scratchpad byte. -/
def probeGrid : Grid :=
  { handle := probeHandle, recVa := 0, user := false, todo := [], leases := [0], retired := [], total := 1, h0 := 0, h1 := 0, seed := 0,
    gen := 0, applied := [], faulted := false, decided := false, local_ := true, unit := 0, gbase := 0, flushTok := none, ordTok := none,
    flushSent := none, gangNo := 0, fallback := false, halting := none, shelved := false, loaded := true, loadTok := none, cancels := [], peers := [],
    told := [], dkey := 0, table := none,
    l := { entry := 0, gx := 1, gy := 1, gz := 1, sx := 1, sy := 1, sz := 1, roles := [{ troops := 1, regs := 64, priv := 0 }],
           scratch := 262144, acc := 8, desc := 16, pgang := 1, fgang := 1, flags := 1, cbmask := 0xFF, nwait := 0, nrange := 0,
           creq := 0, foot := 0, job := 0, popcap := 0, compl := 0, priv := 0, seed := 0, collbind := 0, waits := [],
           consts := List.replicate 32 0, ranges := [] } }

/-- The three words of an opcode-table row, zero above its bits. -/
def rowWords (nbits w : Nat) : List Word32 :=
  let v := w % 2 ^ nbits
  [BitVec.ofNat 32 v, BitVec.ofNat 32 (v / 2 ^ 32), BitVec.ofNat 32 (v / 2 ^ 64)]

end Sys2Proof.Machine
end

