-- ==== Sys2Proof/Machine/Park.lean ====
section
/-! DEFINITION. Faulting lanes of an issue group (R371, R372, R402 to R405): parked sub-groups, whole groups that park in home formation,
lanes that trap, and the lane-by-lane execution of an instruction that can fault. -/

namespace Sys2Proof.Machine

open Sys2Proof

/-- One lane's fault: thread, code, address, DETAIL, the access to re-execute. -/
structure LFault where
  tid    : Nat
  code   : Nat
  addr   : Nat
  detail : Word
  acc    : Acc
  deriving DecidableEq, Repr, Inhabited

/-- The wait-table side of rung-1 faults: each joins or opens an entry, a new entry makes one record (R378, R406). The answer lists
(TID, token, access). -/
def openAll (b : Block) (g : Group) : List LFault → State → State × List (Nat × Nat × Acc)
  | [], s => (s, [])
  | f :: r, s =>
    let job := s.jobOf b.grid
    let (s, tok, new) := waitEntry s (dieOf b.core) job (f.addr / 2 ^ 16)
    let s := if new then
        queueRec s (dieOf b.core)
          { threadRec s b g.hdr g.idx f.tid f.code (BitVec.ofNat 64 f.addr) f.detail 1 with
            flags := 1, token := tok, entry := some (bits tok 29 20) }
      else s
    let (s, ts) := openAll b g r s
    (s, (f.tid, tok, f.acc) :: ts)

/-- Rung-3 faults of one instruction make one record with COUNT lanes and TOKEN 0 (R402, R406). -/
def rung3Rec (s : State) (b : Block) (g : Group) (fs : List LFault) : State :=
  match fs with
  | [] => s
  | f :: _ =>
    queueRec s (dieOf b.core)
      { threadRec s b g.hdr g.idx f.tid f.code (BitVec.ofNat 64 f.addr) f.detail fs.length with flags := 1 }

/-- The faulting threads leave their group and park as one parked sub-group at the faulting instruction (R404). -/
def parkSub (s : State) (b : Block) (g : Group) (ts : List (Nat × Nat × Acc)) : State :=
  let is (tid : Nat) : Bool := ts.any fun t => t.1 == tid
  let sub : Group := { g with gid := s.nextId, members := g.members.filter (fun m => is m.tid && m.active), parked := true }
  { s.updBlock b.grid b.bidx (fun b =>
      { b with
        groups := (replaceFirst (fun x => x.gid == g.gid)
          (fun x => { x with members := x.members.filter fun m => !is m.tid }) b.groups) ++ [sub]
        threads := b.threads.map fun th =>
          if is th.tid then
            { th with status := .parked, parked := (ts.filter fun t => t.1 == th.tid).map fun t => (t.2.1, t.2.2) }
          else th }) with nextId := s.nextId + 1 }

/-- A whole group parks: its accesses are held once, every active member waits on all of them (R405). -/
def parkWhole (s : State) (b : Block) (g : Group) (toks : List Nat) : State :=
  s.updBlock b.grid b.bidx fun b =>
    { b with
      groups := replaceFirst (fun x => x.gid == g.gid) (fun x => { x with parked := true, held := toks }) b.groups
      threads := b.threads.map fun th => match g.member? th.tid with
        | some m => if m.active then { th with status := .parked } else th
        | none => th }

/-- Lane faults of one instruction of the group (R402, R404, R405). True where the whole group parked. -/
def parkLanes (s : State) (b : Block) (g : Group) (fs : List LFault) : State × Bool :=
  if fs.isEmpty then (s, false) else
  let r1 := fs.filter fun f => rungOf f.code == 1
  let r3 := fs.filter fun f => rungOf f.code != 1
  let (s, ts) := openAll b g r1 s
  let s := rung3Rec s b g r3
  let ts := ts ++ r3.map fun f => (f.tid, 0, f.acc)
  if clauseHome g.header g.words then (parkWhole s b g (ts.map fun t => t.2.1), true)
  else (parkSub s b g ts, false)

/-- What one lane's check says: nothing in the way, faults (R402), or a trap of its own class (code, DETAIL). -/
inductive LaneCheck
  | go
  | fault (fs : List LFault)
  | trap (code : Nat) (detail : Word)
  deriving DecidableEq, Repr, Inhabited

/-- Every active lane's check in ascending TID, before any lane acts. -/
def checkLanes (chk : State → Member → Thread → State × LaneCheck) : List (Member × Thread) → State → State × List (Member × Thread × LaneCheck)
  | [], s => (s, [])
  | (m, th) :: r, s =>
    let (s, c) := chk s m th
    let (s, cs) := checkLanes chk r s
    (s, (m, th, c) :: cs)

/-- The lanes that act, in ascending TID (R209): the state and the lookahead windows opened (R138). -/
def actLanes (act : State → Member → Thread → State × List Window) : List (Member × Thread) → State → State × List Window
  | [], s => (s, [])
  | (m, th) :: r, s =>
    let (s, w) := act s m th
    let (s, ws) := actLanes act r s
    (s, w ++ ws)

/-- Lanes that trap, grouped by their code and DETAIL (R372, R394). -/
def trapLanes (b : Block) (g : Group) : List (Nat × Nat × Word) → State → Nat → State
  | _, s, 0 => s
  | [], s, _ => s
  | (tid, code, det) :: r, s, fuel + 1 =>
    let same := tid :: (r.filter fun x => x.2.1 == code && x.2.2 == det).map fun x => x.1
    let rest := r.filter fun x => !(x.2.1 == code && x.2.2 == det)
    let ths := b.threads.filter fun th => same.contains th.tid
    let rec_ := threadRec s b g.hdr g.idx tid code 0 det ths.length
    trapLanes b g rest (trapOrPark (dieOf b.core) rec_ g.gid (fun _ => g.hdr) ths s 0) fuel

/-- An instruction whose lanes can fault (R371, R401, R404, R405): all lanes are checked, then the lanes without a fault act in ascending
TID, `post` completes what the instruction does once for them together, then faulting lanes park and trapping lanes trap. -/
def runLanesThen (i : Instr) (s : State) (chk : Block → Group → State → Member → Thread → State × LaneCheck)
    (act : Block → Group → State → Member → Thread → State × List Window) (post : Block → List (Member × Thread) → State → State) :
    Host.Outcome State Fault Refusal :=
  issue i s fun b g =>
    let (s, cs) := checkLanes (chk b g) (activeLanes b g) s
    let fs := cs.flatMap fun c => match c.2.2 with
      | .fault fs => fs
      | _ => []
    let ts := cs.filterMap fun c => match c.2.2 with
      | .trap code d => some (c.2.1.tid, code, d)
      | _ => none
    if !fs.isEmpty && clauseHome g.header g.words then (parkLanes s b g fs).1.idle
    else
      let ok := cs.filterMap fun c => match c.2.2 with
        | .go => some (c.1, c.2.1)
        | _ => none
      let (s, ws) := actLanes (act b g) ok s
      let s := post b ok s
      let s := (parkLanes s b g fs).1
      let s := trapLanes b g ts s ts.length
      advanceIn s b.grid b.bidx g.gid (Instr.len i) ws

/-- As `runLanesThen` with nothing done for the lanes together. -/
def runLanes (i : Instr) (s : State) (chk : Block → Group → State → Member → Thread → State × LaneCheck)
    (act : Block → Group → State → Member → Thread → State × List Window) : Host.Outcome State Fault Refusal :=
  runLanesThen i s chk act fun _ _ s => s

end Sys2Proof.Machine
end

