-- ==== Sys2Proof/Machine/Access.lean ====
section
/-! DEFINITION. One lane's access of majors 0x10 to 0x1A (R207 to R233): its faults in the order of R402, and what performing it does. A
REPLAY re-executes the same access (R379, R404). -/

namespace Sys2Proof.Machine

open Sys2Proof

/- Windows and constants (R58, R74). -/

/-- Cycle of a die's refresh clock in its 40 µs period (R74; log 3). -/
def wsClock (s : State) (die : Nat) : Nat := (s.now + (s.die die).wsPhase) % 32000

/-- Bank group q is in its refresh window (R74). -/
def wsBusy (s : State) (die q : Nat) : Bool := 4000 * q ≤ wsClock s die && wsClock s die < 4000 * q + 960

/-- The byte of WS_REFRESH for bank group q (R74). -/
def wsField (s : State) (die q : Nat) : Nat :=
  let c := wsClock s die
  if wsBusy s die q then 128 + (4000 * q + 960 - c + 255) / 256
  else (if c < 4000 * q then 4000 * q - c else 32000 + 4000 * q - c) / 256

/-- WS_REFRESH of a die; its reset value 0 until bring-up is done (R74; log 3). -/
def wsRefresh (s : State) (die : Nat) : Word :=
  if s.pkgId.getLsbD 12 then BitVec.ofNat 64 (packN 8 (wsField s die) 8) else 0

/-- Byte o of the constant window (R74). -/
def constByte (s : State) (b : Block) (o : Nat) : Byte :=
  if o < 256 then BitVec.ofNat 8 ((b.consts.getD (o / 8) 0).toNat >>> (8 * (o % 8)))
  else if o < 264 then BitVec.ofNat 8 ((wsRefresh s (dieOf b.core)).toNat >>> (8 * (o % 8)))
  else 0

/- Shape of an access. -/

/-- Access kind of an ADDRESS record (R402). -/
def AccOp.kind : AccOp → Nat
  | .ld _ _ g => if g then 6 else 0
  | .st _ _ g => if g then 6 else 1
  | .atom _ _ _ _ => 2
  | .ldf _ => 3
  | .lds _ _ | .sts _ _ => 4
  | .ldws _ => 5
  | .jump _ _ | .reissue | .fence _ _ => 0
  | _ => 8

/-- The access writes (R402 cause 0x02). -/
def AccOp.writes : AccOp → Bool
  | .st _ _ _ | .atom _ _ _ _ | .rel _ | .sig _ _ _ => true
  | _ => false

/-- Alignment the access must have, 1 for none (R219, R221, R229, R232). -/
def AccOp.align : AccOp → Nat
  | .ld n _ g | .st n _ g => if g then n else 1
  | .atom _ t _ _ => match t with
    | .d | .du => 8
    | .w | .wu => 4
  | .acq _ | .rel _ | .rbind | .runbind | .sig _ _ _ | .sigwait _ _ | .sigarm _ _ => 8
  | _ => 1

/-- SEAL cause of the consumer (R410). -/
def AccOp.sealCode : AccOp → Nat
  | .st _ _ _ => 0x0502
  | .atom _ _ _ _ | .acq _ | .rel _ | .sig _ _ _ | .sigwait _ _ | .sigarm _ _ => 0x0503
  | _ => 0x0501

/-- The pieces of [va, va + n) by 64 KiB page. -/
def pieces (va n : Nat) : List (Nat × Nat) :=
  let fst := min n (2 ^ 16 - va % 2 ^ 16)
  if fst == n then [(va, n)] else [(va, fst), (va + fst, n - fst)]

/-- The seal fault of an access that translated to a PA, with the first granule that fails: a read checks every granule, a store the
granules it covers in part (R76, R77, R410). -/
def sealAt (m : Memory) (op : AccOp) (pa n : Nat) : Option (Nat × Nat) :=
  match op with
  | .st _ _ _ | .sts _ _ => ((partGranules pa n).find? fun q => m.err q != 0).map fun q => (0x0502, q)
  | .rel _ => none
  | .rbind | .runbind => none
  | _ => (m.badAt pa n).map fun q => (op.sealCode, q)

/-- The bytes an LDF reads in its page: (VA, bytes) of the elements and, in block-scaled classes, of the scale byte (R214). -/
def ldfReads (fmt : Nat) (bf : Bool) (va : Nat) : List (Nat × Nat) :=
  if fmt == 0 then [(va, if bf then 16 else 8)]
  else if fmt ≤ 3 then [(va, if bf then 4 else 2), (va - va % 128 + 120 + va % 128 / 24, 1)]
  else [(va, if bf then 2 else 1)]

/-- LDF alignment (R214). -/
def ldfAligned (fmt : Nat) (bf : Bool) (va : Nat) : Bool :=
  if fmt == 0 then va % (if bf then 16 else 8) == 0
  else if fmt ≤ 3 then va % 128 < 120 && va % (if bf then 4 else 2) == 0
  else va % (if bf then 2 else 1) == 0

/-- The page's format class and geometry fit LDF (R61). -/
def ldfFits (fmt geom : Nat) : Bool :=
  fmt == 0 || (1 ≤ fmt && fmt ≤ 3 && geom == 1) || (fmt == 4 && geom == 0)

/-- Faults of one lane's access, in the order of R402: (code, VA) for each page concerned. -/
def accFaults (s : State) (b : Block) (user : Bool) (acc : Acc) : State × List (Nat × Nat) :=
  let ea := acc.ea.toNat
  let n := acc.op.size
  match acc.op with
  | .lds n _ | .sts n _ =>
    let off := ea % 2 ^ 57
    let l := s.launchOf b.grid
    if off % n != 0 || off + n > l.scratch then (s, [(0x0406, 0x00FF000000000000 + off)])
    else (s, match sealAt b.scratch acc.op off n with
      | some (c, q) => [(c, 0x00FF000000000000 + 8 * q)]
      | none => [])
  | .ldws n =>
    let off := ea % 2 ^ 57
    if off % n != 0 || off + n > 768 * 2 ^ 20 then (s, [(0x0407, 0x00FF010000000000 + off)])
    else (s, match sealAt (s.die (dieOf b.core)).ws acc.op off n with
      | some (c, q) => [(c, 0x00FF010000000000 + 8 * q)]
      | none => [])
  | .ldf bf =>
    if ea ≥ 2 ^ 57 then (s, [(0x0404, ea)])
    else if inWindow ea then (s, [(0x0405, ea)])
    else
      let (s, r) := translate s (dieOf b.core) (s.jobOf b.grid) b.extents ea false user
      match r with
      | .bad c => (s, [(c, ea)])
      | .here pa p =>
        if !ldfFits (pteFmt p) (pteGeom p) then (s, [(0x0409, ea)])
        else if !ldfAligned (pteFmt p) bf ea then (s, [(0x0408, ea)])
        else (s, match (ldfReads (pteFmt p) bf ea).findSome? fun x => s.mem.badAt (pa + x.1 - ea) x.2 with
          | some q => [(0x0501, ea + 8 * q - pa)]
          | none => [])
      | _ => (s, [])
  | .fence _ _ | .jump _ _ | .reissue => (s, [])
  | _ =>
    if ea ≥ 2 ^ 57 || ea + n > 2 ^ 57 then (s, [(0x0404, ea)])
    else if inWindow ea || inWindow (ea + n - 1) then
      (match acc.op with
        | .ld n _ false => if 0x00FF020000000000 ≤ ea && ea + n ≤ 0x00FF020000001000 then (s, []) else (s, [(0x0405, ea)])
        | _ => (s, [(0x0405, ea)]))
    else if ea % acc.op.align != 0 then (s, [(0x0408, ea)])
    else if acc.op = .rbind || acc.op = .runbind then (s, [])
    else
      (pieces ea n).foldl (fun (s, fs) x =>
        let (s, r) := translate s (dieOf b.core) (s.jobOf b.grid) b.extents x.1 acc.op.writes user
        match r with
        | .bad c => (s, fs ++ [(c, x.1)])
        | .here pa _ => match sealAt s.mem acc.op pa x.2 with
          | some (c, q) => (s, fs ++ [(c, x.1 + 8 * q - pa)])
          | none => (s, fs)
        | _ => (s, fs)) (s, [])

/-- DETAIL of an access record: the access kind (R402), or the seals of the first bad granule (R410). -/
def accDetail (s : State) (b : Block) (acc : Acc) (code va : Nat) : Word :=
  if code / 256 == 5 then
    let find (m : Memory) (a n : Nat) : Word := match m.badAt a n with
      | some q => BitVec.ofNat 64 ((seal8 (m.read (8 * q) 8) (8 * q)).toNat + (m.sealOf q).toNat <<< 8 + (code % 256) <<< 16)
      | none => BitVec.ofNat 64 ((code % 256) <<< 16)
    match acc.op with
    | .lds _ _ | .sts _ _ => find b.scratch (va % 2 ^ 40) 8
    | .ldws _ => find (s.die (dieOf b.core)).ws (va % 2 ^ 40) 8
    | _ => match (translate s (dieOf b.core) (s.jobOf b.grid) b.extents va false false).2 with
      | .here pa _ => find s.mem pa 8
      | _ => BitVec.ofNat 64 ((code % 256) <<< 16)
  else BitVec.ofNat 64 acc.op.kind

/-- One lane's check: its access faults, or goes on. -/
def accCheck (b : Block) (s : State) (th : Thread) (acc : Acc) : State × LaneCheck :=
  let (s, fs) := accFaults s b (!th.priv) acc
  if fs.isEmpty then (s, .go)
  else (s, .fault (fs.map fun f => { tid := th.tid, code := f.1, addr := f.2, detail := accDetail s b acc f.1 f.2, acc := acc }))

/- What an access gives. -/

/-- Performed with nothing to write back; a register value with flags; or outstanding. -/
inductive ActRes
  | done
  | value (v : Word) (f : BitVec 6)
  | wait (k : PendKind)
  deriving DecidableEq, Repr, Inhabited

/-- Bytes of an earlier write that fall into [va, va + n), put over what was read (R102, R122). -/
def overlay (va : Nat) (bs : List Byte) (wva : Nat) (ws : List Byte) : List Byte :=
  bs.zipIdx.map fun x => if wva ≤ va + x.2 && va + x.2 < wva + ws.length then ws.getD (va + x.2 - wva) 0 else x.1

/-- The bytes a store writes (R211, R219). -/
def storeBytes (acc : Acc) : List Byte := leBytes acc.x.toNat acc.op.size

/-- A thread's own earlier stores that are not yet performed, over bytes read from memory: those outstanding and the .ord stores in the
ticket unit, in program order (R102, R103, R122). `upTo`: the number of the load; later stores have higher ones. -/
def ownBytes (s : State) (who : Tref) (die upTo va : Nat) (bs : List Byte) : List Byte :=
  let plain := (s.writes.filter fun w => w.who == who && w.id < upTo && !w.place.isScratch).map fun w => (w.id, w.va, w.bytes)
  let ord := ((s.die die).tickets.filter fun t => t.who == who && t.id < upTo && (match t.acc.op with
      | .st _ _ _ => true
      | _ => false)).map fun t => (t.id, t.acc.ea.toNat, storeBytes t.acc)
  (sortBy (fun x y => x.1 ≤ y.1) (plain ++ ord)).foldl (fun bs w => overlay va bs w.2.1 w.2.2) bs

/-- The same for the scratchpad. -/
def ownScratch (s : State) (who : Tref) (upTo off : Nat) (bs : List Byte) : List Byte :=
  (s.writes.filter fun w => w.who == who && w.id < upTo && w.place.isScratch).foldl (fun bs w => overlay off bs w.va w.bytes) bs

/-- A loaded value: sign- or zero-extended (R211, R219). -/
def loadValue (n : Nat) (sx : Bool) (bs : List Byte) : Word :=
  if sx then BitVec.ofInt 64 (sgn (8 * n) (leNat bs)) else BitVec.ofNat 64 (leNat bs)

/-- One decoded element of a formatted load in FP32 or BF16, with flags: OF and NX alone (R84, R86, R215). DESIGN CHOICE (log 70): a NaN entry of
a codebook keeps its sign and payload, as decoding a code is exact. -/
def ldfEl (s : State) (die fmt cb : Nat) (bf : Bool) (el : List Byte) (scale : Nat) (j : Nat) : Nat × BitVec 6 :=
  let out := if bf then ffB else ffS
  let x : Nat := (el.getD j 0).toNat
  let scaled (v : FVal) : Nat × BitVec 6 :=
    if scale == 0xFF then (out.nanC, 0)
    else match v with
      | .fin n m e => let r := out.put .ne (.fin n m (e + scale - 127))
        (r.1, r.2 &&& (fOF ||| fNX))
      | v => ((out.put .ne v).1, 0)
  match fmt with
  | 0 => if bf then cvtEl .ne .bf .s (leNat ((el.drop (4 * j)).take 4)) else (leNat ((el.drop (4 * j)).take 4), 0)
  | 1 => scaled (ffE4.val x)
  | 2 => scaled (ffE5.val x)
  | 3 => scaled (.fin (sgn 8 x < 0) (sgn 8 x).natAbs 0)
  | _ =>
    let c := ((el.getD (j / 2) 0).toNat >>> (4 * (j % 2))) % 16
    let v := (((s.die die).codebooks.getD cb []).getD c 0).toNat
    if bf then (v, 0) else (v <<< 16, 0)

/-- A formatted load's register value from the bytes it read (R214, R215). -/
def ldfValue (s : State) (die fmt cb : Nat) (bf : Bool) (el : List Byte) (scale : Nat) : Word × BitVec 6 :=
  let n := if bf then 4 else 2
  let w := if bf then 16 else 32
  (BitVec.ofNat 64 (packN w (fun j => (ldfEl s die fmt cb bf el scale j).1) n),
   (List.range n).foldl (fun acc j => acc ||| (ldfEl s die fmt cb bf el scale j).2) 0)

/-- Width and signedness of an atomic's type (R150). -/
def atomBits : AtomTy → Nat
  | .d | .du => 64
  | .w | .wu => 32
def atomSigned : AtomTy → Bool
  | .d | .w => true
  | .du | .wu => false

/-- The new value of an atomic: old m, operand x, for ACAS the new value y (R221). -/
def atomNew (o : AtomOp) (t : AtomTy) (m x y : Nat) : Nat :=
  let w := atomBits t
  let lt (a b : Nat) : Bool := if atomSigned t then sgn w a < sgn w b else a < b
  match o with
  | .add => (m + x) % 2 ^ w
  | .addf => (ffS.add m x).1
  | .min => if lt x m then x else m
  | .max => if lt m x then x else m
  | .and => m &&& x
  | .or => m ||| x
  | .xor => m ^^^ x
  | .xch => x
  | .cas => if m == x then y else m

/-- The old value as the register takes it (R221). -/
def atomOld (o : AtomOp) (t : AtomTy) (m : Nat) : Word :=
  if o != .addf && atomSigned t then BitVec.ofInt 64 (sgn (atomBits t) m) else BitVec.ofNat 64 m

/-- A signal write (R232). -/
def sigNew (o : SigOp) (w x : Word) : Word :=
  match o with
  | .dec => sigWith w (sigCount w - (x.toNat % 2 ^ 32 : Nat))
  | .inc => sigWith w (sigCount w + (x.toNat % 2 ^ 32 : Nat))
  | .set => BitVec.ofNat 64 (x.toNat % 2 ^ 60)

/-- Remote stores of a thread not yet acknowledged: in the write-combining buffer or sent (R119, R210). -/
def remoteOut (s : State) (core : Nat) (who : Tref) : Bool :=
  (s.core core).wc.any (fun l => l.whos.any fun w => w.2 == who)
    || s.inFlight.any fun f => f.2.2.whos.any fun w => w.2 == who

/-- Order and scope of an access. A signal write is a release whatever its order adds (R113). -/
def AccOp.order : AccOp → Order × Scope
  | .atom _ _ od sc => (od, sc)
  | .sig _ od sc => (match od with
    | .sc => .sc
    | .ar | .acq => .ar
    | _ => .rel, sc)
  | .rel sc => (.rel, sc)
  | .acq sc => (.acq, sc)
  | .sigwait od sc => (od, sc)
  | .sigarm od sc => (od, sc)
  | .fence o sc => (match o with
    | .acq => .acq
    | .rel => .rel
    | .ar => .ar, sc)
  | .st _ o _ => (if o then .ord else .none, .blk)
  | _ => (.none, .blk)

/-- The access is a release (R111, R113). -/
def AccOp.releases (o : AccOp) : Bool :=
  let od := o.order.1
  od = .rel || od = .ar || od = .sc

/-- An atomic operation at another package as a packet: operation, type, order, scope, operands (R315; log 15). -/
def atomPacketOf (job : Nat) (user : Bool) (dst core : Nat) (acc : Acc) : Packet :=
  let code : Nat × Nat := match acc.op with
    | .atom o t _ _ => (match o with
        | .add => 0 | .min => 1 | .max => 2 | .and => 3 | .or => 4 | .xor => 5 | .xch => 6 | .cas => 7 | .addf => 8,
      match t with
        | .d => 0 | .w => 1 | .du => 2 | .wu => 3)
    | .sig .dec _ _ => (16, 0)
    | .sig .inc _ _ => (17, 0)
    | .sig .set _ _ => (18, 0)
    | .sigwait _ _ => (20, 0)
    | .sigarm _ _ => (21, 0)
    | .acq _ => (24, 0)
    | _ => (25, 0)
  { blankPacket with typ := 8, dst := dst, vc := 0, score := core, n := 1, base := acc.ea, job := job, user := user
                     tspec := tspecOf [(0, 1, code.1), (1, 1, code.2), (2, 1, (orderCode acc.op.order.1).toNat),
                                       (3, 1, (scopeCode acc.op.order.2).toNat), (8, 8, acc.x.toNat), (16, 8, acc.y.toNat)] }

/-- A store merged into the write-combining line of its peer and 128-byte line; the oldest line is sent where none is free, a full line
at once (R317). -/
def wcStore (s : State) (core peer job : Nat) (user : Bool) (who : Tref) (id va : Nat) (bs : List Byte) : State :=
  let lva := va / 128 * 128
  let s := if ((s.core core).wc.any fun l => l.peer == peer && l.job == job && l.va == lva) || (s.core core).wc.length < 64 then s
    else match (s.core core).wc with
      | l :: _ => sendLine s core l
      | [] => s
  let new := bs.zipIdx.map fun x => (va - lva + x.2, x.1)
  let wc := (s.core core).wc
  let wc := if wc.any fun l => l.peer == peer && l.job == job && l.va == lva then wc
    else wc ++ [{ peer := peer, job := job, user := user, va := lva, bytes := [], whos := [], born := s.now }]
  let wc := replaceFirst (fun l => l.peer == peer && l.job == job && l.va == lva)
    (fun l => { l with bytes := new.foldl (fun bs x => tset bs x.1 x.2) l.bytes, whos := l.whos ++ [(id, who)] }) wc
  let s := s.updCore core fun k => { k with wc := wc }
  sendLines s core fun l => l.bytes.length == 128

/-- The pieces of a store by 128-byte line. -/
def linePieces (va : Nat) (bs : List Byte) : List (Nat × List Byte) :=
  let fst := min bs.length (128 - va % 128)
  if fst == bs.length then [(va, bs)] else [(va, bs.take fst), (va + fst, bs.drop fst)]

/-- Something of the thread that precedes a store to a package is still to be made: an access to the same bytes, a store of them that is
outstanding here, on its way, or buffered for another package (R102, R103, R455). -/
def storeWaits (s : State) (who : Tref) (id job va n peer : Nat) : Bool :=
  accBefore s who id va n true || s.writes.any (fun w => w.who == who && !w.place.isScratch && meets w.va w.bytes.length va n)
    || s.inFlight.any (fun f => f.2.2.of who id && f.2.2.meets job va n)
    || s.cores.any fun c => c.2.wc.any fun l => l.of who id && l.peer != peer && l.meets job va n

/-- One store issued: it counts once in the store count until all of it is performed (R210). -/
def issueStore (s : State) (b : Block) (who : Tref) (user : Bool) (va : Nat) (bs : List Byte) : State :=
  let job := s.jobOf b.grid
  let id := s.nextId
  let s := { s.updThread who (fun th => { th with stores := th.stores + 1 }) with nextId := id + 1 }
  (pieces va bs.length).foldl (fun s x =>
    let data := (bs.drop (x.1 - va)).take x.2
    let put (s : State) (at' : Place) : State :=
      { s with writes := s.writes ++ [{ id := id, who := who, job := job, place := at', va := x.1, bytes := data, set := false
                                        at_ := s.now, token := 0 }] }
    let (s, r) := translate s (dieOf b.core) job b.extents x.1 true user
    match r with
    | .away p =>
      if storeWaits s who id job x.1 x.2 p then put (sendLines s b.core fun l => l.of who id && l.meets job x.1 x.2) .held
      else (linePieces x.1 data).foldl (fun s y => wcStore s b.core p job user who id y.1 y.2) s
    | .here pa e => put (noteHeat s job x.1 pa e s.pkg true) (.pa pa)
    | _ => put s .held) s

/-- Thread fields an access reads. -/
def State.orderOf (s : State) (who : Tref) : Nat := ((s.thread? who).map fun t => t.order).getD 0

/-- A thread's next program-order index drawn (R55). -/
def drawOrder (s : State) (who : Tref) : State := s.updThread who fun th => { th with order := th.order + 1 }

/-- An .ord operation enters the die's ticket unit (R225, R226) and counts in its thread's store count until it is performed (R210). -/
def enterTicket (s : State) (b : Block) (who : Tref) (acc : Acc) (id : Nat) : State :=
  let seg := ((s.thread? who).map fun t => t.segment).getD 0
  let t : Ticket := { id := id, seg := seg, who := who, order := s.orderOf who, acc := acc }
  let s := s.updThread who fun th => { th with stores := th.stores + 1 }
  drawOrder (s.updDie (dieOf b.core) fun d => { d with tickets := d.tickets ++ [t] }) who

/-- Entries of the spill area in use (R414). -/
def spillUsed (k : Core) : Nat := (k.staged.filter fun e => e.spilled).length

/-- The staging buffer takes one more entry; the 64 oldest resident entries, or as many as are free, move to the spill area where 512
are resident. False where there is no room (R414). -/
def stageRoom (s : State) (core : Nat) : State × Bool :=
  let k := s.core core
  let res := (k.staged.filter fun e => !e.spilled).length
  if res < 512 then (s, true)
  else
    let free := if bits s.preemptCtl.toNat 15 8 == 0 then 0 else 8192 - spillUsed k
    let n := min 64 free
    if n == 0 then (s, false)
    else
      let step (acc : List Staged × Nat) (e : Staged) : List Staged × Nat :=
        if !e.spilled && acc.2 != 0 then (acc.1 ++ [{ e with spilled := true }], acc.2 - 1) else (acc.1 ++ [e], acc.2)
      (s.setCore core { k with staged := (k.staged.foldl step ([], n)).1 }, true)

/- Releases (R106 to R111). -/

/-- The binding has taken effect for a thread, and no RUNBIND has removed it for that thread (R109). -/
def Bind.isFor (x : Bind) (tid : Nat) : Bool := (x.all || x.tid == tid) && !x.off.contains tid

/-- A RUNBIND of a thread removes its view of a binding to the object (R109). -/
def Bind.drop (tid obj : Nat) (x : Bind) : Bind := if x.obj == obj && x.isFor tid then { x with off := x.off ++ [tid] } else x

/-- The bound region of a REL or ACQ of a thread on an object (R109). -/
def boundRegion (b : Block) (tid obj : Nat) : List (Nat × Nat) := (b.binds.filter fun x => x.obj == obj && x.isFor tid).map fun x => (x.base, x.len)

/-- Some of the ranges share a byte with [va, va + n). -/
def inRanges (rs : List (Nat × Nat)) (va n : Nat) : Bool := rs.any fun r => meets r.1 r.2 va n

/-- The line holds bytes of the ranges. -/
def WcLine.inRanges (l : WcLine) (job : Nat) (rs : List (Nat × Nat)) : Bool := rs.any fun r => l.meets job r.1 r.2

/-- The thread's outstanding stores to the ranges performed, as far as they can be, and their write-combining lines sent. -/
def drainRanges (s : State) (core : Nat) (who : Tref) (job : Nat) (rs : List (Nat × Nat)) : State :=
  let s := (s.writes.filter fun w => w.who == who && !w.place.isScratch && inRanges rs w.va w.bytes.length).foldl performStore s
  sendLines s core fun l => (l.whos.any fun w => w.2 == who) && l.inRanges job rs

/-- Something of the thread before number `upTo` that touches the ranges is still to be made. -/
def rangesBefore (s : State) (who : Tref) (upTo job : Nat) (rs : List (Nat × Nat)) : Bool :=
  s.writes.any (fun w => w.who == who && w.id < upTo && !w.place.isScratch && inRanges rs w.va w.bytes.length)
    || rs.any fun r => accBefore s who upTo r.1 r.2 true || lineBefore s who upTo job r.1 r.2

/-- The ranges whose stores an access puts before itself: its own bytes (R102), and of a REL its bound region, whose locations alone its
edge carries (R110). -/
def Acc.ranges (b : Block) (who : Tref) (acc : Acc) : List (Nat × Nat) :=
  acc.span.toList ++ (match acc.op with
    | .rel _ => boundRegion b who.tid acc.ea.toNat
    | _ => [])

/-- The access carries every earlier write of its thread to whoever acquires from it (R108, R111, R113). -/
def AccOp.carriesAll : AccOp → Bool
  | .rel _ => false
  | o => o.releases

/-- What precedes an access is performed, as far as it can be, and sent: for a release of any scope all stores of the thread (log 63), for
any other access those to its own bytes. False where something is left to wait for. -/
def settleBefore (s : State) (b : Block) (who : Tref) (acc : Acc) (upTo : Nat) : State × Bool :=
  let job := s.jobOf b.grid
  let rs := acc.ranges b who
  let s := if acc.op.carriesAll then flushThread s b.core who else drainRanges s b.core who job rs
  (s, !((acc.op.carriesAll && storesBefore s who upTo) || rangesBefore s who upTo job rs))

/-- Performing an access that its check has let through. `upTo`: its number, which every later access of the thread exceeds. DESIGN CHOICE (log
81): of the moments between its issue and its token's fall (R103), a load of this package's memory takes its value at its issue, unless it is held. -/
def performAcc (s : State) (b : Block) (who : Tref) (user : Bool) (acc : Acc) (upTo : Nat) : State × ActRes :=
  let die := dieOf b.core
  let job := s.jobOf b.grid
  let ea := acc.ea.toNat
  let ordered := s.ordered b.grid
  let ticketed := s.scOut.any fun x => x.2.2 == upTo
  match acc.op with
  | .ld n sx _ =>
    if inWindow ea then (s, .value (loadValue n sx ((List.range n).map fun i => constByte s b (ea - 0x00FF020000000000 + i))) 0)
    else if accBefore s who upTo ea n false then (s, .wait .held)
    else
      let (s, rs) := (pieces ea n).foldl (fun (s, rs) x =>
        let (s, r) := translate s die job b.extents x.1 false user
        (s, rs ++ [(x, r)])) (s, ([] : List ((Nat × Nat) × XRes)))
      let gone := rs.any fun x => match x.2 with
        | .away _ => true
        | _ => false
      let own := lineBefore s who upTo job ea n
      let s := if gone || own then sendLines s b.core fun l => l.meets job ea n else s
      if own || lineBefore s who upTo job ea n || rs.any (fun x => match x.2 with
          | .here _ _ => false
          | .away _ => false
          | _ => true) then (s, .wait .held)
      else
        let (s, asks, got) := rs.foldl (fun (s, asks, got) x => match x with
          | ((va, k), .here pa e) =>
            (noteHeat s job va pa e s.pkg false, asks, got ++ (s.mem.read pa k).zipIdx.map (fun y => (va + y.2, y.1)))
          | ((va, k), .away p) =>
            let g0 := va / 8
            let cnt := (va + k + 7) / 8 - g0
            let (s, pk) := sendPacket s { blankPacket with
              typ := 3, dst := p, vc := 0, score := b.core, base := BitVec.ofNat 64 (8 * g0), job := job, user := user
              tspec := tspecOf [(0, 4, cnt)] }
            (s, asks ++ [(p, pk.seq)], got)
          | _ => (s, asks, got)) (s, ([] : List (Nat × Nat)), ([] : List (Nat × Byte)))
        if asks.isEmpty then (s, .value (loadValue n sx (ownBytes s who die upTo ea (got.map fun y => y.2))) 0)
        else (s, .wait (.remote asks got))
  | .st _ o _ =>
    if o && ordered then (enterTicket { s with nextId := s.nextId + 1 } b who acc s.nextId, .done)
    else (issueStore s b who user ea (storeBytes acc), .done)
  | .ldf bf =>
    if accBefore s who upTo (ea / 128 * 128) 128 false then (s, .wait .held)
    else if lineBefore s who upTo job (ea / 128 * 128) 128 then
      (sendLines s b.core fun l => l.meets job (ea / 128 * 128) 128, .wait .held)
    else
    let (s, r) := translate s die job b.extents ea false user
    match r with
    | .here pa p =>
      let el := ownBytes s who die upTo ea (s.mem.read pa ((ldfReads (pteFmt p) bf ea).headD (0, 0)).2)
      let sc := match (ldfReads (pteFmt p) bf ea).drop 1 with
        | x :: _ => leNat (ownBytes s who die upTo x.1 (s.mem.read (pa + x.1 - ea) 1))
        | [] => 127
      let (v, f) := ldfValue s die (pteFmt p) (pteCb p) bf el sc
      (noteHeat s job ea pa p s.pkg false, .value v f)
    | .away p =>
      let s := sendLines s b.core fun l => l.meets job (ea / 128 * 128) 128
      let (s, pk) := sendPacket s { blankPacket with
        typ := 3, dst := p, vc := 0, score := b.core, base := BitVec.ofNat 64 (ea / 128 * 128), job := job, user := user
        tspec := tspecOf [(0, 4, 16)] }
      (s, .wait (.remote [(p, pk.seq)] []))
    | _ => (s, .wait .held)
  | .lds n q =>
    let off := ea % 2 ^ 57
    let v := loadValue n false (ownScratch s who upTo off (b.scratch.read off n))
    match q with
    | .none => (s, .value v 0)
    | _ =>
      if b.full.contains (off / 16) then
        (if q = .wfc then s.updBlock b.grid b.bidx fun b => { b with full := markSet b.full (off / 16) false } else s, .value v 0)
      else (s, .wait (.fullEmpty off n (q = .wfc)))
  | .sts n sf =>
    let off := ea % 2 ^ 57
    ({ s.updThread who (fun th => { th with stores := th.stores + 1 }) with
        writes := s.writes ++ [{ id := s.nextId, who := who, job := job, place := .scratch off, va := off,
                                 bytes := leBytes acc.x.toNat n, set := sf, at_ := s.now, token := 0 }]
        nextId := s.nextId + 1 }, .done)
  | .ldws n =>
    let off := ea % 2 ^ 57
    if wsBusy s die (off / 2 ^ 16 % 8) then (s, .wait (.refresh off n))
    else (s, .value (BitVec.ofNat 64 ((s.die die).ws.num off n)) 0)
  | .rbind => (s, .done) -- its check makes the binding (R230)
  | .runbind =>
    -- after the thread's REL and ACQ on the object (R109)
    if s.pend.any fun p => p.who == who && p.id < upTo && p.acc.ea == acc.ea && p.kind.unread && (match p.acc.op with
        | .rel _ | .acq _ => true
        | _ => false)
    then (s, .wait .held)
    else (s.updBlock b.grid b.bidx fun b => { b with binds := b.binds.map (Bind.drop who.tid ea) }, .done)
  | .jump _ _ | .reissue => (s, .done)
  | op =>
    if (match op with
      | .atom .addf _ .none _ => ordered
      | _ => false) then
      -- staged, not performed (R223, R224)
      let th := (s.thread? who).getD default
      let e : Staged := { va := ea, x := acc.x.extractLsb' 0 32, order := th.order, who := who, batch := th.flushes + 1, spilled := false }
      (drawOrder ((stageRoom s b.core).1.updCore b.core fun k => { k with staged := k.staged ++ [e] }) who, .done)
    else if (match op with
      | .atom _ _ .ord _ => ordered
      | _ => false) then (s, .wait .ticket)
    else
      let (s, ready) := settleBefore s b who acc upTo
      if !ready then (s, .wait .held)
      else match op with
        | .fence _ _ => (s, .done)
        | _ =>
          let (s, r) := translate s die job b.extents ea op.writes user
          match r with
          | .away p =>
            -- a SIGWAIT in its place of the SC order reads the word and waits no longer for it (R232)
            let acc := match op with
              | .sigwait _ sc => if ticketed then { acc with op := .acq sc } else acc
              | _ => acc
            let (s, pk) := sendPacket s (atomPacketOf job user p b.core acc)
            (s, .wait (.remote [(p, pk.seq)] []))
          | .here pa e =>
            if op.writes && writeHeld s job ea then (s, .wait .held)
            else
              let s := noteHeat (if op.writes then noteDsm s job ea else s) job ea pa e s.pkg op.writes
              match op with
              | .atom o t _ _ =>
                let n := op.size
                let m := s.mem.num pa n
                let x := acc.x.toNat % 2 ^ (8 * n)
                let y := acc.y.toNat % 2 ^ (8 * n)
                (memPut s pa (leBytes (atomNew o t m x y) n), .value (atomOld o t m) 0)
              | .acq _ => (s, .value (BitVec.ofNat 64 (s.mem.num pa 8)) 0)
              | .rel _ => (signalPut s pa acc.x, .done)
              | .sig o _ _ => (signalPut s pa (sigNew o (BitVec.ofNat 64 (s.mem.num pa 8)) acc.x), .done)
              | .sigwait od sc =>
                let w := BitVec.ofNat 64 (s.mem.num pa 8)
                let t := sigCount acc.x
                if !sigMet w t then (s, .wait (.signal pa od sc t))
                else if od = .sc && !ticketed then
                  (if !(sc = .pod) && scTurn s false s.scNext then ({ s with scNext := s.scNext + 1 }, .value w 0) else (s, .wait .scTicket))
                else (s, .value w 0)
              | _ =>
                (armEntry s { obj := pa, job := job, user := user, t := sigCount acc.x, kind := bits acc.y.toNat 63 61,
                              addr := acc.y.toNat % 2 ^ 57 }, .done)
          | _ => (s, .wait .held)

/-- The SC order an .sc access takes its ticket in at its issue: the Halyard's at pod scope, the package's at any narrower one; a SIGWAIT
takes its when it observes its condition (R112, R232). -/
def AccOp.scOrder : AccOp → Option Bool
  | .atom _ _ .sc sc | .sig _ .sc sc | .sigarm .sc sc => some (sc = .pod)
  | _ => none

/-- The store count holds the access although it has no register result (R210). -/
def AccOp.counts : AccOp → Bool
  | .rel _ | .sig _ _ _ | .sigarm _ _ => true
  | _ => false

/-- Whether a wait on it counts in PERF_STALL_MEM: LD, LDG, LDF, LDS, LDWS, ACQ and atomics (R20). -/
def AccOp.memWait : AccOp → Bool
  | .ld _ _ _ | .ldf _ | .lds _ _ | .ldws _ | .acq _ | .atom _ _ _ _ => true
  | _ => false

/-- Status of a thread whose tok = 7 access waits (R37). -/
def waitStatus : PendKind → Option Status
  | .signal _ _ _ _ => some .signal
  | .fullEmpty _ _ _ => some .fullEmpty
  | _ => none

/-- What an access leaves with its thread: a value written at once (tok = 7) or outstanding under its token, or a wait with its lookahead
window (R137, R138). -/
def settle (s : State) (who : Tref) (hdr : Va) (idx : Nat) (acc : Acc) (r : ActRes) : State × List Window :=
  let tok := if acc.op.counts then 8 else acc.k
  let p (k : PendKind) : Pend :=
    { id := s.nextId, who := who, tok := tok, acc := acc, kind := k, hdr := hdr, idx := idx, aged := 0, mem := acc.op.memWait }
  match r with
  | .done => (s, [])
  | .value v f =>
    if tok < 7 then (addPend s (p (.result v f)), [{ id := s.nextId, left := acc.l }])
    else if tok == 7 then (s.updThread who fun th => (th.setReg acc.d v).setFlags f, [])
    else (s, [])
  | .wait k =>
    let id := s.nextId
    let s := addPend s (p k)
    let s := match k with
      | .ticket => match s.block? who.grid who.bidx with
        | some b => enterTicket s b who acc id
        | none => s
      | _ => s
    let s := match waitStatus k with
      | some st => if tok == 7 then s.updThread who fun th => { th with status := st } else s
      | none => s
    (s, if tok == 8 then [] else [{ id := id, left := if tok == 7 then 0 else acc.l }])

/-- A SIGWAIT of order sc that has observed its condition asks for its ticket (R232). -/
def askTicket (s : State) (id : Nat) (acc : Acc) : State :=
  match acc.op with
  | .sigwait _ .pod =>
    match s.pend.find? fun p => p.id == id with
    | some p => sendEvent (setKind s id .scTicket) (.ticket (evHdr s (s.jobOf p.who.grid)))
    | none => s
  | _ => drawTicket (setKind s id .held) id

/-- An access performed and settled (R404: also by a REPLAY). An .sc access first has its release made, then takes its ticket, and is
performed in its turn (R112). -/
def actAcc (s : State) (who : Tref) (hdr : Va) (idx : Nat) (user : Bool) (acc : Acc) : State × List Window :=
  match s.block? who.grid who.bidx with
  | none => (s, [])
  | some b =>
    let id := s.nextId
    match acc.op.scOrder with
    | none =>
      (match performAcc s b who user acc id with
      | (s, .wait .scTicket) =>
        let (s, ws) := settle s who hdr idx acc (.wait .held)
        (askTicket s id acc, ws)
      | (s, r) => settle s who hdr idx acc r)
    | some pod =>
      let (s, ready) := settleBefore s b who acc id
      if !ready then settle s who hdr idx acc (.wait .held)
      else if pod then settle (sendEvent s (.ticket (evHdr s (s.jobOf who.grid)))) who hdr idx acc (.wait .scTicket)
      else if !scTurn s false s.scNext then
        let (s, ws) := settle s who hdr idx acc (.wait .held)
        (drawTicket s id, ws)
      else
        let (s, r) := performAcc s b who user acc id
        let (s, ws) := settle s who hdr idx acc r
        (drawTicket s id, ws)

/-- A result's ticket of an SC order is given up: its SIGWAIT waits on (R232). -/
def dropSc (s : State) (id : Nat) : State := { s with scOut := s.scOut.filter fun x => x.2.2 != id }

/-- A load, a RET's among them: abandoned when its block halts, and executed again when it resumes (R180, R305). -/
def AccOp.isLoad : AccOp → Bool
  | .jump _ _ | .ld _ _ _ | .ldf _ | .lds _ _ | .ldws _ | .acq _ => true
  | _ => false

/-- An access that waited is checked again from translation, as at its issue (R140, R404), and performed. -/
def retryNow (s : State) (p : Pend) (b : Block) : State :=
  let user := !((s.thread? p.who).map fun t => t.priv).getD true
  -- a RET's is the load of its return slot, whose value its transfer takes (R180)
  let ret := match p.acc.op with
    | .jump _ _ => true
    | _ => false
  let acc := if ret then { p.acc with op := .ld 8 false false } else p.acc
  match accFaults s b user acc with
  | (s, (c, va) :: _) => faultPend s p c va (accDetail s b acc c va)
  | (s, []) =>
    let s' := performAcc s b p.who user acc p.id
    match s'.2 with
    | .done => complete s'.1 p [] 0
    | .value v f => if ret then setKind s'.1 p.id (.result v 0) else complete s'.1 p (if p.tok == 8 then [] else [(p.acc.d, v)]) f
    | .wait .scTicket => askTicket s'.1 p.id p.acc
    | .wait (.signal pa od sc t) => setKind (dropSc s'.1 p.id) p.id (.signal pa od sc t)
    | .wait k => setKind s'.1 p.id k

/-- The access has its ticket of an SC order (R112): the Halyard's, the number. -/
def scOf (s : State) (id : Nat) : Option (Bool × Nat) := (s.scOut.find? fun x => x.2.2 == id).map fun x => (x.1, x.2.1)

/-- An outstanding access that was held, or whose ticket has come, is performed now (R65, R112, R343); a load only while its block
runs. -/
def retryPend (s : State) (p : Pend) : State :=
  match s.block? p.who.grid p.who.bidx with
  | none => s
  | some b =>
    if b.place != 0 && p.acc.op.isLoad then s
    else match scOf s p.id, p.acc.op.scOrder with
      | some (pod, n), _ => if scTurn s pod n then retryNow s p b else s
      | none, none => retryNow s p b
      | none, some pod =>
        let (s, ready) := settleBefore s b p.who p.acc p.id
        if !ready then s
        else if pod then sendEvent (setKind s p.id .scTicket) (.ticket (evHdr s (s.jobOf p.who.grid)))
        else
          let turn := scTurn s false s.scNext
          let s := drawTicket s p.id
          if turn then retryNow s p b else s

/-- Every held access is tried again, in the order of issue; one more pass for each .sc access whose turn another's completion brings. -/
def retryHeld (s : State) : State :=
  let pass (s : State) : State := (s.pend.filter fun p => p.kind == .held).foldl (fun s p => if s.waitsOn p.id then retryPend s p else s) s
  let s := { s with sigHeld := s.sigHeld.filter fun x => x.2.2.2.2 < 2 ^ 37 } |> fun t =>
    (s.sigHeld.filter fun x => 2 ^ 37 ≤ x.2.2.2.2).foldl (fun s x => signalDoneAt s (x.2.2.2.2 % 4) x.1 x.2.1 x.2.2.1 x.2.2.2.1) t
  (List.range (s.scOut.length + 1)).foldl (fun s _ => pass s) s

end Sys2Proof.Machine
end

