-- ==== Sys2Proof/Machine/Memory.lean ====
section
/-! DEFINITION. Majors 0x10 to 0x1A: loads, stores, gather and scatter, prefetch, atomics, acquire, release, bindings, signals (09:
R207 to R223, R229 to R233). -/

namespace Sys2Proof.Machine

open Sys2Proof

/-- The name of a thread of a block. -/
def trefOf (b : Block) (th : Thread) : Tref := { grid := b.grid, bidx := b.bidx, tid := th.tid }

/-- One lane's access with its operands from the old registers (R207). -/
def mkAcc (op : AccOp) (th : Thread) (ea : Word) (d : Reg) (k : BitVec 3) (l : BitVec 4) : Acc :=
  { op := op, ea := ea, x := th.reg d, y := th.reg (nextReg d), d := d, k := k.toNat, l := l.toNat }

/-- A lane performs its access. -/
def actLane (b : Block) (g : Group) (s : State) (th : Thread) (acc : Acc) : State × List Window :=
  actAcc s (trefOf b th) g.hdr g.idx (!th.priv) acc

/-- An instruction whose every active lane makes one access (R209). -/
def runAcc (i : Instr) (s : State) (f : Thread → Acc) : Host.Outcome State Fault Refusal :=
  runLanes i s (fun b _ s _ th => accCheck b s th (f th)) fun b g s _ th => actLane b g s th (f th)

/-- Distinct 8-byte words of a list in one bank (R72). -/
def inBank (ws : List Nat) (k : Nat) : Nat := (ws.filter fun w => w % 64 == k).length

/-- Cycles beyond the first of one scratchpad access by a group: the most distinct words in any bank, less one (R72). -/
def bankCycles (ws : List Nat) : Nat :=
  ((List.range 64).map fun k => inBank ws k).foldl max 1 - 1

/-- A scratchpad access by the group: the lanes' accesses, and PERF_STALL_SP (R20, R72). -/
def runScratch (i : Instr) (s : State) (f : Thread → Acc) : Host.Outcome State Fault Refusal :=
  runLanesThen i s (fun b _ s _ th => accCheck b s th (f th)) (fun b g s _ th => actLane b g s th (f th))
    fun b ok s =>
      let ws := ok.foldl (fun acc m => markSet acc ((f m.2).ea.toNat % 2 ^ 57 / 8) true) []
      s.updCore b.core fun k => { k with perfStallSp := k.perfStallSp + BitVec.ofNat 64 (bankCycles ws) }

/- Gather and scatter (R219, R316). -/

/-- The lane's access to another package may go out at once: nothing of its thread that precedes it is still to be made (R102). -/
def laneFree (s : State) (b : Block) (peer : Nat) (th : Thread) (acc : Acc) : Bool :=
  !storeWaits s (trefOf b th) s.nextId (s.jobOf b.grid) acc.ea.toNat acc.op.size peer

/-- The active lanes whose aligned address lies in a 64 KiB region and whose access may go to the peer at once, ascending TID. -/
def regionLanes (s : State) (b : Block) (g : Group) (f : Thread → Acc) (peer region : Nat) : List (Thread × Acc) :=
  ((activeLanes b g).map fun m => (m.2, f m.2)).filter fun x =>
    x.2.ea.toNat / 2 ^ 16 == region && x.2.ea.toNat % x.2.op.size == 0 && laneFree s b peer x.1 x.2

/-- The offsets of a region's entries: each lane's granule (R316). -/
def regionOffs (ls : List (Thread × Acc)) : List (BitVec 16) := ls.map fun x => BitVec.ofNat 16 (x.2.ea.toNat / 8 * 8)

/-- One VREAD for the lanes of a region (R316). -/
def vreadOf (b : Block) (job peer region : Nat) (user : Bool) (ls : List (Thread × Acc)) : Packet :=
  { blankPacket with typ := 4, dst := peer, score := b.core, n := ls.length, base := BitVec.ofNat 64 (region * 2 ^ 16), job := job
                     user := user, offs := regionOffs ls }

/-- The bytes one lane of a scatter stores, by address. -/
def laneBytes (acc : Acc) : List (Nat × Byte) := (storeBytes acc).zipIdx.map fun x => (acc.ea.toNat + x.2, x.1)

/-- One VWRITE for the lanes of a region: an entry per lane in TID order, partial where .w (R316). -/
def vwriteOf (b : Block) (job peer region : Nat) (user : Bool) (ls : List (Thread × Acc)) : Packet :=
  let es := ls.map fun x => entryOf (x.2.ea.toNat / 8) (laneBytes x.2)
  { blankPacket with typ := 2, dst := peer, score := b.core, n := ls.length, base := BitVec.ofNat 64 (region * 2 ^ 16), job := job
                     user := user, offs := regionOffs ls, data := es.map fun e => e.1, seals := es.map fun e => e.2.1
                     masks := es.map fun e => e.2.2 }

/-- The VREAD of this cycle for a lane's region that carries its granule: destination and SEQ. -/
def vreadSent (s : State) (b : Block) (acc : Acc) : Option (Nat × Nat) :=
  (s.retained.find? fun q => q.p.typ == 4 && q.p.score == b.core && q.at_ == s.now && q.p.job == s.jobOf b.grid
      && q.p.base.toNat == acc.ea.toNat / 2 ^ 16 * 2 ^ 16 && q.p.offs.contains (BitVec.ofNat 16 (acc.ea.toNat / 8 * 8))).map
    fun q => (q.p.dst, q.p.seq)

/-- A gather lane: local as a load; at another package one VREAD for its region, sent by the region's first lane. -/
def gatherLane (f : Thread → Acc) (b : Block) (g : Group) (s : State) (th : Thread) : State × List Window :=
  let acc := f th
  let va := acc.ea.toNat
  let job := s.jobOf b.grid
  match vreadSent s b acc with
  | some a => settle s (trefOf b th) g.hdr g.idx acc (.wait (.remote [a] []))
  | none =>
    let (s, r) := translate s (dieOf b.core) job b.extents va false (!th.priv)
    match r with
    | .away p =>
      if !laneFree s b p th acc then actLane b g s th acc
      else
        let ls := regionLanes s b g f p (va / 2 ^ 16)
        let s := sendLines s b.core fun l => l.peer == p && l.job == job && l.va / 2 ^ 16 == va / 2 ^ 16
        let (s, pk) := sendPacket s (vreadOf b job p (va / 2 ^ 16) (!th.priv) ls)
        settle s (trefOf b th) g.hdr g.idx acc (.wait (.remote [(p, pk.seq)] []))
    | _ => actLane b g s th acc

/-- A scatter lane: local as a store; at another package one VWRITE for its region, sent by the region's first lane and counted in each
lane's store count until it is answered (R210, R219). -/
def scatterLane (f : Thread → Acc) (b : Block) (g : Group) (s : State) (th : Thread) : State × List Window :=
  let acc := f th
  let va := acc.ea.toNat
  let job := s.jobOf b.grid
  if (match acc.op with
    | .st _ true _ => s.ordered b.grid
    | _ => false) then actLane b g s th acc
  else if s.inFlight.any fun x => x.2.2.born == s.now && x.2.2.va == va / 2 ^ 16 * 2 ^ 16 && x.2.2.job == job
      && x.2.2.whos.any fun w => w.2 == trefOf b th then (s, [])
  else
    let (s, r) := translate s (dieOf b.core) job b.extents va true (!th.priv)
    match r with
    | .away p =>
      if !laneFree s b p th acc then actLane b g s th acc
      else
        let ls := regionLanes s b g f p (va / 2 ^ 16)
        let s := sendLines s b.core fun l => l.peer == p && l.job == job && l.va / 2 ^ 16 == va / 2 ^ 16
        let (s, pk) := sendPacket s (vwriteOf b job p (va / 2 ^ 16) (!th.priv) ls)
        let line : WcLine := { peer := p, job := job, user := !th.priv, va := va / 2 ^ 16 * 2 ^ 16,
                               bytes := ls.flatMap fun x => (laneBytes x.2).map fun y => (y.1 % 2 ^ 16, y.2)
                               whos := ls.zipIdx.map fun x => (s.nextId + x.2, trefOf b x.1.1), born := s.now }
        let s := ls.foldl (fun s x => s.updThread (trefOf b x.1) fun t => { t with stores := t.stores + 1 }) s
        ({ s with inFlight := s.inFlight ++ [(p, pk.seq, line)], nextId := s.nextId + ls.length }, [])
    | _ => actLane b g s th acc

def runGather (i : Instr) (s : State) (f : Thread → Acc) : Host.Outcome State Fault Refusal :=
  runLanes i s (fun b _ s _ th => accCheck b s th (f th)) fun b g s _ th => gatherLane f b g s th

def runScatter (i : Instr) (s : State) (f : Thread → Acc) : Host.Outcome State Fault Refusal :=
  runLanes i s (fun b _ s _ th => accCheck b s th (f th)) fun b g s _ th => scatterLane f b g s th

/- AADDF: room for staged entries (R409 cause 0x03, R414). -/

/-- Entries the core's staging buffer and spill area still take. -/
def stageFree (s : State) (core : Nat) : Nat :=
  (512 - ((s.core core).staged.filter fun e => !e.spilled).length)
    + (if bits s.preemptCtl.toNat 15 8 == 0 then 0 else 8192 - spillUsed (s.core core))

/-- The check of an AADDF lane: its access, then room in an ordered grid for its own entry beside those of the lanes of lower TID that
go through. `n`: entries those lanes take. -/
def aaddfCheck (b : Block) (n : Nat) (s : State) (th : Thread) (acc : Acc) : State × LaneCheck :=
  let (s, c) := accCheck b s th acc
  let staged := s.ordered b.grid && (match acc.op with
    | .atom _ _ .none _ => true
    | _ => false)
  match c with
  | .go =>
    if staged && stageFree s b.core ≤ n then
      (s, .fault [{ tid := th.tid, code := 0x0603, addr := acc.ea.toNat, detail := 0, acc := acc }])
    else (s, .go)
  | c => (s, c)

/-- Lanes of lower TID whose access meets no fault (R209). -/
def lowerGood (b : Block) (g : Group) (s : State) (th : Thread) (f : Thread → Acc) : List Thread :=
  ((activeLanes b g).filter fun m => m.2.tid < th.tid && (accCheck b s m.2 (f m.2)).2 == .go).map fun m => m.2

/-- The accesses of AADDF. -/
def runAaddf (i : Instr) (s : State) (f : Thread → Acc) : Host.Outcome State Fault Refusal :=
  runLanes i s (fun b g s _ th => aaddfCheck b (lowerGood b g s th f).length s th (f th)) fun b g s _ th => actLane b g s th (f th)

/- RBIND and SIGARM (R230, R233, R394). -/

/-- Two ranges share a byte. -/
def rangesMeet (a b : Bind) : Bool := a.base < b.base + b.len && b.base < a.base + a.len

/-- The same range bound to the same object. -/
def Bind.same (a b : Bind) : Bool := a.base == b.base && a.len == b.len && a.obj == b.obj

/-- SYNC cause that refuses a binding, in ascending order (R230, R394). `binds`: the bindings the block holds. -/
def bindCause (binds : List Bind) (n : Bind) : Option Nat :=
  if n.base % 128 != 0 || n.len % 128 != 0 || n.len == 0 then some 0x0804
  else if binds.any n.same then none
  else if binds.any fun x => rangesMeet x n then some 0x0805
  else if 16 ≤ binds.length then some 0x0806
  else none

/-- RBIND of one lane: refused by its cause, or bound, so that later lanes see it (R230): the block holds the range at once, and the
binding takes effect for this thread; one that this thread's RUNBIND had removed for it comes back (R109; log 64). -/
def bindLane (b : Block) (s : State) (th : Thread) (acc : Acc) : State × LaneCheck :=
  let (s, c) := accCheck b s th acc
  match c with
  | .go =>
    let n : Bind := { base := acc.x.toNat, len := acc.y.toNat, obj := acc.ea.toNat, tid := th.tid, all := false, via := [], off := [], offVia := [] }
    let held := (((s.block? b.grid b.bidx).map fun x => x.binds).getD []).filter fun x => !x.off.contains th.tid
    (match bindCause held n with
    | some k => (s, .trap k acc.ea)
    | none =>
      (s.updBlock b.grid b.bidx fun b =>
        if held.any n.same then b
        else { b with binds := (b.binds.filter fun x => !(n.same x && x.off.contains th.tid)) ++ [n] }, .go))
  | c => (s, c)

/-- Where the object of an armed entry has its home: the die of this package. -/
def armHome (s : State) (b : Block) (user : Bool) (acc : Acc) : Option Nat :=
  match (translate s (dieOf b.core) (s.jobOf b.grid) b.extents acc.ea.toNat false user).2 with
  | .here pa _ => some (homeDie pa)
  | _ => none

/-- The action word is reserved (R233). -/
def armReserved (y : Nat) : Bool :=
  2 ≤ bits y 63 61 || bits y 60 57 != 0 || y % 2 ^ 57 % (if bits y 63 61 == 0 then 8 else 64) != 0

/-- SYNC cause that refuses an armed entry at this package: the arm table of the object's die is full beside the entries of `before`, the
dies of the lanes of lower TID that go through; or the action word is reserved (R233, R394). -/
def armCause (s : State) (b : Block) (user : Bool) (before : List (Option Nat)) (acc : Acc) : Option Nat :=
  let full := match armHome s b user acc with
    | some d => decide (4096 ≤ (s.die d).arms.length + (before.filter fun x => x == some d).length)
    | none => false
  if full then some 0x0807 else if armReserved acc.y.toNat then some 0x0808 else none

def armLane (b : Block) (g : Group) (f : Thread → Acc) (s : State) (th : Thread) : State × LaneCheck :=
  let acc := f th
  let (s, c) := accCheck b s th acc
  match c with
  | .go =>
    let before := ((lowerGood b g s th f).filter fun t => !armReserved (f t).y.toNat).map fun t => armHome s b (!t.priv) (f t)
    (match armCause s b (!th.priv) before acc with
    | some k => (s, .trap k acc.ea)
    | none => (s, .go))
  | c => (s, c)

/- Loads and stores (R211 to R215). -/

/-- LDD with a short displacement (R132, R211). -/
def execLddShort (d b : Reg) (o : BitVec 6) (k : BitVec 3) (l : BitVec 4) (s : State) : Host.Outcome State Fault Refusal :=
  runAcc (.lddShort d b o k l) s fun th => mkAcc (.ld 8 false false) th (eaShort th b o) d k l

/-- LDD: 8 bytes, zero-extended (R211). -/
def execLdd (d b : Reg) (o : BitVec 26) (k : BitVec 3) (l : BitVec 4) (s : State) : Host.Outcome State Fault Refusal :=
  runAcc (.ldd d b o k l) s fun th => mkAcc (.ld 8 false false) th (eaLong th b o) d k l

/-- LDW: 4 bytes, sign-extended (R211). -/
def execLdw (d b : Reg) (o : BitVec 26) (k : BitVec 3) (l : BitVec 4) (s : State) : Host.Outcome State Fault Refusal :=
  runAcc (.ldw d b o k l) s fun th => mkAcc (.ld 4 true false) th (eaLong th b o) d k l

/-- LDWU: 4 bytes, zero-extended (R211). -/
def execLdwu (d b : Reg) (o : BitVec 26) (k : BitVec 3) (l : BitVec 4) (s : State) : Host.Outcome State Fault Refusal :=
  runAcc (.ldwu d b o k l) s fun th => mkAcc (.ld 4 false false) th (eaLong th b o) d k l

/-- LDH: 2 bytes, sign-extended (R211). -/
def execLdh (d b : Reg) (o : BitVec 26) (k : BitVec 3) (l : BitVec 4) (s : State) : Host.Outcome State Fault Refusal :=
  runAcc (.ldh d b o k l) s fun th => mkAcc (.ld 2 true false) th (eaLong th b o) d k l

/-- LDHU: 2 bytes, zero-extended (R211). -/
def execLdhu (d b : Reg) (o : BitVec 26) (k : BitVec 3) (l : BitVec 4) (s : State) : Host.Outcome State Fault Refusal :=
  runAcc (.ldhu d b o k l) s fun th => mkAcc (.ld 2 false false) th (eaLong th b o) d k l

/-- LDB: 1 byte, sign-extended (R211). -/
def execLdb (d b : Reg) (o : BitVec 26) (k : BitVec 3) (l : BitVec 4) (s : State) : Host.Outcome State Fault Refusal :=
  runAcc (.ldb d b o k l) s fun th => mkAcc (.ld 1 true false) th (eaLong th b o) d k l

/-- LDBU: 1 byte, zero-extended (R211). -/
def execLdbu (d b : Reg) (o : BitVec 26) (k : BitVec 3) (l : BitVec 4) (s : State) : Host.Outcome State Fault Refusal :=
  runAcc (.ldbu d b o k l) s fun th => mkAcc (.ld 1 false false) th (eaLong th b o) d k l

/-- STD with a short displacement (R132, R211). -/
def execStdShort (d b : Reg) (o : BitVec 6) (s : State) : Host.Outcome State Fault Refusal :=
  runAcc (.stdShort d b o) s fun th => mkAcc (.st 8 false false) th (eaShort th b o) d 7 0

/-- STD: the low 8 bytes of vd; order .ord in an ordered grid goes through the ticket unit (R211, R212). -/
def execStd (d b : Reg) (o : BitVec 26) (ord : Bool) (s : State) : Host.Outcome State Fault Refusal :=
  runAcc (.std d b o ord) s fun th => mkAcc (.st 8 ord false) th (eaLong th b o) d 7 0

/-- STW: the low 4 bytes of vd; order .ord in an ordered grid goes through the ticket unit (R211, R212). -/
def execStw (d b : Reg) (o : BitVec 26) (ord : Bool) (s : State) : Host.Outcome State Fault Refusal :=
  runAcc (.stw d b o ord) s fun th => mkAcc (.st 4 ord false) th (eaLong th b o) d 7 0

/-- STH: the low 2 bytes of vd; order .ord in an ordered grid goes through the ticket unit (R211, R212). -/
def execSth (d b : Reg) (o : BitVec 26) (ord : Bool) (s : State) : Host.Outcome State Fault Refusal :=
  runAcc (.sth d b o ord) s fun th => mkAcc (.st 2 ord false) th (eaLong th b o) d 7 0

/-- STB: the low 1 byte of vd; order .ord in an ordered grid goes through the ticket unit (R211, R212). -/
def execStb (d b : Reg) (o : BitVec 26) (ord : Bool) (s : State) : Host.Outcome State Fault Refusal :=
  runAcc (.stb d b o ord) s fun th => mkAcc (.st 1 ord false) th (eaLong th b o) d 7 0

/-- LDF.s with a short displacement (R214). -/
def execLdfSShort (d b : Reg) (o : BitVec 6) (k : BitVec 3) (l : BitVec 4) (s : State) : Host.Outcome State Fault Refusal :=
  runAcc (.ldfSShort d b o k l) s fun th => mkAcc (.ldf false) th (eaShort th b o) d k l

/-- LDF.s: two FP32 elements (R214). -/
def execLdfS (d b : Reg) (o : BitVec 26) (k : BitVec 3) (l : BitVec 4) (s : State) : Host.Outcome State Fault Refusal :=
  runAcc (.ldfS d b o k l) s fun th => mkAcc (.ldf false) th (eaLong th b o) d k l

/-- LDF.bf: four BF16 elements (R214). -/
def execLdfBf (d b : Reg) (o : BitVec 26) (k : BitVec 3) (l : BitVec 4) (s : State) : Host.Outcome State Fault Refusal :=
  runAcc (.ldfBf d b o k l) s fun th => mkAcc (.ldf true) th (eaLong th b o) d k l

/- Scratchpad and weight store (R216 to R218). -/

/-- Bytes of an LDS or STS size (R149). -/
def sizeOf_ (w : IntW) : Nat := intBits w / 8

/-- LDS.d with a short displacement (R134, R216). -/
def execLdsShort (d b : Reg) (o : BitVec 5) (k : BitVec 3) (l : BitVec 4) (s : State) : Host.Outcome State Fault Refusal :=
  runScratch (.ldsShort d b o k l) s fun th => mkAcc (.lds 8 .none) th (eaShort5 th b o) d k l

/-- STS.d with a short displacement (R134, R216). -/
def execStsShort (d b : Reg) (o : BitVec 5) (s : State) : Host.Outcome State Fault Refusal :=
  runScratch (.stsShort d b o) s fun th => mkAcc (.sts 8 false) th (eaShort5 th b o) d 7 0

/-- LDS, plain or full-empty (R216, R217). -/
def execLds (w : IntW) (q : FeL) (d b : Reg) (o : BitVec 26) (k : BitVec 3) (l : BitVec 4) (s : State) : Host.Outcome State Fault Refusal :=
  runScratch (.lds w q d b o k l) s fun th => mkAcc (.lds (sizeOf_ w) q) th (eaLong th b o) d k l

/-- STS, plain or setting full bits (R73, R216). -/
def execSts (w : IntW) (sf : Bool) (d b : Reg) (o : BitVec 26) (s : State) : Host.Outcome State Fault Refusal :=
  runScratch (.sts w sf d b o) s fun th => mkAcc (.sts (sizeOf_ w) sf) th (eaLong th b o) d 7 0

/-- LDWS.d with a short displacement (R218). -/
def execLdwsDShort (d b : Reg) (o : BitVec 6) (k : BitVec 3) (l : BitVec 4) (s : State) : Host.Outcome State Fault Refusal :=
  runAcc (.ldwsDShort d b o k l) s fun th => mkAcc (.ldws 8) th (eaShort th b o) d k l

/-- LDWS.d (R218). -/
def execLdwsD (d b : Reg) (o : BitVec 26) (k : BitVec 3) (l : BitVec 4) (s : State) : Host.Outcome State Fault Refusal :=
  runAcc (.ldwsD d b o k l) s fun th => mkAcc (.ldws 8) th (eaLong th b o) d k l

/-- LDWS.w, zero-extended (R218). -/
def execLdwsW (d b : Reg) (o : BitVec 26) (k : BitVec 3) (l : BitVec 4) (s : State) : Host.Outcome State Fault Refusal :=
  runAcc (.ldwsW d b o k l) s fun th => mkAcc (.ldws 4) th (eaLong th b o) d k l

/- Gather, scatter and prefetch (R219, R220). -/

/-- LDG.d with a short displacement (R134, R219). -/
def execLdgDShort (d b : Reg) (o : BitVec 5) (k : BitVec 3) (l : BitVec 4) (s : State) : Host.Outcome State Fault Refusal :=
  runGather (.ldgDShort d b o k l) s fun th => mkAcc (.ld 8 false true) th (eaShort5 th b o) d k l

/-- STG.d with a short displacement (R134, R219). -/
def execStgDShort (d b : Reg) (o : BitVec 5) (s : State) : Host.Outcome State Fault Refusal :=
  runScatter (.stgDShort d b o) s fun th => mkAcc (.st 8 false true) th (eaShort5 th b o) d 7 0

/-- LDG.d (R219). -/
def execLdgD (d b : Reg) (o : BitVec 26) (k : BitVec 3) (l : BitVec 4) (s : State) : Host.Outcome State Fault Refusal :=
  runGather (.ldgD d b o k l) s fun th => mkAcc (.ld 8 false true) th (eaLong th b o) d k l

/-- LDG.w, zero-extended (R219). -/
def execLdgW (d b : Reg) (o : BitVec 26) (k : BitVec 3) (l : BitVec 4) (s : State) : Host.Outcome State Fault Refusal :=
  runGather (.ldgW d b o k l) s fun th => mkAcc (.ld 4 false true) th (eaLong th b o) d k l

/-- STG.d (R219). -/
def execStgD (d b : Reg) (o : BitVec 26) (ord : Bool) (s : State) : Host.Outcome State Fault Refusal :=
  runScatter (.stgD d b o ord) s fun th => mkAcc (.st 8 ord true) th (eaLong th b o) d 7 0

/-- STG.w (R219). -/
def execStgW (d b : Reg) (o : BitVec 26) (ord : Bool) (s : State) : Host.Outcome State Fault Refusal :=
  runScatter (.stgW d b o ord) s fun th => mkAcc (.st 4 ord true) th (eaLong th b o) d 7 0

/-- PREF: caches are not architectural state; no value, no order, no fault (R220). -/
def execPrefL1Short (b : Reg) (o : BitVec 6) (s : State) : Host.Outcome State Fault Refusal :=
  onLanes (.prefL1Short b o) s fun _ _ _ th => th

/-- PREF: caches are not architectural state; no value, no order, no fault (R220). -/
def execPrefL1 (b : Reg) (o : BitVec 26) (s : State) : Host.Outcome State Fault Refusal :=
  onLanes (.prefL1 b o) s fun _ _ _ th => th

/-- PREF: caches are not architectural state; no value, no order, no fault (R220). -/
def execPrefL2 (b : Reg) (o : BitVec 26) (s : State) : Host.Outcome State Fault Refusal :=
  onLanes (.prefL2 b o) s fun _ _ _ th => th

/- Atomics (R221 to R223). -/

/-- AADD.d, order 0, with a short displacement (R221). -/
def execAaddDShort (d b : Reg) (o : BitVec 6) (k : BitVec 3) (l : BitVec 4) (s : State) : Host.Outcome State Fault Refusal :=
  runAcc (.aaddDShort d b o k l) s fun th => mkAcc (.atom .add .d .none .blk) th (eaShort th b o) d k l

/-- AADD (R221, R222). -/
def execAadd (t : AtomTy) (d b : Reg) (o : BitVec 26) (k : BitVec 3) (l : BitVec 4) (od : Order) (sc : Scope) (s : State) : Host.Outcome State Fault Refusal :=
  runAcc (.aadd t d b o k l od sc) s fun th => mkAcc (.atom .add t od sc) th (eaLong th b o) d k l

/-- AMIN (R221, R222). -/
def execAmin (t : AtomTy) (d b : Reg) (o : BitVec 26) (k : BitVec 3) (l : BitVec 4) (od : Order) (sc : Scope) (s : State) : Host.Outcome State Fault Refusal :=
  runAcc (.amin t d b o k l od sc) s fun th => mkAcc (.atom .min t od sc) th (eaLong th b o) d k l

/-- AMAX (R221, R222). -/
def execAmax (t : AtomTy) (d b : Reg) (o : BitVec 26) (k : BitVec 3) (l : BitVec 4) (od : Order) (sc : Scope) (s : State) : Host.Outcome State Fault Refusal :=
  runAcc (.amax t d b o k l od sc) s fun th => mkAcc (.atom .max t od sc) th (eaLong th b o) d k l

/-- AAND (R221, R222). -/
def execAand (t : AtomTy) (d b : Reg) (o : BitVec 26) (k : BitVec 3) (l : BitVec 4) (od : Order) (sc : Scope) (s : State) : Host.Outcome State Fault Refusal :=
  runAcc (.aand t d b o k l od sc) s fun th => mkAcc (.atom .and t od sc) th (eaLong th b o) d k l

/-- AOR (R221, R222). -/
def execAor (t : AtomTy) (d b : Reg) (o : BitVec 26) (k : BitVec 3) (l : BitVec 4) (od : Order) (sc : Scope) (s : State) : Host.Outcome State Fault Refusal :=
  runAcc (.aor t d b o k l od sc) s fun th => mkAcc (.atom .or t od sc) th (eaLong th b o) d k l

/-- AXOR (R221, R222). -/
def execAxor (t : AtomTy) (d b : Reg) (o : BitVec 26) (k : BitVec 3) (l : BitVec 4) (od : Order) (sc : Scope) (s : State) : Host.Outcome State Fault Refusal :=
  runAcc (.axor t d b o k l od sc) s fun th => mkAcc (.atom .xor t od sc) th (eaLong th b o) d k l

/-- AXCH (R221, R222). -/
def execAxch (t : AtomTy) (d b : Reg) (o : BitVec 26) (k : BitVec 3) (l : BitVec 4) (od : Order) (sc : Scope) (s : State) : Host.Outcome State Fault Refusal :=
  runAcc (.axch t d b o k l od sc) s fun th => mkAcc (.atom .xch t od sc) th (eaLong th b o) d k l

/-- ACAS (R221, R222). -/
def execAcas (t : AtomTy) (d b : Reg) (o : BitVec 26) (k : BitVec 3) (l : BitVec 4) (od : Order) (sc : Scope) (s : State) : Host.Outcome State Fault Refusal :=
  runAcc (.acas t d b o k l od sc) s fun th => mkAcc (.atom .cas t od sc) th (eaLong th b o) d k l

/-- AADDF: FP32 add; staged in an ordered grid with order 0 (R221, R223). -/
def execAaddf (d b : Reg) (o : BitVec 26) (k : BitVec 3) (l : BitVec 4) (od : Order) (sc : Scope) (s : State) : Host.Outcome State Fault Refusal :=
  runAaddf (.aaddf d b o k l od sc) s fun th => mkAcc (.atom .addf .w od sc) th (eaLong th b o) d k l

/- Fences, acquire, release, bindings (R229, R230). -/

/-- FENCE: orders the thread's own accesses (R111); at pod scope a release sends its write-combining lines and the thread's next
instruction waits for its remote stores (R119, R317). -/
def execFence (o : FenceO) (sc : Scope) (s : State) : Host.Outcome State Fault Refusal :=
  runAcc (.fence o sc) s fun th => mkAcc (.fence o sc) th 0 0 7 0

/-- ACQ: atomic read of the object as an acquire (R110, R229). -/
def execAcq (d b : Reg) (o : BitVec 26) (k : BitVec 3) (l : BitVec 4) (sc : Scope) (s : State) : Host.Outcome State Fault Refusal :=
  runAcc (.acq d b o k l sc) s fun th => mkAcc (.acq sc) th (eaLong th b o) d k l

/-- REL: atomic write of the object as a release (R110, R229). -/
def execRel (d b : Reg) (o : BitVec 26) (sc : Scope) (s : State) : Host.Outcome State Fault Refusal :=
  runAcc (.rel d b o sc) s fun th => mkAcc (.rel sc) th (eaLong th b o) d 7 0

/-- RBIND (R230). -/
def execRbind (d b : Reg) (o : BitVec 26) (s : State) : Host.Outcome State Fault Refusal :=
  let f (th : Thread) : Acc := mkAcc .rbind th (eaLong th b o) d 7 0
  runLanes (.rbind d b o) s (fun b _ s _ th => bindLane b s th (f th)) fun b g s _ th => actLane b g s th (f th)

/-- RUNBIND (R230). -/
def execRunbind (b : Reg) (o : BitVec 26) (s : State) : Host.Outcome State Fault Refusal :=
  runAcc (.runbind b o) s fun th => mkAcc (.runbind) th (eaLong th b o) 0 7 0

/- Signal objects (R231 to R233). -/

/-- SIGDEC at pod scope with a short displacement (R113, R232). -/
def execSigdecShort (d b : Reg) (o : BitVec 6) (s : State) : Host.Outcome State Fault Refusal :=
  runAcc (.sigdecShort d b o) s fun th => mkAcc (.sig .dec .rel .pod) th (eaShort th b o) d 7 0

/-- SIGDEC (R232). -/
def execSigdec (d b : Reg) (o : BitVec 26) (od : Order) (sc : Scope) (s : State) : Host.Outcome State Fault Refusal :=
  runAcc (.sigdec d b o od sc) s fun th => mkAcc (.sig .dec od sc) th (eaLong th b o) d 7 0

/-- SIGINC (R232). -/
def execSiginc (d b : Reg) (o : BitVec 26) (od : Order) (sc : Scope) (s : State) : Host.Outcome State Fault Refusal :=
  runAcc (.siginc d b o od sc) s fun th => mkAcc (.sig .inc od sc) th (eaLong th b o) d 7 0

/-- SIGSET (R232). -/
def execSigset (d b : Reg) (o : BitVec 26) (od : Order) (sc : Scope) (s : State) : Host.Outcome State Fault Refusal :=
  runAcc (.sigset d b o od sc) s fun th => mkAcc (.sig .set od sc) th (eaLong th b o) d 7 0

/-- SIGWAIT (R232). -/
def execSigwait (d b : Reg) (o : BitVec 26) (k : BitVec 3) (l : BitVec 4) (od : Order) (sc : Scope) (s : State) : Host.Outcome State Fault Refusal :=
  runAcc (.sigwait d b o k l od sc) s fun th => mkAcc (.sigwait od sc) th (eaLong th b o) d k l

/-- SIGARM (R232, R233). -/
def execSigarm (d b : Reg) (o : BitVec 26) (od : Order) (sc : Scope) (s : State) : Host.Outcome State Fault Refusal :=
  let f (th : Thread) : Acc := mkAcc (.sigarm od sc) th (eaLong th b o) d 7 0
  runLanes (.sigarm d b o od sc) s (fun b g s _ th => armLane b g f s th) fun b g s _ th => actLane b g s th (f th)

end Sys2Proof.Machine
end

