-- ==== Sys2Proof/Machine/Ordered.lean ====
section
/-! DEFINITION. Ordered grids (R55, R224 to R228, R457): batches of staged atomics, the ticket order of .ord operations, the store
digest, AFLUSH and DIGRD. -/

namespace Sys2Proof.Machine

open Sys2Proof

/- The store digest (R227). -/

/-- digest_byte of R227. -/
def digestByte (h : Word × Word) (va : Nat) (b : Byte) : Word × Word :=
  let v : Word := BitVec.ofNat 64 va
  let x : Word := b.zeroExtend 64
  (m64 (m64 (h.1 ^^^ v) ^^^ x), m64 (m64 (h.2 ^^^ v ^^^ 0xA5A5A5A5A5A5A5A5#64) ^^^ x))

/-- Bytes taken in ascending address. -/
def digestBytes : Word × Word → Nat → List Byte → Word × Word
  | h, _, [] => h
  | h, va, b :: r => digestBytes (digestByte h va b) (va + 1) r

/-- Bytes of a performed .ord operation enter the grid's digest. -/
def digestGrid (s : State) (grid va : Nat) (bs : List Byte) : State :=
  s.updGrid grid fun g => let h := digestBytes (g.h0, g.h1) va bs; { g with h0 := h.1, h1 := h.2 }

/-- A thread has tickets not yet released. -/
def hasTickets (s : State) (who : Tref) : Bool :=
  (List.range 4).any fun d => (s.die d).tickets.any fun t => t.who == who

/-- DIGRD results whose thread has no .ord operation left to release are written (R228). -/
def digestReady (s : State) : State :=
  s.pend.foldl (fun s p => match p.kind with
    | .digest =>
      if hasTickets s p.who then s
      else match s.grid? p.who.grid with
        | some g => complete s p [(p.acc.d, g.h0), (nextReg p.acc.d, g.h1)] 0
        | none => s
    | _ => s) s

/-- The packages that hold rows of a grid, ascending; this one alone for a grid admitted locally (R291, R292). -/
def gridPkgs (s : State) (grid : Nat) : List Nat :=
  let rows := (List.range s.words.length).filterMap fun i => match s.words[i]? with
    | some (k, w) => if k < 0x10000 && bits w.toNat 31 16 == grid && (bits w.toNat 13 12 == 1 || bits w.toNat 13 12 == 2)
        then some (bits w.toNat 63 52) else none
    | none => none
  let ps := rows.foldl (fun acc p => markSet acc p true) []
  if ((s.grid? grid).map fun g => g.local_).getD true || ps.isEmpty then [s.pkg] else ps

/- The packages of a spanning grid (R44, R224, R225). -/

/-- The other packages of a grid. -/
def gridPeers (s : State) (grid : Nat) : List Nat := (gridPkgs s grid).filter fun p => p != s.pkg

/-- What a package of a grid says of its share, in notices to the others (log 66): every thread of it has exited; up to which batch its blocks'
batches are applied; how many segments are over there; per instance, how many generations' arrivals are all there, and are flushed. -/
def tellGone : Nat := 0
def tellBatch : Nat := 1
def tellSeg : Nat := 2
def tellArrived (n : Nat) : Nat := 16 + n
def tellFlushed (n : Nat) : Nat := 32 + n

/-- No further one: of batches and segments. -/
def noMore : Nat := 2 ^ 32

/-- The last a package has said of something. -/
def Grid.peer (g : Grid) (pkg what : Nat) : Nat := ((g.peers.find? fun x => x.1 == pkg && x.2.1 == what).map fun x => x.2.2.1).getD 0

/-- A notice to the other packages, where it says something new: a CHUNK packet of its own kind with the value, a further number and the digest
so far with its place (log 66). -/
def tellGrid (s : State) (grid what v more : Nat) : State :=
  match s.grid? grid with
  | none => s
  | some g =>
    if (gridPeers s grid).isEmpty || g.told.contains (what, v) then s
    else
      let ws : List Word := [BitVec.ofNat 64 v, BitVec.ofNat 64 more, BitVec.ofNat 64 g.dkey, g.h0, g.h1]
      (gridPeers s grid).foldl (fun s p => (sendPacket s { blankPacket with
        typ := 10, dst := p, n := 5, data := ws, masks := ws.map fun _ => 0xFF
        seals := ws.zipIdx.map fun w => seal8 (leBytes w.1.toNat 8) (8 * w.2), job := s.jobOf grid
        tspec := tspecOf [(0, 8, grid), (14, 1, 8), (16, 8, what)] }).1)
        (s.updGrid grid fun g => { g with told := (g.told.filter fun x => x.1 != what) ++ [(what, v)] })

/-- A notice received; a digest that covers later operations than this package's replaces it (R227). -/
def hearGrid (s : State) (p : Packet) : State :=
  let w (i : Nat) : Word := p.data.getD i 0
  s.updGrid (tfield p 0 8) fun g =>
    let new := g.dkey < (w 2).toNat
    { g with
      peers := (g.peers.filter fun x => !(x.1 == p.src && x.2.1 == tfield p 16 8)) ++ [(p.src, tfield p 16 8, (w 0).toNat, (w 1).toNat)]
      dkey := if new then (w 2).toNat else g.dkey, h0 := if new then w 3 else g.h0, h1 := if new then w 4 else g.h1 }

/-- Every thread of the grid on this package has exited, and no block is to come. -/
def gridGone (s : State) (g : Grid) : Bool :=
  g.todo.isEmpty && (s.blocks.filter fun b => b.grid == g.handle).all fun b => b.threads.all fun th => th.status == .exited

/- Stops of R457. -/

/-- A fault of a staged entry or a released operation: a rung-1 cause parks it on a wait-table entry of the die, a rung-3 cause stops the
order until the grid is decided; one record either way. The answer is the stop. -/
def stopOrder (s : State) (die core : Nat) (who : Tref) (va code : Nat) (detail : Word) : State × Nat :=
  let r : FRec := { unitRec s code (BitVec.ofNat 64 va) detail who.grid (s.jobOf who.grid) with
    core := core, tid := who.tid, bidx := who.bidx }
  if rungOf code == 1 then
    let (s, tok, new) := waitEntry s die (s.jobOf who.grid) (va / 2 ^ 16)
    (if new then queueRec s die { r with flags := 1, token := tok, entry := some (bits tok 29 20) } else s, tok)
  else (queueRec s die r, 0)

/-- The outcome of an atomic or store on a page of this package: where it goes, or what stops it. -/
inductive OrdRes
  | here (pa : Nat)
  | away (pkg : Nat)
  | wait
  | stop (code va : Nat) (detail : Word)
  deriving DecidableEq, Repr, Inhabited

/-- Translation of a staged or .ord access (R457). -/
def ordPlace (s : State) (die grid va n : Nat) (op : AccOp) : State × OrdRes :=
  let job := s.jobOf grid
  let user := ((s.grid? grid).map fun g => g.user).getD false
  let (s, r) := if va + n > 2 ^ 57 then (s, XRes.bad 0x0404) else if inWindow va then (s, .bad 0x0405) else translate s die job [] va true user
  match r with
  | .away p => (s, .away p)
  | .held => (s, .wait)
  | .bad c => (s, .stop c va (BitVec.ofNat 64 op.kind))
  | .here pa _ =>
    if writeHeld s job va then (s, .wait)
    else match sealAt s.mem op pa n with
      | some (c, q) => (s, .stop c (va + 8 * q - pa) (sealDetail (s.mem.read (8 * q) 8) (8 * q) c (s.mem.err q)))
      | none => (s, .here pa)

/- Batches (R224). -/

/-- Staged entries of batch k of a block, over all cores, in (TID, program order). -/
def batchOf (s : State) (grid bidx k : Nat) : List (Nat × Staged) :=
  sortBy (fun a b => a.2.who.tid < b.2.who.tid || (a.2.who.tid == b.2.who.tid && a.2.order ≤ b.2.order))
    (s.cores.flatMap fun c => (c.2.staged.filter fun e => e.who.grid == grid && e.who.bidx == bidx && e.batch == k).map fun e => (c.1, e))

/-- A staged entry leaves the buffer. -/
def unstage (s : State) (core : Nat) (e : Staged) : State :=
  s.updCore core fun k => { k with staged := k.staged.filter fun x => x != e }

/-- The number that the thread's stores before a staged entry's flush do not reach: its AFLUSH, or none that is there. -/
def flushNo (s : State) (e : Staged) : Nat :=
  ((s.pend.find? fun p => p.who == e.who && p.kind == .flush e.batch).map fun p => p.id).getD s.nextId

/-- The entries of a batch applied in order, each after its thread's earlier stores to the same bytes (R102), until one faults, must wait, or
has been sent to another package, whose answer is awaited (R224, R457); true where all are applied. -/
def applyEntries (grid : Nat) : List (Nat × Staged) → State → State × Bool
  | [], s => (s, true)
  | (core, e) :: r, s =>
    let op : AccOp := .atom .addf .w .none .blk
    let job := s.jobOf grid
    let s := drainRanges s core e.who job [(e.va, 4)]
    if rangesBefore s e.who (flushNo s e) job [(e.va, 4)] then (s, false)
    else
      let (s, p) := ordPlace s (dieOf core) grid e.va 4 op
      match p with
      | .wait => (s, false)
      | .stop c a d =>
        let (s, tok) := stopOrder s (dieOf core) core e.who a c d
        (s.updGrid grid fun g => { g with flushTok := some tok }, false)
      | .away q =>
        let acc : Acc := { op := op, ea := BitVec.ofNat 64 e.va, x := e.x.zeroExtend 64, y := 0, d := 0, k := 7, l := 0 }
        let (s, pk) := sendPacket s (atomPacketOf job (((s.grid? grid).map fun g => g.user).getD false) q core acc)
        (s.updGrid grid fun g => { g with flushTok := some (2 ^ 33), flushSent := some (q, pk.seq) }, false)
      | .here pa =>
        let s := noteDsm s job e.va
        applyEntries grid r (unstage (memPut s pa (leBytes (atomNew .addf .w (s.mem.num pa 4) e.x.toNat 0) 4)) core e)

/-- Batch k of a block is closed: every thread has made its k-th flush or exited (R224). -/
def batchClosed (b : Block) (k : Nat) : Bool := b.threads.all fun th => th.status == .exited || k ≤ th.flushes

/-- Batch (k, b) has been applied. -/
def batchDone (g : Grid) (k bidx : Nat) : Bool := g.applied.contains (k, bidx)

/-- Every batch before (k, b) has been applied: those of resident and undispatched blocks, and of the grid's other packages, of which those of
lower number hold the lower BIDX; a retired block's count as applied (R224). -/
def batchTurn (s : State) (g : Grid) (k bidx : Nat) : Bool :=
  let res := s.blocks.filter fun b => b.grid == g.handle
  !(g.todo.any fun t => t.1 < bidx) && (res.all fun b => bidx ≤ b.bidx || batchDone g k b.bidx)
    && ((gridPeers s g.handle).all fun p => s.pkg < p || k ≤ g.peer p tellBatch)
    && (k ≤ 1 || (g.todo.isEmpty && (res.all fun b => batchDone g (k - 1) b.bidx)
          && (gridPeers s g.handle).all fun p => k - 1 ≤ g.peer p tellBatch))

/-- The next batch of a block. -/
def nextBatch (g : Grid) (bidx : Nat) : Nat := ((g.applied.filter fun x => x.2 == bidx).map fun x => x.1).foldl max 0 + 1

/-- The batch of the grid that is applied next. -/
def turnBatch (s : State) (g : Grid) : Option (Nat × Nat) :=
  ((s.blocks.filter fun b => b.grid == g.handle).find? fun b =>
    batchClosed b (nextBatch g b.bidx) && batchTurn s g (nextBatch g b.bidx) b.bidx).map fun b => (nextBatch g b.bidx, b.bidx)

/-- The batch of the grid that may be applied now. -/
def readyBatch (s : State) (g : Grid) : Option (Nat × Nat) := if g.flushTok.isSome then none else turnBatch s g

/-- The other packages are told how far this package's batches and segments are (R224, R225). -/
def tellOrder (s : State) (grid : Nat) : State :=
  match s.grid? grid with
  | none => s
  | some g =>
    let res := s.blocks.filter fun b => b.grid == grid
    let tickets := (List.range 4).flatMap fun d => ((s.die d).tickets.filter fun t => t.who.grid == grid).map fun t => t.seg
    let segs := (res.flatMap fun b => b.threads.filterMap fun th =>
      if th.status == .exited then none else some (match th.bar with
        | some (.grid, _, _) => th.segment + 1
        | _ => th.segment)) ++ tickets
    let s := if !g.todo.isEmpty then s else tellGrid s grid tellBatch ((res.map fun b => nextBatch g b.bidx - 1).foldl min noMore) 0
    if !g.todo.isEmpty then s else tellGrid s grid tellSeg (segs.foldl min noMore) 0

/-- One batch applied: its entries, then the threads whose AFLUSH waits for it continue (R224). -/
def applyBatch (s : State) (grid k bidx : Nat) : State × Bool :=
  match applyEntries grid (batchOf s grid bidx k) s with
  | (s, false) => (s, false)
  | (s, true) =>
    let s := tellOrder (s.updGrid grid fun g => { g with applied := g.applied ++ [(k, bidx)] }) grid
    (s.pend.foldl (fun s p => match p.kind with
      | .flush f => if f == k && p.who.grid == grid && p.who.bidx == bidx then complete s p [] 0 else s
      | _ => s) s, true)

/-- The answer to the entry of a batch that acts at another package: the entry is applied, and the flush goes on (R224). -/
def flushAnswered (s : State) (dst seq : Nat) : State :=
  match s.grids.find? fun g => g.flushSent == some (dst, seq) with
  | none => s
  | some g =>
    let s' := match turnBatch s g with
      | none => s
      | some (k, b) => match batchOf s g.handle b k with
        | [] => s
        | (core, e) :: _ => unstage s core e
    s'.updGrid g.handle fun g => { g with flushTok := none, flushSent := none }

/-- Up to n ready batches applied. -/
def applyBatches (grid : Nat) : Nat → State → State
  | 0, s => s
  | n + 1, s => match s.grid? grid with
    | none => s
    | some g => match readyBatch s g with
      | none => s
      | some (k, b) => match applyBatch s grid k b with
        | (s, true) => applyBatches grid n s
        | (s, false) => s

/- Tickets (R225, R226). -/

/-- Earlier in the release order (R225). -/
def Ticket.before (a b : Ticket) : Bool :=
  if a.seg != b.seg then a.seg < b.seg
  else if a.who.bidx != b.who.bidx then a.who.bidx < b.who.bidx
  else if a.who.tid != b.who.tid then a.who.tid < b.who.tid
  else a.order < b.order

/-- The first of some tickets. -/
def firstTicket : List (Nat × Ticket) → Option (Nat × Ticket)
  | [] => none
  | x :: r => match firstTicket r with
    | none => some x
    | some y => if y.2.before x.2 then some y else some x

/-- The first ticket of a grid over the package's ticket units, with its die. -/
def gridTicket (s : State) (grid : Nat) : Option (Nat × Ticket) :=
  firstTicket ((List.range 4).flatMap fun d => ((s.die d).tickets.filter fun t => t.who.grid == grid).map fun t => (d, t))

/-- A thread's stream in a segment is closed: it exited, departed or arrived at the barrier that ends the segment (R225). -/
def streamClosed (th : Thread) (seg : Nat) : Bool :=
  th.status == .exited || seg < th.segment || (match th.bar with
    | some (.grid, _, _) => true
    | _ => false)

/-- No earlier operation can still arrive, from this package or another of the grid's (R225). -/
def ticketTurn (s : State) (t : Ticket) : Bool :=
  (match s.grid? t.who.grid with
    | some g => !(g.todo.any fun x => x.1 < t.who.bidx)
        && (gridPeers s t.who.grid).all fun p => (if p < s.pkg then t.seg + 1 else t.seg) ≤ g.peer p tellSeg
    | none => true)
  && (s.blocks.filter fun b => b.grid == t.who.grid).all fun b =>
    t.who.bidx < b.bidx || b.threads.all fun th => (b.bidx == t.who.bidx && t.who.tid ≤ th.tid) || streamClosed th t.seg

/-- A ticket leaves its unit. -/
def dropTicket (s : State) (die : Nat) (t : Ticket) : State :=
  s.updDie die fun d => { d with tickets := d.tickets.filter fun x => x != t }

/-- The operation of a ticket has been performed: the digest takes its bytes (R227), it leaves its thread's store count (R210), and an atomic's
result is written. -/
def finishTicket (s : State) (die : Nat) (t : Ticket) (va : Nat) (bs : List Byte) (old : Option Word) : State :=
  let s := digestGrid (dropTicket s die t) t.who.grid va bs
  let s := s.updGrid t.who.grid fun g => { g with dkey := t.seg * 4096 + s.pkg + 1 }
  let s := s.updThread t.who fun th => { th with stores := th.stores - 1 }
  let s := match old with
    | none => s
    | some v => match s.pend.find? fun p => p.id == t.id with
      | some p => complete s p [(p.acc.d, v)] 0
      | none => s
  tellOrder (digestReady s) t.who.grid

/-- The operation of a ticket performed, after its thread's earlier accesses to the same bytes (R102, R225): a store's bytes, or an atomic's. One
that acts at another package is sent there, and stands until it is answered. -/
def releaseTicket (s : State) (die : Nat) (t : Ticket) : State :=
  let va := t.acc.ea.toNat
  let n := t.acc.op.size
  let core := ((s.block? t.who.grid t.who.bidx).map fun b => b.core).getD 0
  let job := s.jobOf t.who.grid
  let user := ((s.grid? t.who.grid).map fun g => g.user).getD false
  let stopOn (s : State) (a c : Nat) (d : Word) : State :=
    let (s, tok) := stopOrder s die core t.who a c d
    s.updGrid t.who.grid fun g => { g with ordTok := some tok }
  let await (s : State) : State := s.updGrid t.who.grid fun g => { g with ordTok := some (2 ^ 33) }
  let s := drainRanges s core t.who job [(va, n)]
  if rangesBefore s t.who t.id job [(va, n)] then s
  else match t.acc.op with
  | .atom o ty _ _ =>
    let (s, p) := ordPlace s die t.who.grid va n t.acc.op
    (match p with
    | .wait => s
    | .stop c a d => stopOn s a c d
    | .away q =>
      let (s, pk) := sendPacket s (atomPacketOf job user q core t.acc)
      setKind (await s) t.id (.remote [(q, pk.seq)] [])
    | .here pa =>
      let m := s.mem.num pa n
      let bs := leBytes (atomNew o ty m (t.acc.x.toNat % 2 ^ (8 * n)) (t.acc.y.toNat % 2 ^ (8 * n))) n
      finishTicket (memPut (noteDsm s job va) pa bs) die t va bs (some (atomOld o ty m)))
  | _ =>
    let bs := storeBytes t.acc
    let (s, ps) := (pieces va n).foldl (fun (s, ps) x =>
      let (s, p) := ordPlace s die t.who.grid x.1 x.2 t.acc.op
      (s, ps ++ [(x.1, x.2, p)])) (s, ([] : List (Nat × Nat × OrdRes)))
    match ps.find? fun x => match x.2.2 with
        | .stop _ _ _ => true
        | .wait => true
        | _ => false with
    | some (_, _, .stop c a d) => stopOn s a c d
    | some _ => s
    | none =>
      let (s, gone) := ps.foldl (fun (s, gone) x =>
        let data := (bs.drop (x.1 - va)).take x.2.1
        match x.2.2 with
        | .here pa => (memPut (noteDsm s job x.1) pa data, gone)
        | .away q =>
          ((linePieces x.1 data).foldl (fun s y =>
            let line : WcLine := { peer := q, job := job, user := user, va := y.1 / 128 * 128
                                   bytes := y.2.zipIdx.map fun z => (y.1 % 128 + z.2, z.1), whos := [(t.id, t.who)], born := s.now }
            let (s, pk) := sendPacket s (wcPacket core line)
            { s with inFlight := s.inFlight ++ [(q, pk.seq, line)] }) s, true)
        | _ => (s, gone)) (s, false)
      if gone then await s else finishTicket s die t va bs none

/-- A .ord store whose pieces at other packages are all performed is finished (R225, R227); of another store the count falls. -/
def remoteDone (s : State) (who : Tref) (id : Nat) : State :=
  if pieceOut s who id then s
  else match (List.range 4).findSome? fun d => ((s.die d).tickets.find? fun t => t.id == id && t.who == who).map fun t => (d, t) with
    | none => storeGone s who id
    | some (d, t) =>
      finishTicket (s.updGrid who.grid fun g => { g with ordTok := if g.ordTok == some (2 ^ 33) then none else g.ordTok }) d t
        t.acc.ea.toNat (storeBytes t.acc) none

/-- Up to n releases of a grid's order. -/
def releaseAll (grid : Nat) : Nat → State → State
  | 0, s => s
  | n + 1, s => match s.grid? grid with
    | none => s
    | some g =>
      if g.ordTok.isSome then s
      else match gridTicket s grid with
        | none => s
        | some (d, t) =>
          if ticketTurn s t then
            let s' := releaseTicket s d t
            if ((s'.die d).tickets.contains t) then s' else releaseAll grid n s'
          else s

/-- Tickets of a grid. -/
def ticketCount (s : State) (grid : Nat) : Nat :=
  ((List.range 4).map fun d => ((s.die d).tickets.filter fun t => t.who.grid == grid).length).sum

/- Instructions and happenings. -/

/-- An outstanding result without an access of its own. -/
def plainPend (s : State) (b : Block) (g : Group) (th : Thread) (d : Reg) (k : BitVec 3) (kind : PendKind) : Pend :=
  { id := s.nextId, who := trefOf b th, tok := k.toNat,
    acc := { op := .reissue, ea := 0, x := 0, y := 0, d := d, k := k.toNat, l := 0 }, kind := kind, hdr := g.hdr, idx := g.idx,
    aged := 0, mem := false }

/-- One lane's result made outstanding, with its lookahead window. -/
def addPlain (s : State) (b : Block) (g : Group) (th : Thread) (d : Reg) (k : BitVec 3) (l : BitVec 4) (kind : PendKind) :
    State × List Window :=
  (addPend s (plainPend s b g th d k kind), [{ id := s.nextId, left := if k == 7 then 0 else l.toNat }])

/-- As `addPlain`, for an operation that keeps two words of its own. -/
def addNamed (s : State) (b : Block) (g : Group) (th : Thread) (d : Reg) (k : BitVec 3) (l : BitVec 4) (kind : PendKind) (ea x : Word) :
    State × List Window :=
  let p := plainPend s b g th d k kind
  (addPend s { p with acc := { p.acc with ea := ea, x := x } }, [{ id := s.nextId, left := if k == 7 then 0 else l.toNat }])

/-- AFLUSH: the thread arrives at its next batch and waits until that batch has been applied; no effect in an unordered grid (R224). -/
def execAflush (k : BitVec 3) (l : BitVec 4) (s : State) : Host.Outcome State Fault Refusal :=
  runLanes (.aflush k l) s (fun _ _ s _ _ => (s, .go)) fun b g s _ th =>
    if s.ordered b.grid then
      let s := s.updThread (trefOf b th) fun t => { t with flushes := t.flushes + 1 }
      addPlain s b g th 0 k l (.flush (th.flushes + 1))
    else (s, [])

/-- DIGRD: the digest pair once the thread's own .ord operations are released; zeros in an unordered grid (R228). -/
def execDigrd (d : Reg) (k : BitVec 3) (l : BitVec 4) (s : State) : Host.Outcome State Fault Refusal :=
  runLanesThen (.digrd d k l) s (fun _ _ s _ _ => (s, .go)) (fun b g s _ th =>
    if s.ordered b.grid then addPlain s b g th d k l .digest
    else (s.updThread (trefOf b th) fun t => (t.setReg d 0).setReg (nextReg d) 0, [])) fun _ _ s => digestReady s

end Sys2Proof.Machine
end

