-- ==== Sys2Proof/Machine/Barrier.lean ====
section
/-! DEFINITION. Barriers (R44, R45, R234 to R236), batch application at flush points (R224), and the time limits of waits: formation
deadlock (R397) and full-empty loads (R415). -/

namespace Sys2Proof.Machine

open Sys2Proof

/- Instances. -/

/-- Instance number space of a block's gang: its gang, or the block alone where it belongs to none (R235). -/
def gangIdx (b : Block) : Nat := if b.gsize ≤ 1 then 2 ^ 64 + b.bidx else b.gang

/-- Number of the block, gang or grid an instance belongs to. -/
def barIdx (k : BarKind) (b : Block) : Nat :=
  match k with
  | .block => b.bidx
  | .gang => gangIdx b
  | .grid => 0

/-- The blocks an instance counts (R44). -/
def barBlocks (s : State) (k : BarKind) (grid idx : Nat) : List Block :=
  s.blocks.filter fun b => b.grid == grid && barIdx k b == idx

def isInst (k : BarKind) (grid idx n : Nat) (x : BarInst) : Bool := x.kind = k && x.grid == grid && x.idx == idx && x.n == n

/-- The instance, at generation 0 with no arrival before its first use (R234). -/
def State.inst (s : State) (k : BarKind) (grid idx n : Nat) : BarInst :=
  (s.bars.find? (isInst k grid idx n)).getD
    { kind := k, grid := grid, idx := idx, n := n, gen := 0, arrivals := [], full := false, mark := 0 }

def State.setInst (s : State) (x : BarInst) : State :=
  { s with bars := (s.bars.filter fun y => !isInst x.kind x.grid x.idx x.n y) ++ [x] }

/-- A thread waits on generation gen of the instance. -/
def waitsBar (k : BarKind) (n gen : Nat) (th : Thread) : Bool := th.bar == some (k, n, gen)

/-- A thread departs: it goes on in its group, or at its next clause where its group has ended; a grid barrier starts its next segment
(R225). -/
def departThread (s : State) (b : Block) (k : BarKind) (n gen : Nat) (th : Thread) : Thread :=
  if waitsBar k n gen th then
    let st : Status := if b.groups.any fun g => (g.member? th.tid).isSome then .issuing else .ready
    { th with
      status := if th.status == .shelved then th.status else st
      kept := if th.status == .shelved then st else th.kept
      bar := none
      bara := th.bara.filter fun x => x != (n, gen)
      segment := if k = .grid then th.segment + 1 else th.segment
      readySince := s.now }
  else if k = .grid then { th with segment := th.segment + 1 } else th

/-- A block barrier's completion for a binding: one made before a binding thread's arrival takes effect for the whole block, one removed
before it goes (R109). -/
def Bind.after (x : Bind) (n gen : Nat) : Bind := if x.via.contains (n, gen) then { x with all := true, via := [] } else x

/-- The bindings of a block after a block barrier's completion. -/
def bindsAfter (bs : List Bind) (n gen : Nat) : List Bind := (bs.filter fun x => !x.offVia.contains (n, gen)).map fun x => x.after n gen

/-- The instance completes: its next generation starts and the waiting threads depart. -/
def departAll (s : State) (x : BarInst) : State :=
  let s := s.setInst { x with gen := x.gen + 1, arrivals := [], full := false }
  { s with blocks := s.blocks.map fun b =>
      if b.grid == x.grid && barIdx x.kind b == x.idx then
        { b with threads := b.threads.map (departThread s b x.kind x.n x.gen)
                 binds := if x.kind = .block then bindsAfter b.binds x.n x.gen else b.binds }
      else b }

/-- Every thread of the counted blocks that has not exited has arrived (R44). -/
def allArrived (s : State) (x : BarInst) : Bool :=
  let bs := barBlocks s x.kind x.grid x.idx
  !x.arrivals.isEmpty && (x.kind != .grid || ((s.grid? x.grid).map fun g => g.todo.isEmpty).getD true) &&
    bs.all fun b => b.threads.all fun th => th.status == .exited || x.arrivals.contains (b.bidx, th.tid)

/-- Every store of the arrived threads before their arrival is performed (R45). -/
def arrivalsOut (s : State) (x : BarInst) : Bool :=
  x.arrivals.all fun a => !storesBefore s { grid := x.grid, bidx := a.1, tid := a.2 } x.mark

/-- The highest AFLUSH count of the instance's threads, over the packages of the grid (R224). -/
def highFlush (s : State) (x : BarInst) : Nat :=
  let own := (barBlocks s .grid x.grid 0).flatMap fun b => b.threads.map fun th => th.flushes
  let more := ((s.grid? x.grid).map fun g => (g.peers.filter fun p => p.2.1 == tellArrived x.n).map fun p => p.2.2.2).getD []
  (own ++ more).foldl max 0

/-- The grid barrier's flush (R224, R236): every thread's f becomes m + 1, and batches and .ord operations are performed as far as they
can be. -/
def gridFlush (s : State) (x : BarInst) : State :=
  let m := highFlush s x
  let s := if x.full then s else
    { s.setInst { x with full := true } with blocks := s.blocks.map fun b =>
        if b.grid == x.grid then { b with threads := b.threads.map fun th => { th with flushes := m + 1 } } else b }
  let s := applyBatches x.grid ((barBlocks s .grid x.grid 0).length * (m + 2)) s
  releaseAll x.grid (ticketCount s x.grid) s

/-- Nothing of the grid is staged or waits in a ticket unit. -/
def gridFlushed (s : State) (grid : Nat) : Bool :=
  !(s.cores.any fun c => c.2.staged.any fun e => e.who.grid == grid) && ticketCount s grid == 0

/-- Every other package of the grid has said that the generation is so far, or that it has no thread left (R44; log 66). -/
def peersReady (s : State) (x : BarInst) (what : Nat) : Bool :=
  match s.grid? x.grid with
  | none => true
  | some g => (gridPeers s x.grid).all fun p => x.gen < g.peer p what || g.peer p tellGone == 1

/-- A grid barrier whose arrivals are all there on this package: the others' are awaited, then the flush of an ordered grid, on every
package. -/
def tryGrid (s : State) (x : BarInst) : State :=
  let s := tellGrid s x.grid (tellArrived x.n) (x.gen + 1) (highFlush s x)
  if !peersReady s x (tellArrived x.n) then s
  else if !s.ordered x.grid then departAll s x
  else
    let s := gridFlush s x
    if !gridFlushed s x.grid then s
    else
      let s := tellGrid s x.grid (tellFlushed x.n) (x.gen + 1) 0
      if peersReady s x (tellFlushed x.n) then departAll s x else s

/-- The instance completes if its arrivals are all there and their stores performed; a grid barrier after its flush. -/
def tryInst (s : State) (x : BarInst) : State :=
  if !allArrived s x || !arrivalsOut s x then s
  else match x.kind with
    | .grid => tryGrid s x
    | _ => departAll s x

/-- What a grid's threads have reached, told to its other packages. -/
def tellReached (s : State) (grid : Nat) : State :=
  match s.grid? grid with
  | none => s
  | some g =>
    if (gridPeers s grid).isEmpty then s
    else
      let s := tellGrid s grid tellGone (b2n (gridGone s g)) 0
      if s.ordered grid then tellOrder s grid else s

/-- Arrivals of exited threads are removed and every instance of the grid is looked at again (R44, R234). -/
def barriersAgain (s : State) (grid : Nat) : State :=
  let live (k : Nat × Nat) : Bool := match s.thread? { grid := grid, bidx := k.1, tid := k.2 } with
    | some th => th.live
    | none => false
  let s := { s with bars := s.bars.map fun (x : BarInst) => if x.grid == grid then { x with arrivals := x.arrivals.filter live } else x }
  (s.bars.filter fun x => x.grid == grid).foldl tryInst (tellReached s grid)

/-- After a store or an access has been performed, what waited for it goes on: held accesses, and barriers all of whose threads have
arrived (R45, R102). -/
def goOn (s : State) : State :=
  let s := retryHeld s
  ((s.bars.filter fun x => !x.arrivals.isEmpty).map fun x => x.grid).eraseDups.foldl barriersAgain s

/-- STORE_PERFORMED: an issued store is performed at its home slice (R102, R210). -/
def execStorePerformed (id : Nat) (s : State) : Host.Outcome State Fault Refusal :=
  .next (match s.writes.find? fun w => w.id == id with
    | none => s
    | some w => goOn (performStore s w))

/- Arrivals. -/

/-- A binding as the arrival of a thread at a generation of a block barrier leaves it: the thread's own, or its removal by the thread, takes
effect for the whole block when the generation completes (R109). -/
def Bind.arrived (tid n gen : Nat) (x : Bind) : Bind :=
  { x with via := if x.tid == tid && !x.all then x.via ++ [(n, gen)] else x.via
           offVia := if x.off.contains tid then x.offVia ++ [(n, gen)] else x.offVia }

/-- The thread arrives at the instance: a release of its accesses so far (R45). -/
def arrive (s : State) (b : Block) (th : Thread) (k : BarKind) (n : Nat) : State :=
  let s := flushThread s b.core (trefOf b th)
  let x := s.inst k b.grid (barIdx k b) n
  let s := s.setInst { x with arrivals := x.arrivals ++ [(b.bidx, th.tid)], mark := s.nextId }
  if k = .block then s.updBlock b.grid b.bidx fun b => { b with binds := b.binds.map (Bind.arrived th.tid n x.gen) } else s

/-- The thread waits on the generation (R37). -/
def waitBar (s : State) (b : Block) (th : Thread) (k : BarKind) (n gen : Nat) : State :=
  s.updThread (trefOf b th) fun t => { t with status := .barrier, bar := some (k, n, gen), readySince := s.now }

/-- Barrier mismatch of an arrival (R235, R394). -/
def arriveCheck (b : Block) (k : BarKind) (n : Nat) (s : State) (th : Thread) : State × LaneCheck :=
  if k = .grid && !(s.launchOf b.grid).cores_ then (s, .trap 0x0803 (BitVec.ofNat 64 n))
  else if (s.inst k b.grid (barIdx k b) n).arrivals.contains (b.bidx, th.tid) then (s, .trap 0x0801 (BitVec.ofNat 64 n))
  else (s, .go)

/-- Arrive and wait (R234). -/
def arriveWait (i : Instr) (k : BarKind) (n : BitVec 4) (s : State) : Host.Outcome State Fault Refusal :=
  runLanesThen i s (fun b _ s _ th => arriveCheck b k n.toNat s th)
    (fun b _ s _ th => (waitBar (arrive s b th k n.toNat) b th k n.toNat (s.inst k b.grid (barIdx k b) n.toNat).gen, []))
    fun b _ s => tryInst s (s.inst k b.grid (barIdx k b) n.toNat)

/-- BAR: arrive and wait at the block's instance. -/
def execBar (n : BitVec 4) (s : State) : Host.Outcome State Fault Refusal := arriveWait (.bar n) .block n s

/-- GBAR: the gang's threads, or the block's alone. -/
def execGbar (n : BitVec 4) (s : State) : Host.Outcome State Fault Refusal := arriveWait (.gbar n) .gang n s

/-- GRBAR: the grid's threads; a flush point of an ordered grid (R236). -/
def execGrbar (n : BitVec 4) (s : State) : Host.Outcome State Fault Refusal := arriveWait (.grbar n) .grid n s

/-- BARA: arrive without waiting; the generation is remembered for BARW. -/
def execBara (n : BitVec 4) (s : State) : Host.Outcome State Fault Refusal :=
  runLanesThen (.bara n) s (fun b _ s _ th => arriveCheck b .block n.toNat s th)
    (fun b _ s _ th =>
      let gen := (s.inst .block b.grid b.bidx n.toNat).gen
      ((arrive s b th .block n.toNat).updThread (trefOf b th) fun t =>
        { t with bara := (t.bara.filter fun x => x.1 != n.toNat) ++ [(n.toNat, gen)] }, []))
    fun b _ s => tryInst s (s.inst .block b.grid b.bidx n.toNat)

/-- BARW: wait for the generation of the pending BARA; at once where it has completed. -/
def execBarw (n : BitVec 4) (s : State) : Host.Outcome State Fault Refusal :=
  runLanes (.barw n) s
    (fun _ _ s _ th => if th.bara.any fun x => x.1 == n.toNat then (s, .go) else (s, .trap 0x0802 (BitVec.ofNat 64 n.toNat)))
    fun b _ s _ th =>
      let gen := ((th.bara.find? fun x => x.1 == n.toNat).map fun x => x.2).getD 0
      if (s.inst .block b.grid b.bidx n.toNat).gen > gen then
        (s.updThread (trefOf b th) fun t => { t with bara := t.bara.filter fun x => x.1 != n.toNat }, [])
      else (waitBar s b th .block n.toNat gen, [])

/-- STAGED_BATCH_APPLY: the grid's next closed batch is applied; threads that waited for it, at an AFLUSH or a grid barrier, go on
(R224, R236). -/
def execStagedBatchApply (grid : Nat) (s : State) : Host.Outcome State Fault Refusal :=
  .next (match s.grid? grid with
    | none => s
    | some g => match readyBatch s g with
      | none => s
      | some (k, b) => goOn (barriersAgain (applyBatch s grid k b).1 grid))

/-- ORD_TICKET_RELEASE: the die's ticket unit performs the next .ord operation of a grid whose turn it is (R225). -/
def execOrdTicketRelease (die : Nat) (s : State) : Host.Outcome State Fault Refusal :=
  .next (match s.grids.find? fun g => g.ordTok.isNone && (match gridTicket s g.handle with
      | some (d, t) => d == die && ticketTurn s t
      | none => false) with
    | none => s
    | some g => match gridTicket s g.handle with
      | some (d, t) => goOn (barriersAgain (releaseTicket s d t) g.handle)
      | none => s)

/- Formation deadlock (R397). -/

/-- The wait of a thread that only its own block can end. -/
def blockWait (th : Thread) : Bool :=
  th.status == .formation || th.status == .meeting ||
    (th.status == .barrier && (match th.bar with
      | some (.block, _, _) => true
      | _ => false))

/-- Header and index at which a thread waits: its pc, or the clause and the word of its barrier instruction. -/
def waitPoint (b : Block) (th : Thread) : Va × Nat :=
  match b.groups.find? fun g => (g.member? th.tid).isSome with
  | some g => (g.hdr, g.idx - 1)
  | none => (th.pc, 0)

/-- A thread's arrival is withdrawn (R394). -/
def withdraw (s : State) (b : Block) (th : Thread) : State :=
  let s := { s with bars := s.bars.map fun (x : BarInst) =>
    if x.grid == b.grid then { x with arrivals := x.arrivals.filter fun a => a != (b.bidx, th.tid) } else x }
  s.updThread (trefOf b th) fun t => { t with bar := none, bara := [] }

/-- Threads that raise one fault each at their own wait points; those that park share one record (R397). -/
def raiseEach (b : Block) (code : Nat) (detail : Word) (count : Nat) : List Thread → State → Bool → State
  | [], s, _ => s
  | th :: r, s, recorded =>
    let (hdr, idx) := waitPoint b th
    let gid := ((b.groups.find? fun g => (g.member? th.tid).isSome).map fun g => g.gid).getD 0
    let s := withdraw s b th
    let s := s.updBlock b.grid b.bidx fun b => dropMember b gid th.tid
    let rec_ := threadRec s b hdr idx th.tid code 0 detail count
    match takeTrap s b th rec_ hdr with
    | some s => raiseEach b code detail count r (settleGroup s b.grid b.bidx gid) recorded
    | none =>
      let s := if recorded then s else queueRec s (dieOf b.core) { rec_ with flags := 1 }
      let s := s.updThread (trefOf b th) fun t => { t with status := .parked, pc := hdr, bar := none }
      raiseEach b code detail count r (settleGroup s b.grid b.bidx gid) true

/-- FORMATION_DEADLOCK: every live thread of the block has waited for 4,096 cycles in a state that only the block can end (R397). -/
def execFormationDeadlock (bidx grid : Nat) (s : State) : Host.Outcome State Fault Refusal :=
  .next (match s.block? grid bidx with
    | none => s
    | some b =>
      let live := b.threads.filter Thread.live
      if b.place == 0 && !live.isEmpty && live.all (fun th => blockWait th && th.readySince + 4096 ≤ s.now) then
        let pcs := distinctPcs (live.map fun th => { th with pc := (waitPoint b th).1 })
        raiseEach b 0x0809 (BitVec.ofNat 64 pcs.length) live.length live s false
      else s)

/-- FULL_EMPTY_TIME_LIMIT: a .wf or .wfc load that has waited 2^24 cycles is withdrawn and raises SYNC cause 0x0F (R415). -/
def execFullEmptyTimeLimit (id : Nat) (s : State) : Host.Outcome State Fault Refusal :=
  .next (match s.pend.find? fun p => p.id == id with
    | none => s
    | some p => match p.kind with
      | .fullEmpty off _ _ =>
        if p.aged < 2 ^ 24 then s
        else match s.block? p.who.grid p.who.bidx with
          | none => s
          | some b => match b.thread? p.who.tid with
            | none => s
            | some th =>
              let gid := ((b.groups.find? fun g => (g.member? th.tid).isSome).map fun g => g.gid).getD 0
              let s := complete s p [] 0
              let va : Word := BitVec.ofNat 64 (0x00FF000000000000 + off / 16 * 16)
              let resume := if p.tok == 7 then p.hdr else th.pc
              settleGroup
                (trapOrPark (dieOf b.core) (threadRec s b p.hdr p.idx th.tid 0x080F va 0 1) gid (fun _ => resume) [th] s 0)
                b.grid b.bidx gid
      | _ => s)

end Sys2Proof.Machine
end

