-- ==== Sys2Proof/Machine/Control.lean ====
section
/-! DEFINITION. Transfers of control (R178 to R180, R395), the meeting stack (R181), EXIT, YIELD, NOP (R182, R183), and the THR forms:
identity, constants, flags and predicates (R175 to R177). -/

namespace Sys2Proof.Machine

open Sys2Proof

/- Targets (R178, R179, R395). -/

/-- What a transfer finds at a 64-bit target for a thread (R395): an instruction-address fault or none; nothing yet where the target's
header is fetched from another package or its page is moving. -/
def targetLook (s : State) (b : Block) (user : Bool) (t : Word) : State × Option (Option Nat) :=
  if t.toNat ≥ 2 ^ 57 || t.toNat % 4 != 0 || inWindow t.toNat then (s, some (some 0x0480))
  else match translateCode s (dieOf b.core) (s.jobOf b.grid) b.extents t.toNat user with
    | (s, .bad c) => (s, some (some (fetchCode c)))
    | (s, .here _ _) => (s, some none)
    | (s, .held) => (s, none)
    | (s, .away _) => match fetchWord s b t.toNat user with
      | (s, none) => (s, none)
      | (s, some (.ok _)) => (s, some none)
      | (s, some (.error e)) =>
        -- a bad seal is found by the fetch of the clause (R395, R410)
        if e.1 / 256 == 5 then (s, some none)
        else ({ s with lines := s.lines.filter fun l => l.2.2.length == 128 || l.2.1 / 2 / 512 != t.toNat / 2 ^ 16 }, some (some e.1))

/-- The instruction-address fault of a target that is known, or none. -/
def targetFault (s : State) (b : Block) (user : Bool) (t : Word) : State × Option Nat :=
  match targetLook s b user t with
  | (s, some r) => (s, r)
  | (s, none) => (s, some 0x0481)

/-- An instruction that must wait stays where it is, to be issued again, and is counted once. -/
def waitAccept (s : State) (b : Block) : State :=
  (s.updCore b.core fun k => { k with perfIssue := k.perfIssue - 1 }).idle

/-- An instruction of the issuing group goes on once every target its lanes name, each in the mode it will run in (true: user), is known
(R178, R395). -/
def withTargetsIn (i : Instr) (s : State) (f : Block → Group → State → Thread → Option (Word × Bool))
    (k : State → Host.Outcome State Fault Refusal) : Host.Outcome State Fault Refusal :=
  match s.cur? with
  | none => k s
  | some (b, g) =>
    if (entryFault s b g i).isSome then k s
    else
      let (s, known) := (activeLanes b g).foldl (fun (s, known) m => match f b g s m.2 with
        | none => (s, known)
        | some t => match targetLook s b t.2 t.1 with
          | (s, r) => (s, known && r.isSome)) (s, true)
      if known then k s else .next (waitAccept s b)

/-- The same for transfers, which keep the thread's mode. -/
def withTargets (i : Instr) (s : State) (f : Block → Group → State → Thread → Option Word)
    (k : State → Host.Outcome State Fault Refusal) : Host.Outcome State Fault Refusal :=
  withTargetsIn i s (fun b g s th => (f b g s th).map fun t => (t, !th.priv)) k

/-- next clause header + 4 · sext(off22, 22) (R133); an address outside the 57-bit space keeps the bits beyond it, and faults (R178). -/
def relTarget (g : Group) (o : BitVec 22) : Word := BitVec.ofInt 64 (g.fall.toNat + 4 * o.toInt)

/-- A transfer as an access: y is 0 for a plain transfer, 1 for a call, 2 for a return whose slot is still to be loaded, 3 for one that has
loaded its target; x the return address a call pushes. -/
def jumpAcc (target : Word) (kind : Nat) (ret : Va) : Acc :=
  { op := .jump (target.extractLsb' 0 57) kind, ea := target, x := ret.zeroExtend 64, y := BitVec.ofNat 64 kind, d := 0, k := 7, l := 0 }

/-- The lane's check of a transfer to a target. -/
def targetCheck (s : State) (b : Block) (th : Thread) (acc : Acc) : State × LaneCheck :=
  match targetFault s b (!th.priv) acc.ea with
  | (s, some c) => (s, .fault [{ tid := th.tid, code := c, addr := acc.ea.toNat, detail := 0, acc := acc }])
  | (s, none) => (s, .go)

/- The return stack (R180, R298). -/

/-- VA of the thread's private segment: PRIV + (BIDX·1024 + TID)·Pmax (R298, R300). -/
def privBase (s : State) (b : Block) (th : Thread) : Nat :=
  (s.launchOf b.grid).priv + (b.bidx * 1024 + th.tid) * (s.launchOf b.grid).pmax

/-- P: private bytes of the thread's role. -/
def privSize (s : State) (b : Block) (th : Thread) : Nat := ((s.launchOf b.grid).roleOf th.tid).2.priv

/-- Greatest call depth (R180). -/
def maxDepth (s : State) (b : Block) (th : Thread) : Nat := min 255 (privSize s b th / 8)

/-- Address of return slot d (R180): private offset P − 8·d. -/
def slotVa (s : State) (b : Block) (th : Thread) (d : Nat) : Word :=
  BitVec.ofNat 64 (privBase s b th + (privSize s b th - 8 * d))

/-- The store of a call and the load of a return. -/
def pushAcc (s : State) (b : Block) (th : Thread) (ret : Va) : Acc :=
  { op := .st 8 false false, ea := slotVa s b th (th.callDepth + 1), x := ret.zeroExtend 64, y := 0, d := 0, k := 7, l := 0 }
def popAcc (s : State) (b : Block) (th : Thread) : Acc :=
  { op := .ld 8 false false, ea := slotVa s b th th.callDepth, x := 0, y := 0, d := 0, k := 7, l := 0 }

/-- The transfer's own effect on the thread, its target having been accepted: the push or pop and the next pc. -/
def takeJump (s : State) (b : Block) (who : Tref) (acc : Acc) : State :=
  match s.thread? who with
  | none => s
  | some th =>
    let kind := acc.y.toNat
    let s := if kind == 1 then
        issueStore s b who (!th.priv) (pushAcc s b th (acc.x.extractLsb' 0 57)).ea.toNat (leBytes acc.x.toNat 8)
      else s
    s.updThread who fun t =>
      { t with goto := some (acc.ea.extractLsb' 0 57)
               callDepth := if kind == 1 then t.callDepth + 1 else if kind == 3 then t.callDepth - 1 else t.callDepth }

/-- A transfer of every active lane: its target per lane, none where the lane falls through. -/
def runJump (i : Instr) (s : State) (f : Group → Thread → Option Word) : Host.Outcome State Fault Refusal :=
  withTargets i s (fun _ g _ th => f g th) fun s => runLanes i s
    (fun b g s _ th => match f g th with
      | none => (s, .go)
      | some t => targetCheck s b th (jumpAcc t 0 0))
    fun b g s _ th => match f g th with
      | none => (s, [])
      | some t => (takeJump s b (trefOf b th) (jumpAcc t 0 0), [])

/-- A call of every active lane (R180). -/
def runCall (i : Instr) (s : State) (f : Group → Thread → Word) : Host.Outcome State Fault Refusal :=
  withTargets i s (fun _ g _ th => some (f g th)) fun s => runLanes i s
    (fun b g s _ th =>
      if maxDepth s b th ≤ th.callDepth then (s, .trap 0x080D (BitVec.ofNat 64 th.callDepth))
      else match accFaults s b (!th.priv) (pushAcc s b th g.fall) with
        | (s, x :: _) =>
          (s, .fault [{ tid := th.tid, code := x.1, addr := x.2, detail := accDetail s b (pushAcc s b th g.fall) x.1 x.2
                        acc := jumpAcc (f g th) 1 g.fall }])
        | (s, []) => targetCheck s b th (jumpAcc (f g th) 1 g.fall))
    fun b g s _ th => (takeJump s b (trefOf b th) (jumpAcc (f g th) 1 g.fall), [])

/-- BRA: each thread on its own predicate (R178). -/
def execBra (c : BitVec 4) (o : BitVec 22) (s : State) : Host.Outcome State Fault Refusal :=
  runJump (.bra c o) s fun g th => if th.cond c then some (relTarget g o) else none

/-- JMP (R179). -/
def execJmp (r : Reg) (s : State) : Host.Outcome State Fault Refusal :=
  runJump (.jmp r) s fun _ th => some (th.reg r)

/-- BRX: next clause header + 4 · s(va), modulo 2^57 (R179). -/
def execBrx (r : Reg) (s : State) : Host.Outcome State Fault Refusal :=
  runJump (.brx r) s fun g th => some ((g.fall + (th.reg r).extractLsb' 0 57 * 4).zeroExtend 64)

/-- CALL (R179, R180). -/
def execCall (o : BitVec 22) (s : State) : Host.Outcome State Fault Refusal :=
  runCall (.call o) s fun g _ => relTarget g o

/-- CALLX (R179, R180). -/
def execCallx (r : Reg) (s : State) : Host.Outcome State Fault Refusal :=
  runCall (.callx r) s fun _ th => th.reg r

/-- The return address popped, where its slot is at this package (R102, R180). -/
def popValue (s : State) (b : Block) (th : Thread) : State × ActRes :=
  performAcc s b (trefOf b th) (!th.priv) (popAcc s b th) s.nextId

/-- The slot is at this package. -/
def popHere (s : State) (b : Block) (th : Thread) : Bool :=
  match (translate s (dieOf b.core) (s.jobOf b.grid) b.extents (popAcc s b th).ea.toNat false (!th.priv)).2 with
  | .here _ _ => true
  | _ => false

/-- The target a return would load now, where it can. -/
def popTarget (s : State) (b : Block) (th : Thread) : Option Word :=
  if th.callDepth != 0 && (accFaults s b (!th.priv) (popAcc s b th)).2.isEmpty && popHere s b th then
    match (popValue s b th).2 with
    | .value v _ => some v
    | _ => none
  else none

/-- A return whose slot is at another package or on a moving page: the load is outstanding, and its answer makes the transfer. -/
def retWait (s : State) (b : Block) (g : Group) (th : Thread) : State × List Window :=
  match popValue s b th with
  | (s, .wait k) =>
    let acc : Acc := { popAcc s b th with op := .jump 0 2, ea := (popAcc s b th).ea, y := 2 }
    (addPend s { plainPend s b g th 0 7 k with acc := acc }, [{ id := s.nextId, left := 0 }])
  | (s, .value v _) => (takeJump s b (trefOf b th) (jumpAcc v 3 0), [])
  | (s, .done) => (s, [])

/-- RET (R180): a blocking load of the return slot, then the transfer. -/
def execRet (s : State) : Host.Outcome State Fault Refusal :=
  withTargets .ret s (fun b _ s th => popTarget s b th) fun s => runLanes .ret s
    (fun b _ s _ th =>
      if th.callDepth == 0 then (s, .trap 0x080E 0)
      else match accFaults s b (!th.priv) (popAcc s b th) with
        | (s, x :: _) =>
          (s, .fault [{ tid := th.tid, code := x.1, addr := x.2, detail := accDetail s b (popAcc s b th) x.1 x.2
                        acc := { popAcc s b th with op := .jump 0 2, y := 2 } }])
        | (s, []) => match popTarget s b th with
          | some v => targetCheck s b th (jumpAcc v 3 0)
          | none => (s, .go))
    fun b g s _ th => retWait s b g th

/-- A return's slot has been loaded: the transfer is made once its target is known, or the thread parks at its target's fault (R180,
R395). -/
def retArrived (s : State) (p : Pend) (v : Word) : State :=
  match s.block? p.who.grid p.who.bidx with
  | none => s
  | some b => if b.place != 0 then s else match b.thread? p.who.tid, b.groups.find? fun g => (g.member? p.who.tid).isSome with
    | some th, some g => match targetLook s b (!th.priv) v with
      | (s, none) => s
      | (s, some none) =>
        settleGroup (takeJump { s with pend := s.pend.filter fun q => q.id != p.id } b p.who (jumpAcc v 3 0)) b.grid b.bidx g.gid
      | (s, some (some c)) =>
        let s := { s with pend := s.pend.filter fun q => q.id != p.id }
        let f : LFault := { tid := th.tid, code := c, addr := v.toNat, detail := 0, acc := jumpAcc v 3 0 }
        let g := { g with idx := p.idx }
        let (s, ts) := openAll b g (if rungOf c == 1 then [f] else []) s
        let s := rung3Rec s b g (if rungOf c == 1 then [] else [f])
        settleGroup (parkSub s b g (if rungOf c == 1 then ts else [(f.tid, 0, f.acc)])) b.grid b.bidx g.gid
    | _, _ => s

/-- Returns whose slot has been loaded go on. -/
def returnsAgain (s : State) : State :=
  s.pend.foldl (fun s p => match p.acc.op, p.kind with
    | .jump _ _, .result v _ => retArrived s p v
    | _, _ => s) s

/-- LOAD_RESULT: an outstanding result that is there is written (R137, R139); of a RET, its transfer made. -/
def execLoadResult (id : Nat) (s : State) : Host.Outcome State Fault Refusal :=
  .next (match s.pend.find? fun p => p.id == id with
    | none => s
    | some p =>
      if ((s.block? p.who.grid p.who.bidx).map fun b => b.place != 0).getD false then s
      else match p.kind with
      | .result v f => (match p.acc.op with
        | .jump _ _ => retArrived s p v
        | _ => complete s p (if p.tok == 8 then [] else [(p.acc.d, v)]) f)
      | .ready ds => complete s p ds 0
      | _ => s)

/- The meeting stack (R181). -/

/-- MPUSH (R181): overflow at depth 8. -/
def execMpush (x : Word32) (s : State) : Host.Outcome State Fault Refusal :=
  runLanes (.mpush x) s
    (fun _ _ s _ th => if 8 ≤ th.meet.length then (s, .trap 0x080B 8) else (s, .go))
    fun b g s _ th => (s.updThread (trefOf b th) fun t => { t with meet := (g.fall + (x.signExtend 57 <<< 2)) :: t.meet }, [])

/-- MPOP (R181): underflow at depth 0. -/
def execMpop (s : State) : Host.Outcome State Fault Refusal :=
  runLanes .mpop s
    (fun _ _ s _ th => if th.meet.isEmpty then (s, .trap 0x080C 0) else (s, .go))
    fun b _ s _ th => (s.updThread (trefOf b th) fun t => { t with meet := t.meet.tail }, [])

/- EXIT, YIELD, NOP (R182, R183). -/

/-- EXIT: the active threads are EXITED at the end of the clause; barriers count them no more (R44, R182). A TRAP of the same clause is
recorded and takes no thread (R37; `endTraps`). -/
def execExit (s : State) : Host.Outcome State Fault Refusal :=
  issue .exit s fun b g =>
    let b := mapActive b g fun _ th => { th with status := .exited, bara := [] }
    barriersAgain ((endTraps (s.updBlock b.grid b.bidx fun _ => endClause s b g) b.grid b.bidx).idle) b.grid

/-- YIELD (R183). -/
def execYield (s : State) : Host.Outcome State Fault Refusal :=
  onLanes .yield s fun _ _ _ th => { th with yieldAfter := true }

/-- NOP (R183). -/
def execNop (s : State) : Host.Outcome State Fault Refusal := onLanes .nop s fun _ _ _ th => th

/- Identity, constants, flags (R155, R175, R176). -/

/-- The value of an MFT selector (R35, R155). -/
def mftValue (s : State) (b : Block) (m : Member) (th : Thread) (sel : Nat) : Word :=
  let l := s.launchOf b.grid
  match sel with
  | 0 => BitVec.ofNat 64 th.tid
  | 1 => BitVec.ofNat 64 (th.tid % l.sx)
  | 2 => BitVec.ofNat 64 (th.tid / l.sx % l.sy)
  | 3 => BitVec.ofNat 64 (th.tid / l.sx / l.sy)
  | 4 => BitVec.ofNat 64 th.htroop
  | 5 => BitVec.ofNat 64 (l.roleOf th.tid).1
  | 6 => BitVec.ofNat 64 m.lane
  | 7 => BitVec.ofNat 64 b.cx
  | 8 => BitVec.ofNat 64 b.cy
  | 9 => BitVec.ofNat 64 b.cz
  | 10 => BitVec.ofNat 64 b.bidx
  | 11 => BitVec.ofNat 64 b.gang
  | 12 => BitVec.ofNat 64 b.grank
  | 13 => BitVec.ofNat 64 b.gsize
  | 14 => th.lid
  | 15 => th.parent
  | 16 => BitVec.ofNat 64 (((s.grid? b.grid).map fun g => g.gen).getD 0)
  | _ => th.tstat.zeroExtend 64

/-- MFT (R175). -/
def execMft (d : Reg) (sl : BitVec 9) (s : State) : Host.Outcome State Fault Refusal :=
  onLanes (.mft d sl) s fun b _ m th => th.setReg d (mftValue s b m th sl.toNat)

/-- MOVC (R175). -/
def execMovc (d : Reg) (c : BitVec 5) (s : State) : Host.Outcome State Fault Refusal :=
  onLanes (.movc d c) s fun b _ _ th => th.setReg d (b.consts.getD c.toNat 0)

/-- CLRF (R175). -/
def execClrf (m : BitVec 6) (s : State) : Host.Outcome State Fault Refusal :=
  onLanes (.clrf m) s fun _ _ _ th => { th with tstat := th.tstat &&& ~~~m }

/- Predicate logic (R177). -/

/-- PAND. -/
def execPand (d a b : BitVec 3) (s : State) : Host.Outcome State Fault Refusal :=
  onLanes (.pand d a b) s fun _ _ _ th => th.setPred d (th.pred a && th.pred b)

/-- POR. -/
def execPor (d a b : BitVec 3) (s : State) : Host.Outcome State Fault Refusal :=
  onLanes (.por d a b) s fun _ _ _ th => th.setPred d (th.pred a || th.pred b)

/-- PXOR. -/
def execPxor (d a b : BitVec 3) (s : State) : Host.Outcome State Fault Refusal :=
  onLanes (.pxor d a b) s fun _ _ _ th => th.setPred d (th.pred a != th.pred b)

/-- PNOT. -/
def execPnot (d a : BitVec 3) (s : State) : Host.Outcome State Fault Refusal :=
  onLanes (.pnot d a) s fun _ _ _ th => th.setPred d (!th.pred a)

/-- PMOV. -/
def execPmov (d a : BitVec 3) (s : State) : Host.Outcome State Fault Refusal :=
  onLanes (.pmov d a) s fun _ _ _ th => th.setPred d (th.pred a)

end Sys2Proof.Machine
end

