-- ==== Sys2Proof/Machine/Engine.lean ====
section
/-! DEFINITION. What engines share (R117, R237, R261, R391, R403): where their addresses lie, granules with seals, records read at
acceptance, faults and parking, tokens of every member, and writes to other packages. -/

namespace Sys2Proof.Machine

open Sys2Proof

/- Places (R57, R58, R241). -/

/-- Where an engine access to one address goes. -/
inductive Loc
  | mem (pa : Nat) (pte : Word)
  | scratch (off : Nat)
  | ws (off : Nat)
  | away (pkg : Nat)
  | held
  | bad (code : Nat)
  deriving DecidableEq, Repr, Inhabited

/-- A kernel other than the grid's runs on the die: one of its blocks there has been dispatched and has not retired (R27). -/
def kernelRuns (s : State) (die grid : Nat) : Bool := s.blocks.any fun b => b.grid != grid && dieOf b.core == die

/-- The weight store's window: operand reads of the matrix engine, writes of a privileged copy between kernels (R27, R58, R266, R402). -/
def storeLoc (s : State) (e : EngBy) (off : Nat) (write : Bool) : Loc :=
  if e.store == 1 && !write then (if off < 768 * 2 ^ 20 then .ws off else .bad 0x0407)
  else if e.store == 2 && write then
    (if e.user || kernelRuns s (dieOf e.core) e.grid || off ≥ 768 * 2 ^ 20 then .bad 0x0407 else .ws off)
  else .bad 0x0405

/-- The place of a VA for an engine operation: windows by offset, everything else by translation (R64, R208, R241, R402). -/
def engLoc (s : State) (e : EngBy) (va : Nat) (write : Bool) : State × Loc :=
  if va ≥ 2 ^ 57 then (s, .bad 0x0404)
  else if inWindow va then
    let off := va % 2 ^ 40
    (s, match va / 2 ^ 40 % 2 ^ 8 with
      | 0 => if off < (s.launchOf e.grid).scratch then .scratch off else .bad 0x0406
      | 1 => storeLoc s e off write
      | _ => .bad 0x0405)
  else
    let exts := ((s.block? e.grid e.bidx).map fun b => b.extents).getD []
    match translate s (dieOf e.core) e.job exts va write e.user with
    | (s, .here pa p) => (s, .mem pa p)
    | (s, .away q) => (s, .away q)
    | (s, .held) => (s, .held)
    | (s, .bad c) => (s, .bad c)

/-- One granule read by an engine: its bytes and error syndrome; a package to ask; wait; a fault. -/
inductive GRes
  | data (bs : List Byte) (err : Byte)
  | ask (pkg : Nat)
  | wait
  | bad (code : Nat)
  deriving DecidableEq, Repr, Inhabited

/-- A granule of a memory. -/
def granOf (m : Memory) (a : Nat) : GRes := .data (m.read (a / 8 * 8) 8) (m.err (a / 8))

/-- The granule of a VA as operation op reads it; granules of other packages as they have come (R76, R241). -/
def engGran (s : State) (e : EngBy) (op va : Nat) : State × GRes :=
  let (s, l) := engLoc s e va false
  (s, match l with
    | .mem pa _ => granOf s.mem pa
    | .scratch off => match s.block? e.grid e.bidx with
      | some b => granOf b.scratch off
      | none => .bad 0x0406
    | .ws off => if wsBusy s (dieOf e.core) (off / 2 ^ 16 % 8) then .wait else granOf (s.die (dieOf e.core)).ws off
    | .away p => match s.engGot.find? fun x => x.1 == op && x.2.1 == va / 8 with
      | some x => .data (x.2.2.map fun y => y.1) ((x.2.2.headD (0, 0)).2)
      | none => .ask p
    | .held => .wait
    | .bad c => .bad c)

/-- A READ of the 128-byte line of a VA sent for an operation, once. -/
def askLine (s : State) (e : EngBy) (op pkg va : Nat) : State :=
  let lva := va / 128 * 128
  if s.engAsks.any fun a => a.op == op && a.va == lva then s
  else
    let (s, p) := sendPacket s { blankPacket with
      typ := 3, dst := pkg, score := e.score, base := BitVec.ofNat 64 lva, job := e.job, user := e.user, tspec := tspecOf [(0, 4, 16)] }
    { s with engAsks := s.engAsks ++ [{ dst := pkg, seq := p.seq, op := op, va := lva, n := 16, recVa := e.recVa }] }

/-- The answers of an operation are dropped with it. -/
def dropGot (s : State) (op : Nat) : State := { s with engGot := s.engGot.filter fun x => x.1 != op }

/-- What reading some granules gives: all of them by granule number, a wait, or the first fault with its VA and DETAIL. -/
inductive RRes
  | ok (gs : List (Nat × List Byte × Byte))
  | wait
  | bad (code va : Nat) (detail : Word)
  deriving DecidableEq, Repr, Inhabited

/-- DETAIL of an engine's ADDRESS record (R402). -/
def engDetail (e : EngBy) : Word := BitVec.ofNat 64 (7 + (e.recVa % 2 ^ 57) <<< 4)

/-- Granules read in order; with `chk` each seal is checked as an engine consumer (SEAL cause 0x04). -/
def engGrans (e : EngBy) (op : Nat) (chk : Bool) : List Nat → State → State × RRes
  | [], s => (s, .ok [])
  | q :: r, s =>
    let (s, g) := engGran s e op (8 * q)
    match g with
    | .bad c => (s, .bad c (8 * q) (engDetail e))
    | .ask p =>
      let (s, x) := engGrans e op chk r (askLine s e op p (8 * q))
      (s, match x with
        | .bad c a d => .bad c a d
        | _ => .wait)
    | .wait =>
      let (s, x) := engGrans e op chk r s
      (s, match x with
        | .bad c a d => .bad c a d
        | _ => .wait)
    | .data bs err =>
      if chk && err != 0 then (s, .bad 0x0504 (8 * q) (sealDetail bs (8 * q) 0x0504 err))
      else
        let (s, x) := engGrans e op chk r s
        (s, match x with
          | .ok gs => .ok ((q, bs, err) :: gs)
          | x => x)

/-- The granule numbers of a byte range. -/
def granRange (va n : Nat) : List Nat := (List.range ((va + n + 7) / 8 - va / 8)).map fun i => va / 8 + i

/-- Byte of read granules. -/
def gByte (gs : List (Nat × List Byte × Byte)) (va : Nat) : Byte :=
  match gs.find? fun g => g.1 == va / 8 with
  | some g => g.2.1.getD (va % 8) 0
  | none => 0

/-- A byte range of read granules. -/
def gBytes (gs : List (Nat × List Byte × Byte)) (va n : Nat) : List Byte := (List.range n).map fun i => gByte gs (va + i)

/- Faults (R403). -/

/-- A fault of an engine operation: a rung-1 cause opens or joins a wait-table entry of the issuing core's die and gives its token; any
other writes one record. -/
def engFault (s : State) (e : EngBy) (code va : Nat) (detail : Word) : State × Option Nat :=
  let die := dieOf e.core
  let r : FRec := { unitRec s code (BitVec.ofNat 64 va) detail e.grid e.job with core := e.core, tid := e.tid, bidx := e.bidx }
  if rungOf code == 1 then
    let (s, tok, new) := waitEntry s die e.job (va / 2 ^ 16)
    (if new then queueRec s die { r with flags := 1, token := tok, entry := some (bits tok 29 20) } else s, some tok)
  else (queueRec s die r, none)

/-- Every active member's own stores performed, as far as they can be, and its write-combining lines sent; false while some are still to be
performed: the issue of an engine operation forms an edge (R108, R116). -/
def drainGroup (s : State) (b : Block) (g : Group) : State × Bool :=
  let s := (activeLanes b g).foldl (fun s m => flushThread s b.core (trefOf b m.2)) s
  (s, !(activeLanes b g).any fun m => storesBefore s (trefOf b m.2) s.nextId)

/- Group issue (R237, R261, R396). -/

/-- Who issues: the group's block and its lowest active member. -/
def byOf (s : State) (b : Block) (th : Thread) (recVa : Nat) : EngBy :=
  { core := b.core, grid := b.grid, bidx := b.bidx, tid := th.tid, job := s.jobOf b.grid, user := !th.priv, recVa := recVa, score := 0x3FF
    store := 0 }

/-- Every live thread of a thread's home troop is an active member of its group: one that has trapped or parked is not (R42). -/
def wholeTroopIn (b : Block) (g : Group) (th : Thread) : Bool :=
  !(g.members.any fun m => !m.active)
    && b.threads.all fun t => t.tid / 32 != th.tid / 32 || !t.live || (match g.member? t.tid with
      | some m => m.active
      | none => false)

/-- An instruction issued once per group with every live member active: SYNC cause 0x0A otherwise; operands come from the
lowest-numbered active lane, the member of lowest LANE (R237, R261, R396). -/
def issueWhole (i : Instr) (s : State) (k : Block → Group → Thread → State) : Host.Outcome State Fault Refusal :=
  issue i s fun b g =>
    match sortBy (fun x y => x.1.lane ≤ y.1.lane) (activeLanes b g) with
    | [] => advance s b g (Instr.len i) []
    | (_, th) :: _ =>
      if !wholeTroopIn b g th then (threadFault s b g (groupThreads b g) 0x080A g.idx 0 0).idle
      else k b g th

/-- A refusal at acceptance: every active member traps (R372, R391, R392). -/
def refuse (s : State) (b : Block) (g : Group) (code va off : Nat) : State :=
  (threadFault s b g ((activeLanes b g).map fun m => m.2) code g.idx (BitVec.ofNat 64 va) (BitVec.ofNat 64 off)).idle

/-- A fault of a read made at acceptance: the group parks as at a lane load, and the REPLAY repeats the acceptance (R410). -/
def parkAccept (s : State) (b : Block) (g : Group) (th : Thread) (code va : Nat) (detail : Word) : State :=
  (parkLanes s b g [{ tid := th.tid, code := code, addr := va, detail := detail
                      acc := { op := .reissue, ea := 0, x := 0, y := 0, d := 0, k := 7, l := 0 } }]).1.idle

/-- Operation number under which a group's acceptance reads are kept. -/
def acceptOp (g : Group) : Nat := 2 ^ 40 + g.gid

/-- And the one under which the atomic step of a CPY at another package is on the way (R266). -/
def startOp (g : Group) : Nat := 2 ^ 47 + g.gid

/-- An operation whose issue is a release waits at its issue until every earlier store of its members is performed (R108, R116; log 63). -/
def withDrain (s : State) (b : Block) (g : Group) (k : State → State) : State :=
  match drainGroup s b g with
  | (s, true) => k s
  | (s, false) => waitAccept s b

/-- A record of n bytes read at acceptance, then `k` with its bytes (R391, R410). -/
def withRecord (s : State) (b : Block) (g : Group) (th : Thread) (va n : Nat) (k : State → List Byte → State) : State :=
  let e := byOf s b th va
  if va + n > 2 ^ 57 then parkAccept s b g th 0x0404 va (engDetail e)
  else match engGrans e (acceptOp g) true (granRange va n) s with
    | (s, .bad c a d) => parkAccept s b g th c a d
    | (s, .wait) => waitAccept s b
    | (s, .ok gs) => k (dropGot s (acceptOp g)) (gBytes gs va n)

/-- The result of an operation made outstanding in every active member under its token, and the group moves on; without a token nothing
is raised (R137, R237). -/
def engIssue (s : State) (b : Block) (g : Group) (i : Instr) (k : BitVec 3) (l : BitVec 4) (kind : PendKind) : State :=
  let s := if Instr.isMatrix i then s.updBlock b.grid b.bidx fun b => mapActive b g fun _ th => { th with mfence := false } else s
  if k == 7 then advanceIn s b.grid b.bidx g.gid (Instr.len i) []
  else
    let (s, ws) := (activeLanes b g).foldl (fun (s, ws) m =>
      let (s, w) := addPlain s b g m.2 0 k l kind
      (s, ws ++ w)) (s, [])
    advanceIn s b.grid b.bidx g.gid (Instr.len i) ws

/-- An operation completes: its token falls in every member, with the registers it writes (R117, R137). -/
def engDone (s : State) (op : Nat) (dests : Nat → List (Reg × Word)) : State :=
  s.pend.foldl (fun s p => if p.kind == .engine op then complete s p (dests p.who.tid) 0 else s) (dropGot s op)

/- Writes (R76, R117). -/

/-- The outcome of an engine write. -/
inductive WRes
  | done
  | wait
  | bad (code va : Nat) (detail : Word)
  deriving DecidableEq, Repr, Inhabited

/-- The first granule that a write of n bytes covers in part and whose old seal fails, as a fault (SEAL cause 0x02: R77, R410). -/
def oldSeal (m : Memory) (a va n : Nat) : Option WRes :=
  ((partGranules a n).find? fun q => m.err q != 0).map fun q =>
    .bad 0x0502 (va / 8 * 8 + 8 * (q - a / 8)) (sealDetail (m.read (8 * q) 8) (8 * q) 0x0502 (m.err q))

/-- The granule at a with bytes merged into it and a syndrome, which the bytes carry (R76, R410). -/
def Memory.putErr (m : Memory) (a : Nat) (bs : List Byte) (err : Byte) : Memory :=
  m.writeGranule (a / 8) (overlay (a / 8 * 8) (m.read (a / 8 * 8) 8) a bs) err

/-- Bytes of one page written by an engine: with sound seals, full bits of scratchpad granules set, remote ones sent as WRITEs (R73, R76,
R77, R255, R266). -/
def engWrite (s : State) (e : EngBy) (op va : Nat) (bs : List Byte) : State × WRes :=
  let (s, l) := engLoc s e va true
  match l with
  | .bad c => (s, .bad c va (engDetail e))
  | .held => (s, .wait)
  | .mem pa _ =>
    if writeHeld s e.job va then (s, .wait)
    else match oldSeal s.mem pa va bs.length with
      | some r => (s, r)
      | none => (memPut (noteDsm s e.job va) pa bs, .done)
  | .scratch off => (match (s.block? e.grid e.bidx).bind fun b => oldSeal b.scratch off va bs.length with
    | some r => (s, r)
    | none => (scratchPut s e.grid e.bidx off bs true, .done))
  | .ws off => (match oldSeal (s.die (dieOf e.core)).ws off va bs.length with
    | some r => (s, r)
    | none => (s.updDie (dieOf e.core) fun d => { d with ws := d.ws.write off bs }, .done))
  | .away p =>
    ((linePieces va bs).foldl (fun s y =>
      let line : WcLine := { peer := p, job := e.job, user := e.user, va := y.1 / 128 * 128,
                             bytes := y.2.zipIdx.map fun z => (y.1 % 128 + z.2, z.1), whos := [engWho op], born := s.now }
      let (s, pk) := sendPacket s (wcPacket e.score line)
      { s with inFlight := s.inFlight ++ [(p, pk.seq, line)] }) s, .done)

/-- Bytes of one granule written with the syndrome they carry (R76, R410); sound ones as `engWrite`. -/
def engPut (s : State) (e : EngBy) (op va : Nat) (bs : List Byte) (err : Byte) : State × WRes :=
  if err == 0 then engWrite s e op va bs
  else
    let (s, l) := engLoc s e va true
    match l with
    | .bad c => (s, .bad c va (engDetail e))
    | .held => (s, .wait)
    | .mem pa _ =>
      if writeHeld s e.job va then (s, .wait)
      else match oldSeal s.mem pa va bs.length with
        | some r => (s, r)
        | none =>
          let s := noteOperand (noteDsm s e.job va) s.nextId (pa / 8) 1
          (if roByte pa then s else afterWrite { s with mem := s.mem.putErr pa bs err } s.mem pa bs.length, .done)
    | .scratch off => (match (s.block? e.grid e.bidx).bind fun b => oldSeal b.scratch off va bs.length with
      | some r => (s, r)
      | none =>
        let s := scratchPut s e.grid e.bidx off bs true
        (s.updBlock e.grid e.bidx fun b => { b with scratch := b.scratch.putErr off bs err }, .done))
    | .ws off => (match oldSeal (s.die (dieOf e.core)).ws off va bs.length with
      | some r => (s, r)
      | none => (s.updDie (dieOf e.core) fun d => { d with ws := d.ws.putErr off bs err }, .done))
    | .away p =>
      let line : WcLine := { peer := p, job := e.job, user := e.user, va := va / 128 * 128,
                             bytes := bs.zipIdx.map fun z => (va % 128 + z.2, z.1), whos := [engWho op], born := s.now }
      let pk := wcPacket e.score line
      let (s, pk) := sendPacket s { pk with seals := pk.seals.map fun x => x ^^^ err }
      ({ s with inFlight := s.inFlight ++ [(p, pk.seq, line)] }, .done)

/-- Writes with syndromes made in order until one waits or faults. -/
def engPuts (e : EngBy) (op : Nat) : List (Nat × List Byte × Byte) → State → State × List (Nat × List Byte × Byte) × WRes
  | [], s => (s, [], .done)
  | (va, bs, err) :: r, s => match engPut s e op va bs err with
    | (s, .done) => engPuts e op r s
    | (s, x) => (s, (va, bs, err) :: r, x)

/-- Pieces of a write that lie in one 128-byte line each, so that every piece is in one page and one packet. -/
def lineChunks (va : Nat) : Nat → List Byte → List (Nat × List Byte)
  | 0, _ => []
  | fuel + 1, bs =>
    let n := 128 - va % 128
    if bs.isEmpty then [] else (va, bs.take n) :: lineChunks (va + (bs.take n).length) fuel (bs.drop n)

/-- Sound runs joined; a granule with a syndrome stands alone. -/
def joinItems : List (Nat × List Byte × Byte) → List (Nat × List Byte × Byte)
  | [] => []
  | (va, bs, err) :: r => match joinItems r with
    | [] => [(va, bs, err)]
    | (va', bs', err') :: r' =>
      if err == 0 && err' == 0 && va' == va + bs.length && va / 128 == va' / 128 then (va, bs ++ bs', 0) :: r'
      else (va, bs, err) :: (va', bs', err') :: r'

/-- A plain transfer of n bytes from src to dst: from the granules read the items to write, or the source granule whose seal fails. Congruent
addresses carry every seal and check none; others check every one (R76, R410). -/
def plainItems (dst src n : Nat) (gs : List (Nat × List Byte × Byte)) : Except (Nat × List Byte × Byte) (List (Nat × List Byte × Byte)) :=
  let cong := dst % 8 == src % 8
  match gs.find? fun g => g.2.2 != 0 && !cong with
  | some g => .error g
  | none =>
    .ok (joinItems ((granRange dst n).map fun q =>
      let lo := max dst (8 * q)
      let hi := min (dst + n) (8 * q + 8)
      let err := if cong then ((gs.find? fun g => g.1 == (src + (lo - dst)) / 8).map fun g => g.2.2).getD 0 else 0
      (lo, gBytes gs (src + (lo - dst)) (hi - lo), err)))

/-- Writes made in order until one waits or faults: what is left, and the stop. -/
def engWrites (e : EngBy) (op : Nat) : List (Nat × List Byte) → State → State × List (Nat × List Byte) × WRes
  | [], s => (s, [], .done)
  | (va, bs) :: r, s => match engWrite s e op va bs with
    | (s, .done) => engWrites e op r s
    | (s, x) => (s, (va, bs) :: r, x)

end Sys2Proof.Machine
end

