-- ==== Sys2Proof/Machine/Matrix.lean ====
section
/-! DEFINITION. The matrix engine and majors 0x1C and 0x1D (10: R237 to R260; A96 arithmetic R88 to R94). -/

namespace Sys2Proof.Machine

open Sys2Proof

/- Records (R243, R244, R246). -/

/-- Bytes o to o + n − 1 of a record kept as words. -/
def rf (ws : List Word) (o n : Nat) : Nat :=
  (ws.foldr (fun w acc => w.toNat + acc * 2 ^ 64) 0 >>> (8 * o)) % 2 ^ (8 * n)

/-- A record's bytes as words. -/
def recWords (bs : List Byte) : List Word := (List.range (bs.length / 8)).map fun i => BitVec.ofNat 64 (at_ bs (8 * i) 8)

/-- Format code of a descriptor. -/
def dFmt (ws : List Word) : Nat := rf ws 20 1 % 16

/-- Offset of the lowest field of an operand or output record that MDESC rejects (R243, R244). -/
def mdescBad (bs : List Byte) : Option Nat :=
  let f (o n : Nat) : Nat := at_ bs o n
  let fmt := f 20 1 % 16
  let al := if fmt == 0 then 2 else if 1 ≤ fmt && fmt ≤ 3 then 128 else if fmt == 8 || fmt == 9 then 4 else if fmt == 10 then 16 else 1
  let checks : List (Bool × Nat) :=
    [(f 0 8 ≥ 2 ^ 57 || f 0 8 % al != 0, 0), (f 8 4 % al != 0, 8), (f 12 4 == 0, 12), (f 16 4 == 0, 16),
     (fmt > 10 || f 20 1 / 32 != 0 || (bitOf (f 20 1) 4 && !(fmt == 0 || (5 ≤ fmt && fmt ≤ 7))), 20),
     (f 21 1 > 1, 21), (f 22 1 / 8 != 0 || (fmt != 4 && f 22 1 != 0), 22), (f 23 1 != 0, 23),
     (f 21 1 == 0 && f 24 4 != 0, 24), (f 21 1 == 0 && f 28 4 != 0, 28), (f 21 1 == 0 && f 32 8 != 0, 32), (!zeros bs 40 24, 40)]
  (checks.find? fun c => c.1).map fun c => c.2

/-- Offset of the lowest field of a shape record that MSHAPE rejects (R246). -/
def mshapeBad (bs : List Byte) : Option Nat :=
  let f (o n : Nat) : Nat := at_ bs o n
  let fmt := f 20 1 % 16
  let in_ (o lo hi : Nat) : Bool := lo ≤ f o 1 && f o 1 ≤ hi
  let checks : List (Bool × Nat) :=
    [(f 0 8 ≥ 2 ^ 57 || (1 ≤ fmt && fmt ≤ 3 && f 0 8 % 128 != 0), 0), (f 8 4 == 0, 8), (f 12 4 == 0, 12),
     (f 16 4 == 0 || (1 ≤ fmt && fmt ≤ 4 && f 16 4 % 24 != 0), 16), (fmt ≥ 8 || f 20 1 / 16 != 0, 20), (f 21 1 != 2, 21),
     (((fmt == 3 || fmt == 5) && f 22 2 ≥ 256) || (fmt == 4 && f 22 2 ≥ 16), 22),
     (!in_ 24 1 32, 24), (!in_ 25 1 32, 25), (!in_ 26 1 16, 26), (!in_ 27 1 16, 27), (!in_ 28 1 16, 28), (!in_ 29 1 16, 29),
     (f 32 4 == 0, 32), (f 36 4 == 0, 36), (f 40 1 / 8 != 0, 40), (!zeros bs 41 23, 41)]
  (checks.find? fun c => c.1).map fun c => c.2

/-- K-step of an operand pair by format codes (R245). -/
def kStep (a b : Nat) : Option Nat :=
  let f8 (x : Nat) : Bool := x == 1 || x == 2 || x == 6 || x == 7
  let i8 (x : Nat) : Bool := x == 3 || x == 5
  if a == 0 && b == 0 then some 48
  else if f8 a && f8 b then some 96
  else if i8 a && i8 b then some 96
  else if a == 4 && b == 4 then some 192
  else if (a == 4 && b == 0) || (a == 0 && b == 4) then some 48
  else none

/- Operand elements (R244, R246, R253, R254). -/

/-- Where an element comes from: a padding value, or a byte (with a nibble number for CB4) and its block's scale byte. -/
inductive Src
  | lit (x : Nat)
  | at (va nib : Nat) (sc : Option Nat)
  deriving DecidableEq, Repr, Inhabited

/-- Element (o, k) of a matrix with a base, stride, format and transposition (R244). -/
def srcAt (base stride fmt : Nat) (tr : Bool) (o k : Nat) : Src :=
  let size := if fmt == 0 then 2 else 1
  if 1 ≤ fmt && fmt ≤ 3 then
    let line := base + o * stride + 128 * (k / 120)
    .at (line + k % 120) 0 (some (line + 120 + k % 120 / 24))
  else if fmt == 4 then .at (base + o * stride + k / 2) (k % 2) none
  else if tr then .at (base + k * stride + o * size) 0 none
  else .at (base + o * stride + k * size) 0 none

/-- Element (o, k) of a descriptor, none beyond its extents (R253). -/
def descSrc (d : List Word) (o k : Nat) : Option Src :=
  if rf d 12 4 ≤ o || rf d 16 4 ≤ k then none
  else some (srcAt (rf d 0 8) (rf d 8 4) (dFmt d) (bitOf (rf d 20 1) 4) o k)

/-- conv_a of R254: the A element of output pixel q and index k. -/
def convSrc (d : List Word) (q k : Nat) : Option Src :=
  let ow_ := rf d 36 4
  let c_ := rf d 16 4
  let kh := k / (rf d 25 1 * c_)
  if q ≥ rf d 32 4 * ow_ || kh ≥ rf d 24 1 then none
  else
    let c := k % c_
    let kw := k / c_ % rf d 25 1
    let h : Int := (q / ow_ * rf d 26 1 : Nat) - (rf d 30 1 : Nat) + (kh * rf d 28 1 : Nat)
    let w : Int := (q % ow_ * rf d 27 1 : Nat) - (rf d 31 1 : Nat) + (kw * rf d 29 1 : Nat)
    if 0 ≤ h && h < (rf d 8 4 : Nat) && 0 ≤ w && w < (rf d 12 4 : Nat) then
      some (srcAt (rf d 0 8) 0 (dFmt d) false 0 ((h.toNat * rf d 12 4 + w.toNat) * c_ + c))
    else some (.lit (rf d 22 2))

/-- Granules an element lies in. -/
def Src.grans (fmt : Nat) : Src → List Nat
  | .lit _ => []
  | .at va _ sc => (if fmt == 0 && va % 8 == 7 then [va / 8, va / 8 + 1] else [va / 8]) ++ (match sc with
    | some a => [a / 8]
    | none => [])

/-- An element decoded exactly, with its block's scale exponent (R83, R84, R86, R244, R253). -/
def decodeEl (cb : List (BitVec 16)) (fmt : Nat) (byte : Nat → Byte) (x : Src) : FVal × Int :=
  let dec (v : Nat) : FVal :=
    if fmt == 0 then ffB.val v
    else if fmt == 1 || fmt == 6 then ffE4.val v
    else if fmt == 2 || fmt == 7 then ffE5.val v
    else if fmt == 4 then ffB.val (cb.getD v 0).toNat
    else .fin (sgn 8 v < 0) (sgn 8 v).natAbs 0
  match x with
  | .lit v => (if fmt == 3 || fmt == 4 || fmt == 5 then dec v else ffB.val v, 0)
  | .at va nib sc =>
    let v : Nat := if fmt == 0 then (byte va).toNat + 256 * (byte (va + 1)).toNat
      else if fmt == 4 then ((byte va).toNat >>> (4 * nib)) % 16 else (byte va).toNat
    match sc with
    | none => (dec v, 0)
    | some a => if byte a == 0xFF then (.nan false, 0) else (dec v, ((byte a).toNat : Int) - 127)

/- A96 elements (R88 to R94). -/

/-- Bounds of a 96-bit element. -/
def i96max : Int := 2 ^ 95 - 1
def i96min : Int := -(2 ^ 95)

/-- Saturation to 96 bits. -/
def sat96 (x : Int) : Int × Bool := if x > i96max then (i96max, true) else if x < i96min then (i96min, true) else (x, false)

/-- sign(m) · floor(|m · 2^e| / 2^a). -/
def truncAt (neg : Bool) (m : Nat) (e a : Int) : Int :=
  let q : Nat := if e ≥ a then m <<< (e - a).toNat else m >>> (a - e).toNat
  if neg then -(q : Int) else q

/-- Special states combined: element state with a contribution 0 finite, 1 +inf, 2 −inf, 3 NaN (R91). -/
def spJoin (a b : Nat) : Nat := if a == 0 then b else if b == 0 || a == b then a else 3

/-- A product's contribution: t of R89, and its special state. -/
def productOf (anchor : Int) (a b : FVal × Int) : Int × Nat :=
  match (a.1.mul b.1).1 with
  | .nan _ => (0, 3)
  | .inf n => (0, if n then 2 else 1)
  | .fin n m e => (truncAt n m (e + a.2 + b.2) anchor, 0)

/-- What an element has been given in a pass: the sums of its positive and of its negative contributions, its special state, and the
contributions other than zero, last first. -/
structure Accum where
  pos : Int
  neg : Int
  sp  : Nat
  ts  : List Int
  deriving DecidableEq, Repr, Inhabited

def Accum.add (x : Accum) (c : Int × Nat) : Accum :=
  { pos := if c.1 > 0 then x.pos + c.1 else x.pos, neg := if c.1 < 0 then x.neg + c.1 else x.neg, sp := spJoin x.sp c.2
    ts := if c.1 == 0 then x.ts else c.1 :: x.ts }

/-- Contributions added in a given order: one whose mark is set is joined exactly with the next, every other makes one saturating step of
R89 (R90). The answer: I and AOV. -/
def accumSteps : List (Bool × Int) → Int → Int → Bool → Int × Bool
  | [], part, i, o => let r := sat96 (i + part); (r.1, o || r.2)
  | (join, t) :: l, part, i, o =>
    if join && !l.isEmpty then accumSteps l (part + t) i o
    else let r := sat96 (i + (part + t)); accumSteps l 0 r.1 (o || r.2)

/-- The element after its contributions: the exact sum where no order of additions can saturate, otherwise what a free order and grouping
of them gives (R90; log 10). -/
def accumEnd (free pos : Nat) (i : Int) (x : Accum) : Int × Bool :=
  if i + x.pos ≤ i96max && i96min ≤ i + x.neg then (i + x.pos + x.neg, false)
  else
    let keyed := x.ts.zipIdx.map fun t => (Config.freeOrder free pos t.2, t.1)
    accumSteps ((sortBy (fun a b => a.1.toNat ≤ b.1.toNat) keyed).map fun k => (k.1.getLsbD 0, k.2)) 0 i false

/-- Element of a tile. -/
def Tile.at_ (t : Tile) (pos : Nat) : Int × Nat := ((t.elems.find? fun e => e.1 == pos).map fun e => (e.2.1, e.2.2)).getD (0, 0)

/-- A tile with the given elements, zeros left out. -/
def Tile.setAll (t : Tile) (es : List (Nat × Int × Nat)) : Tile := { t with elems := es.filter fun e => e.2 != (0, 0) }

/-- A tile at dispatch (R248). -/
def tileInit : Tile := { elems := [], anchor := 0, aov := false, dof := false, dsat := false, mism := false, prog := 0 }

/-- MZERO (R251). -/
def Tile.zero (t : Tile) : Tile := { t with elems := [], aov := false, dof := false, dsat := false, mism := false, prog := 0 }

/-- MANCHOR (R252, R92). -/
def Tile.reanchor (t : Tile) (a : Int) : Tile :=
  let step (e : Nat × Int × Nat) : (Nat × Int × Nat) × Bool :=
    if e.2.2 != 0 then (e, false)
    else if a ≥ t.anchor then ((e.1, (if e.2.1 < 0 then -1 else 1) * ((e.2.1.natAbs >>> (a - t.anchor).toNat : Nat) : Int), 0), false)
    else
      let r := sat96 (e.2.1 * 2 ^ (t.anchor - a).toNat)
      ((e.1, r.1, 0), r.2)
  let es := t.elems.map step
  { t.setAll (es.map fun e => e.1) with anchor := a, aov := t.aov || es.any fun e => e.2 }

/-- One pass (R253): rows and columns decoded, every element accumulated. -/
def Tile.pass (t : Tile) (free : Nat) (rows cols : List (List (FVal × Int))) : Tile :=
  let es := (List.range 4096).map fun pos =>
    let (i, sp) := t.at_ pos
    let acc := ((rows.getD (pos / 64) []).zip (cols.getD (pos % 64) [])).foldl
      (fun (x : Accum) (p : (FVal × Int) × (FVal × Int)) => x.add (productOf t.anchor p.1 p.2)) ({ pos := 0, neg := 0, sp := sp, ts := [] } : Accum)
    let (i', o) := accumEnd free pos i acc
    ((pos, i', acc.sp), o)
  { t.setAll (es.map fun e => e.1) with aov := t.aov || es.any fun e => e.2 }

/- Drains (R94, R98, R255). -/

/-- A value I · 2^A into a floating-point format by rz or rs, with overflow clamped to the largest finite value: the code and DOF. -/
def drainFp (f : FFmt) (r : Rnd) (i a : Int) : Nat × Bool :=
  let (c, _) := f.grid r i.natAbs a false
  if i == 0 then (0, false) else if f.maxFin < c then (f.signed (i < 0) f.maxFin, true) else (f.signed (i < 0) c, false)

/-- A value I · 2^A as INT32: the code and DSAT. -/
def drainInt (r : Rnd) (i a : Int) : Nat × Bool :=
  let q : Nat := if a ≥ 0 then i.natAbs <<< a.toNat else (roundShift r i.natAbs (-a).toNat false).1
  let x : Int := if i < 0 then -(q : Int) else q
  let (y, o) := satS 32 x
  (wrap 32 y, o)

/-- Drain code of a special state per output format (R94). -/
def drainSp (fmt sp : Nat) : Nat :=
  match fmt with
  | 8 => if sp == 1 then 0x7F800000 else if sp == 2 then 0xFF800000 else 0x7FC00000
  | 0 => if sp == 1 then 0x7F80 else if sp == 2 then 0xFF80 else 0x7FC0
  | 6 => if sp == 1 then 0x7E else if sp == 2 then 0xFE else 0x7F
  | 7 => if sp == 1 then 0x7C else if sp == 2 then 0xFC else 0x7E
  | _ => if sp == 1 then 0x7FFFFFFF else if sp == 2 then 0x80000000 else 0

/-- Bytes of an output element (R244). -/
def outSize (fmt : Nat) : Nat := if fmt == 8 || fmt == 9 then 4 else if fmt == 10 then 16 else if fmt == 0 then 2 else 1

/-- An element drained: its code, DOF and DSAT (R93, R94). -/
def drainEl (fmt : Nat) (r : Rnd) (anchor : Int) (e : Int × Nat) : Nat × Bool × Bool :=
  if fmt == 10 then (wrap 96 e.1 + wrap 16 anchor <<< 96 + e.2 <<< 112, false, false)
  else if e.2 != 0 then (drainSp fmt e.2, false, false)
  else if fmt == 9 then ((drainInt r e.1 anchor).1, false, (drainInt r e.1 anchor).2)
  else
    let f := if fmt == 8 then ffS else if fmt == 0 then ffB else if fmt == 6 then ffE4 else ffE5
    ((drainFp f r e.1 anchor).1, (drainFp f r e.1 anchor).2, false)

/-- Bytes that follow one another written as one run. -/
def joinRuns : List (Nat × List Byte) → List (Nat × List Byte)
  | [] => []
  | (va, bs) :: r => match joinRuns r with
    | [] => [(va, bs)]
    | (va', bs') :: r' => if va' == va + bs.length then (va, bs ++ bs') :: r' else (va, bs) :: (va', bs') :: r'

/-- MDRAIN of a tile (R255): the runs written, line by line, and DOF and DSAT. -/
def drainTile (t : Tile) (d : List Word) (rs : Bool) (x y : Nat) : List (Nat × List Byte) × Bool × Bool :=
  let fmt := dFmt d
  let row0 := rf d 24 4 + x
  let col0 := rf d 28 4 + y
  let es := (List.range 4096).filterMap fun pos =>
    let r := row0 + pos / 64
    let c := col0 + pos % 64
    if rf d 12 4 ≤ r || rf d 16 4 ≤ c then none
    else
      let w := (m64 (BitVec.ofNat 64 (rf d 32 8) ^^^ BitVec.ofNat 64 r)).toNat % 2 ^ 32
      let v := drainEl fmt (if rs then .st w (pos % 64) else .tz) t.anchor (t.at_ pos)
      some ((rf d 0 8 + r * rf d 8 4 + c * outSize fmt, leBytes v.1 (outSize fmt)), v.2)
  ((joinRuns (es.map fun e => e.1)).flatMap (fun x => lineChunks x.1 (x.2.length + 1) x.2), es.any fun e => e.2.1, es.any fun e => e.2.2)

/- The reservation table (R238 to R240). -/

def State.setTable (s : State) (core : Nat) (es : List MEntry) : State := { s with clusters := tset s.clusters (core / 4) es }

/-- An entry changed. -/
def updEntry (s : State) (e : MEntry) (f : MEntry → MEntry) : State :=
  s.setTable e.core (replaceFirst (fun x => x.id == e.id) f (s.table e.core))

/-- Entries outstanding anywhere in the package, those of halted blocks included. -/
def State.entries (s : State) : List MEntry := (s.clusters.flatMap fun c => c.2) ++ s.aside
def entryLive (s : State) (id : Nat) : Bool := s.entries.any fun e => e.id == id

/-- MWAITs whose entries have all completed are done (R257). -/
def mwaitsAgain (s : State) : State :=
  s.pend.foldl (fun s p => match p.kind with
    | .mwait ids => if ids.any fun i => entryLive s i then s else complete s p [] 0
    | _ => s) s

/-- The block is resident and runs. -/
def blockRuns (s : State) (grid bidx : Nat) : Bool := ((s.block? grid bidx).map fun b => b.place == 0).getD false

/-- Entries of blocks that run again enter the table of their block's cluster, in order and with a new age, as far as there is room (R254,
R305). -/
def reenter (s : State) : State :=
  s.aside.foldl (fun s e => match s.block? e.grid e.bidx with
    | none => { s with aside := s.aside.filter fun x => x.id != e.id }
    | some b =>
      if b.place == 0 && (s.table b.core).length < 32 then
        let e' : MEntry := { e with core := b.core, by_ := { e.by_ with core := b.core }, born := s.now, since := none, starving := false }
        { s.setTable b.core (s.table b.core ++ [e']) with aside := s.aside.filter fun x => x.id != e.id }
      else s) s

/-- An entry's operation completes: its token falls, with the registers it writes; the entry is freed (R237, R238). -/
def entryDone (s : State) (e : MEntry) (dests : Nat → List (Reg × Word)) : State :=
  reenter (mwaitsAgain (engDone (s.setTable e.core ((s.table e.core).filter fun x => x.id != e.id)) e.id dests))

/-- The tile of an entry. -/
def tileOf (s : State) (e : MEntry) : Tile := ((s.block? e.grid e.bidx).map fun b => b.tiles.getD e.tile tileInit).getD tileInit

def setTile (s : State) (e : MEntry) (t : Tile) : State :=
  s.updBlock e.grid e.bidx fun b => { b with tiles := b.tiles.set e.tile t }

/-- Every earlier entry on the tile has completed all its grants (R239). -/
def tileFirst (es : List MEntry) (e : MEntry) : Bool :=
  (es.takeWhile fun x => x.id != e.id).all fun x =>
    !(x.grid == e.grid && x.bidx == e.bidx && x.tile == e.tile)
      || (x.phase % 10 == 2 && (match x.kind with
        | .mdrain _ _ => true
        | _ => false))

/-- Descriptor extents of A: rows and inner length. -/
def aDim (e : MEntry) : Nat × Nat :=
  if e.kind = .mconv then (rf e.da 32 4 * rf e.da 36 4, rf e.da 24 1 * rf e.da 25 1 * rf e.da 16 4)
  else (rf e.da 12 4, rf e.da 16 4)

/-- The K-step of an entry. -/
def entryK (e : MEntry) : Nat := (kStep (dFmt e.da) (dFmt e.db)).getD 48

/-- Where the entry's next pass starts: row, column, k (R253, R254, R259). -/
def passAt (e : MEntry) : Nat × Nat × Nat :=
  match e.kind with
  | .mwalk _ c =>
    let cw := ((min (aDim e).2 (rf e.db 16 4) + entryK e - 1) / entryK e + c - 1) / c
    let cv := (rf e.db 12 4 + 63) / 64
    (64 * (e.chunk / (cw * cv)), 64 * (e.chunk / cw % cv), (e.chunk % cw * c + e.prog) * entryK e)
  | _ => (e.x, e.y, e.z + e.prog * entryK e)

/-- Sources of the pass's A rows and B columns: the 64 of each, every k in range; none at all where no row, or no column, is in range: skipped
elements generate no address (R253). -/
def passSrcs (e : MEntry) : List (List Src) × List (List Src) :=
  let (r0, c0, k0) := passAt e
  let kEnd := min (k0 + entryK e) (min (aDim e).2 (rf e.db 16 4))
  let ks := (List.range (kEnd - k0)).map fun i => k0 + i
  let aSrc := if e.kind = .mconv then convSrc e.da else descSrc e.da
  let rows := (List.range 64).map fun i => ks.filterMap fun k => aSrc (r0 + i) k
  let cols := (List.range 64).map fun j => ks.filterMap fun k => descSrc e.db (c0 + j) k
  if rows.all List.isEmpty || cols.all List.isEmpty then (List.replicate 64 [], List.replicate 64 []) else (rows, cols)

/-- The granules of some sources, each once, in the order of first use. -/
def gransOf (fmt : Nat) (ls : List (List Src)) : List Nat :=
  ls.foldl (fun acc l => l.foldl (fun acc x => (x.grans fmt).foldl (fun acc q => markSet acc q true) acc) acc) []

/-- A granule written since the operation entered the table gives undefined operand values: free ones (R118; log 10). -/
def operandByte (s : State) (e : MEntry) (gs : List (Nat × List Byte × Byte)) (va : Nat) : Byte :=
  let key := match (engLoc s e.by_ va false).2 with
    | .mem pa _ => pa / 8
    | .scratch off => scratchGran e.grid e.bidx off
    | _ => 2 ^ 200
  if s.opWrites.any fun w => w.1 == key && e.id < w.2 then
    BitVec.ofNat 8 ((Config.freeWord (s.free + 2 ^ 14 + va / 8)).toNat >>> (8 * (va % 8)))
  else gByte gs va

/-- The codebook an operand decodes through (R253). -/
def entryCb (s : State) (e : MEntry) (slot : Nat) : List (BitVec 16) := (s.die (dieOf e.core)).codebooks.getD slot []

/-- Free values used up by one pass. -/
def State.spend (s : State) : State := { s with free := s.free + 2 ^ 14 + 2 ^ 58 }

/-- What an entry's next grant reads: the granules of its operands, a wait, or a fault (R239, R241). -/
def entryReads (s : State) (e : MEntry) : State × RRes :=
  match e.kind with
  | .mma | .mconv | .mwalk _ _ =>
    let (as, bs) := passSrcs e
    engGrans e.by_ e.id true (gransOf (dFmt e.da) as ++ gransOf (dFmt e.db) bs) s
  | _ => (s, .ok [])

/-- The tile after one pass over the granules read. -/
def passTile (s : State) (e : MEntry) (gs : List (Nat × List Byte × Byte)) (t : Tile) : Tile :=
  let (as, bs) := passSrcs e
  let rows := as.map fun l => l.map (decodeEl (entryCb s e (if e.kind = .mconv then rf e.da 40 1 else rf e.da 22 1)) (dFmt e.da) (operandByte s e gs))
  let cols := bs.map fun l => l.map (decodeEl (entryCb s e (rf e.db 22 1)) (dFmt e.db) (operandByte s e gs))
  t.pass s.free rows cols

/-- Class of an entry's grid. -/
def entryClass (s : State) (e : MEntry) : Nat := s.classOf e.grid

/-- The entry is starving: eligible for 256 cycles without a grant (R239). -/
def MEntry.starves (e : MEntry) (now : Nat) : Bool := e.starving || (e.since.map fun t => decide (t + 256 ≤ now)).getD false

/-- Earlier at a grant point: starving first; else lower class; then the greater age, then the lower core position (R239, R303). -/
def grantBefore (s : State) (a b : MEntry) : Bool :=
  let age (f : Bool) : Bool := a.born < b.born || (a.born == b.born && if a.core % 4 == b.core % 4 then f else decide (a.core % 4 < b.core % 4))
  if a.starves s.now != b.starves s.now then a.starves s.now
  else if a.starves s.now then age true
  else if entryClass s a != entryClass s b then entryClass s a < entryClass s b
  else age true

/-- The tile as a grant to an entry leaves it, from what it read. -/
def grantTile (s : State) (e : MEntry) (gs : List (Nat × List Byte × Byte)) : Tile :=
  let t := tileOf s e
  match e.kind with
  | .mzero => t.zero
  | .manchor a => t.reanchor a
  | .mma | .mconv => passTile s e gs t
  | .mwalk _ _ => passTile s e gs (if e.prog == 0 then { t with elems := [] } else t)
  | .mdrain rs z =>
    let (_, dof, dsat) := drainTile t e.dO rs e.x e.y
    let t' := { t with dof := t.dof || dof, dsat := t.dsat || dsat }
    if z then { t' with elems := [], aov := false, mism := false, prog := 0 } else t'
  | .mrow i32 =>
    let vs := (List.range 64).map fun c => drainEl (if i32 then 9 else 8) .tz t.anchor (t.at_ (64 * (e.y % 64) + c))
    { t with dof := t.dof || vs.any (fun v => v.2.1), dsat := t.dsat || vs.any fun v => v.2.2 }
  | .mstat clr => if clr then { t with dof := false, dsat := false, mism := false } else t

/-- What PROG shows of an operation that stops: passes completed, or finished chunks of a walk (R249, R254, R259). -/
def MEntry.progress (e : MEntry) : Nat := match e.kind with
  | .mwalk _ _ => e.chunks.length
  | _ => e.prog

/-- PROG of an entry's tile. -/
def setProg (s : State) (e : MEntry) (n : Nat) : State := setTile s e { tileOf s e with prog := n }

/-- An entry that faults parks on its token, a walk at the boundary of the chunk whose passes it was making; or it completes with status FAULT
(R254, R259, R403). -/
def entryFaulted (s : State) (e : MEntry) (code va : Nat) (detail : Word) : State :=
  match engFault s e.by_ code va detail with
  | (s, some tok) =>
    let back : Nat := match e.kind with
      | .mwalk _ _ => 0
      | _ => e.prog
    setProg (updEntry s e fun x => { x with phase := 10 + x.phase, token := tok, prog := back, since := none }) e e.progress
  | (s, none) => entryDone (setProg s e 0) e fun _ => []

/-- Eligibility of a table's entries: since when each has been first on its tile with its operands there; faults of the operand reads are
taken (R239, R254). -/
def lookTable : List MEntry → State → State
  | [], s => s
  | e :: r, s =>
    if e.phase != 0 then lookTable r s
    else if !tileFirst (s.table e.core) e then lookTable r (updEntry s e fun x => { x with since := none })
    else match entryReads s e with
      | (s, .wait) => lookTable r (updEntry s e fun x => { x with since := none })
      | (s, .bad c a d) => lookTable r (entryFaulted s e c a d)
      | (s, .ok _) => lookTable r (updEntry s e fun x => { x with since := some (x.since.getD s.now) })

/-- The first of some eligible entries. -/
def firstGrant (s : State) : List MEntry → Option MEntry
  | [] => none
  | x :: r => match firstGrant s r with
    | none => some x
    | some y => if grantBefore s x y then some x else some y

/-- A walk or product without a pass, first on its tile, completes without a grant (R254). -/
def emptyEntry (e : MEntry) : Bool := e.passes == 0 && e.phase == 0 && (match e.kind with
  | .mma | .mconv => true
  | _ => false)

/-- Entries without a pass complete as they come first on their tiles. -/
def emptyDone (s : State) (cluster : Nat) : State :=
  (tget [] s.clusters cluster).foldl (fun s e =>
    if emptyEntry e && tileFirst (tget [] s.clusters cluster) e then entryDone (setProg s e 0) e fun _ => [] else s) s

/-- MATRIX_GRANT: at a grant point the engine of a cluster chooses one eligible entry (R239); while a grant runs, the operands of the others are
fetched. -/
def execMatrixGrant (cluster : Nat) (s : State) : Host.Outcome State Fault Refusal :=
  .next (
    let s := emptyDone s cluster
    let s := lookTable (tget [] s.clusters cluster) s
    let es := tget [] s.clusters cluster
    if es.any fun e => e.phase == 1 then s
    else match firstGrant s (es.filter fun e => e.phase == 0 && e.since.isSome) with
      | none => s
      | some e => match entryReads s e with
        | (s, .ok gs) =>
          let t := grantTile s e gs
          (updEntry (setProg s e 0) e fun x => { x with phase := 1, next := some t, since := none, starving := false, born := s.now }).spend
        | (s, _) => s)

/-- MATRIX_ENTRY_STARVING: an entry eligible for 256 cycles without a grant (R239). -/
def execMatrixEntryStarving (cluster id : Nat) (s : State) : Host.Outcome State Fault Refusal :=
  .next { s with
    clusters := tset s.clusters cluster ((tget [] s.clusters cluster).map fun e =>
      if e.id == id && e.phase == 0 then { e with starving := e.starves s.now } else e) }

/-- The status word of R249. -/
def mstatWord (s : State) (e : MEntry) (t : Tile) : Word :=
  let later := ((s.table e.core).dropWhile fun x => x.id != e.id).drop 1
  let n := (later.filter fun x => x.grid == e.grid && x.bidx == e.bidx && x.tile == e.tile).length
  BitVec.ofNat 64 (wrap 16 t.anchor <<< 48 + (t.prog % 2 ^ 14) <<< 32 + min 31 n <<< 24
    + b2n t.mism <<< 3 + b2n t.dsat <<< 2 + b2n t.dof <<< 1 + b2n t.aov)

/-- What MROW gives a lane (R256). -/
def mrowWord (t : Tile) (i32 : Bool) (row lane : Nat) : Word :=
  let v (c : Nat) : Nat := (drainEl (if i32 then 9 else 8) .tz t.anchor (t.at_ (64 * (row % 64) + c))).1
  BitVec.ofNat 64 (v (2 * lane) + v (2 * lane + 1) <<< 32)

/-- Chunks of a walk (R259). -/
def walkChunks (da db : List Word) (c k : Nat) : Nat :=
  ((rf da 12 4 + 63) / 64) * ((rf db 12 4 + 63) / 64) * (((min (rf da 16 4) (rf db 16 4) + k - 1) / k + c - 1) / c)

/-- Passes of a walk's chunk (R259). -/
def chunkPasses (e : MEntry) (c : Nat) : Nat :=
  let p := (min (aDim e).2 (rf e.db 16 4) + entryK e - 1) / entryK e
  let w := e.chunk % ((p + c - 1) / c)
  min ((w + 1) * c) p - w * c

/-- The entry stays where it is while its block is halted: granted, or a walk inside a chunk (R255, R305). -/
def MEntry.stays (e : MEntry) : Bool := match e.kind with
  | .mwalk _ _ => e.phase == 1 || e.phase == 2 || (e.phase == 0 && e.prog != 0)
  | .mdrain _ _ => e.phase % 10 != 0
  | _ => e.phase == 1

/-- Entries of a block that does not run leave its table, as far as they can (R305 step 4). -/
def leaveTable (s : State) (grid bidx : Nat) : State :=
  match s.block? grid bidx with
  | none => s
  | some b =>
    let out := (s.table b.core).filter fun e => e.grid == grid && e.bidx == bidx && !e.stays
    if b.place == 0 || out.isEmpty then s
    else
      let s := out.foldl (fun s e => setProg s e e.progress) s
      { s.setTable b.core ((s.table b.core).filter fun e => !(out.any fun x => x.id == e.id)) with
          aside := sortBy (fun x y => x.id ≤ y.id) (s.aside ++ out) }

/-- An entry after its grant (R240, R254 to R256, R259). -/
def afterGrant (s : State) (e : MEntry) (t : Tile) : State :=
  let old := tileOf s e
  let t := { t with prog := 0 }
  match e.kind with
  | .mzero | .manchor _ => entryDone (setTile s e t) e fun _ => []
  | .mma | .mconv =>
    if e.prog + 1 ≥ e.passes then entryDone (setTile s e t) e fun _ => []
    else updEntry (setTile s e t) e fun x => { x with phase := 0, prog := e.prog + 1, next := none }
  | .mwalk _ c =>
    let s := setTile s e t
    if e.prog + 1 ≥ chunkPasses e c then updEntry s e fun x => { x with phase := 2, prog := 0, next := none, part := 0 }
    else updEntry s e fun x => { x with phase := 0, prog := e.prog + 1, next := none }
  | .mdrain rs _ =>
    updEntry (setTile s e t) e fun x => { x with phase := 2, next := none, out := (drainTile old e.dO rs e.x e.y).1 }
  | .mrow i32 =>
    entryDone (setTile s e t) e fun tid => match e.who.find? fun w => w.1 == tid with
      | some w => [(e.dreg, mrowWord old i32 e.y w.2)]
      | none => []
  | .mstat _ => entryDone (setTile s e t) e fun _ => [(e.dreg, mstatWord s e old)]

/-- MATRIX_GRANT_COMPLETE: the running grant ends (R240). -/
def execMatrixGrantComplete (cluster : Nat) (s : State) : Host.Outcome State Fault Refusal :=
  .next (match (tget [] s.clusters cluster).find? fun e => e.phase == 1 with
    | none => s
    | some e => match e.next with
      | none => s
      | some t => leaveTable (afterGrant s e t) e.grid e.bidx)

/-- DRAIN_WRITES_COMPLETE: a granted drain's writes are performed; it completes once none is outstanding (R117, R255). -/
def execDrainWritesComplete (cluster id : Nat) (s : State) : Host.Outcome State Fault Refusal :=
  .next (match (tget [] s.clusters cluster).find? fun e => e.id == id && e.phase == 2 with
    | none => s
    | some e => match e.kind with
      | .mdrain _ _ => match engWrites e.by_ e.id e.out s with
        | (s, rest, .bad c a d) => entryFaulted (updEntry s e fun x => { x with out := rest }) { e with out := rest } c a d
        | (s, rest, .wait) => updEntry s e fun x => { x with out := rest }
        | (s, _, .done) => if engOut s e.id then updEntry s e fun x => { x with out := [] } else entryDone s e fun _ => []
      | _ => s)

/- Walks (R259). -/

/-- The elements of the running chunk that lie in the product: address, element. -/
def walkElems (e : MEntry) (t : Tile) : List (Nat × Int × Nat) :=
  let (r0, c0, _) := passAt { e with prog := 0 }
  (List.range 4096).filterMap fun pos =>
    let r := r0 + pos / 64
    let c := c0 + pos % 64
    if rf e.da 12 4 ≤ r || rf e.db 12 4 ≤ c then none
    else some (rf e.dO 0 8 + r * rf e.dO 8 4 + c * outSize (dFmt e.dO), t.at_ pos)

/-- One combine on the bytes a home slice holds: the new bytes, and MISM, AOV, DOF, DSAT (R92, R259). -/
def combineAt (o : WalkOp) (anchor : Int) (el : Int × Nat) (m : List Byte) : List Byte × Bool × Bool × Bool × Bool :=
  let old := leNat m
  match o with
  | .a96 =>
    if sgn 16 (old / 2 ^ 96 % 2 ^ 16) != anchor then (m, true, false, false, false)
    else
      let r := sat96 (sgn 96 (old % 2 ^ 96) + el.1)
      (leBytes (wrap 96 r.1 + wrap 16 anchor <<< 96 + spJoin (old / 2 ^ 112 % 4) el.2 <<< 112) 16, false, r.2, false, false)
  | .i32 =>
    let v := drainEl 9 .tz anchor el
    (leBytes ((old + v.1) % 2 ^ 32) 4, false, false, false, v.2.2)
  | .max | .min =>
    let v := drainEl 8 .tz anchor el
    let better := if o = .max then key32 old < key32 v.1 else key32 v.1 < key32 old
    let x := if better then v.1 else old
    (leBytes (if (ffS.val x).isNan then ffS.nanC else x) 4, false, false, v.2.1, false)

/-- A combine at this package: its place's old bytes with their seals checked, and the bytes written back (R76, R259). -/
def combineHere (o : WalkOp) (anchor : Int) (el : Int × Nat) (va n : Nat) (m : Memory) (a : Nat) (put : List Byte → State)
    (s : State) : State × Except WRes (Bool × Bool × Bool × Bool) :=
  match m.badAt a n with
  | some q => (s, .error (.bad 0x0503 (va / 8 * 8 + 8 * (q - a / 8)) (sealDetail (m.read (8 * q) 8) (8 * q) 0x0503 (m.err q))))
  | none =>
    let x := combineAt o anchor el (m.read a n)
    (put x.1, .ok x.2)

/-- One combine of an element into memory (R259): its MISM, AOV, DOF and DSAT, or a wait or fault. One at another package goes as an ATOM
packet with an operation number of its own (log 15). -/
def combineOne (e : MEntry) (o : WalkOp) (anchor : Int) (va : Nat) (el : Int × Nat) (s : State) :
    State × Except WRes (Bool × Bool × Bool × Bool) :=
  let n := if o = .a96 then 16 else 4
  let (s, l) := engLoc s e.by_ va true
  match l with
  | .bad c => (s, .error (.bad c va (engDetail e.by_)))
  | .held => (s, .error .wait)
  | .mem pa _ =>
    if writeHeld s e.by_.job va then (s, .error .wait)
    else combineHere o anchor el va n s.mem pa (fun bs => memPut (noteDsm s e.by_.job va) pa bs) s
  | .scratch off => combineHere o anchor el va n (((s.block? e.grid e.bidx).map fun b => b.scratch).getD Memory.empty) off
      (fun bs => scratchPut s e.grid e.bidx off bs true) s
  | .ws _ => (s, .error (.bad 0x0405 va (engDetail e.by_)))
  | .away p =>
    let v := drainEl (if o = .a96 then 10 else if o = .i32 then 9 else 8) .tz anchor el
    let code := match o with
      | .a96 => 32 | .i32 => 33 | .max => 34 | .min => 35
    let (s, pk) := sendPacket s { blankPacket with
      typ := 8, dst := p, n := 1, base := BitVec.ofNat 64 va, job := e.by_.job, user := e.by_.user
      tspec := tspecOf [(0, 1, code), (8, 16, v.1)] }
    let line : WcLine := { peer := p, job := e.by_.job, user := e.by_.user, va := va / 128 * 128, bytes := [],
                           whos := [engWho e.id], born := s.now }
    ({ s with inFlight := s.inFlight ++ [(p, pk.seq, line)] }, .ok (false, false, v.2.1, v.2.2))

/-- The combines of a chunk, in order, until one waits or faults: how many are made, the tile's flags, and the stop. -/
def combineAll (e : MEntry) (o : WalkOp) (anchor : Int) : List (Nat × Int × Nat) → State → Tile → Nat → State × Tile × Nat × WRes
  | [], s, t, k => (s, t, k, .done)
  | (va, el) :: r, s, t, k => match combineOne e o anchor va el s with
    | (s, .error w) => (s, t, k, w)
    | (s, .ok x) =>
      combineAll e o anchor r s
        { t with mism := t.mism || x.1, aov := t.aov || x.2.1, dof := t.dof || x.2.2.1, dsat := t.dsat || x.2.2.2 } (k + 1)

/-- MWALK_COMBINE: the finished chunk is combined into memory and the next one begins; after the last the tile holds zeros and the walk
completes (R259). No element is combined twice. -/
def execMwalkCombine (cluster id : Nat) (s : State) : Host.Outcome State Fault Refusal :=
  .next (match (tget [] s.clusters cluster).find? fun e => e.id == id && e.phase == 2 with
    | none => s
    | some e => match e.kind with
      | .mwalk o c =>
        let t := tileOf s e
        if e.chunks.contains e.chunk then
          -- every chunk is combined: complete when the answers are there
          (if engOut s e.id then s else entryDone (setTile s e { t with elems := [], prog := 0 }) e fun _ => [])
        else
          let (s, t, k, w) := combineAll e o t.anchor ((walkElems e t).drop e.part) s t e.part
          let s := updEntry (setTile s e t) e fun x => { x with part := k }
          match w with
          | .bad code a d => entryFaulted s e code a d
          | .wait => s
          | .done =>
            let done := e.chunks ++ [e.chunk]
            let s := setTile s e { t with elems := [], prog := 0 }
            if done.length ≥ walkChunks e.da e.db c (entryK e) then
              let s := updEntry s e fun x => { x with chunks := done }
              (if engOut s e.id then s
               else entryDone s e fun _ => [])
            else
              leaveTable (updEntry s e fun x => { x with chunks := done, chunk := e.chunk + 1, prog := 0, phase := 0, part := 0 })
                e.grid e.bidx
      | _ => s)

/- Instructions. -/

/-- The record of a slot, empty where the slot is (a handle fault has then been taken), and the VA it was loaded from. -/
def slotRec (b : Block) (d : BitVec 4) : List Word := ((b.descs.getD d.toNat none).getD []).take 8
def slotVaOf (b : Block) (d : BitVec 4) : Nat := (((b.descs.getD d.toNat none).getD []).getD 8 0).toNat

/-- An entry of the group on a tile. -/
def newEntry (s : State) (b : Block) (g : Group) (th : Thread) (kind : MKind) (t : BitVec 3) : MEntry :=
  { id := s.nextId, kind := kind, grid := b.grid, bidx := b.bidx, core := b.core, by_ := { byOf s b th 0 with store := 1 }
    who := (activeLanes b g).map fun m => (m.2.tid, m.1.lane)
    tile := t.toNat, da := [], db := [], dO := [], x := 0, y := 0, z := 0, dreg := 0, passes := 1, prog := 0, chunks := [], chunk := 0
    born := s.now, since := none, starving := false, phase := 0, token := 0, next := none, out := []
    part := 0 }

/-- The entry is made, and its token raised in every active member; with the table full the instruction waits (R237, R238). -/
def postEntry (s : State) (b : Block) (g : Group) (i : Instr) (k : BitVec 3) (l : BitVec 4) (e : MEntry) : State :=
  if !tableRoom s b then waitAccept s b
  else
    let s := { s.setTable b.core (s.table b.core ++ [e]) with nextId := s.nextId + 1 }
    engIssue s b g i k l (.engine e.id)

/-- An instruction that enters the table with nothing to check. -/
def enter (i : Instr) (k : BitVec 3) (l : BitVec 4) (s : State) (f : Block → Group → Thread → MEntry) : Host.Outcome State Fault Refusal :=
  issueWhole i s fun b g th => postEntry s b g i k l (f b g th)

/-- MZERO (R251). -/
def execMzero (t : BitVec 3) (k : BitVec 3) (l : BitVec 4) (s : State) : Host.Outcome State Fault Refusal :=
  enter (.mzero t k l) k l s fun b g th => newEntry s b g th .mzero t

/-- MZERO with its optional extension word (R250, R251). -/
def execMzeroExt (t : BitVec 3) (k : BitVec 3) (l : BitVec 4) (s : State) : Host.Outcome State Fault Refusal :=
  enter (.mzeroExt t k l) k l s fun b g th => newEntry s b g th .mzero t

/-- MANCHOR (R252). -/
def execManchor (reg : Bool) (t : BitVec 3) (x : Reg) (i : BitVec 14) (k : BitVec 3) (l : BitVec 4) (s : State) :
    Host.Outcome State Fault Refusal :=
  enter (.manchor reg t x i k l) k l s fun b g th =>
    newEntry s b g th (.manchor (if reg then ((th.reg x).extractLsb' 0 16).toInt else i.toInt)) t

/-- ENGINE cause of an operand pair and its k0: code, VA, offset (R245, R253, R392). -/
def pairBad (b : Block) (conv : Bool) (da db : BitVec 4) (k0 : Nat) (chk : Bool) : Option (Nat × Nat × Nat) :=
  if rf (slotRec b da) 21 1 != (if conv then 2 else 0) then some (0x0703, slotVaOf b da, 21)
  else if rf (slotRec b db) 21 1 != 0 then some (0x0703, slotVaOf b db, 21)
  else if (kStep (dFmt (slotRec b da)) (dFmt (slotRec b db))).isNone then some (0x0703, slotVaOf b da, 0xFFFF)
  else if chk && k0 % 24 != 0 then some (0x0704, slotVaOf b da, 0xFFFF)
  else none

/-- MMA, MMAK and MCONV: operands captured, passes counted (R247, R253, R254). -/
def multiply (i : Instr) (conv : Bool) (t : BitVec 3) (da db : BitVec 4) (x y z : Reg) (n : Option Nat) (k : BitVec 3) (l : BitVec 4)
    (s : State) : Host.Outcome State Fault Refusal :=
  issueWhole i s fun b g th =>
    match pairBad b conv da db (th.reg z).toNat true with
    | some (c, va, off) => refuse s b g c va off
    | none =>
      let e := { newEntry s b g th (if conv then .mconv else .mma) t with
        da := slotRec b da, db := slotRec b db, x := (th.reg x).toNat, y := (th.reg y).toNat, z := (th.reg z).toNat }
      let all := (min (aDim e).2 (rf e.db 16 4) - e.z + entryK e - 1) / entryK e
      let e := { e with passes := match n with
        | none => 1
        | some 0 => all
        | some n => n }
      postEntry s b g i k l e

/-- MMA: one pass (R253). -/
def execMma (t : BitVec 3) (da db : BitVec 4) (x y z : Reg) (k : BitVec 3) (l : BitVec 4) (s : State) : Host.Outcome State Fault Refusal :=
  multiply (.mma t da db x y z k l) false t da db x y z none k l s

/-- MMAK: n passes, or all that are left (R254). -/
def execMmak (t : BitVec 3) (da db : BitVec 4) (x y z : Reg) (n : BitVec 14) (k : BitVec 3) (l : BitVec 4) (s : State) :
    Host.Outcome State Fault Refusal :=
  multiply (.mmak t da db x y z n k l) false t da db x y z (some n.toNat) k l s

/-- MCONV (R254). -/
def execMconv (t : BitVec 3) (da db : BitVec 4) (x y z : Reg) (n : BitVec 14) (k : BitVec 3) (l : BitVec 4) (s : State) :
    Host.Outcome State Fault Refusal :=
  multiply (.mconv t da db x y z n k l) true t da db x y z (some n.toNat) k l s

/-- Output format code of a walk's combine (R259). -/
def walkFmt : WalkOp → Nat
  | .a96 => 10 | .i32 => 9 | .max => 8 | .min => 8

/-- MWALK (R259). -/
def execMwalk (o : WalkOp) (t : BitVec 3) (da db dO : BitVec 4) (c : BitVec 10) (k : BitVec 3) (l : BitVec 4) (s : State) :
    Host.Outcome State Fault Refusal :=
  issueWhole (.mwalk o t da db dO c k l) s fun b g th =>
    match pairBad b false da db 0 false with
    | some (cc, va, off) => refuse s b g cc va off
    | none =>
      let e := { newEntry s b g th (.mwalk o c.toNat) t with da := slotRec b da, db := slotRec b db, dO := slotRec b dO }
      if rf e.dO 21 1 != 1 then refuse s b g 0x0705 (slotVaOf b dO) 21
      else if dFmt e.dO != walkFmt o then refuse s b g 0x0705 (slotVaOf b dO) 20
      else if walkChunks e.da e.db c.toNat (entryK e) > 4096 || ((s.launchOf b.grid).pfast && c.toNat > 16) then
        refuse s b g 0x0705 (slotVaOf b da) 0xFFFF
      else postEntry s b g (.mwalk o t da db dO c k l) k l { e with passes := chunkPasses e c.toNat }

/-- MDRAIN (R255). -/
def execMdrain (rs z : Bool) (t : BitVec 3) (dO : BitVec 4) (x y : Reg) (k : BitVec 3) (l : BitVec 4) (s : State) :
    Host.Outcome State Fault Refusal :=
  issueWhole (.mdrain rs z t dO x y k l) s fun b g th =>
    let d := slotRec b dO
    if rf d 21 1 != 1 then refuse s b g 0x0706 (slotVaOf b dO) 21
    else if !(dFmt d == 0 || (6 ≤ dFmt d && dFmt d ≤ 10)) then refuse s b g 0x0706 (slotVaOf b dO) 20
    else postEntry s b g (.mdrain rs z t dO x y k l) k l
      { newEntry s b g th (.mdrain rs z) t with dO := d, x := (th.reg x).toNat, y := (th.reg y).toNat }

/-- MROW (R256). -/
def execMrow (i32 : Bool) (t : BitVec 3) (x y : Reg) (k : BitVec 3) (l : BitVec 4) (s : State) : Host.Outcome State Fault Refusal :=
  enter (.mrow i32 t x y k l) k l s fun b g th =>
    { newEntry s b g th (.mrow i32) t with dreg := x, y := ((th.reg y).extractLsb' 0 6).toNat }

/-- MSTAT (R249, R256). -/
def execMstat (clr : Bool) (t : BitVec 3) (x : Reg) (k : BitVec 3) (l : BitVec 4) (s : State) : Host.Outcome State Fault Refusal :=
  enter (.mstat clr t x k l) k l s fun b g th => { newEntry s b g th (.mstat clr) t with dreg := x }

/-- MWAIT (R257). -/
def execMwait (t : BitVec 3) (k : BitVec 3) (l : BitVec 4) (s : State) : Host.Outcome State Fault Refusal :=
  issueWhole (.mwait t k l) s fun b g _ =>
    let ids := (s.entries.filter fun e => e.grid == b.grid && e.bidx == b.bidx && e.tile == t.toNat).map fun e => e.id
    mwaitsAgain (engIssue s b g (.mwait t k l) k l (.mwait ids))

/-- MFENCE: the troop's later matrix instructions wait until each member's store count is zero; what was captured from other packages
for entries still to come is dropped (R258). -/
def execMfence (s : State) : Host.Outcome State Fault Refusal :=
  issueWhole .mfence s fun b g _ => advance s (mapActive b g fun _ th => { th with mfence := true }) g 1 []

/-- MDESC (R243, R247). -/
def execMdesc (da : BitVec 4) (x : Reg) (k : BitVec 3) (l : BitVec 4) (s : State) : Host.Outcome State Fault Refusal :=
  issueWhole (.mdesc da x k l) s fun b g th =>
    let va := (th.reg x).toNat
    withRecord s b g th va 64 fun s bs => match mdescBad bs with
      | some off => refuse s b g 0x0701 va off
      | none =>
        let s := s.updBlock b.grid b.bidx fun b => { b with descs := b.descs.set da.toNat (some (recWords bs ++ [BitVec.ofNat 64 va])) }
        engIssue s b g (.mdesc da x k l) k l (.ready [])

/-- MSHAPE (R246, R247). -/
def execMshape (da : BitVec 4) (x : Reg) (k : BitVec 3) (l : BitVec 4) (s : State) : Host.Outcome State Fault Refusal :=
  issueWhole (.mshape da x k l) s fun b g th =>
    let va := (th.reg x).toNat
    withRecord s b g th va 64 fun s bs => match mshapeBad bs with
      | some off => refuse s b g 0x0702 va off
      | none =>
        let s := s.updBlock b.grid b.bidx fun b => { b with descs := b.descs.set da.toNat (some (recWords bs ++ [BitVec.ofNat 64 va])) }
        engIssue s b g (.mshape da x k l) k l (.ready [])

/- Codebooks (R260). -/

/-- CBLOAD: the load is begun; CODEBOOK_REBUILD completes it (R260). -/
def execCbload (n : BitVec 3) (x : Reg) (k : BitVec 3) (l : BitVec 4) (s : State) : Host.Outcome State Fault Refusal :=
  issueWhole (.cbload n x k l) s fun b g th =>
    let va := (th.reg x).toNat
    let s' := { s with
      nextId := s.nextId + 1
      rebuilds := s.rebuilds ++ [{ op := s.nextId, die := dieOf b.core, slot := n.toNat, va := va, by_ := byOf s b th va, token := none }] }
    engIssue s' b g (.cbload n x k l) k l (.engine s.nextId)

/-- CODEBOOK_REBUILD: the die's oldest codebook load reads its entries and every engine of the die takes them at once (R260). A
misaligned address and other rung-3 causes complete it with FAULT (R403). -/
def execCodebookRebuild (die : Nat) (s : State) : Host.Outcome State Fault Refusal :=
  .next (match s.rebuilds.find? fun r => r.die == die && r.token.isNone with
    | none => s
    | some r =>
      let fin (s : State) : State := engDone { s with rebuilds := s.rebuilds.filter fun x => x.op != r.op } r.op fun _ => []
      let res := if r.va % 2 ^ 57 % 32 != 0 && r.va < 2 ^ 57 then (s, RRes.bad 0x0408 r.va (engDetail r.by_))
        else engGrans r.by_ r.op true (granRange r.va 32) s
      match res with
      | (s, .wait) => s
      | (s, .bad c a d) => match engFault s r.by_ c a d with
        | (s, some t) => { s with rebuilds := replaceFirst (fun x => x.op == r.op) (fun x => { x with token := some t }) s.rebuilds }
        | (s, none) => fin s
      | (s, .ok gs) =>
        let vals := (List.range 16).map fun c => BitVec.ofNat 16 (leNat (gBytes gs (r.va + 2 * c) 2))
        fin (s.updDie die fun d => { d with codebooks := d.codebooks.set r.slot vals }))

end Sys2Proof.Machine
end

