-- ==== Sys2Proof/Machine/Copy.lean ====
section
/-! DEFINITION. Copies (R264 to R268), one-sided transfers (R269 to R271), WCFLUSH and FENCEACK (R272). -/

namespace Sys2Proof.Machine

open Sys2Proof

/- Copy records (R264 to R266). -/

/-- Source bytes of a chunk, and the multiple ROWLEN must be (R265). -/
def copyChunk (mode : Nat) : Nat := if mode == 3 then 2048 else if mode ≤ 2 then 4096 else 3840
def copyUnit (mode : Nat) : Nat := if mode == 0 then 1 else if mode == 3 then 2 else if mode ≤ 2 then 4 else 96

/-- ENGINE cause and offset of a record that step 1 of R266 refuses, the lowest cause first (R392). DESIGN CHOICE (log 67): R264 says that bits
63:57 of DST and SRC are zero and not what happens where they are not; they are taken as reserved bytes that are not zero. -/
def copyBad (bs : List Byte) : Option (Nat × Nat) :=
  let f (o n : Nat) : Nat := at_ bs o n
  let mode := f 32 1
  let c11 : List (Bool × Nat) :=
    [(f 0 8 ≥ 2 ^ 57, 0), (f 8 8 ≥ 2 ^ 57, 8), (mode > 6, 32), (!zeros bs 33 7, 33)]
  let c12 : List (Bool × Nat) :=
    [(4 ≤ mode && f 0 8 % 128 != 0, 0), (f 16 4 == 0 || f 16 4 % copyUnit mode != 0, 16), (f 20 4 == 0, 20),
     (4 ≤ mode && f 24 4 % 128 != 0, 24)]
  match c11.find? fun c => c.1 with
  | some c => some (0x0711, c.2)
  | none => (c12.find? fun c => c.1).map fun c => (0x0712, c.2)

/-- The fields of a record, with the given progress. -/
def copyOf (bs : List Byte) (c : Copy) : Copy :=
  { c with dst := at_ bs 0 8, src := at_ bs 8 8, rowlen := at_ bs 16 4, rows := at_ bs 20 4, dstr := at_ bs 24 4, sstr := at_ bs 28 4
           mode := at_ bs 32 1, signal := at_ bs 40 8 }

/-- Bytes 63:48 of the record as the engine writes them (R264). -/
def copyTail (c : Copy) (state status : Nat) : List Byte :=
  leBytes c.prow 4 ++ leBytes c.poff 4 ++ leBytes state 1 ++ leBytes status 1 ++ leBytes c.invblk 2 ++ leBytes 0 4

/-- A copy changed. -/
def updCopy (s : State) (op : Nat) (f : Copy → Copy) : State := { s with copies := replaceFirst (fun c => c.op == op) f s.copies }

/-- The live copy whose record is at a VA of a job. -/
def copyAt (s : State) (job va : Nat) : Option Copy := s.copies.find? fun c => c.by_.recVa == va && c.by_.job == job

/- Conversions (R265, R85). -/

/-- One block of 24 FP32 values quantised: element bytes, scale byte, invalid (R85). -/
def quantBlock (t : CvtsT) (xs : List Nat) : List Byte × Byte × Bool :=
  let vs := xs.map ffS.val
  if vs.any fun v => v.isNan || v.isInf then (List.replicate xs.length 0, 0xFF, true)
  else
    let mags := vs.filterMap fun v => match v with
      | .fin _ m e => if m == 0 then none else some ((log2 m : Int) + e)
      | _ => none
    match mags with
    | [] => (List.replicate xs.length 0, 0, false)
    | m :: ms =>
      let emax : Int := match t with
        | .e4m3 => 8 | .e5m2 => 15 | .i8 => 6
      let e := max (-127) (min 127 (ms.foldl max m - emax))
      (vs.map fun v => match v with
        | .fin n m ex => (quantEl t n m (ex - e)).1
        | _ => 0, BitVec.ofInt 8 (e + 127), false)

/-- A chunk's converted writes for row start `d`, offset `off` and source bytes `bs`: items and invalid blocks (R265). -/
def convItems (mode d off : Nat) (bs : List Byte) : List (Nat × List Byte × Byte) × Nat :=
  let fp (k n : Nat) : Nat := at_ bs k n
  let runs (l : List (Nat × List Byte)) : List (Nat × List Byte × Byte) :=
    (l.flatMap fun x => lineChunks x.1 (x.2.length + 1) x.2).map fun x => (x.1, x.2, 0)
  match mode with
  | 1 => (runs [(d + off / 2, (List.range (bs.length / 4)).flatMap fun i => leBytes (cvtEl .ne .bf .s (fp (4 * i) 4)).1 2)], 0)
  | 2 => (runs [(d + off / 2, (List.range (bs.length / 4)).flatMap fun i => leBytes (cvtEl .ne .h .s (fp (4 * i) 4)).1 2)], 0)
  | 3 => (runs [(d + off * 2, (List.range (bs.length / 2)).flatMap fun i => leBytes (cvtEl .ne .s .bf (fp (2 * i) 2)).1 4)], 0)
  | _ =>
    let t : CvtsT := if mode == 4 then .e4m3 else if mode == 5 then .e5m2 else .i8
    let blocks := (List.range (bs.length / 96)).map fun k =>
      let el := (off + 96 * k) / 4
      let line := d + 128 * (el / 120)
      let q := quantBlock t ((List.range 24).map fun j => fp (96 * k + 4 * j) 4)
      (line, el % 120, q)
    (blocks.flatMap fun x =>
        [(x.1 + x.2.1, x.2.2.1, 0), (x.1 + 120 + x.2.1 / 24, [x.2.2.2.1], 0), (x.1 + 125, List.replicate 3 0, 0)],
     (blocks.filter fun x => x.2.2.2.2).length)

/-- The next chunk of a running copy: its items, or a wait or fault (R266, R76). -/
def copyRead (s : State) (c : Copy) : State × Except (Option (Nat × Nat × Word)) (List (Nat × List Byte × Byte) × Nat × Nat) :=
  let n := min (copyChunk c.mode) (c.rowlen - c.poff)
  let a := c.src + c.prow * c.sstr + c.poff
  let d := c.dst + c.prow * c.dstr
  match engGrans c.by_ c.op (c.mode != 0) (granRange a n) s with
  | (s, .wait) => (s, .error none)
  | (s, .bad k va det) => (s, .error (some (k, va, det)))
  | (s, .ok gs) =>
    if c.mode == 0 then match plainItems (d + c.poff) a n gs with
      | .ok is => (s, .ok (is, n, 0))
      | .error g => (s, .error (some (0x0504, 8 * g.1, sealDetail g.2.1 (8 * g.1) 0x0504 g.2.2)))
    else
      let x := convItems c.mode d c.poff (gBytes gs a n)
      (s, .ok (x.1, n, x.2))

/- Progress (R266, R267). -/

/-- CPYS operations that waited are done. -/
def stopsDone (s : State) (c : Copy) : State := c.stops.foldl (fun s o => engDone s o fun _ => []) s

/-- The copy is over: its record is written or cannot be, its tokens and SIGNAL are decremented with the status (R266, R403). -/
def copyOver (s : State) (c : Copy) (status : Nat) : State :=
  let s := { s with copies := s.copies.filter fun x => x.op != c.op }
  let s := c.goes.foldl (fun s o => engDone s o fun _ => []) (stopsDone (engDone s c.op fun _ => []) c)
  signalDoneAt s c.die c.by_.job c.by_.user c.signal status

/-- The copy is decided: bytes 63:48 of its record are written with STATE and status before it is over (R264). -/
def copyEnd (s : State) (c : Copy) (state status : Nat) : State :=
  updCopy (dropGot s c.op) c.op fun x =>
    { x with ends := some (state, status), stage := 3, out := [], phase := 0, token := 0
             tail := [(c.by_.recVa + 48, copyTail { c with prow := x.prow, poff := x.poff, invblk := x.invblk } state status, 0)] }

/-- A fault of the copy's data or record: it parks; or it is decided with FAULT, and where its record cannot be written it is over (R403). A
cancelled copy parks no more (R51). -/
def copyFault (s : State) (c : Copy) (code va : Nat) (det : Word) : State :=
  if c.ends == some (4, 1) then (if c.stage == 0 then copyEnd s c 4 1 else copyOver s c 1)
  else match engFault s c.by_ code va det with
  | (s, some tok) => updCopy s c.op fun x => { x with phase := 2, token := tok }
  | (s, none) => if c.stage == 0 then copyEnd s c 4 3 else copyOver s c 3

/-- What the record's write completes: the copy runs (its CPYR is done), is suspended (its CPYS is done), or is over (R267). -/
def copyWritten (s : State) (c : Copy) : State :=
  match c.stage, c.ends with
  | 3, some (_, status) => copyOver s c status
  | 2, _ => stopsDone (updCopy s c.op fun x => { x with phase := 1, stage := 0, stops := [] }) c
  | _, _ => c.goes.foldl (fun s o => engDone s o fun _ => []) (updCopy s c.op fun x => { x with stage := 0, goes := [] })

/-- The record's write goes on; when it is performed, what it completes happens. -/
def copyTailStep (s : State) (c : Copy) : State :=
  match engPuts c.by_ c.op c.tail s with
  | (s, rest, .bad k va det) => copyFault (updCopy s c.op fun x => { x with tail := rest }) { c with tail := rest } k va det
  | (s, rest, .wait) => updCopy s c.op fun x => { x with tail := rest }
  | (s, _, .done) =>
    let s := updCopy s c.op fun x => { x with tail := [] }
    if engOut s c.op then s else copyWritten s c

/-- The writes of a chunk are made; the progress counts when all are (R266). -/
def copyWrite (s : State) (c : Copy) : State :=
  match engPuts c.by_ c.op c.out s with
  | (s, rest, .bad k va det) => copyFault (updCopy s c.op fun x => { x with out := rest }) { c with out := rest } k va det
  | (s, rest, .wait) => updCopy s c.op fun x => { x with out := rest }
  | (s, _, .done) =>
    let off := c.poff + c.ahead
    updCopy (dropGot s c.op) c.op fun x =>
      if off ≥ c.rowlen then { x with out := [], ahead := 0, prow := c.prow + 1, poff := 0 }
      else { x with out := [], ahead := 0, poff := off }

/-- The copy is decided, and its record's write begun. -/
def copyClose (s : State) (c : Copy) (state status : Nat) : State :=
  let s := copyEnd s c state status
  match s.copies.find? fun x => x.op == c.op with
  | some c => copyTailStep s c
  | none => s

/-- One step of a running copy at a chunk boundary: its record's write, its cancellation, a suspension, the end, or the next chunk. -/
def copyStep (s : State) (c : Copy) : State :=
  if c.stage != 0 then copyTailStep s c
  else if c.ends.isSome then (if engOut s c.op then s else copyClose s c 4 1)
  else if !c.stops.isEmpty then
    -- CPYS: the record shows the progress and STATE 2 (R267)
    let c' : Copy := { c with stage := 2, tail := [(c.by_.recVa + 48, copyTail c 2 0, 0)] }
    copyTailStep (updCopy s c.op fun _ => c') c'
  else if c.prow ≥ c.rows then
    (if engOut s c.op then s else copyClose s c 3 0)
  else match copyRead s c with
    | (s, .error none) => s
    | (s, .error (some (k, va, det))) => copyFault s c k va det
    | (s, .ok (items, n, inv)) =>
      let c' := { c with out := items, ahead := n, invblk := min 65535 (c.invblk + inv) }
      copyWrite (updCopy s c.op fun _ => c') c'

/-- COPY_CHUNK: a running copy finishes the chunk it has begun or does its next step; after its last chunk it ends (R266). -/
def execCopyChunk (id : Nat) (s : State) : Host.Outcome State Fault Refusal :=
  .next (match s.copies.find? fun c => c.op == id with
    | none => s
    | some c =>
      if c.phase != 0 then s
      else
        let s := if c.out.isEmpty then copyStep s c else copyWrite s c
        match s.copies.find? fun x => x.op == id with
        | none => s
        | some c' =>
          if c'.phase == 0 && c'.out.isEmpty && c'.stops.isEmpty && c'.stage == 0 && c'.prow ≥ c'.rows then copyStep s c' else s)

/-- Copies whose last record write has been answered go on. -/
def copiesAgain (s : State) : State :=
  s.copies.foldl (fun s c => if c.phase == 0 && c.stage != 0 && c.tail.isEmpty && !engOut s c.op then copyWritten s c else s) s

/- The instructions of major 0x1E (R262, R266, R267). -/

/-- The record's bytes stay with the acceptance while its atomic step is on the way. -/
def keepRecord (s : State) (g : Group) (va : Nat) (bs : List Byte) : State :=
  { s with engGot := s.engGot ++ (List.range (bs.length / 8)).map fun i =>
      (acceptOp g, va / 8 + i, ((bs.drop (8 * i)).take 8).map fun b => (b, 0)) }

/-- What the atomic step on STATE answers. -/
inductive SRes
  | ok (st : Nat)
  | wait
  | bad (code va : Nat) (detail : Word)
  deriving DecidableEq, Repr, Inhabited

/-- The acceptance's atomic step on STATE (R266): the STATE it found, a wait, or a fault; `bs`: the record's checked bytes. At another package the step is made there, by an ATOM packet (log 15). -/
def stateStep (s : State) (g : Group) (e : EngBy) (bs : List Byte) : State × SRes :=
  let (s, l) := engLoc s e (e.recVa + 48) true
  match l with
  | .bad c => (s, .bad c (e.recVa + 48) (engDetail e))
  | .held => (s, .wait)
  | .mem pa _ =>
    if writeHeld s e.job (e.recVa + 48) then (s, .wait)
    else match s.mem.badAt (pa + 8) 8 with
      | some q => (s, .bad 0x0503 (e.recVa + 56) (sealDetail (s.mem.read (8 * q) 8) (8 * q) 0x0503 (s.mem.err q)))
      | none => (s, .ok (s.mem.num (pa + 8) 1))
  | .away p => match s.engGot.find? fun x => x.1 == startOp g with
    | some x => (dropGot s (startOp g), .ok (x.2.2.headD (0, 0)).1.toNat)
    | none =>
      let s := keepRecord s g e.recVa bs
      if s.engAsks.any fun a => a.op == startOp g then (s, .wait)
      else
        let (s, q) := sendPacket s { blankPacket with
          typ := 8, dst := p, score := 0x3FF, n := 1, base := BitVec.ofNat 64 (e.recVa + 56), job := e.job, user := e.user
          tspec := tspecOf [(0, 1, 48)] }
        ({ s with engAsks := s.engAsks ++ [{ dst := p, seq := q.seq, op := startOp g, va := e.recVa + 56, n := 1, recVa := e.recVa }] }, .wait)
  | .scratch off => (match s.block? e.grid e.bidx with
    | none => (s, .bad 0x0406 (e.recVa + 48) (engDetail e))
    | some b => match b.scratch.badAt (off + 8) 8 with
      | some q => (s, .bad 0x0503 (e.recVa + 56) (sealDetail (b.scratch.read (8 * q) 8) (8 * q) 0x0503 (b.scratch.err q)))
      | none => (s, .ok (b.scratch.num (off + 8) 1)))
  | .ws _ => (s, .bad 0x0407 (e.recVa + 48) (engDetail e))

/-- A copy instruction's record must be aligned to 64 (R264, R402); its issue is a release (R108). -/
def withCopy (i : Instr) (x : Reg) (s : State) (k : State → Block → Group → Thread → Nat → State) : Host.Outcome State Fault Refusal :=
  issueWhole i s fun b g th =>
    let va := (th.reg x).toNat
    if va % 64 != 0 && va < 2 ^ 57 then parkAccept s b g th 0x0408 va (engDetail (byOf s b th va))
    else withDrain s b g fun s => k s b g th va

/-- Who runs a copy: an engine that may write the weight store (R27, R266). -/
def copyBy (s : State) (b : Block) (th : Thread) (va : Nat) : EngBy := { byOf s b th va with store := 2 }

/-- A copy's operation as a CPY starts it: its record is still to be written. -/
def newCopy (s : State) (e : EngBy) (bs : List Byte) : Copy :=
  let c : Copy := copyOf bs { op := s.nextId, by_ := e, die := dieOf e.core, dst := 0, src := 0, rowlen := 0, rows := 0, dstr := 0
                              sstr := 0, mode := 0, signal := 0, prow := 0, poff := 0, invblk := 0, phase := 0, token := 0, out := []
                              ahead := 0, stops := [], goes := [], stage := 1, tail := [], ends := none }
  { c with tail := [(e.recVa + 48, copyTail c 1 0, 0)] }

/-- The record's write of a copy is begun at once. -/
def startTail (s : State) (op : Nat) : State :=
  match s.copies.find? fun c => c.op == op with
  | some c => copyTailStep s c
  | none => s

/-- CPY (R266). -/
def execCpy (x : Reg) (k : BitVec 3) (l : BitVec 4) (s : State) : Host.Outcome State Fault Refusal :=
  withCopy (.cpy x k l) x s fun s b g th va =>
    let e := copyBy s b th va
    withRecord s b g th va 48 fun s bs => match copyBad bs with
      | some (c, off) => refuse s b g c va off
      | none => match stateStep s g e bs with
        | (s, .bad c a d) => parkAccept s b g th c a d
        | (s, .wait) => waitAccept s b
        | (s, .ok st) =>
          if st != 0 && st != 3 && st != 4 then refuse s b g 0x0710 va 56
          else
            let c := newCopy s e bs
            let s := engIssue { s with nextId := s.nextId + 1, copies := s.copies ++ [c] } b g (.cpy x k l) k l (.engine c.op)
            startTail s c.op

/-- CPYS (R267). -/
def execCpys (x : Reg) (k : BitVec 3) (l : BitVec 4) (s : State) : Host.Outcome State Fault Refusal :=
  withCopy (.cpys x k l) x s fun s b g _ va =>
    match copyAt s (s.jobOf b.grid) va with
    | some c =>
      if c.phase == 1 || c.stage == 3 then engIssue s b g (.cpys x k l) k l (.ready [])
      else
        let id := s.nextId
        let s := updCopy { s with nextId := id + 1 } c.op fun y => { y with stops := y.stops ++ [id] }
        engIssue s b g (.cpys x k l) k l (.engine id)
    | none => engIssue s b g (.cpys x k l) k l (.ready [])

/-- CPYR: a suspended copy's record is read and checked again, and it runs on (R267). -/
def execCpyr (x : Reg) (k : BitVec 3) (l : BitVec 4) (s : State) : Host.Outcome State Fault Refusal :=
  withCopy (.cpyr x k l) x s fun s b g th va =>
    match copyAt s (s.jobOf b.grid) va with
    | none => engIssue s b g (.cpyr x k l) k l (.ready [])
    | some c =>
      if c.phase != 1 then engIssue s b g (.cpyr x k l) k l (.ready [])
      else withRecord s b g th va 48 fun s bs => match copyBad bs with
        | some (cc, off) => refuse s b g cc va off
        | none =>
          let id := s.nextId
          let s := updCopy { s with nextId := id + 1 } c.op fun y =>
            { copyOf bs y with phase := 0, stage := 1, goes := [id], tail := [(va + 56, [1], 0)] }
          startTail (engIssue s b g (.cpyr x k l) k l (.engine id)) c.op

/-- Live bytes 55:48 and 63:56 of a copy (R267). -/
def copyLive (c : Copy) : Word × Word :=
  let t := copyTail c (match c.ends with
    | some (st, _) => st
    | none => if c.phase == 1 then 2 else 1) ((c.ends.map fun e => e.2).getD 0)
  (BitVec.ofNat 64 (at_ t 0 8), BitVec.ofNat 64 (at_ t 8 8))

/-- CPYQ: the engine's live bytes, or the record's where no engine of the package holds the copy (R267; log 68). -/
def execCpyq (x y z : Reg) (k : BitVec 3) (l : BitVec 4) (s : State) : Host.Outcome State Fault Refusal :=
  withCopy (.cpyq x y z k l) x s fun s b g th va =>
    match copyAt s (s.jobOf b.grid) va with
    | some c => engIssue s b g (.cpyq x y z k l) k l (.ready [(y, (copyLive c).1), (z, (copyLive c).2)])
    | none => withRecord s b g th (va + 48) 16 fun s bs =>
      engIssue s b g (.cpyq x y z k l) k l (.ready [(y, BitVec.ofNat 64 (at_ bs 0 8)), (z, BitVec.ofNat 64 (at_ bs 8 8))])

/- One-sided transfers (R269 to R271). -/

def updXfer (s : State) (op : Nat) (f : Xfer → Xfer) : State := { s with xfers := replaceFirst (fun x => x.op == op) f s.xfers }

/-- A transfer ends: its token falls; a versioned one decrements SIG with its status (R117, R270). -/
def xferEnd (s : State) (x : Xfer) (status : Nat) : State :=
  let s := engDone { s with xfers := s.xfers.filter fun y => y.op != x.op } x.op fun _ => []
  if x.kind == 2 then signalDoneAt s (dieOf x.by_.core) x.by_.job x.by_.user x.sig status else s

/-- A transfer parks, or completes with status FAULT (R403). -/
def xferFault (s : State) (x : Xfer) (code va : Nat) (det : Word) : State :=
  match engFault s x.by_ code va det with
  | (s, some tok) => updXfer s x.op fun y => { y with token := some tok }
  | (s, none) => xferEnd s x 3

/-- The package an engine's write of a VA goes to, where that is known. -/
def engDest (s : State) (e : EngBy) (va : Nat) : Option Nat :=
  match (engLoc s e va true).2 with
  | .away p => some p
  | .held => none
  | _ => some s.pkg

/-- Pages of [va, va + n): the first byte of each. -/
def pageStarts (va n : Nat) : List Nat :=
  va :: (List.range ((va + n + 65535) / 65536 - va / 65536 - 1)).map fun i => (va / 65536 + i + 1) * 65536

/-- An earlier PUT of the same threads toward the flag's destination has packets still to send (R271). -/
def putBefore (s : State) (x : Xfer) : Bool :=
  s.xfers.any fun y => y.op < x.op && y.kind == 0 && y.left != 0 && y.by_.grid == x.by_.grid && y.by_.bidx == x.by_.bidx
    && y.by_.tid / 32 == x.by_.tid / 32
    && (pageStarts y.dst y.left).any fun va => match engDest s y.by_ va with
      | some p => some p == engDest s x.by_ x.dst
      | none => true

/-- The version word read (R270). -/
def readVer (s : State) (x : Xfer) : State × Except (Option (Nat × Nat × Word)) Word :=
  match engGrans x.by_ x.op true (granRange x.ver 8) s with
  | (s, .wait) => (s, .error none)
  | (s, .bad c a d) => (s, .error (some (c, a, d)))
  | (s, .ok gs) => (dropGot { s with engAsks := s.engAsks.filter fun a => a.op != x.op } x.op, .ok (BitVec.ofNat 64 (leNat (gBytes gs x.ver 8))))

/-- The address of a transfer that may be at another package: a PUT's destination, a GET's source; a window's is no such address (R269, R402). -/
def Xfer.remoteVa (x : Xfer) : Nat := if x.kind == 0 then x.dst else x.src

/-- A transfer goes on until it is done, waits or parks. `fuel` bounds its pieces. -/
def runXfer : Nat → State → Xfer → State
  | 0, s, _ => s
  | fuel + 1, s, x =>
    let go (s : State) (f : Xfer → Xfer) : State := runXfer fuel (updXfer s x.op f) (f x)
    if x.token.isSome then s
    else if x.kind == 3 then
      -- PUTF: the flag goes after the thread's lines and PUT packets (R271, R318)
      (if x.stage == 1 then (if engOut s x.op then s else xferEnd s x 0)
       else if putBefore s x then s
       else match engLoc s x.by_ x.dst true with
        | (s, .bad c) => xferFault s x c x.dst (engDetail x.by_)
        | (s, .away p) =>
          let s := sendLines s x.by_.core fun l => l.peer == p && l.whos.any fun w =>
            w.2.grid == x.by_.grid && w.2.bidx == x.by_.bidx && w.2.tid / 32 == x.by_.tid / 32
          let (s, pk) := sendPacket s { blankPacket with
            typ := 6, dst := p, pen := true, score := x.by_.score, n := 1, base := BitVec.ofNat 64 x.dst, job := x.by_.job
            user := x.by_.user, tspec := tspecOf [(0, 8, x.want.toNat)] }
          let line : WcLine := { peer := p, job := x.by_.job, user := x.by_.user, va := x.dst / 128 * 128
                                 bytes := (leBytes x.want.toNat 8).zipIdx.map fun z => (x.dst % 128 + z.2, z.1)
                                 whos := [engWho x.op], born := s.now }
          updXfer { s with inFlight := s.inFlight ++ [(p, pk.seq, line)] } x.op fun y => { y with stage := 1 }
        | (s, _) => match engPut s x.by_ x.op x.dst (leBytes x.want.toNat 8) 0 with
          | (s, .done) => xferEnd s x 0
          | (s, .wait) => s
          | (s, .bad c a d) => xferFault s x c a d)
    else if x.kind == 2 && (x.stage == 0 || x.stage == 2) then
      (match readVer s x with
      | (s, .error none) => s
      | (s, .error (some (c, a, d))) => xferFault s x c a d
      | (s, .ok v) =>
        if x.stage == 0 then go s fun y => if v == x.want then { y with stage := 1 } else { y with stage := 3, status := 2 }
        else go s fun y => { y with stage := 3, status := if v == x.want then 0 else 2 })
    else if x.kind == 2 && x.stage == 3 then
      (match engPuts x.by_ x.op [(x.by_.recVa + 4, leBytes x.status 4, 0)] s with
      | (s, _, .done) => if engOut s x.op then updXfer s x.op fun y => { y with stage := 4 } else xferEnd s x x.status
      | (s, _, .wait) => s
      | (s, _, .bad c a d) => xferFault s x c a d)
    else if x.kind == 2 && x.stage == 4 then (if engOut s x.op then s else xferEnd s x x.status)
    else if x.left == 0 then
      (if engOut s x.op then s
       else if x.kind == 2 then go (dropGot s x.op) fun y => { y with stage := 2 }
       else xferEnd s x 0)
    else if inWindow x.remoteVa then xferFault s x 0x0405 x.remoteVa (engDetail x.by_)
    else
      -- whole destination lines, so that every granule is written at once (R101)
      let n := min x.left (128 - x.dst % 128)
      (match engGrans x.by_ x.op (x.dst % 8 != x.src % 8) (granRange x.src n) s with
      | (s, .wait) => s
      | (s, .bad c a d) => xferFault s x c a d
      | (s, .ok gs) => match plainItems x.dst x.src n gs with
        | .error g => xferFault s x 0x0504 (8 * g.1) (sealDetail g.2.1 (8 * g.1) 0x0504 g.2.2)
        | .ok is => match engPuts x.by_ x.op is s with
          | (s, _, .wait) => s
          | (s, _, .bad c a d) => xferFault s x c a d
          | (s, _, .done) => go (dropGot s x.op) fun y => { y with dst := x.dst + n, src := x.src + n, left := x.left - n })

/-- Every transfer that can go on does. -/
def xfersAgain (s : State) : State := s.xfers.foldl (fun s x => runXfer (x.left + 8) s x) s

/-- A transfer begun. -/
def startXfer (s : State) (b : Block) (g : Group) (i : Instr) (k : BitVec 3) (l : BitVec 4) (x : Xfer) : State :=
  let s := { s with nextId := s.nextId + 1, xfers := s.xfers ++ [x] }
  -- the token is raised before the transfer's own end can lower it
  let (s, ws) := if k == 7 then (s, []) else (activeLanes b g).foldl (fun (s, ws) m =>
    let (s, w) := addPlain s b g m.2 0 k l (.engine x.op)
    (s, ws ++ w)) (s, [])
  let s := if x.kind == 3 then s else runXfer (x.left + 8) s x
  let s := if x.kind == 3 then runXfer 8 s x else s
  advanceIn s b.grid b.bidx g.gid (Instr.len i) ws

/-- A range crosses VA[56] (R269). -/
def crosses56 (va n : Nat) : Bool := va / 2 ^ 56 != (va + n - 1) / 2 ^ 56

/-- A transfer of a group with packets in its core's name. -/
def newXfer (s : State) (b : Block) (th : Thread) (kind dst src n recVa : Nat) : Xfer :=
  { op := s.nextId, kind := kind, by_ := { byOf s b th recVa with score := b.core }, dst := dst, src := src, left := n, ver := 0, want := 0
    sig := 0, stage := 0, status := 0, token := none, total := n }

/-- PUT and GET: length and ranges checked (R269, R391), then begun. -/
def oneSided (i : Instr) (kind : Nat) (x y z : Reg) (k : BitVec 3) (l : BitVec 4) (s : State) : Host.Outcome State Fault Refusal :=
  issueWhole i s fun b g th =>
    let n := (th.reg z).toNat
    let dst := (th.reg x).toNat
    let src := (th.reg y).toNat
    if n == 0 || n ≥ 2 ^ 32 || crosses56 dst n || crosses56 src n then refuse s b g 0x0713 dst 0xFFFF
    else withDrain s b g fun s => startXfer s b g i k l (newXfer s b th kind dst src n 0)

/-- PUT (R269). -/
def execPut (x y z : Reg) (k : BitVec 3) (l : BitVec 4) (s : State) : Host.Outcome State Fault Refusal :=
  oneSided (.put x y z k l) 0 x y z k l s

/-- GET (R269). -/
def execGet (x y z : Reg) (k : BitVec 3) (l : BitVec 4) (s : State) : Host.Outcome State Fault Refusal :=
  oneSided (.get x y z k l) 1 x y z k l s

/-- GET.ver (R270). -/
def execGetVer (x y z : Reg) (k : BitVec 3) (l : BitVec 4) (s : State) : Host.Outcome State Fault Refusal :=
  issueWhole (.getVer x y z k l) s fun b g th =>
    let pv := (th.reg z).toNat
    let dst := (th.reg x).toNat
    let src := (th.reg y).toNat
    if pv % 32 != 0 then refuse s b g 0x0713 pv 0xFFFF
    else withDrain s b g fun s => withRecord s b g th pv 32 fun s bs =>
      let n := at_ bs 0 4
      if n == 0 then refuse s b g 0x0713 pv 0
      else if crosses56 dst n || crosses56 src n then refuse s b g 0x0713 pv 0xFFFF
      else startXfer s b g (.getVer x y z k l) k l
        { newXfer s b th 2 dst src n pv with ver := at_ bs 8 8 + 8, want := BitVec.ofNat 64 (at_ bs 16 8), sig := at_ bs 24 8 }

/-- PUTF (R271): a release (R119). DESIGN CHOICE (log 69): of an address that is not aligned to 8 the spec says no more than that it must be; the
model writes the record of ADDRESS cause 0x08 and lowers the token at once. -/
def execPutf (x y : Reg) (k : BitVec 3) (l : BitVec 4) (s : State) : Host.Outcome State Fault Refusal :=
  issueWhole (.putf x y k l) s fun b g th =>
    let va := (th.reg x).toNat
    let e := byOf s b th va
    if va % 8 != 0 && va < 2 ^ 57 then
      (match engFault s e 0x0408 va (engDetail e) with
      | (s, _) => engIssue s b g (.putf x y k l) k l (.ready []))
    else withDrain s b g fun s => startXfer s b g (.putf x y k l) k l { newXfer s b th 3 va 0 0 va with want := th.reg y }

/- WCFLUSH and FENCEACK (R272). -/

/-- WCFLUSH (R272). -/
def execWcflush (k : BitVec 3) (l : BitVec 4) (s : State) : Host.Outcome State Fault Refusal :=
  runLanes (.wcflush k l) s (fun _ _ s _ _ => (s, .go)) fun b g s _ th =>
    let s := sendOwn s b.core (trefOf b th)
    if k == 7 then (s, []) else addPlain s b g th 0 k l (.ready [])

/-- ACKP has reached the recorded counts on every path, modulo 2^32 (R319). -/
def ackedAll (s : State) (core : Nat) (iss : List Nat) : Bool :=
  (List.range 16).all fun j => ((s.core core).ackp.getD j 0 + 2 ^ 32 - iss.getD j 0) % 2 ^ 32 < 2 ^ 31

/-- A PUT, GET or PUTF of the thread's troop that was issued before number `upTo` is not complete (R272). -/
def xferBefore (s : State) (who : Tref) (upTo : Nat) : Bool :=
  s.xfers.any fun x => x.op < upTo && x.by_.grid == who.grid && x.by_.bidx == who.bidx && x.by_.tid / 32 == who.tid / 32

/-- A store of the thread before number `upTo` may still go to another package: its page is moving, or has moved (R65). -/
def movingBefore (s : State) (who : Tref) (upTo : Nat) : Bool :=
  s.writes.any fun w => w.who == who && w.id < upTo && (w.place == .held || pageLeft s w.job w.va)

/-- FENCEACK results that are reached are done: every earlier remote store, PUT and PUTF of the thread has been performed, and the counts have
been acknowledged (R272, R319). -/
def fenceacksAgain (s : State) : State :=
  s.pend.foldl (fun s p => match p.kind with
    | .fenceack iss => match s.block? p.who.grid p.who.bidx with
      | some b =>
        if ackedAll s b.core iss && !xferBefore s p.who p.id && !linesBefore s p.who p.id && !movingBefore s p.who p.id
        then complete s p [] 0 else s
      | none => s
    | _ => s) s

/-- FENCEACK (R272, R319): the thread's lines are sent; with no remote write outstanding it completes at once. -/
def execFenceack (k : BitVec 3) (l : BitVec 4) (s : State) : Host.Outcome State Fault Refusal :=
  runLanesThen (.fenceack k l) s (fun _ _ s _ _ => (s, .go)) (fun b g s _ th =>
    let who := trefOf b th
    let s := sendOwn s b.core who
    let out := xferBefore s who s.nextId || linesBefore s who s.nextId || movingBefore s who s.nextId
    addPlain s b g th 0 k l (if out then .fenceack (s.core b.core).iss else .ready [])) fun _ _ s => fenceacksAgain s

end Sys2Proof.Machine
end

