-- ==== Sys2Proof/Machine/Integer.lean ====
section
/-! DEFINITION. The integer, immediate, bit and compare majors 0x01 to 0x07 and 0x0E (07: R165 to R174, R144). Element functions take the
unsigned elements of va and vb and give the element result (wrapped to the width by `mapEl`) with the flags it raises. -/

namespace Sys2Proof.Machine

open Sys2Proof

/-- A result written with its flags. -/
def putReg (d : Reg) (r : Word × BitVec 6) (th : Thread) : Thread := (th.setReg d r.1).setFlags r.2

/-- Elementwise over two registers: each result modulo 2^w, flags once for the thread (R165). -/
def mapEl (w : Nat) (f : Nat → Nat → Int × BitVec 6) (x y : Word) : Word × BitVec 6 :=
  (pack w fun i => wrap w (f (elt w x i) (elt w y i)).1,
   (List.range (64 / w)).foldl (fun acc i => acc ||| (f (elt w x i) (elt w y i)).2) 0)

/-- A packed two-operand instruction: va, vb after the pattern, vd (R165). -/
def intOp (i : Instr) (f : Nat → Nat → Int × BitVec 6) (w : Nat) (d a b : Reg) (l : BitVec 3) (s : State) :
    Host.Outcome State Fault Refusal :=
  onLanes i s fun blk g m th => putReg d (mapEl w f (th.reg a) (vbOf blk g m th l b)) th

/-- A whole-register two-operand instruction. -/
def wordOp (i : Instr) (f : Word → Word → Word) (d a b : Reg) (l : BitVec 3) (s : State) : Host.Outcome State Fault Refusal :=
  onLanes i s fun blk g m th => th.setReg d (f (th.reg a) (vbOf blk g m th l b))

/-- A one-source register instruction. -/
def regOp (i : Instr) (f : Word → Word) (d a : Reg) (s : State) : Host.Outcome State Fault Refusal :=
  onLanes i s fun _ _ _ th => th.setReg d (f (th.reg a))

/- Element functions (R166 to R168). -/

def addEl (x y : Nat) : Int × BitVec 6 := ((x : Int) + y, 0)
def subEl (x y : Nat) : Int × BitVec 6 := ((x : Int) - y, 0)
def mulEl (x y : Nat) : Int × BitVec 6 := ((x : Int) * y, 0)
def mulhEl (w x y : Nat) : Int × BitVec 6 := (sgn w x * sgn w y / (2 ^ w : Nat), 0)
def mulhuEl (w x y : Nat) : Int × BitVec 6 := ((x * y / 2 ^ w : Nat), 0)
/-- Division by zero gives all ones and DZ; the minimum by −1 wraps to itself (R166). -/
def divEl (w x y : Nat) : Int × BitVec 6 := if y == 0 then (-1, fDZ) else ((sgn w x).tdiv (sgn w y), 0)
def divuEl (x y : Nat) : Int × BitVec 6 := if y == 0 then (-1, fDZ) else ((x / y : Nat), 0)
def remEl (w x y : Nat) : Int × BitVec 6 := if y == 0 then (x, fDZ) else ((sgn w x).tmod (sgn w y), 0)
def remuEl (x y : Nat) : Int × BitVec 6 := if y == 0 then (x, fDZ) else ((x % y : Nat), 0)
def shlEl (w x y : Nat) : Int × BitVec 6 := (if y ≥ w then 0 else (x <<< y : Nat), 0)
def shrEl (w x y : Nat) : Int × BitVec 6 := (if y ≥ w then 0 else (x >>> y : Nat), 0)
def sraEl (w x y : Nat) : Int × BitVec 6 := (sgn w x / (2 ^ min y (w - 1) : Nat), 0)
def rolEl (w x y : Nat) : Int × BitVec 6 := (((x <<< (y % w)) ||| (x >>> (w - y % w)) : Nat), 0)
def minEl (w x y : Nat) : Int × BitVec 6 := (min (sgn w x) (sgn w y), 0)
def maxEl (w x y : Nat) : Int × BitVec 6 := (max (sgn w x) (sgn w y), 0)
def minuEl (x y : Nat) : Int × BitVec 6 := ((min x y : Nat), 0)
def maxuEl (x y : Nat) : Int × BitVec 6 := ((max x y : Nat), 0)
/-- A saturated value with SAT (R9). -/
def satFlag (r : Int × Bool) : Int × BitVec 6 := (r.1, flagIf r.2 fSAT)
def addsEl (w x y : Nat) : Int × BitVec 6 := satFlag (satS w (sgn w x + sgn w y))
def subsEl (w x y : Nat) : Int × BitVec 6 := satFlag (satS w (sgn w x - sgn w y))
def addusEl (w x y : Nat) : Int × BitVec 6 := satFlag (satU w ((x : Int) + y))
def subusEl (w x y : Nat) : Int × BitVec 6 := satFlag (satU w ((x : Int) - y))
/-- Rounding shift right by n ≤ w, ties toward +inf (R168). -/
def rshrBy (x : Int) (n : Nat) : Int := if n == 0 then x else (x + (2 ^ (n - 1) : Nat)) / (2 ^ n : Nat)
def rshrEl (w x y : Nat) : Int × BitVec 6 := (rshrBy (sgn w x) (min y w), 0)
def rshrsEl (w x y : Nat) : Int × BitVec 6 :=
  let n := max (-(w : Int)) (min (w : Int) (sgn w y))
  if n ≥ 0 then (rshrBy (sgn w x) n.toNat, 0) else satFlag (satS w (sgn w x * (2 ^ (-n).toNat : Nat)))
def qmulrEl (w x y : Nat) : Int × BitVec 6 :=
  satFlag (satS w ((sgn w x * sgn w y + (2 ^ (w - 2) : Nat)) / (2 ^ (w - 1) : Nat)))

/-- ADD (R166). -/
def execAdd (w : IntW) (d a b : Reg) (l : BitVec 3) (s : State) : Host.Outcome State Fault Refusal :=
  intOp (.add w d a b l) addEl (intBits w) d a b l s

/-- SUB (R166). -/
def execSub (w : IntW) (d a b : Reg) (l : BitVec 3) (s : State) : Host.Outcome State Fault Refusal :=
  intOp (.sub w d a b l) subEl (intBits w) d a b l s

/-- MUL (R166). -/
def execMul (w : IntW) (d a b : Reg) (l : BitVec 3) (s : State) : Host.Outcome State Fault Refusal :=
  intOp (.mul w d a b l) mulEl (intBits w) d a b l s

/-- MULH (R166). -/
def execMulh (w : IntW) (d a b : Reg) (l : BitVec 3) (s : State) : Host.Outcome State Fault Refusal :=
  intOp (.mulh w d a b l) (mulhEl (intBits w)) (intBits w) d a b l s

/-- MULHU (R166). -/
def execMulhu (w : IntW) (d a b : Reg) (l : BitVec 3) (s : State) : Host.Outcome State Fault Refusal :=
  intOp (.mulhu w d a b l) (mulhuEl (intBits w)) (intBits w) d a b l s

/-- DIV (R166). -/
def execDiv (w : IntW) (d a b : Reg) (l : BitVec 3) (s : State) : Host.Outcome State Fault Refusal :=
  intOp (.div w d a b l) (divEl (intBits w)) (intBits w) d a b l s

/-- DIVU (R166). -/
def execDivu (w : IntW) (d a b : Reg) (l : BitVec 3) (s : State) : Host.Outcome State Fault Refusal :=
  intOp (.divu w d a b l) divuEl (intBits w) d a b l s

/-- REM (R166). -/
def execRem (w : IntW) (d a b : Reg) (l : BitVec 3) (s : State) : Host.Outcome State Fault Refusal :=
  intOp (.rem w d a b l) (remEl (intBits w)) (intBits w) d a b l s

/-- REMU (R166). -/
def execRemu (w : IntW) (d a b : Reg) (l : BitVec 3) (s : State) : Host.Outcome State Fault Refusal :=
  intOp (.remu w d a b l) remuEl (intBits w) d a b l s

/-- SHL (R166). -/
def execShl (w : IntW) (d a b : Reg) (l : BitVec 3) (s : State) : Host.Outcome State Fault Refusal :=
  intOp (.shl w d a b l) (shlEl (intBits w)) (intBits w) d a b l s

/-- SHR (R166). -/
def execShr (w : IntW) (d a b : Reg) (l : BitVec 3) (s : State) : Host.Outcome State Fault Refusal :=
  intOp (.shr w d a b l) (shrEl (intBits w)) (intBits w) d a b l s

/-- SRA (R166). -/
def execSra (w : IntW) (d a b : Reg) (l : BitVec 3) (s : State) : Host.Outcome State Fault Refusal :=
  intOp (.sra w d a b l) (sraEl (intBits w)) (intBits w) d a b l s

/-- ROL (R166). -/
def execRol (w : IntW) (d a b : Reg) (l : BitVec 3) (s : State) : Host.Outcome State Fault Refusal :=
  intOp (.rol w d a b l) (rolEl (intBits w)) (intBits w) d a b l s

/-- MIN (R166). -/
def execMin (w : IntW) (d a b : Reg) (l : BitVec 3) (s : State) : Host.Outcome State Fault Refusal :=
  intOp (.min w d a b l) (minEl (intBits w)) (intBits w) d a b l s

/-- MAX (R166). -/
def execMax (w : IntW) (d a b : Reg) (l : BitVec 3) (s : State) : Host.Outcome State Fault Refusal :=
  intOp (.max w d a b l) (maxEl (intBits w)) (intBits w) d a b l s

/-- MINU (R166). -/
def execMinu (w : IntW) (d a b : Reg) (l : BitVec 3) (s : State) : Host.Outcome State Fault Refusal :=
  intOp (.minu w d a b l) minuEl (intBits w) d a b l s

/-- MAXU (R166). -/
def execMaxu (w : IntW) (d a b : Reg) (l : BitVec 3) (s : State) : Host.Outcome State Fault Refusal :=
  intOp (.maxu w d a b l) maxuEl (intBits w) d a b l s

/-- ADDS (R166). -/
def execAdds (w : IntW) (d a b : Reg) (l : BitVec 3) (s : State) : Host.Outcome State Fault Refusal :=
  intOp (.adds w d a b l) (addsEl (intBits w)) (intBits w) d a b l s

/-- SUBS (R166). -/
def execSubs (w : IntW) (d a b : Reg) (l : BitVec 3) (s : State) : Host.Outcome State Fault Refusal :=
  intOp (.subs w d a b l) (subsEl (intBits w)) (intBits w) d a b l s

/-- ADDUS (R166). -/
def execAddus (w : IntW) (d a b : Reg) (l : BitVec 3) (s : State) : Host.Outcome State Fault Refusal :=
  intOp (.addus w d a b l) (addusEl (intBits w)) (intBits w) d a b l s

/-- SUBUS (R166). -/
def execSubus (w : IntW) (d a b : Reg) (l : BitVec 3) (s : State) : Host.Outcome State Fault Refusal :=
  intOp (.subus w d a b l) (subusEl (intBits w)) (intBits w) d a b l s

/-- RSHR (R168). -/
def execRshr (w : IntW) (d a b : Reg) (l : BitVec 3) (s : State) : Host.Outcome State Fault Refusal :=
  intOp (.rshr w d a b l) (rshrEl (intBits w)) (intBits w) d a b l s

/-- RSHRS (R168). -/
def execRshrs (w : IntW) (d a b : Reg) (l : BitVec 3) (s : State) : Host.Outcome State Fault Refusal :=
  intOp (.rshrs w d a b l) (rshrsEl (intBits w)) (intBits w) d a b l s

/-- QMULR (R168). -/
def execQmulr (w : IntW) (d a b : Reg) (l : BitVec 3) (s : State) : Host.Outcome State Fault Refusal :=
  intOp (.qmulr w d a b l) (qmulrEl (intBits w)) (intBits w) d a b l s

/-- ABS (R166); the minimum value stays unchanged. -/
def execAbs (w : IntW) (d a : Reg) (s : State) : Host.Outcome State Fault Refusal :=
  onLanes (.abs w d a) s fun _ _ _ th =>
    putReg d (mapEl (intBits w) (fun x _ => ((sgn (intBits w) x).natAbs, 0)) (th.reg a) 0) th

/-- NEG (R166); the minimum value stays unchanged. -/
def execNeg (w : IntW) (d a : Reg) (s : State) : Host.Outcome State Fault Refusal :=
  onLanes (.neg w d a) s fun _ _ _ th => putReg d (mapEl (intBits w) (fun x _ => (-(x : Int), 0)) (th.reg a) 0) th

/-- DOT2S and DOT4S: k products of signed elements of width w added to each 32-bit element of vd, one saturation (R167). -/
def dotWord (w : Nat) (acc x y : Word) : Word × BitVec 6 :=
  let k := 32 / w
  let t (i : Nat) : Int × Bool :=
    satS 32 (sgn 32 (elt 32 acc i) + ((List.range k).map fun j => sgn w (elt w x (k * i + j)) * sgn w (elt w y (k * i + j))).sum)
  (pack 32 fun i => wrap 32 (t i).1, flagIf ((t 0).2 || (t 1).2) fSAT)

/-- DOT2S (R167). -/
def execDot2s (d a b : Reg) (l : BitVec 3) (s : State) : Host.Outcome State Fault Refusal :=
  onLanes (.dot2s d a b l) s fun blk g m th => putReg d (dotWord 16 (th.reg d) (th.reg a) (vbOf blk g m th l b)) th

/-- DOT4S (R167). -/
def execDot4s (d a b : Reg) (l : BitVec 3) (s : State) : Host.Outcome State Fault Refusal :=
  onLanes (.dot4s d a b l) s fun blk g m th => putReg d (dotWord 8 (th.reg d) (th.reg a) (vbOf blk g m th l b)) th

/-- NRWS: va narrowed into the low half, vb into the high half (R168). -/
def nrwsWord (w : Nat) (x y : Word) : Word × BitVec 6 :=
  let n := 64 / w
  let e (i : Nat) : Int × Bool := satS (w / 2) (sgn w (if i < n then elt w x i else elt w y (i - n)))
  (pack (w / 2) fun i => wrap (w / 2) (e i).1, flagIf ((List.range (2 * n)).any fun i => (e i).2) fSAT)

/-- NRWS (R168). -/
def execNrws (w : IntW) (d a b : Reg) (l : BitVec 3) (s : State) : Host.Outcome State Fault Refusal :=
  onLanes (.nrws w d a b l) s fun blk g m th => putReg d (nrwsWord (intBits w) (th.reg a) (vbOf blk g m th l b)) th

/-- LEA: (va + 8 · vb) mod 2^57 (R169). -/
def execLea (d a b : Reg) (l : BitVec 3) (s : State) : Host.Outcome State Fault Refusal :=
  wordOp (.lea d a b l) (fun x y => (x + 8 * y) &&& 0x01FFFFFFFFFFFFFF) d a b l s

/- INT.I and LDI (R144, R170, R171). -/

/-- ADDI (R170). -/
def execAddi (d a : Reg) (i : BitVec 11) (s : State) : Host.Outcome State Fault Refusal :=
  regOp (.addi d a i) (fun x => x + i.signExtend 64) d a s

/-- ANDI (R170). -/
def execAndi (d a : Reg) (i : BitVec 11) (s : State) : Host.Outcome State Fault Refusal :=
  regOp (.andi d a i) (fun x => x &&& i.signExtend 64) d a s

/-- ORI (R170). -/
def execOri (d a : Reg) (i : BitVec 11) (s : State) : Host.Outcome State Fault Refusal :=
  regOp (.ori d a i) (fun x => x ||| i.signExtend 64) d a s

/-- XORI (R170). -/
def execXori (d a : Reg) (i : BitVec 11) (s : State) : Host.Outcome State Fault Refusal :=
  regOp (.xori d a i) (fun x => x ^^^ i.signExtend 64) d a s

/-- SHLI (R170). -/
def execShli (d a : Reg) (i : BitVec 6) (s : State) : Host.Outcome State Fault Refusal :=
  regOp (.shli d a i) (fun x => x <<< i.toNat) d a s

/-- SHRI (R170). -/
def execShri (d a : Reg) (i : BitVec 6) (s : State) : Host.Outcome State Fault Refusal :=
  regOp (.shri d a i) (fun x => x >>> i.toNat) d a s

/-- SRAI (R170). -/
def execSrai (d a : Reg) (i : BitVec 6) (s : State) : Host.Outcome State Fault Refusal :=
  regOp (.srai d a i) (fun x => x.sshiftRight i.toNat) d a s

/-- A literal written (R144). -/
def ldi (i : Instr) (d : Reg) (v : Word) (s : State) : Host.Outcome State Fault Refusal :=
  onLanes i s fun _ _ _ th => th.setReg d v

/-- LDI.s (R144). -/
def execLdiS (d : Reg) (i : BitVec 11) (s : State) : Host.Outcome State Fault Refusal := ldi (.ldiS d i) d (i.signExtend 64) s

/-- LDI.w (R144). -/
def execLdiW (d : Reg) (x : Word32) (s : State) : Host.Outcome State Fault Refusal := ldi (.ldiW d x) d (x.signExtend 64) s

/-- LDI.wu (R144). -/
def execLdiWu (d : Reg) (x : Word32) (s : State) : Host.Outcome State Fault Refusal := ldi (.ldiWu d x) d (x.zeroExtend 64) s

/-- LDI.hi (R144). -/
def execLdiHi (d : Reg) (x : Word32) (s : State) : Host.Outcome State Fault Refusal := ldi (.ldiHi d x) d (x ++ 0#32 : BitVec 64) s

/-- LDI.d: the first literal in bits 31:0, the second in bits 63:32 (R144). -/
def execLdiD (d : Reg) (lo hi : Word32) (s : State) : Host.Outcome State Fault Refusal := ldi (.ldiD d lo hi) d (hi ++ lo : BitVec 64) s

/- BIT (R172, R173). -/

/-- AND (R172). -/
def execAnd (d a b : Reg) (l : BitVec 3) (s : State) : Host.Outcome State Fault Refusal := wordOp (.and d a b l) (· &&& ·) d a b l s

/-- OR (R172). -/
def execOr (d a b : Reg) (l : BitVec 3) (s : State) : Host.Outcome State Fault Refusal := wordOp (.or d a b l) (· ||| ·) d a b l s

/-- XOR (R172). -/
def execXor (d a b : Reg) (l : BitVec 3) (s : State) : Host.Outcome State Fault Refusal := wordOp (.xor d a b l) (· ^^^ ·) d a b l s

/-- ANDN: va AND NOT vb (R172). -/
def execAndn (d a b : Reg) (l : BitVec 3) (s : State) : Host.Outcome State Fault Refusal :=
  wordOp (.andn d a b l) (fun x y => x &&& ~~~y) d a b l s

/-- Ones among the low n bits. -/
def popcN (x : Nat) : Nat → Nat
  | 0 => 0
  | n + 1 => b2n (bitOf x n) + popcN x n

/-- Leading zeros of an element of width w (R172). -/
def clzN (w x : Nat) : Nat := if x == 0 then w else w - 1 - Nat.log2 x

/-- Trailing zeros of the low n bits of an element of width w: w for zero (R172). -/
def ctzN (x : Nat) : Nat → Nat → Nat
  | 0, i => i
  | n + 1, i => if bitOf x i then i else ctzN x n (i + 1)

/-- The low n bits in reverse order (R172). -/
def brevN (x : Nat) : Nat → Nat
  | 0 => 0
  | n + 1 => brevN (x / 2) n + (x % 2) <<< n

/-- A counting form: each element of the width (R172). -/
def countOp (i : Instr) (f : Nat → Nat) (w : Nat) (d a : Reg) (s : State) : Host.Outcome State Fault Refusal :=
  regOp i (fun x => pack w fun j => f (elt w x j)) d a s

/-- POPC (R172). -/
def execPopc (w : IntW) (d a : Reg) (s : State) : Host.Outcome State Fault Refusal :=
  countOp (.popc w d a) (fun x => popcN x (intBits w)) (intBits w) d a s

/-- CLZ (R172). -/
def execClz (w : IntW) (d a : Reg) (s : State) : Host.Outcome State Fault Refusal :=
  countOp (.clz w d a) (clzN (intBits w)) (intBits w) d a s

/-- CTZ (R172). -/
def execCtz (w : IntW) (d a : Reg) (s : State) : Host.Outcome State Fault Refusal :=
  countOp (.ctz w d a) (fun x => ctzN x (intBits w) 0) (intBits w) d a s

/-- BREV (R172). -/
def execBrev (w : IntW) (d a : Reg) (s : State) : Host.Outcome State Fault Refusal :=
  countOp (.brev w d a) (fun x => brevN x (intBits w)) (intBits w) d a s

/-- Position and length of a field, and whether stray bits of vb are set (R173). -/
def fieldPos (y : Word) : Nat := bits y.toNat 5 0
def fieldLen (y : Word) : Nat := min (bits y.toNat 14 8) (64 - fieldPos y)
def fieldStray (y : Word) : Bool := y &&& ~~~0x7F3F#64 != 0

/-- BFX (R173). -/
def bfxVal (x y : Word) : Word := BitVec.ofNat 64 ((x.toNat >>> fieldPos y) % 2 ^ fieldLen y)

/-- BFX.s (R173). -/
def bfxsVal (x y : Word) : Word :=
  if fieldLen y == 0 then 0 else BitVec.ofInt 64 (sgn (fieldLen y) ((x.toNat >>> fieldPos y) % 2 ^ fieldLen y))

/-- BFI (R173). -/
def bfiVal (o x y : Word) : Word :=
  let m : Word := BitVec.ofNat 64 ((2 ^ fieldLen y - 1) <<< fieldPos y)
  (o &&& ~~~m) ||| ((x <<< fieldPos y) &&& m)

/-- BFX: stray bits of vb leave vd and set NV (R173). -/
def execBfx (d a b : Reg) (s : State) : Host.Outcome State Fault Refusal :=
  onLanes (.bfx d a b) s fun _ _ _ th =>
    if fieldStray (th.reg b) then th.setFlags fNV else th.setReg d (bfxVal (th.reg a) (th.reg b))

/-- BFX.s (R173). -/
def execBfxS (d a b : Reg) (s : State) : Host.Outcome State Fault Refusal :=
  onLanes (.bfxS d a b) s fun _ _ _ th =>
    if fieldStray (th.reg b) then th.setFlags fNV else th.setReg d (bfxsVal (th.reg a) (th.reg b))

/-- BFI (R173). -/
def execBfi (d a b : Reg) (s : State) : Host.Outcome State Fault Refusal :=
  onLanes (.bfi d a b) s fun _ _ _ th =>
    if fieldStray (th.reg b) then th.setFlags fNV else th.setReg d (bfiVal (th.reg d) (th.reg a) (th.reg b))

/- CMP (R174). -/

/-- A compare condition on elements of width w (R146, R174). -/
def condEl (w : Nat) (c : Cond) (x y : Nat) : Bool :=
  match c with
  | .eq => x == y
  | .ne => x != y
  | .lt => sgn w x < sgn w y
  | .le => sgn w x ≤ sgn w y
  | .ltu => x < y
  | .leu => x ≤ y

/-- CMPM (R174). -/
def execCmpm (w : IntW) (c : Cond) (d a b : Reg) (l : BitVec 3) (s : State) : Host.Outcome State Fault Refusal :=
  intOp (.cmpm w c d a b l) (fun x y => (if condEl (intBits w) c x y then -1 else 0, 0)) (intBits w) d a b l s

/-- CMP: element 0 (R174). -/
def execCmp (w : IntW) (c : Cond) (p : BitVec 3) (a b : Reg) (s : State) : Host.Outcome State Fault Refusal :=
  onLanes (.cmp w c p a b) s fun _ _ _ th =>
    th.setPred p (condEl (intBits w) c (elt (intBits w) (th.reg a) 0) (elt (intBits w) (th.reg b) 0))

/-- BSEL: (va AND vd) OR (vb AND NOT vd) (R174). -/
def execBsel (d a b : Reg) (l : BitVec 3) (s : State) : Host.Outcome State Fault Refusal :=
  onLanes (.bsel d a b l) s fun blk g m th =>
    th.setReg d ((th.reg a &&& th.reg d) ||| (vbOf blk g m th l b &&& ~~~(th.reg d)))

end Sys2Proof.Machine
end

