-- ==== Sys2Proof/Machine/Vector.lean ====
section
/-! DEFINITION. The floating-point majors 0x08 to 0x0D (08: R185 to R195). -/

namespace Sys2Proof.Machine

open Sys2Proof

/-- An element function on codes as `mapEl` takes it. -/
def asInt (f : Nat → Nat → Nat × BitVec 6) (x y : Nat) : Int × BitVec 6 := ((f x y).1, (f x y).2)

/-- A packed floating-point instruction of two sources (R185). -/
def fpOp (i : Instr) (t : FpW) (f : Nat → Nat → Nat × BitVec 6) (d a b : Reg) (l : BitVec 3) (s : State) :
    Host.Outcome State Fault Refusal :=
  onLanes i s fun blk g m th => putReg d (mapEl (fpBits t) (asInt f) (th.reg a) (vbOf blk g m th l b)) th

/-- One source. -/
def fpOp1 (i : Instr) (t : FpW) (f : Nat → Nat × BitVec 6) (d a : Reg) (s : State) : Host.Outcome State Fault Refusal :=
  onLanes i s fun _ _ _ th => putReg d (mapEl (fpBits t) (asInt fun x _ => f x) (th.reg a) 0) th

/-- Three sources, vd the third (R187). -/
def mapEl3 (w : Nat) (f : Nat → Nat → Nat → Nat × BitVec 6) (x y z : Word) : Word × BitVec 6 :=
  (pack w fun i => (f (elt w x i) (elt w y i) (elt w z i)).1,
   (List.range (64 / w)).foldl (fun acc i => acc ||| (f (elt w x i) (elt w y i) (elt w z i)).2) 0)

/-- FMA, FMS, FNMA (R187). -/
def fmaOp (i : Instr) (t : FpW) (np nc : Bool) (d a b : Reg) (l : BitVec 3) (s : State) : Host.Outcome State Fault Refusal :=
  onLanes i s fun blk g m th =>
    putReg d (mapEl3 (fpBits t) ((fpFmt t).fma np nc) (th.reg a) (vbOf blk g m th l b) (th.reg d)) th

/-- A special function by enclosure: each element of each thread has its own free value, drawn only where the enclosure does not decide
(R190, log 10). -/
def sfuOp (i : Instr) (t : FpW) (f : Nat → Word → Nat × BitVec 6) (d a : Reg) (s : State) : Host.Outcome State Fault Refusal :=
  onLanes i { s with free := s.free + 8192 } fun _ _ _ th =>
    putReg d
      (pack (fpBits t) fun j => (f (elt (fpBits t) (th.reg a) j) (Config.freeWord (s.free + 8 * th.tid + j))).1,
       (List.range (64 / fpBits t)).foldl
         (fun acc j => acc ||| (f (elt (fpBits t) (th.reg a) j) (Config.freeWord (s.free + 8 * th.tid + j))).2) 0) th

/-- FADD (R186). -/
def execFadd (t : FpW) (d a b : Reg) (l : BitVec 3) (s : State) : Host.Outcome State Fault Refusal :=
  fpOp (.fadd t d a b l) t (fpFmt t).add d a b l s

/-- FSUB (R186). -/
def execFsub (t : FpW) (d a b : Reg) (l : BitVec 3) (s : State) : Host.Outcome State Fault Refusal :=
  fpOp (.fsub t d a b l) t (fpFmt t).sub d a b l s

/-- FMUL (R186). -/
def execFmul (t : FpW) (d a b : Reg) (l : BitVec 3) (s : State) : Host.Outcome State Fault Refusal :=
  fpOp (.fmul t d a b l) t (fpFmt t).mul d a b l s

/-- FMIN (R188). -/
def execFmin (t : FpW) (d a b : Reg) (l : BitVec 3) (s : State) : Host.Outcome State Fault Refusal :=
  fpOp (.fmin t d a b l) t ((fpFmt t).minmax false false) d a b l s

/-- FMAX (R188). -/
def execFmax (t : FpW) (d a b : Reg) (l : BitVec 3) (s : State) : Host.Outcome State Fault Refusal :=
  fpOp (.fmax t d a b l) t ((fpFmt t).minmax true false) d a b l s

/-- FMINN (R188). -/
def execFminn (t : FpW) (d a b : Reg) (l : BitVec 3) (s : State) : Host.Outcome State Fault Refusal :=
  fpOp (.fminn t d a b l) t ((fpFmt t).minmax false true) d a b l s

/-- FMAXN (R188). -/
def execFmaxn (t : FpW) (d a b : Reg) (l : BitVec 3) (s : State) : Host.Outcome State Fault Refusal :=
  fpOp (.fmaxn t d a b l) t ((fpFmt t).minmax true true) d a b l s

/-- FDIV (R186). -/
def execFdiv (t : FpW) (d a b : Reg) (l : BitVec 3) (s : State) : Host.Outcome State Fault Refusal :=
  fpOp (.fdiv t d a b l) t (fpFmt t).div d a b l s

/-- SCALEX: n is the element of vb as a signed integer (R192). -/
def execScalex (t : FpW) (d a b : Reg) (l : BitVec 3) (s : State) : Host.Outcome State Fault Refusal :=
  fpOp (.scalex t d a b l) t (fun x y => (fpFmt t).scalex x (sgn (fpBits t) y)) d a b l s

/-- FABS: the sign bit cleared, no flag (R186). -/
def execFabs (t : FpW) (d a : Reg) (s : State) : Host.Outcome State Fault Refusal :=
  fpOp1 (.fabs t d a) t (fun x => (x % 2 ^ (fpBits t - 1), 0)) d a s

/-- FNEG: the sign bit inverted, no flag (R186). -/
def execFneg (t : FpW) (d a : Reg) (s : State) : Host.Outcome State Fault Refusal :=
  fpOp1 (.fneg t d a) t (fun x => (x ^^^ 2 ^ (fpBits t - 1), 0)) d a s

/-- FSQRT (R186). -/
def execFsqrt (t : FpW) (d a : Reg) (s : State) : Host.Outcome State Fault Refusal := fpOp1 (.fsqrt t d a) t (fpFmt t).sqrt d a s

/-- FRCP (R190, R191). -/
def execFrcp (t : FpW) (d a : Reg) (s : State) : Host.Outcome State Fault Refusal := fpOp1 (.frcp t d a) t (fpFmt t).rcp d a s

/-- FRSQ (R190, R191). -/
def execFrsq (t : FpW) (d a : Reg) (s : State) : Host.Outcome State Fault Refusal := fpOp1 (.frsq t d a) t (fpFmt t).rsq d a s

/-- FEXP2 (R190, R191). -/
def execFexp2 (t : FpW) (d a : Reg) (s : State) : Host.Outcome State Fault Refusal := sfuOp (.fexp2 t d a) t (fpFmt t).exp2 d a s

/-- FLOG2 (R190, R191). -/
def execFlog2 (t : FpW) (d a : Reg) (s : State) : Host.Outcome State Fault Refusal := sfuOp (.flog2 t d a) t (fpFmt t).log2 d a s

/-- FSIN (R190, R191). -/
def execFsin (t : FpW) (d a : Reg) (s : State) : Host.Outcome State Fault Refusal := sfuOp (.fsin t d a) t (fpFmt t).sinpi d a s

/-- FCOS (R190, R191). -/
def execFcos (t : FpW) (d a : Reg) (s : State) : Host.Outcome State Fault Refusal := sfuOp (.fcos t d a) t (fpFmt t).cospi d a s

/-- FMA (R187). -/
def execFma (t : FpW) (d a b : Reg) (l : BitVec 3) (s : State) : Host.Outcome State Fault Refusal :=
  fmaOp (.fma t d a b l) t false false d a b l s

/-- FMS (R187). -/
def execFms (t : FpW) (d a b : Reg) (l : BitVec 3) (s : State) : Host.Outcome State Fault Refusal :=
  fmaOp (.fms t d a b l) t false true d a b l s

/-- FNMA (R187). -/
def execFnma (t : FpW) (d a b : Reg) (l : BitVec 3) (s : State) : Host.Outcome State Fault Refusal :=
  fmaOp (.fnma t d a b l) t true false d a b l s

/-- FCMP: element 0 (R189). -/
def execFcmp (t : FpW) (c : FCond) (p : BitVec 3) (a b : Reg) (l : BitVec 3) (s : State) : Host.Outcome State Fault Refusal :=
  onLanes (.fcmp t c p a b l) s fun blk g m th =>
    let r := (fpFmt t).cmp c (elt (fpBits t) (th.reg a) 0) (elt (fpBits t) (vbOf blk g m th l b) 0)
    (th.setPred p r.1).setFlags r.2

/-- FCMPM (R189). -/
def execFcmpm (t : FpW) (c : FCond) (d a b : Reg) (l : BitVec 3) (s : State) : Host.Outcome State Fault Refusal :=
  fpOp (.fcmpm t c d a b l) t
    (fun x y => (if ((fpFmt t).cmp c x y).1 then 2 ^ fpBits t - 1 else 0, ((fpFmt t).cmp c x y).2)) d a b l s

/-- CVTS (R195). -/
def cvtsWord (t : CvtsT) (x y : Word) : Word × BitVec 6 :=
  let e (i : Nat) := cvtsEl t (elt 8 y 0) (elt 32 x i)
  (BitVec.ofNat 64 (packN 8 (fun i => (e i).1.toNat) 2), (e 0).2 ||| (e 1).2)

/-- CVTS (R195). -/
def execCvts (t : CvtsT) (d a b : Reg) (s : State) : Host.Outcome State Fault Refusal :=
  onLanes (.cvts t d a b) s fun _ _ _ th => putReg d (cvtsWord t (th.reg a) (th.reg b)) th

/-- CVT of a register: n = 64 / max(ws, wt) elements, each under its own rounding (R193). -/
def cvtWord (r : Nat → Rnd) (tgt src : Fmt) (x : Word) : Word × BitVec 6 :=
  let n := 64 / max (fmtBits src) (fmtBits tgt)
  let e (i : Nat) := cvtEl (r i) tgt src (elt (fmtBits src) x i)
  (BitVec.ofNat 64 (packN (fmtBits tgt) (fun i => (e i).1) n), (List.range n).foldl (fun acc i => acc ||| (e i).2) 0)

/-- CVT (R193, R194). -/
def execCvt (tgt src : Fmt) (d a : Reg) (s : State) : Host.Outcome State Fault Refusal :=
  onLanes (.cvt tgt src d a) s fun _ _ _ th => putReg d (cvtWord (fun _ => .ne) tgt src (th.reg a)) th

/-- The row word W of a vector .rs conversion (R98). -/
def rsRow (seed : Word) (bidx htroop : Nat) : Nat := (m64 (seed ^^^ BitVec.ofNat 64 ((bidx <<< 5) ||| htroop))).toNat % 2 ^ 32

/-- CVT.rs (R194, R98). -/
def execCvtRs (tgt src : Fmt) (d a e : Reg) (s : State) : Host.Outcome State Fault Refusal :=
  onLanes (.cvtRs tgt src d a e) s fun blk _ _ th =>
    putReg d (cvtWord (fun i => .st (rsRow (th.reg e) blk.bidx th.htroop) (th.tid % 32 + 32 * i)) tgt src (th.reg a)) th

end Sys2Proof.Machine
end

