-- ==== Sys2Proof/Machine/Lanes.lean ====
section
/-! DEFINITION. The cross-lane major 0x0F (08: R196 to R206). Every lane reads the old block; inactive and exited lanes supply the values
stated for each instruction (R198). -/

namespace Sys2Proof.Machine

open Sys2Proof

/-- Register r of the active thread at a lane, old value. -/
def laneReg (b : Block) (g : Group) (r : Reg) (lane : Nat) : Option Word := (laneThread b g lane).map fun t => t.reg r

/-- LPSET: the whole of lpN; entries of inactive and exited lanes become 32 (R196). -/
def execLpset (n : BitVec 3) (a : Reg) (s : State) : Host.Outcome State Fault Refusal :=
  issue (.lpset n a) s fun b g =>
    let row := (List.range 32).map fun l => ((laneReg b g a l).map fun v => v.extractLsb' 0 6).getD 32
    advance s { b with lps := b.lps.set (n.toNat - 1) row } g 1 []

/-- SHFL (R199). -/
def execShfl (d a b : Reg) (s : State) : Host.Outcome State Fault Refusal :=
  onLanes (.shfl d a b) s fun blk g _ th =>
    let e := (th.reg b).toNat % 64
    th.setReg d (if e < 32 then (laneReg blk g a e).getD 0 else 0)

/-- Element j of the troop's register r as one vector of elements of width w; zero in inactive lanes (R200). -/
def troopEl (b : Block) (g : Group) (w : Nat) (r : Reg) (j : Nat) : Nat :=
  ((laneReg b g r (j / (64 / w))).map fun v => elt w v (j % (64 / w))).getD 0

/-- SLIDE (R200). -/
def execSlide (up : Bool) (w : IntW) (d a b : Reg) (s : State) : Host.Outcome State Fault Refusal :=
  onLanes (.slide up w d a b) s fun blk g m th =>
    let wd := intBits w
    let n := 64 / wd
    th.setReg d (pack wd fun p =>
      let j := m.lane * n + p
      if up then (if j == 0 then ((laneReg blk g b 31).map fun v => elt wd v (n - 1)).getD 0 else troopEl blk g wd a (j - 1))
      else if j == 32 * n - 1 then ((laneReg blk g b 0).map fun v => elt wd v 0).getD 0
      else troopEl blk g wd a (j + 1))

/-- Lanes that send to a lane, ascending (R201). -/
def senders (b : Block) (g : Group) (rb : Reg) (lane : Nat) : List Nat :=
  (List.range 32).filter fun l => ((laneReg b g rb l).map fun v => v.toNat % 64 == lane).getD false

/-- PUSH (R201). -/
def execPush (d a b : Reg) (p : BitVec 3) (s : State) : Host.Outcome State Fault Refusal :=
  onLanes (.push d a b p) s fun blk g m th =>
    let from_ := senders blk g b m.lane
    match from_.getLast? with
    | none => th.setPred p false
    | some l => (th.setReg d ((laneReg blk g a l).getD 0)).setPred p (from_.length ≥ 2)

/-- BCAST (R202). -/
def execBcast (d a : Reg) (n : BitVec 5) (s : State) : Host.Outcome State Fault Refusal :=
  onLanes (.bcast d a n) s fun blk g _ th => th.setReg d ((laneReg blk g a n.toNat).getD 0)

/-- VOTE over the active lanes (R203). -/
def execVote (md : VoteMode) (d : Reg) (neg : Bool) (p : BitVec 3) (s : State) : Host.Outcome State Fault Refusal :=
  onLanes (.vote md d neg p) s fun blk g _ th =>
    let vs := (activeLanes blk g).map fun x => (x.1.lane, x.2.pred p != neg)
    let pd := d.extractLsb' 0 3
    match md with
    | .all => th.setPred pd (vs.all fun v => v.2)
    | .any => th.setPred pd (vs.any fun v => v.2)
    | .eq => th.setPred pd (vs.all (fun v => v.2) || vs.all fun v => !v.2)
    | .ballot => th.setReg d (BitVec.ofNat 64 ((vs.map fun v => if v.2 then 2 ^ v.1 else 0).sum))

/- RED and SCAN (R204, R205). -/

/-- Element width of a RED type. -/
def redBits : RedT → Nat
  | .d | .du => 64
  | .w | .wu | .s => 32
  | .h | .bf => 16

/-- The floating-point format of a RED type. -/
def redFloat : RedT → Option FFmt
  | .s => some ffS | .h => some ffH | .bf => some ffB
  | _ => none

/-- A signed integer RED type. -/
def redSigned : RedT → Bool
  | .d | .w => true
  | _ => false

/-- The identity an inactive lane supplies (R204). -/
def redIdent (t : RedT) (o : RedOp) : Nat :=
  let w := redBits t
  match redFloat t with
  | some f => match o with
    | .add => f.signed true 0
    | .min => f.infC
    | .max => f.signed true f.infC
    | _ => 0
  | none => match o with
    | .min => if redSigned t then 2 ^ (w - 1) - 1 else 2 ^ w - 1
    | .max => if redSigned t then 2 ^ (w - 1) else 0
    | .and => 2 ^ w - 1
    | _ => 0

/-- The combining function (R204). -/
def redComb (t : RedT) (o : RedOp) (x y : Nat) : Nat × BitVec 6 :=
  let w := redBits t
  match redFloat t with
  | some f => match o with
    | .add => f.add x y
    | .min => f.minmax false false x y
    | .max => f.minmax true false x y
    | _ => (x, 0)
  | none => match o with
    | .add => ((x + y) % 2 ^ w, 0)
    | .min => (if redSigned t then wrap w (min (sgn w x) (sgn w y)) else min x y, 0)
    | .max => (if redSigned t then wrap w (max (sgn w x) (sgn w y)) else max x y, 0)
    | .and => (x &&& y, 0)
    | .or => (x ||| y, 0)
    | .xor => (x ^^^ y, 0)

/-- One level of the tree: neighbours combined, left operand from the lower lanes, with the flags of its evaluations (R204). -/
def treeLevel (f : Nat → Nat → Nat × BitVec 6) : List Nat → List Nat × BitVec 6
  | x :: y :: r =>
    let (v, g) := f x y
    let (vs, h) := treeLevel f r
    (v :: vs, g ||| h)
  | l => (l, 0)

/-- Levels 0 to n of the tree, and the flags of all its evaluations (R204). -/
def treeLevels (f : Nat → Nat → Nat × BitVec 6) : Nat → List Nat → List (List Nat) × BitVec 6
  | 0, l => ([l], 0)
  | n + 1, l =>
    let (l', g) := treeLevel f l
    let (ls, h) := treeLevels f n l'
    (l :: ls, g ||| h)

/-- The prefix of n + 1 lanes from the tree's nodes, combined from left to right (R205). -/
def scanFrom (f : Nat → Nat → Nat × BitVec 6) (lv : List (List Nat)) (n : Nat) : Nat → Nat → Option Nat → BitVec 6 → Option Nat × BitVec 6
  | 0, _, acc, fl => (acc, fl)
  | k + 1, base, acc, fl =>
    if bitOf n k then
      let b := (lv.getD k []).getD (base >>> k) 0
      match acc with
      | none => scanFrom f lv n k (base + 2 ^ k) (some b) fl
      | some a => let (v, g) := f a b
        scanFrom f lv n k (base + 2 ^ k) (some v) (fl ||| g)
    else scanFrom f lv n k base acc fl

/-- Element e of every lane of the troop (R204). -/
def redInputs (b : Block) (g : Group) (t : RedT) (o : RedOp) (a : Reg) (e : Nat) : List Nat :=
  (List.range 32).map fun l => ((laneReg b g a l).map fun v => elt (redBits t) v e).getD (redIdent t o)

/-- RED: node(5, 0) of each element, with the tree's flags in every active lane (R204, R205). -/
def execRed (t : RedT) (o : RedOp) (d a : Reg) (s : State) : Host.Outcome State Fault Refusal :=
  onLanes (.red t o d a) s fun blk g _ th =>
    let tr (e : Nat) := treeLevels (redComb t o) 5 (redInputs blk g t o a e)
    let w := redBits t
    putReg d (pack w fun e => ((tr e).1.getLastD []).headD 0,
      (List.range (64 / w)).foldl (fun acc e => acc ||| (tr e).2) 0) th

/-- SCAN: the inclusive prefix of each lane; flags of the tree and of the active lanes' prefixes (R205). -/
def execScan (t : RedT) (o : RedOp) (d a : Reg) (s : State) : Host.Outcome State Fault Refusal :=
  onLanes (.scan t o d a) s fun blk g m th =>
    let w := redBits t
    let f := redComb t o
    let tr (e : Nat) := treeLevels f 5 (redInputs blk g t o a e)
    let pre (e lane : Nat) := scanFrom f (tr e).1 (lane + 1) 6 0 none 0
    putReg d (pack w fun e => (pre e m.lane).1.getD 0,
      (List.range (64 / w)).foldl (fun acc e =>
        acc ||| (tr e).2 ||| (activeLanes blk g).foldl (fun acc x => acc ||| (pre e x.1.lane).2) 0) 0) th

/- REDMAXI (R206). -/

/-- Element width and key of a REDMAXI type (R100, R206). -/
def maxBits : MaxT → Nat
  | .d | .du => 64
  | .w | .wu | .s => 32
  | .h | .bf => 16

/-- The key of a value, widened exactly to FP32 where it is floating point (R100). -/
def maxKey (t : MaxT) (x : Nat) : Int :=
  match t with
  | .s => key32 x
  | .h => key32 (ffS.put .ne (ffH.val x)).1
  | .bf => key32 (ffS.put .ne (ffB.val x)).1
  | .d => sgn 64 x
  | .w => sgn 32 x
  | .du | .wu => x

/-- The value as delivered: a NaN canonical (R100). -/
def maxValue (t : MaxT) (x : Nat) : Nat :=
  match t with
  | .s => if (ffS.val x).isNan then ffS.nanC else x
  | .h => if (ffH.val x).isNan then ffH.nanC else x
  | .bf => if (ffB.val x).isNan then ffB.nanC else x
  | _ => x

/-- The pair that ranks highest: greater key, then lower index, then lower lane (R100, R206). -/
def bestPair : List (Int × Nat × Nat) → Option (Int × Nat × Nat)
  | [] => none
  | x :: r => match bestPair r with
    | none => some x
    | some y => if y.1 > x.1 || (y.1 == x.1 && y.2.1 < x.2.1) then some y else some x

/-- REDMAXI (R206). -/
def execRedmaxi (t : MaxT) (d a b : Reg) (s : State) : Host.Outcome State Fault Refusal :=
  onLanes (.redmaxi t d a b) s fun blk g _ th =>
    let ps := (activeLanes blk g).map fun x =>
      (maxKey t (elt (maxBits t) (x.2.reg a) 0), (x.2.reg b).toNat, elt (maxBits t) (x.2.reg a) 0)
    match bestPair ps with
    | none => th
    | some (_, i, v) => (th.setReg d (BitVec.ofNat 64 (maxValue t v))).setReg (nextReg d) (BitVec.ofNat 64 i)

end Sys2Proof.Machine
end

