-- ==== Sys2Proof/Machine/Collective.lean ====
section
/-! DEFINITION. Collectives (R273, R274, R320 to R329): descriptors, the contributions the engine sends and stages, chunks reduced in rank
order, notices, completion, and reshards. -/

namespace Sys2Proof.Machine

open Sys2Proof

/- The descriptor (R320, R321). -/

/-- A field of the captured descriptor. -/
def Coll.f (c : Coll) (o n : Nat) : Nat := at_ c.d o n
def Coll.idn (c : Coll) : Nat := c.f 0 8
def Coll.opc (c : Coll) : Nat := c.f 8 1
def Coll.dtype (c : Coll) : Nat := c.f 9 1 % 16
def Coll.sfmt (c : Coll) : Nat := c.f 9 1 / 16
def Coll.nrank (c : Coll) : Nat := c.f 12 2
def Coll.me (c : Coll) : Nat := c.f 14 2
def Coll.src (c : Coll) : Nat := c.f 24 8
def Coll.dst (c : Coll) : Nat := c.f 32 8
def Coll.count (c : Coll) : Nat := c.f 40 8
def Coll.csize (c : Coll) : Nat := c.f 48 4
def Coll.s_ (c : Coll) : Nat := collSize c.dtype
def Coll.job (c : Coll) : Nat := c.by_.job

/-- Bytes of the first e elements of a source at `src` (R328: line-packed blocks with their scales, CB4 nibbles). -/
def srcBytes (sfmt s src e : Nat) : Nat :=
  if sfmt == 0 then e * s
  else if sfmt == 4 then (e + 1) / 2
  else if e == 0 then 0
  else
    let k := src % 128 + e - 1
    128 * (k / 120) + 120 + k % 120 / 24 + 1 - src % 128

/-- Length of this rank's contribution. -/
def Coll.srcLen (c : Coll) : Nat := srcBytes c.sfmt c.s_ c.src c.count

/-- The range of this rank's source that rank r takes (R321). -/
def Coll.wants (c : Coll) (r : Nat) : Nat × Nat :=
  match c.opc with
  | 1 => (r * (c.count / c.nrank) * c.s_, (r + 1) * (c.count / c.nrank) * c.s_)
  | 3 => if c.me == c.f 76 2 then (0, c.srcLen) else (0, 0)
  | 4 => if c.aux.getD c.me 65536 == r then (0, c.srcLen) else (0, 0)
  | _ => (0, c.srcLen)

/-- The rank a permute sends to this rank. -/
def Coll.giver (c : Coll) : Option Nat := c.aux.findIdx? fun t => t == c.me

/-- The ranks that contribute to this rank's result. -/
def Coll.givers (c : Coll) : List Nat :=
  match c.opc with
  | 3 => [c.f 76 2]
  | 4 => c.giver.toList
  | _ => List.range c.nrank

/-- Elements of this rank's destination range (R321). -/
def Coll.dstEls (c : Coll) : Nat :=
  match c.opc with
  | 1 => c.count / c.nrank
  | 2 => c.nrank * c.count
  | 4 => if c.giver.isSome then c.count else 0
  | 5 => c.f 78 2
  | _ => c.count

/-- Bytes of this rank's destination range. -/
def Coll.dstLen (c : Coll) : Nat :=
  if c.opc == 5 then 8 * ((c.dstEls * c.s_ + 7) / 8) + 8 * c.dstEls else c.dstEls * c.s_

/-- Number of chunks of the destination range. -/
def Coll.nchunk (c : Coll) : Nat := if c.csize == 0 then 0 else (c.dstLen + c.csize - 1) / c.csize

/-- Source segments of a bound collective, and destination segments of ARRSIG. -/
def Coll.srcSegs (c : Coll) : Nat := (c.count + c.f 72 4 - 1) / c.f 72 4
def Coll.dstSegs (c : Coll) : Nat := if c.f 64 8 == 0 then 0 else (c.dstEls + c.f 72 4 - 1) / c.f 72 4

/-- Every rank sends notices before any completes: A96 (R324) and COLL.ver (R273), and a reshard's moves (R329). -/
def Coll.notifies (c : Coll) : Bool := (c.dtype == 7 && c.opc ≤ 1) || c.kind == 1

/-- Chunks of the collective may be reduced in a switch (R327). -/
def Coll.switched (c : Coll) : Bool :=
  bitOf (c.f 11 1) 0 && c.opc ≤ 1 && (c.dtype ≤ 3 || (c.dtype == 7 && c.f 10 1 == 0) || (c.dtype == 8 && 3 ≤ c.f 10 1))

/-- What the ranks compare with each rank's first chunk (R392 cause 0x23), and what a receiver needs of another rank's descriptor: IBASE,
SRC. -/
def Coll.head (c : Coll) : List Word :=
  [BitVec.ofNat 64 (c.opc + c.f 9 1 <<< 8 + c.f 10 1 <<< 16 + c.nrank <<< 32), BitVec.ofNat 64 c.count,
   BitVec.ofNat 64 (c.csize + c.f 52 4 <<< 32), BitVec.ofNat 64 (c.f 88 8), BitVec.ofNat 64 c.src, BitVec.ofNat 64 (b2n c.notifies)]

/- Records of state. -/

def updColl (s : State) (op : Nat) (f : Coll → Coll) : State := { s with colls := replaceFirst (fun c => c.op == op) f s.colls }
def State.coll? (s : State) (op : Nat) : Option Coll := s.colls.find? fun c => c.op == op

/-- A collective with an ID at this rank. -/
def collOf (s : State) (job idn : Nat) : Option Coll := s.colls.find? fun c => c.job == job && c.idn == idn

/-- The layout epoch of a job at this package (R274). -/
def State.epoch (s : State) (job : Nat) : Nat := tget 0 s.epochs job

/-- Collectives of an ID that this package has taken (log 17). -/
def collNo (s : State) (job idn : Nat) : Nat :=
  ((s.collNos.find? fun x => x.1 == job && x.2.1 == idn).map fun x => x.2.2).getD 0

/- Packets (R315; log 17): TSPEC bytes 39:32 ID, 43:40 chunk, 45:44 contributing rank, 46 kind (0 data, 1 notice, 2 outcome, 3 opening), 47
status (bit 7 with an outcome: the ranks disagree), or for data the number of further ranks added in a switch; 55:48 offset in the
contribution, 57:56 bytes, 58 first byte of BASE's granule, 63:60 which collective of its ID it is. -/

/-- A packet of a collective to rank r. -/
def collPacket (c : Coll) (r typ kind : Nat) : Packet :=
  { blankPacket with typ := typ, dst := c.ranks.getD r 0, job := c.job, user := c.by_.user
                     tspec := tspecOf [(0, 8, c.idn), (12, 2, c.me), (14, 1, kind), (28, 4, c.no)] }

/-- A notice or an outcome sent to every other rank. -/
def collTell (s : State) (c : Coll) (kind status : Nat) : State :=
  ((List.range c.nrank).filter fun r => r != c.me).foldl (fun s r =>
    (sendPacket s { collPacket c r 10 kind with
      tspec := tspecOf [(0, 8, c.idn), (12, 2, c.me), (14, 1, kind), (15, 1, status), (28, 4, c.no)] }).1) s

/-- The opening: this rank's descriptor fields, with its first chunk. -/
def collOpen (s : State) (c : Coll) : State :=
  ((List.range c.nrank).filter fun r => r != c.me).foldl (fun s r =>
    (sendPacket s { collPacket c r 10 3 with
      n := c.head.length, data := c.head, masks := c.head.map fun _ => 0xFF
      seals := c.head.zipIdx.map fun w => seal8 (leBytes w.1.toNat 8) (8 * w.2) }).1) s

/- Completion (R273, R324, R326, R434). -/

/-- A destination segment's arrival signal decremented. -/
def segDone (s : State) (c : Coll) (status g : Nat) : State :=
  signalDoneAt s (dieOf c.by_.core) c.job c.by_.user (c.f 64 8 + 8 * g) status

/-- The collective completes at this rank: segments not yet decremented take the status, its token and SIGNAL are decremented, its ID is
free. -/
def collEnd (s : State) (c : Coll) (status : Nat) : State :=
  let s := { s with colls := s.colls.filter fun x => x.op != c.op }
  let s := ((List.range c.dstSegs).filter fun g => !c.landed.contains g).foldl (fun s g => segDone s c status g) s
  let s := engDone s c.op fun _ => []
  signalDoneAt s (dieOf c.by_.core) c.job c.by_.user (c.f 56 8) status

/-- It completes with a status at every rank. -/
def collFail (s : State) (c : Coll) (status : Nat) : State := collEnd (collTell s c 2 status) c status

/-- An ENGINE record of the queue route (R392 causes 0x23, 0x24). -/
def collRec (s : State) (c : Coll) (code : Nat) : State :=
  queueRec s c.die { unitRec s code (BitVec.ofNat 64 c.by_.recVa) 0xFFFF c.by_.grid c.job with
    core := c.by_.core, tid := c.by_.tid, bidx := c.by_.bidx }

/-- The ranks disagree: one record and FAULT at every rank (R392 cause 0x23). `told`: another rank has said so. -/
def collDisagree (s : State) (c : Coll) (told : Bool) : State :=
  collEnd (collRec (if told then s else collTell s c 2 (128 + 3)) c 0x0723) c 3

/-- It parks, or completes with FAULT at every rank (R403). -/
def collFault (s : State) (c : Coll) (code va : Nat) (det : Word) : State :=
  match engFault s c.by_ code va det with
  | (s, some tok) => updColl s c.op fun x => { x with token := some tok }
  | (s, none) => collFail s c 3

/-- Segments all of whose chunks are written land (R326). -/
def segsLanded (s : State) (c : Coll) : State :=
  let done (g : Nat) : Bool :=
    let lo := if c.opc == 5 then 0 else g * c.f 72 4 * c.s_
    let hi := if c.opc == 5 then c.dstLen else min c.dstLen ((g + 1) * c.f 72 4 * c.s_)
    (List.range c.nchunk).all fun j => hi ≤ j * c.csize || (j + 1) * c.csize ≤ lo || c.chunks.contains j
  let new := (List.range c.dstSegs).filter fun g => !c.landed.contains g && done g
  if new.isEmpty || engOut s c.op then s
  else new.foldl (fun s g => segDone s c 0 g) (updColl s c.op fun x => { x with landed := x.landed ++ new })

/- Sending (R323, R325). -/

/-- Some bytes of this rank's source, from offset lo, delivered to the ranks that take them: staged here, sent elsewhere. -/
def collDeliver (s : State) (c : Coll) (lo n : Nat) (gs : List (Nat × List Byte × Byte)) : State :=
  (List.range c.nrank).foldl (fun s r =>
    let a := max lo (c.wants r).1
    let b := min (lo + n) (c.wants r).2
    if b ≤ a then s
    else
      let va := c.src + a
      let qs := granRange va (b - a)
      let gran (q : Nat) : List Byte × Byte := ((gs.find? fun g => g.1 == q).map fun g => g.2).getD (List.replicate 8 0, 0)
      if r == c.me then
        updColl s c.op fun x => { x with stage := x.stage ++ qs.map fun q =>
          let v := max va (8 * q)
          { rank := c.me, more := 0, off := v - c.src, va := v, n := min (va + (b - a)) (8 * q + 8) - v, gran := (gran q).1
            err := (gran q).2 } }
      else
        let mask (q : Nat) : Byte :=
          BitVec.ofNat 8 ((List.range 8).foldl (fun m i => m + b2n (va ≤ 8 * q + i && 8 * q + i < va + (b - a)) <<< i) 0)
        (sendPacket s { collPacket c r (if c.switched then 11 else 10) 0 with
          n := qs.length, base := BitVec.ofNat 64 (va / 8 * 8)
          data := qs.map fun q => BitVec.ofNat 64 (leNat (gran q).1)
          seals := qs.map fun q => seal8 (gran q).1 (8 * q) ^^^ (gran q).2
          masks := qs.map mask
          tspec := tspecOf [(0, 8, c.idn), (8, 4, if c.csize == 0 then 0 else a / c.csize), (12, 2, c.me), (16, 8, a), (24, 2, b - a),
                            (26, 1, va % 8), (28, 4, c.no)] }).1) s

/-- Ranges of the source that a set of ready segments opens. -/
def segRanges (c : Coll) (gs : List Nat) : List (Nat × Nat) :=
  if c.sfmt == 0 then gs.map fun g => (g * c.f 72 4 * c.s_, min c.count ((g + 1) * c.f 72 4) * c.s_)
  else if c.ready.length == c.srcSegs then [(0, c.srcLen)] else []

/-- This rank contributes something. -/
def Coll.gives (c : Coll) : Bool := (List.range c.nrank).any fun r => (c.wants r).1 < (c.wants r).2

/-- The opening of every rank is there: before that nothing is written and no rank completes (R392 cause 0x23, R434). -/
def headsThere (c : Coll) : Bool := (List.range c.nrank).all fun q => q == c.me || c.heads.any fun h => h.1 == q

/-- Every part of the source has been read and sent. -/
def Coll.sentAll (c : Coll) : Bool := c.todo.isEmpty && (c.kind != 3 || !c.gives || c.ready.length == c.srcSegs)

/-- The version word of COLL.ver: wait, fault, or whether it matches (R273). -/
def collVersion (s : State) (c : Coll) : State × Except (Option (Nat × Nat × Word)) Bool :=
  let va := c.f 96 8 + 8
  if va % 8 != 0 then (s, .error (some (0x0408, va, engDetail c.by_)))
  else match engGrans c.by_ c.op true [va / 8] s with
    | (s, .wait) => (s, .error none)
    | (s, .bad k a d) => (s, .error (some (k, a, d)))
    | (s, .ok gs) =>
      (dropGot { s with engAsks := s.engAsks.filter fun a => a.op != c.op } c.op, .ok (leNat (gBytes gs va 8) == c.f 104 8))

/-- What a status outranks: the first that is not OK. -/
def firstBad (a b : Nat) : Nat := if a == 0 then b else a

/-- The ranks whose notices this rank waits for. -/
def Coll.awaits (c : Coll) : List Nat :=
  (List.range c.nrank).filter fun r => r != c.me &&
    (if c.kind == 2 then c.moves.any fun m => m.1 == r && m.2.1 == c.me
     else c.notifies || (c.heads.any fun h => h.1 == r && h.2.getD 5 0 != 0))

/-- The collective goes on as far as it can. `fuel` bounds its pieces. DESIGN CHOICE (log 73): a RESHARD that completes with a status other than
OK leaves the job's layout epoch as it was; R274 does not say. -/
def collRun : Nat → State → Nat → State
  | 0, s, _ => s
  | fuel + 1, s, op =>
    match s.coll? op with
    | none => s
    | some c =>
      if c.token.isSome then s
      else match c.phase with
        | 0 =>
          if c.kind == 2 then s
          else if c.f 52 4 < s.epoch c.job then collEnd s c 2
          else if s.epoch c.job < c.f 52 4 then s
          else
            let s := updColl s op fun x => { x with phase := if c.kind == 1 then 1 else 2 }
            (if c.kind == 1 then collRun fuel s op
             else collRun fuel (updColl (collOpen s c) op fun x =>
               { x with todo := if x.kind == 3 || !x.gives then x.todo else [(0, x.srcLen)] }) op)
        | 1 => (match collVersion s c with
          | (s, .error none) => s
          | (s, .error (some (k, a, d))) => collFault s c k a d
          | (s, .ok false) => collFail s c 2
          | (s, .ok true) => collRun fuel (updColl (collOpen s c) op fun x =>
              { x with phase := 2, todo := if x.gives then [(0, x.srcLen)] else [] }) op)
        | 2 => (match c.todo with
          | (lo, hi) :: r =>
            let n := min (hi - lo) (256 - (c.src + lo) % 256)
            if n == 0 then collRun fuel (updColl s op fun x => { x with todo := r }) op
            else match engGrans c.by_ op false (granRange (c.src + lo) n) s with
              | (s, .wait) => s
              | (s, .bad k a d) => collFault s c k a d
              | (s, .ok gs) =>
                collRun fuel (updColl (collDeliver (dropGot s op) c lo n gs) op fun x => { x with todo := (lo + n, hi) :: r }) op
          | [] =>
            let s := segsLanded s c
            if c.sentAll && headsThere c && c.chunks.length == c.nchunk && !engOut s op && c.kind != 2 then
              collRun fuel (updColl s op fun x => { x with phase := if c.kind == 1 then 3 else 4 }) op
            else s)
        | 3 => (match collVersion s c with
          | (s, .error none) => s
          | (s, .error (some (k, a, d))) => collFault s c k a d
          | (s, .ok v) => collRun fuel (updColl s op fun x => { x with phase := 4, status := if v then x.status else firstBad x.status 2 }) op)
        | _ =>
          -- own notice once, marked by a notice of its own rank (R324)
          (if (c.notifies || c.kind == 2) && !(c.notices.any fun n => n.1 == c.me) then
            collRun fuel (updColl (collTell s c 1 c.status) op fun x => { x with notices := x.notices ++ [(c.me, c.status)] }) op
           else if c.awaits.all fun r => c.notices.any fun n => n.1 == r then
            (let st := c.notices.foldl (fun a n => firstBad a n.2) c.status
             let s := if c.kind != 2 && c.dtype == 7 && st == 3 then collRec s c 0x0724 else s
             if c.kind == 2 && st == 0 then collEnd { s with epochs := tset s.epochs c.job (s.epoch c.job + 1) } c st
             else collEnd s c st)
           else s)

/-- Steps a collective's run can take. -/
def collFuel (c : Coll) : Nat := c.srcLen / 128 + 3 * c.todo.length + c.srcSegs + 16

/-- Every collective that can go on does. -/
def collsAgain (s : State) : State := s.colls.foldl (fun s c => collRun (collFuel c) s c.op) s

/- Arrivals (R322, R323, R392 cause 0x23). -/

/-- The granules of a data packet as staged pieces. -/
def packetPieces (p : Packet) : List CPiece :=
  let base := p.base.toNat
  let va := base + tfield p 26 1
  let n := tfield p 24 2
  (List.range p.n).map fun i =>
    let q := base / 8 + i
    let v := max va (8 * q)
    let g := leBytes (p.data.getD i 0).toNat 8
    { rank := tfield p 12 2, more := tfield p 15 1, off := tfield p 16 8 + (v - va), va := v, n := min (va + n) (8 * q + 8) - v, gran := g
      err := seal8 g (8 * q) ^^^ p.seals.getD i 0 }

/-- A packet of a live collective. -/
def collTake (s : State) (c : Coll) (p : Packet) : State :=
  let rank := tfield p 12 2
  let s := match tfield p 14 1 with
    | 0 => updColl s c.op fun x => { x with stage := x.stage ++ packetPieces p }
    | 1 => updColl s c.op fun x => { x with notices := x.notices ++ [(rank, tfield p 15 1)] }
    | 2 => if bitOf (tfield p 15 1) 7 then collDisagree s c true else collEnd s c (tfield p 15 1)
    | _ =>
      if p.data.take 3 != c.head.take 3 then collDisagree s c false
      else updColl s c.op fun x => { x with heads := x.heads ++ [(rank, p.data)] }
  match s.coll? c.op with
  | some c => collRun (collFuel c) s c.op
  | none => s

/-- A packet of a collective performed: taken by the collective it belongs to, kept until that COLL is issued here, or dropped when that
has completed here. -/
def collArrive (s : State) (p : Packet) : State :=
  if collNo s p.job (tfield p 0 8) < tfield p 28 4 then { s with earlyChunks := s.earlyChunks ++ [p] }
  else match collOf s p.job (tfield p 0 8) with
    | some c => if c.no == tfield p 28 4 then collTake s c p else s
    | none => s

/-- A collective enters the engine: the next of its ID at this package. -/
def collEnter (s : State) (c : Coll) : State :=
  { s with
    nextId := s.nextId + 1
    colls := s.colls ++ [c]
    collNos := (s.collNos.filter fun x => !(x.1 == c.job && x.2.1 == c.idn)) ++ [(c.job, c.idn, c.no)] }

/-- The packets that came before their COLL was issued are taken. -/
def collEarly (s : State) (c : Coll) : State :=
  let is (p : Packet) : Bool := p.job == c.job && tfield p 0 8 == c.idn && tfield p 28 4 == c.no
  let mine := s.earlyChunks.filter is
  let s := { s with earlyChunks := s.earlyChunks.filter fun p => !is p }
  mine.foldl (fun s p => match s.coll? c.op with
    | some c => collTake s c p
    | none => s) s

/- Reduction (R323, R324, R328). -/

/-- The source bytes of rank q that destination bytes [lo, hi) need: (rank, offset, count). -/
def collNeeds (c : Coll) (lo hi : Nat) : List (Nat × Nat × Nat) :=
  let b := c.count * c.s_
  match c.opc with
  | 0 => c.givers.map fun q => (q, lo, hi - lo)
  | 1 => c.givers.map fun q => (q, c.me * (c.count / c.nrank) * c.s_ + lo, hi - lo)
  | 5 => c.givers.map fun q => (q, 0, b)
  | _ =>
    c.givers.zipIdx.filterMap fun x =>
      let base := if c.opc == 2 then x.1 * b else 0
      let a := max lo base - base
      let z := min hi (base + b) - base
      if z ≤ a || hi ≤ base then none
      else if c.sfmt == 0 then some (x.1, a, z - a)
      else if c.sfmt == 4 then some (x.1, a / c.s_ / 2, (z / c.s_ + 1) / 2 - a / c.s_ / 2)
      else
        let src := ((c.heads.find? fun h => h.1 == x.1).map fun h => (h.2.getD 4 0).toNat).getD c.src
        let k0 := src % 128 + a / c.s_
        some (x.1, 128 * (k0 / 120) + k0 % 120 - src % 128, srcBytes c.sfmt c.s_ src (z / c.s_) - (128 * (k0 / 120) + k0 % 120 - src % 128))

/-- The staged piece that holds offset o of rank q, its own or one to which a switch has added q's. -/
def pieceAt (c : Coll) (q o : Nat) : Option CPiece :=
  c.stage.find? fun p => p.rank ≤ q && q ≤ p.rank + p.more && p.off ≤ o && o < p.off + p.n

/-- Offset of the first byte of the need that is not there. -/
def lacks (c : Coll) (need : Nat × Nat × Nat) : Bool :=
  (List.range need.2.2).any fun i => (pieceAt c need.1 (need.2.1 + i)).isNone


/-- Byte o of rank q's contribution. -/
def cByte (c : Coll) (q o : Nat) : Byte :=
  match pieceAt c q o with
  | some p => p.gran.getD (p.va % 8 + (o - p.off)) 0
  | none => 0

/-- n bytes of rank q's contribution as a number. -/
def cNum (c : Coll) (q o n : Nat) : Nat := leNat ((List.range n).map fun i => cByte c q (o + i))

/-- The ranks whose contributions at an offset are separate: those a switch has added to a lower rank's are left out. -/
def separate (c : Coll) (o : Nat) : List Nat :=
  (List.range c.nrank).filter fun q => match pieceAt c q o with
    | some p => p.rank == q
    | none => true

/-- REDOP as RED's operation, and DTYPE as its type. -/
def collRed : Nat → RedOp
  | 0 => .add | 1 => .min | 2 => .max | 3 => .and | 4 => .or | _ => .xor
def collTy : Nat → RedT
  | 0 => .w | 1 => .d | 2 => .wu | 3 => .du | 4 => .s | 5 => .bf | _ => .h

/-- One byte combined (DTYPE BYTES). -/
def byteComb (o : RedOp) (x y : Nat) : Nat :=
  match o with
  | .add => (x + y) % 256
  | .min => min x y
  | .max => max x y
  | .and => x &&& y
  | .or => x ||| y
  | .xor => x ^^^ y

/-- reduce of R323 over contributions in rank order; none where A96 anchors differ (R324). Those of A96 are added to an element that begins at
0, the lowest rank's among them, in the free order and grouping of `accumEnd` (R90; log 10). -/
def reduceEl (free pos dtype redop : Nat) : List Nat → Option Nat
  | [] => some 0
  | x :: xs =>
    if dtype == 7 then
      let anc (v : Nat) : Nat := v / 2 ^ 96 % 2 ^ 16
      if xs.any fun y => anc y != anc x then none
      else
        let acc := (x :: xs).foldl (fun (a : Accum) y => a.add (sgn 96 (y % 2 ^ 96), y / 2 ^ 112 % 4))
          { pos := 0, neg := 0, sp := 0, ts := [] }
        some (wrap 96 (accumEnd free pos 0 acc).1 + anc x <<< 96 + acc.sp <<< 112)
    else if dtype == 8 then some (xs.foldl (byteComb (collRed redop)) x)
    else some (xs.foldl (fun a y => (redComb (collTy dtype) (collRed redop) a y).1) x)

/-- The key of a top-k value (R100). -/
def collMax : Nat → MaxT
  | 0 => .w | 1 => .d | 2 => .wu | 3 => .du | 4 => .s | 5 => .bf | _ => .h

/-- The K best pairs (value, index) in descending order (R100, R321). -/
def topPairs (c : Coll) : List (Nat × Nat) :=
  let all := c.givers.flatMap fun q =>
    let base := if q == c.me then c.f 88 8 else ((c.heads.find? fun h => h.1 == q).map fun h => (h.2.getD 3 0).toNat).getD 0
    (List.range c.count).map fun i => (cNum c q (i * c.s_) c.s_, (base + i) % 2 ^ 64)
  let key (v : Nat) : Int := maxKey (collMax c.dtype) v
  (sortBy (fun a b => key a.1 > key b.1 || (key a.1 == key b.1 && a.2 ≤ b.2)) all).take c.dstEls

/-- The element of a widening or plain transfer (R328): its bytes. `cb`: the codebook of AUX, whose NaN entries keep sign and payload (DESIGN
CHOICE, log 70). -/
def moveEl (s : State) (c : Coll) (cb : List Byte) (q i : Nat) : List Byte :=
  let bf := c.dtype == 5
  if c.sfmt == 0 then (List.range c.s_).map fun j => cByte c q (i * c.s_ + j)
  else if c.sfmt == 4 then
    let v := at_ cb (2 * ((cByte c q (i / 2)).toNat >>> (4 * (i % 2)) % 16)) 2
    leBytes (if bf then v else v <<< 16) c.s_
  else
    let src := if q == c.me then c.src else ((c.heads.find? fun h => h.1 == q).map fun h => (h.2.getD 4 0).toNat).getD 0
    let k := src % 128 + i
    let line := 128 * (k / 120)
    let el := cByte c q (line + k % 120 - src % 128)
    let sc := (cByte c q (line + 120 + k % 120 / 24 - src % 128)).toNat
    leBytes (ldfEl s c.die c.sfmt 0 bf [el] sc 0).1 c.s_

/-- The writes of destination bytes [lo, hi) as (offset, bytes), and whether A96 anchors differ; then its elements are free (log 10). -/
def chunkWrites (s : State) (c : Coll) (cb : List Byte) (lo hi : Nat) : List (Nat × List Byte) × Bool :=
  let els := (List.range ((hi - lo + c.s_ - 1) / c.s_)).map fun i => lo / c.s_ + i
  match c.opc with
  | 0 | 1 =>
    let base := if c.opc == 1 then c.me * (c.count / c.nrank) * c.s_ else 0
    let rs := els.map fun e =>
      let o := base + e * c.s_
      (e, reduceEl s.free (e - lo / c.s_) c.dtype (c.f 10 1) ((separate c o).map fun q => cNum c q o c.s_))
    if rs.any fun r => r.2.isNone then
      (rs.map fun r => (r.1 * c.s_, leBytes (Config.freeWord (s.free + 2 * r.1)).toNat 8
                                      ++ leBytes (Config.freeWord (s.free + 2 * r.1 + 1)).toNat 8), true)
    else (rs.map fun r => (r.1 * c.s_, leBytes (r.2.getD 0) c.s_), false)
  | 5 =>
    let ps := topPairs c
    let at8 := 8 * ((c.dstEls * c.s_ + 7) / 8)
    let ws := (ps.zipIdx.map fun x => (x.2 * c.s_, leBytes (maxValue (collMax c.dtype) x.1.1) c.s_))
      ++ ps.zipIdx.map fun x => (at8 + 8 * x.2, leBytes x.1.2 8)
    (ws.filter fun w => lo ≤ w.1 && w.1 < hi, false)
  | 2 => (els.map fun e => (e * c.s_, moveEl s c cb (e / c.count) (e % c.count)), false)
  | _ => (els.map fun e => (e * c.s_, moveEl s c cb (c.givers.headD 0) e), false)

/-- The staged pieces a need uses that fail their seal check (R323, R410). -/
def badPiece (c : Coll) (needs : List (Nat × Nat × Nat)) : Option CPiece :=
  c.stage.find? fun p => p.err != 0 && needs.any fun n => n.1 == p.rank && n.2.1 < p.off + p.n && p.off < n.2.1 + n.2.2

/-- Writes of a chunk made; it counts when all are. -/
def collWrite (s : State) (c : Coll) : State :=
  match engPuts c.by_ c.op c.out s with
  | (s, rest, .bad k va det) => collFault (updColl s c.op fun x => { x with out := rest }) { c with out := rest } k va det
  | (s, rest, .wait) => updColl s c.op fun x => { x with out := rest }
  | (s, _, .done) =>
    let s := updColl s c.op fun x => { x with out := [], chunks := x.chunks ++ [c.outOf] }
    collRun (collFuel c) s c.op

/-- One chunk of a collective reduced and written once all its contributions are there. -/
def collChunk (s : State) (c : Coll) (j : Nat) : State :=
  let lo := j * c.csize
  let hi := min c.dstLen (lo + c.csize)
  let needs := collNeeds c lo hi
  if c.chunks.contains j || c.nchunk ≤ j || !headsThere c || needs.any (lacks c) then s
  else match badPiece c needs with
    | some p =>
      if c.refetch then
        -- after a REPLAY the granule is read again where it stands
        (match engGrans c.by_ c.op true [p.va / 8] s with
        | (s, .wait) => s
        | (s, .bad k a d) => collFault s c k a d
        | (s, .ok gs) => updColl s c.op fun x =>
          { x with stage := replaceFirst (fun y => y == p) (fun y => { y with gran := gBytes gs (p.va / 8 * 8) 8, err := 0 }) x.stage })
      else
        collFault (updColl s c.op fun x => { x with refetch := true }) c 0x0504 (p.va / 8 * 8)
          (sealDetail p.gran (p.va / 8 * 8) 0x0504 p.err)
    | none =>
      let go (s : State) (cb : List Byte) : State :=
        let w := chunkWrites s c cb lo hi
        let out := joinItems ((w.1.flatMap fun x => lineChunks (c.dst + x.1) (x.2.length + 1) x.2).map fun x => (x.1, x.2, 0))
        let s := updColl { s with free := s.free + 2 ^ 18 } c.op fun x =>
          { x with out := out, outOf := j, status := if w.2 then firstBad x.status 3 else x.status }
        collWrite s { c with out := out, outOf := j }
      if c.sfmt == 4 then match engGrans c.by_ c.op true (granRange (c.f 80 8) 32) s with
        | (s, .wait) => s
        | (s, .bad k a d) => collFault s c k a d
        | (s, .ok gs) => go s (gBytes gs (c.f 80 8) 32)
      else go s []

/-- COLL_CHUNK_REDUCE: the engine sends what it can, then reduces the chunk in rank order and writes its results (R323). -/
def execCollChunkReduce (die id chunk : Nat) (s : State) : Host.Outcome State Fault Refusal :=
  .next (match s.coll? id with
    | none => s
    | some c =>
      if c.die != die || c.kind == 2 then s
      else
        let s := collRun (collFuel c) s id
        match s.coll? id with
        | none => s
        | some c =>
          if c.phase != 2 || c.token.isSome then s
          else if !c.out.isEmpty then collWrite s c
          else collChunk s c chunk)

/-- COLL_CHECK_NOTICE: another rank's final notice is there; the collective completes when all are (R324). -/
def execCollCheckNotice (die id rank : Nat) (fault : Bool) (s : State) : Host.Outcome State Fault Refusal :=
  .next (match s.coll? id with
    | none => s
    | some c =>
      if c.die != die then s
      else collRun (collFuel c) (updColl s id fun x => { x with notices := x.notices ++ [(rank, if fault then 3 else 0)] }) id)

/- Issue. -/

/-- A collective at issue. -/
def newColl (s : State) (e : EngBy) (kind : Nat) (d : List Byte) (ranks aux : List Nat) : Coll :=
  { op := s.nextId, by_ := e, die := dieOf e.core, kind := kind, no := collNo s e.job (at_ d 0 8) + 1, grid := e.grid, sbase := 0, d := d, ranks := ranks, aux := aux
    moves := [], phase := 0, todo := [], ready := [], stage := [], heads := [], notices := [], chunks := [], out := [], outOf := 0
    landed := [], status := 0, token := none, refetch := false }

/-- Offset of the first field broken by what the descriptor points to: RANKS distinct, MYRANK on this package (R320), permute targets
(R321). -/
def listsBad (s : State) (c : Coll) : Option Nat :=
  if repeats c.ranks || c.ranks.getD c.me 65536 != s.pkg then some 16
  else if c.opc == 4 && (repeats c.aux || c.aux.any fun t => c.nrank ≤ t) then some 80
  else none

/-- The capture of a descriptor with its lists and its checks (R273, R322, R391, R392), then `k`. -/
def withDescriptor (s : State) (b : Block) (g : Group) (th : Thread) (kind va : Nat) (k : State → Coll → State) : State :=
  let e := byOf s b th va
  if va % 128 != 0 || va ≥ 2 ^ 57 then refuse s b g 0x0720 va 0xFFFF
  else withRecord s b g th va 128 fun s d =>
    let c := newColl s e kind d [] []
    match (if (c.opc == 6) != (kind == 2) then some 8 else collBad d) with
    | some o => refuse s b g 0x0720 va o
    | none => withRecord s b g th (c.f 16 8) (2 * c.nrank) fun s rb =>
      let done (s : State) (aux : List Nat) : State :=
        let c := newColl s e kind d (halves rb) aux
        match listsBad s c with
        | some o => refuse s b g 0x0720 va o
        | none =>
          if (collOf s c.job c.idn).isSome then refuse s b g 0x0721 va 0
          else if bitOf (c.f 11 1) 1 then refuse s b g 0x0722 va 11
          else k s c
      if c.opc == 4 then withRecord s b g th (c.f 80 8) (2 * c.nrank) fun s ab => done s (halves ab)
      else done s []

/-- A collective taken by the engine: its token raised, early packets taken, then it goes on. -/
def startColl (s : State) (b : Block) (g : Group) (i : Instr) (k : BitVec 3) (l : BitVec 4) (c : Coll) : State :=
  let s := collEnter s c
  let (s, ws) := if k == 7 then (s, []) else (activeLanes b g).foldl (fun (s, ws) m =>
    let (s, w) := addPlain s b g m.2 0 k l (.engine c.op)
    (s, ws ++ w)) (s, [])
  let s := collRun (collFuel c) (collEarly s c) c.op
  advanceIn s b.grid b.bidx g.gid (Instr.len i) ws

/-- COLL (R273). -/
def execColl (x : Reg) (k : BitVec 3) (l : BitVec 4) (s : State) : Host.Outcome State Fault Refusal :=
  issueWhole (.coll x k l) s fun b g th =>
    withDrain s b g fun s => withDescriptor s b g th 0 (th.reg x).toNat fun s c => startColl s b g (.coll x k l) k l c

/-- COLL.ver (R273). -/
def execCollVer (x : Reg) (k : BitVec 3) (l : BitVec 4) (s : State) : Host.Outcome State Fault Refusal :=
  issueWhole (.collVer x k l) s fun b g th =>
    withDrain s b g fun s => withDescriptor s b g th 1 (th.reg x).toNat fun s c => startColl s b g (.collVer x k l) k l c

/-- A bound collective taken at a grid's admission (R325): `by_` names the grid, `sbase` the block of segment 0. -/
def bindColl (s : State) (e : EngBy) (grid sbase : Nat) (d : List Byte) (ranks aux : List Nat) : State :=
  let c := { newColl s e 3 d ranks aux with grid := grid, sbase := sbase }
  let s := collEnter s c
  collRun (collFuel c) (collEarly s c) c.op

/-- A block of the grid has retired: the segment its BIDX selects is ready (R325). -/
def segReady (s : State) (grid bidx : Nat) : State :=
  s.colls.foldl (fun s c =>
    if c.kind == 3 && c.grid == grid && c.sbase ≤ bidx && bidx < c.sbase + c.srcSegs && !c.ready.contains (bidx - c.sbase) then
      let c' := { c with ready := c.ready ++ [bidx - c.sbase] }
      let s := updColl s c.op fun x => { x with ready := c'.ready, todo := x.todo ++ (if c.gives then segRanges c' [bidx - c.sbase] else []) }
      collRun (collFuel c') s c.op
    else s) s

/- Reshards (R274, R329). -/

/-- Two moves of a list write one byte. -/
def movesClash : List (Nat × Nat × Nat × Nat × Nat) → Bool
  | [] => false
  | m :: r =>
    (r.any fun n => m.2.2.2.1 < n.2.2.2.1 + n.2.2.2.2 && n.2.2.2.1 < m.2.2.2.1 + m.2.2.2.2) || movesClash r

/-- A move of the list (R329). -/
def moveAt (bs : List Byte) (i : Nat) : Nat × Nat × Nat × Nat × Nat :=
  (at_ bs (32 * i) 2, at_ bs (32 * i + 2) 2, at_ bs (32 * i + 8) 8, at_ bs (32 * i + 16) 8, at_ bs (32 * i + 24) 8)

/-- RESHARD (R274, R329). -/
def execReshard (x y : Reg) (k : BitVec 3) (l : BitVec 4) (s : State) : Host.Outcome State Fault Refusal :=
  issueWhole (.reshard x y k l) s fun b g th =>
    let va := (th.reg x).toNat
    withDrain s b g fun s => withDescriptor s b g th 2 va fun s c =>
      withRecord s b g th (c.f 80 8) (32 * c.f 78 2) fun s mb =>
        let ms := (List.range (c.f 78 2)).map (moveAt mb)
        if ms.zipIdx.any fun m => c.nrank ≤ m.1.1 || c.nrank ≤ m.1.2.1 || !zeros mb (32 * m.2 + 4) 4 then refuse s b g 0x0720 va 80
        else if (th.reg y).toNat != s.epoch c.job + 1 then refuse s b g 0x0725 va 0xFFFF
        else if movesClash ms then refuse s b g 0x0726 va 80
        else startColl s b g (.reshard x y k l) k l { newColl s c.by_ 2 c.d c.ranks [] with moves := ms }

/-- The moves of this rank made, piece by piece. `fuel` bounds the pieces. -/
def reshardMoves : Nat → State → Coll → State
  | 0, s, _ => s
  | fuel + 1, s, c =>
    match c.moves.find? fun m => m.1 == c.me && m.2.2.2.2 != 0 with
    | none => updColl s c.op fun x => { x with phase := if engOut s c.op then x.phase else 4 }
    | some (a, z, src, dst, left) =>
      -- whole destination lines, so that every granule is written at once (R101)
      let n := min left (128 - dst % 128)
      match engGrans c.by_ c.op (dst % 8 != src % 8) (granRange src n) s with
      | (s, .wait) => s
      | (s, .bad k va d) => collFault s c k va d
      | (s, .ok gs) => match plainItems dst src n gs with
        | .error g => collFault s c 0x0504 (8 * g.1) (sealDetail g.2.1 (8 * g.1) 0x0504 g.2.2)
        | .ok is => match engPuts c.by_ c.op is s with
          | (s, _, .wait) => s
          | (s, _, .bad k va d) => collFault s c k va d
          | (s, _, .done) =>
            let c' := { c with moves := replaceFirst (fun m => m == (a, z, src, dst, left)) (fun _ => (a, z, src + n, dst + n, left - n))
                                          c.moves }
            reshardMoves fuel (updColl (dropGot s c.op) c.op fun _ => c') c'

/-- RESHARD_COMPLETE: once every COLL of the old epoch issued before is complete, the moves are made; when those toward this rank have
landed too, the epoch advances and the RESHARD completes (R274). -/
def execReshardComplete (die id : Nat) (s : State) : Host.Outcome State Fault Refusal :=
  .next (match s.coll? id with
    | none => s
    | some c =>
      if c.die != die || c.kind != 2 || c.token.isSome then s
      else if s.colls.any fun x => x.job == c.job && x.kind != 2 && x.op < c.op && x.f 52 4 == s.epoch c.job then s
      else
        let s := if c.phase == 4 then s else reshardMoves ((c.moves.map fun m => m.2.2.2.2).sum / 64 + c.moves.length + 2) s c
        let s := collRun 4 s id
        if (s.coll? id).isNone then collsAgain s else s)

end Sys2Proof.Machine
end

