-- ==== Sys2Proof/Machine/Population.lean ====
section
/-! DEFINITION. Populations (R275 to R279, R332 to R335): RESAMPLE, its counts and placements, clones and their images, and POPSEED. -/

namespace Sys2Proof.Machine

open Sys2Proof

/- Arrivals. -/

/-- A slot of a population grid as the exchange sees it: its index, package and core; free, or the arrived thread's LID, weight, target,
draw and whether its meeting stack is not empty. -/
structure Arr where
  slot  : Nat
  pkg   : Nat
  core  : Nat
  free  : Bool
  stack : Bool
  lid   : Nat
  w     : Nat
  n     : Nat
  u     : Option Nat
  deriving DecidableEq, Repr, Inhabited

/-- A child: its output rank, its parent's package and slot, copy index, package and slot (R277). -/
structure Child where
  rank  : Nat
  ppkg  : Nat
  pslot : Nat
  copy  : Nat
  pkg   : Nat
  slot  : Nat
  deriving DecidableEq, Repr, Inhabited

/-- Slot index (R332). -/
def slotIndex (b : Block) (th : Thread) : Nat := b.bidx * 1024 + th.tid

/-- The grid's slots on this package. -/
def localArrs (s : State) (grid : Nat) : List Arr :=
  (s.blocks.filter fun b => b.grid == grid).flatMap fun b => b.threads.map fun th =>
    let x := th.sample.getD default
    { slot := slotIndex b th, pkg := s.pkg, core := b.core, free := th.status == .exited, stack := !th.meet.isEmpty, lid := th.lid.toNat
      w := x.w, n := x.n, u := x.u }

/-- Every live thread of the grid on this package has arrived. -/
def allSampled (s : State) (grid : Nat) : Bool :=
  (s.blocks.filter fun b => b.grid == grid).all fun b => b.threads.all fun th => th.status == .exited || th.sample.isSome

/- Counts (R276) and causes (R398). -/

/-- The lowest POP cause that holds, with its DETAIL. -/
def popFault (live : List Arr) (gen cap : Nat) : Option (Nat × Nat) :=
  let at_ (p : FVal → Bool) : Option Nat := (live.find? fun a => p (ffS.val a.w)).map fun a => a.lid
  let n := (live.headD default).n
  let neg : FVal → Bool
    | .fin s m _ => s && m != 0
    | _ => false
  match at_ neg with
  | some l => some (2, l)
  | none => match at_ FVal.isInf with
    | some l => some (3, l)
    | none => match at_ FVal.isNan with
      | some l => some (4, l)
      | none =>
        if live.all fun a => (ffS.val a.w).isZero then some (5, 0)
        else if n == 0 || n > cap then some (6, 0)
        else if gen == 2 ^ 24 - 1 then some (7, 0)
        else (live.find? fun a => a.stack).map fun a => (8, a.lid)

/-- floor(w / 2^A) for each weight, at the anchor A of R276. -/
def popUnits (ws : List Nat) : List Nat :=
  let mags := ws.filterMap fun w => match ffS.val w with
    | .fin _ m e => if m == 0 then none else some ((log2 m : Int) + e)
    | _ => none
  let a := mags.foldl max (mags.headD 0) - 72
  ws.map fun w => match ffS.val w with
    | .fin _ m e => (truncAt false m e a).toNat
    | _ => 0

/-- Running sums. -/
def prefixSums : Nat → List Nat → List Nat
  | _, [] => []
  | acc, x :: r => (acc + x) :: prefixSums (acc + x) r

/-- resample_counts of R276. -/
def popCounts (ws : List Nat) (n u : Nat) : List Nat :=
  let ps := prefixSums 0 (popUnits ws)
  let w := ps.getLastD 0
  let f (v : Nat) : Nat := (v * n * 2 ^ 53 + u * w) / (w * 2 ^ 53)
  (List.range ps.length).map fun i => f (ps.getD i 0) - f (if i == 0 then 0 else ps.getD (i - 1) 0)

/- Placement (R277). -/

/-- Of some free slots, the one with the lowest index. -/
def lowestSlot (fs : List Arr) : Option Arr := (sortBy (fun a b => a.slot ≤ b.slot) fs).head?

/-- The free slot of a child of a parent: on its core, in its cluster, on its die, its package, else the lowest-numbered package that has
one. -/
def freeFor (p : Arr) (fs : List Arr) : Option Arr :=
  let own := fs.filter fun f => f.pkg == p.pkg
  (lowestSlot (own.filter fun f => f.core == p.core)).or
    ((lowestSlot (own.filter fun f => f.core / 4 == p.core / 4)).or
      ((lowestSlot (own.filter fun f => dieOf f.core == dieOf p.core)).or
        ((lowestSlot own).or
          (let q := (fs.map fun f => f.pkg).foldl min ((fs.map fun f => f.pkg).headD 0)
           lowestSlot (fs.filter fun f => f.pkg == q)))))

/-- Children beyond copy 0 placed in ascending output rank. -/
def placeChildren : List (Nat × Arr × Nat) → List Arr → List Child
  | [], _ => []
  | (rank, p, i) :: r, fs =>
    if i == 0 then { rank := rank, ppkg := p.pkg, pslot := p.slot, copy := 0, pkg := p.pkg, slot := p.slot } :: placeChildren r fs
    else match freeFor p fs with
      | none => placeChildren r fs
      | some f =>
        { rank := rank, ppkg := p.pkg, pslot := p.slot, copy := i, pkg := f.pkg, slot := f.slot }
          :: placeChildren r (fs.filter fun x => x != f)

/-- The whole plan over the grid's slots, or the cause that stops it (R276, R277, R398). -/
def popPlan (arrs : List Arr) (seed : Word) (gen cap : Nat) : Except (Nat × Nat) (List Child) :=
  let live := sortBy (fun a b => a.lid ≤ b.lid) (arrs.filter fun a => !a.free)
  match popFault live gen cap with
  | some f => .error f
  | none =>
    let first := live.headD default
    let u := first.u.getD ((m64 (seed ^^^ BitVec.ofNat 64 gen)).toNat >>> 11)
    let cs := popCounts (live.map fun a => a.w) first.n u
    let free := arrs.filter (fun a => a.free) ++ (live.zip cs).filterMap fun x => if x.2 == 0 then some x.1 else none
    let kids := (live.zip cs).flatMap fun x => (List.range x.2).map fun i => (x.1, i)
    .ok (placeChildren (kids.zipIdx.map fun k => (k.2, k.1.1, k.1.2)) free)

/- Images (R278). -/

/-- Bytes of a slot's private segment, and its address. -/
def slotPriv (l : Launch) (slot : Nat) : Nat × Nat := (l.priv + slot * l.pmax, (l.roleOf (slot % 1024)).2.priv)

/-- The engine identity under which a slot's private segment is copied: with no mode of its own, since it addresses by PA (R403). -/
def popBy (b : Block) (slot job : Nat) : EngBy :=
  { core := b.core, grid := b.grid, bidx := b.bidx, tid := slot % 1024, job := job, user := false, recVa := 0, score := 0x3FF, store := 0 }

/-- The block of a slot. -/
def slotBlock (s : State) (grid slot : Nat) : Option Block := s.block? grid (slot / 1024)

/-- Granules of a private segment as a copy engine reads them, with their syndromes: none while some are awaited. Clone images address by PA
and take no ADDRESS fault (R403): a granule that is nowhere is left out. -/
def privGrans (e : EngBy) (op : Nat) : List Nat → State → State × Option (List (Nat × List Byte × Byte))
  | [], s => (s, some [])
  | q :: r, s =>
    let (s, g) := engGran s e op (8 * q)
    let s := match g with
      | .ask p => askLine s e op p (8 * q)
      | _ => s
    let (s, gs) := privGrans e op r s
    (s, match g, gs with
      | .data bs err, some gs => some ((q, bs, err) :: gs)
      | .bad _, some gs => some gs
      | _, _ => none)

/-- The private segment of a slot. -/
def privOf (s : State) (grid slot : Nat) : State × Option (List (Nat × List Byte × Byte)) :=
  match slotBlock s grid slot with
  | none => (s, some [])
  | some b =>
    let (va, n) := slotPriv (s.launchOf grid) slot
    privGrans (popBy b slot (s.jobOf grid)) (2 ^ 41 + slot) (granRange va n) s

/-- The image of a parent: registers, then p0 to p6, TSTAT, call depth and mode, age of ordered work, next header, destination, and the granules
of its private segment, each as its place with its syndrome and its data (R278). -/
def imageOf (s : State) (grid slot : Nat) : State × Option (List Word) :=
  match (slotBlock s grid slot).bind fun b => (b.thread? (slot % 1024)).map fun th => (b, th) with
  | none => (s, some [])
  | some (b, th) => match privOf s grid slot with
    | (s, none) => (s, none)
    | (s, some gs) =>
      let fall : Va := match b.groups.find? fun g => (g.member? th.tid).isSome with
        | some g => g.fall
        | none => th.pc
      let q0 := (slotPriv (s.launchOf grid) slot).1 / 8
      (s, some (BitVec.ofNat 64 th.regs.length :: th.regs
        ++ [BitVec.ofNat 64 (th.preds.toNat + th.tstat.toNat <<< 8 + th.callDepth <<< 16 + b2n th.priv <<< 32),
            BitVec.ofNat 64 (th.flushes + th.segment <<< 32), BitVec.ofNat 64 th.order, fall.zeroExtend 64,
            BitVec.ofNat 64 ((th.sample.getD default).d.toNat), BitVec.ofNat 64 gs.length]
        ++ gs.flatMap fun g => [BitVec.ofNat 64 (g.1 - q0 + g.2.2.toNat <<< 32), BitVec.ofNat 64 (leNat g.2.1)]))

/-- The writes of an image's private granules to a slot, as far as the slot's role has a segment. -/
def imagePuts (s : State) (grid slot : Nat) (ws : List Word) : List (Nat × Nat × List Byte × Byte) :=
  let (va, n) := slotPriv (s.launchOf grid) slot
  let w (i : Nat) : Nat := (ws.getD i 0).toNat
  let base := 1 + w 0 + 6
  let gs := (List.range (w (base - 1))).filterMap fun i =>
    let q := bits (w (base + 2 * i)) 31 0
    if 8 * q < n then some (va + 8 * q, leBytes (w (base + 2 * i + 1)) 8, BitVec.ofNat 8 (w (base + 2 * i) / 2 ^ 32)) else none
  (joinItems gs).map fun x => (slot, x)

/-- The name under which what an exited thread has left goes on, once a child takes its slot: no thread has it, so results are discarded
(R182). -/
def ghostOf (who x : Tref) : Tref := if x == who then { x with tid := x.tid + 2 ^ 20 } else x

/-- A line with its stores renamed. -/
def WcLine.rename (f : Tref → Tref) (l : WcLine) : WcLine := { l with whos := l.whos.map fun w => (w.1, f w.2) }

/-- The issued accesses of an exited thread, which run to completion (R182), no longer stand under the name of its slot. -/
def leaveSlot (s : State) (who : Tref) : State :=
  let f := ghostOf who
  { s with
    pend := s.pend.map fun (p : Pend) => { p with who := f p.who }
    writes := s.writes.map fun (w : PWrite) => { w with who := f w.who }
    inFlight := s.inFlight.map fun (x : Nat × Nat × WcLine) => (x.1, x.2.1, x.2.2.rename f)
    cores := s.cores.map fun (c : Nat × Core) => (c.1, { c.2 with
      wc := c.2.wc.map (WcLine.rename f), staged := c.2.staged.map fun (e : Staged) => { e with who := f e.who } })
    dies := s.dies.map fun (d : Nat × Die) => (d.1, { d.2 with tickets := d.2.tickets.map fun (t : Ticket) => { t with who := f t.who } }) }

/-- A thread as an image places it in a slot (R278). -/
def placeThread (s : State) (grid slot : Nat) (ws : List Word) (copy : Nat) (lid parent : Word) : State :=
  let nr := (ws.headD 0).toNat
  let w (i : Nat) : Nat := (ws.getD (1 + nr + i) 0).toNat
  let who : Tref := { grid := grid, bidx := slot / 1024, tid := slot % 1024 }
  let st : Status := if ((slotBlock s grid slot).map fun b => b.place != 0).getD false then .shelved else .ready
  (leaveSlot s who).updThread who fun (th : Thread) =>
    let regs := (List.range th.regs.length).map fun i => if i < nr then ws.getD (1 + i) 0 else 0
    let t : Thread := { th with
      regs := regs, preds := BitVec.ofNat 7 (w 0), tstat := BitVec.ofNat 6 (w 0 / 2 ^ 8), callDepth := w 0 / 2 ^ 16 % 2 ^ 16
      priv := bitOf (w 0) 32, flushes := w 1 % 2 ^ 32, segment := w 1 / 2 ^ 32, order := w 2, pc := BitVec.ofNat 57 (w 3)
      toks := List.replicate 7 0, stores := 0, meet := [], status := st, kept := .ready, ageMark := s.now, readySince := s.now
      starving := false, lid := lid, parent := parent, met := false, goto := none, trapAfter := none, mfence := false, sample := none
      yieldAfter := false, until_ := 0, bar := none, bara := [], parked := [] }
    t.setReg (BitVec.ofNat 6 (w 4)) (BitVec.ofNat 64 copy)

/- Seeds (R279). -/

/-- What a package says of the POPSEEDs it has executed: the number of its last one among all it knew of, and the seed. -/
def tellSeed : Nat := 3

/-- The seeds set on the grid's packages, as (number, package, seed), this package's own or the launch record's among them. -/
def seedsOf (s : State) (g : Grid) : List (Nat × Nat × Word) :=
  (tget 0 g.told tellSeed, s.pkg, g.seed)
    :: (g.peers.filter fun p => p.2.1 == tellSeed).map fun p => (p.2.2.1, p.1, BitVec.ofNat 64 p.2.2.2)

/-- The grid's seed: the last one set, of two set at once that of the higher package. -/
def gridSeed (s : State) (g : Grid) : Word :=
  match sortBy (fun (a b : Nat × Nat × Word) => b.1 < a.1 || (a.1 == b.1 && b.2.1 ≤ a.2.1)) (seedsOf s g) with
  | x :: _ => x.2.2
  | [] => g.seed

/- Departure (R277, R278). -/

/-- Slots of other plans: a LID of rank r after generation gen. -/
def lidOf (gen rank : Nat) : Word := BitVec.ofNat 64 ((gen + 1) <<< 40 ||| rank)

/-- The parents of this package that have no child exit, the others take copy 0's identity; then children of the given images are placed,
and every thread goes on at the header after its RESAMPLE. `kids`: (child, image, parent's old LID). -/
def popDepart (s : State) (grid gen : Nat) (plan : List Child) (kids : List (Child × List Word × Word)) : State :=
  let s := { s with blocks := s.blocks.map fun (b : Block) =>
    if b.grid != grid then b
    else
      let own (th : Thread) : Option Child := plan.find? fun c => c.copy == 0 && c.ppkg == s.pkg && c.pslot == slotIndex b th
      let gone (th : Thread) : Bool := th.sample.isSome && (own th).isNone
      { b with
        groups := b.groups.map fun (g : Group) => { g with members := g.members.filter fun m =>
          !(b.threads.any fun th => th.tid == m.tid && gone th) }
        threads := b.threads.map fun (th : Thread) =>
          if th.sample.isNone then th
          else match own th with
            | none => { th with status := .exited, kept := .exited, sample := none, meet := [], toks := List.replicate 7 0 }
            | some c =>
              let st (x : Status) : Status := if x == .barrier then .issuing else x
              let k := (th.sample.getD default).k
              ({ th.setTok k (th.tok k - 1) with status := st th.status, kept := st th.kept, lid := lidOf gen c.rank, parent := th.lid, sample := none
                                                 readySince := s.now } : Thread).setReg (th.sample.getD default).d 0 } }
  let s := kids.foldl (fun s (k : Child × List Word × Word) => placeThread s grid k.1.slot k.2.1 k.1.copy (lidOf gen k.1.rank) k.2.2) s
  let s := s.updGrid grid fun g => { g with gen := gen + 1 }
  (s.blocks.filter fun b => b.grid == grid).foldl (fun s b => settleBlock s b.grid b.bidx) s

/-- Every arrived thread of this package traps or parks at its RESAMPLE clause (R398); those that park share one record. -/
def popRaise (s : State) (grid cause : Nat) (detail : Word) : State :=
  let ths := (s.blocks.filter fun b => b.grid == grid).flatMap fun b => (b.threads.filter fun th => th.sample.isSome).map fun th => (b, th)
  (ths.foldl (fun (s, rec_) (x : Block × Thread) =>
    let b := (s.block? grid x.1.bidx).getD x.1
    let sm := x.2.sample.getD default
    let gid := ((b.groups.find? fun g => (g.member? x.2.tid).isSome).map fun g => g.gid).getD 0
    let s := s.updThread (trefOf b x.2) fun (t : Thread) => { t.setTok sm.k (t.tok sm.k - 1) with sample := none }
    let s := s.updBlock grid b.bidx fun b => dropMember b gid x.2.tid
    let r := threadRec s b sm.hdr sm.idx x.2.tid (0x0900 + cause) 0 detail ths.length
    match takeTrap s b x.2 r sm.hdr with
    | some s => (settleGroup s grid b.bidx gid, rec_)
    | none =>
      let s := if rec_ then s else queueRec s (dieOf b.core) { r with flags := 1 }
      let s := s.updThread (trefOf b x.2) fun (t : Thread) => { t with status := .parked, pc := sm.hdr, bar := none }
      (settleGroup s grid b.bidx gid, true)) (s, false)).1

/-- The parent's old LID and image of each child placed in a new slot; none while a private segment is awaited. -/
def gatherKids (grid : Nat) : List Child → State → State × Option (List (Child × List Word × Word))
  | [], s => (s, some [])
  | c :: r, s =>
    let lid := ((((slotBlock s grid c.pslot).bind fun b => b.thread? (c.pslot % 1024)).map fun th => th.lid).getD 0)
    match imageOf s grid c.pslot with
    | (s, none) => (s, none)
    | (s, some ws) => match gatherKids grid r s with
      | (s, some ks) => (s, some ((c, ws, lid) :: ks))
      | x => x

/-- The answers of the private segments' reads are dropped. -/
def dropPriv (s : State) : State :=
  let priv (op : Nat) : Bool := 2 ^ 41 ≤ op && op < 2 ^ 42
  { s with engGot := s.engGot.filter fun x => !priv x.1, engAsks := s.engAsks.filter fun a => !priv a.op }

/- A grid that spans packages (R334, R335; log 17 gives the packets: CHUNK packets with TSPEC byte 46 = 4 list, 5 plan, 6 image, 7 images
acknowledged; bytes 39:32 the grid; 43:40 GEN before the exchange; 55:48 the slot of an image; 63:56 words in all). -/

def exchOf (s : State) (grid : Nat) : Exch :=
  (s.exchs.find? fun e => e.grid == grid).getD
    { grid := grid, lists := [], plan := [], images := [], listed := false, rooted := false, imaged := false, wrote := false, puts := []
      done := [] }
def setExch (s : State) (e : Exch) : State := { s with exchs := s.exchs.filter (fun x => x.grid != e.grid) ++ [e] }

/-- Words sent to a package in packets of at most 32. -/
def sendWords (s : State) (grid dst kind slot : Nat) (ws : List Word) : State :=
  (chunks 32 (ws.length + 1) (if ws.isEmpty then [0] else ws)).foldl (fun s p =>
    (sendPacket s { blankPacket with
      typ := 10, dst := dst, n := p.length, data := p, masks := p.map fun _ => 0xFF
      seals := p.zipIdx.map fun w => seal8 (leBytes w.1.toNat 8) (8 * w.2), job := s.jobOf grid
      tspec := tspecOf [(0, 8, grid), (8, 4, ((s.grid? grid).map fun g => g.gen).getD 0), (14, 1, kind), (16, 8, slot), (24, 8, ws.length)] }).1) s

/-- Slots as words and back. -/
def Arr.words (a : Arr) : List Word :=
  [BitVec.ofNat 64 a.slot, BitVec.ofNat 64 (a.w + a.core <<< 32 + b2n a.free <<< 48 + b2n a.stack <<< 49 + b2n a.u.isSome <<< 50),
   BitVec.ofNat 64 a.lid, BitVec.ofNat 64 a.n, BitVec.ofNat 64 (a.u.getD 0)]
def arrOf (pkg : Nat) (ws : List Word) : Arr :=
  let w (i : Nat) : Nat := (ws.getD i 0).toNat
  { slot := w 0, pkg := pkg, core := bits (w 1) 41 32, free := bitOf (w 1) 48, stack := bitOf (w 1) 49, lid := w 2, w := bits (w 1) 31 0
    n := w 3, u := if bitOf (w 1) 50 then some (w 4) else none }

/-- Children as words and back. -/
def Child.words (c : Child) : List Word :=
  [BitVec.ofNat 64 c.rank, BitVec.ofNat 64 (c.ppkg + c.pkg <<< 16), BitVec.ofNat 64 c.pslot, BitVec.ofNat 64 c.copy, BitVec.ofNat 64 c.slot]
def childOf (ws : List Word) : Child :=
  let w (i : Nat) : Nat := (ws.getD i 0).toNat
  { rank := w 0, ppkg := bits (w 1) 15 0, pkg := bits (w 1) 31 16, pslot := w 2, copy := w 3, slot := w 4 }

/-- A plan's words: the cause (0 none) and its DETAIL, then the children. -/
def planWords : Except (Nat × Nat) (List Child) → List Word
  | .error f => [BitVec.ofNat 64 f.1, BitVec.ofNat 64 f.2]
  | .ok cs => [0, 0] ++ cs.flatMap Child.words
def planKids (ws : List Word) : List Child := (chunks 5 ws.length (ws.drop 2)).map childOf

/-- The plan of a grid in which no thread is left: its blocks retire (R333). -/
def planOver : List Word := [0xFFFFFFFFFFFFFFFF, 0]

/-- The root's list is whole. -/
def listWhole (ws : List Word) : Bool := match ws with
  | [] => false
  | n :: r => n.toNat ≤ r.length

/-- The MOVE events of a plan, in ascending order of their first output rank (R334, R335). -/
def moveEvents (s : State) (grid gen : Nat) (cs : List Child) : List Event :=
  let moved := cs.filter fun c => c.ppkg != c.pkg
  let firsts := moved.filter fun c => (moved.find? fun d => d.ppkg == c.ppkg && d.pkg == c.pkg) == some c
  firsts.map fun c =>
    let ms := moved.filter fun d => d.ppkg == c.ppkg && d.pkg == c.pkg
    .rebalance (evHdr s (s.jobOf grid)) grid 1 gen c.ppkg c.pkg ms.length c.rank (ms.foldl (fun m d => min m d.slot) c.slot)

/-- The exchange goes on at this package: its list once every live thread has arrived, the root's plan once every list is there, the images
once the plan is, their acknowledgement, and the root's CLOSE (R334). -/
def exchStep (s : State) (grid : Nat) : State :=
  let ps := gridPkgs s grid
  let root := ps.headD s.pkg
  let me := s.pkg
  let g := (s.grid? grid).getD default
  -- this package's list
  let s := if allSampled s grid && !(exchOf s grid).listed then
      let ws := (localArrs s grid).flatMap Arr.words
      let ws := BitVec.ofNat 64 ws.length :: ws
      let s := setExch s { exchOf s grid with listed := true }
      if root == me then setExch s { exchOf s grid with lists := (exchOf s grid).lists ++ [(me + 2 ^ 16 * g.gen, ws)] }
      else sendWords s grid root 4 0 ws
    else s
  -- the root's plan
  let e := exchOf s grid
  let got (p : Nat) : List Word := (e.lists.filter fun l => l.1 == p + 2 ^ 16 * g.gen).flatMap fun l => l.2
  let arrs := ps.flatMap fun p => (chunks 5 ((got p).length + 1) ((got p).drop 1)).map (arrOf p)
  let s := if root == me && !e.rooted && ps.all (fun p => listWhole (got p)) then
     if arrs.all fun a => a.free then
      (ps.filter fun p => p != me).foldl (fun s p => sendWords s grid p 5 0 planOver) (setExch s { e with rooted := true, plan := planOver })
     else
      let plan := popPlan arrs (gridSeed s g) g.gen g.l.popcap
      let s := setExch s { e with rooted := true, plan := planWords plan }
      let s := match plan with
        | .ok cs =>
          { s with outEvents := s.outEvents ++ [.rebalance (evHdr s (s.jobOf grid)) grid 0 (g.gen + 1) 0 0 0 0 0]
                                  ++ moveEvents s grid (g.gen + 1) cs }
        | .error _ => s
      (ps.filter fun p => p != me).foldl (fun s p => sendWords s grid p 5 0 (planWords plan)) s
    else s
  -- a cause ends the exchange; else the images go out
  let e := exchOf s grid
  if e.plan.length < 2 || e.imaged || e.plan == planOver then s
  else if e.plan.headD 0 != 0 then
    popRaise (setExch s { e with lists := [], plan := [], listed := false, rooted := false }) grid (e.plan.headD 0).toNat (e.plan.getD 1 0)
  else
    let out := (planKids e.plan).filter fun c => c.ppkg == me && c.copy != 0
    match gatherKids grid out s with
    | (s, none) => s
    | (s, some ks) =>
      let s := dropPriv s
      let s := (ks.filter fun k => k.1.pkg != me).foldl (fun s k => sendWords s grid k.1.pkg 6 k.1.slot (k.2.2 :: k.2.1)) s
      setExch s { exchOf s grid with
        imaged := true
        images := (exchOf s grid).images ++ (ks.filter fun k => k.1.pkg == me).map fun k => (k.1.slot, k.2.2 :: k.2.1) }

/-- Words of an image that are there. -/
def imageWords (e : Exch) (slot : Nat) : List Word := (e.images.filter fun i => i.1 == slot).flatMap fun i => i.2

/-- Every image toward this package is there. -/
def imagesThere (s : State) (e : Exch) : Bool :=
  e.imaged && ((planKids e.plan).filter fun c => c.pkg == s.pkg && c.copy != 0).all fun c =>
    let ws := imageWords e c.slot
    match ws with
    | _ :: nr :: r => nr.toNat + 6 ≤ r.length && r.length - nr.toNat - 6 ≥ 2 * (r.getD (nr.toNat + 5) 0).toNat
    | _ => false

/-- Writes of images made until one must wait; a granule with no place is passed over (R403). -/
def exchPuts (grid : Nat) : List (Nat × Nat × List Byte × Byte) → State → State × List (Nat × Nat × List Byte × Byte)
  | [], s => (s, [])
  | x :: r, s => match slotBlock s grid x.1 with
    | none => exchPuts grid r s
    | some b => match engPut s (popBy b x.1 (s.jobOf grid)) (2 ^ 41 + grid) x.2.1 x.2.2.1 x.2.2.2 with
      | (s, .wait) => (s, x :: r)
      | (s, _) => exchPuts grid r s

/-- The images toward this package are written to their slots' private segments, as far as they can be (R278). -/
def exchWrite (s : State) (grid : Nat) : State :=
  let e := exchOf s grid
  if !imagesThere s e then s
  else
    let kids := (planKids e.plan).filter fun c => c.pkg == s.pkg && c.copy != 0
    let puts := if e.wrote then e.puts else kids.flatMap fun c => imagePuts s grid c.slot ((imageWords e c.slot).drop 1)
    let (s, left) := exchPuts grid puts s
    setExch s { e with wrote := true, puts := left }

/-- The images toward this package are in their slots (R278). -/
def imagesPut (s : State) (grid : Nat) : Bool :=
  let e := exchOf s grid
  e.wrote && e.puts.isEmpty && !engOut s (2 ^ 41 + grid)

/-- A package whose images are all in place says so to the root, which sends CLOSE when all have. -/
def exchClose (s : State) (grid : Nat) : State :=
  let s := exchWrite s grid
  let e := exchOf s grid
  let ps := gridPkgs s grid
  let root := ps.headD s.pkg
  let s := if imagesPut s grid && !e.done.contains s.pkg then
      let s := setExch s { e with done := e.done ++ [s.pkg] }
      if root == s.pkg then s else sendWords s grid root 7 0 []
    else s
  let e := exchOf s grid
  if root == s.pkg && e.rooted && e.imaged && ps.all (fun p => e.done.contains p) && !e.done.contains 4096 then
    let gen := ((s.grid? grid).map fun g => g.gen).getD 0
    sendEvent (setExch s { e with done := e.done ++ [4096] }) (.rebalance (evHdr s (s.jobOf grid)) grid 2 (gen + 1) 0 0 0 0 0)
  else s

/-- CLOSE applied: the package's threads depart (R334). -/
def exchDepart (s : State) (grid : Nat) : State :=
  let e := exchOf s grid
  let plan := planKids e.plan
  let gen := ((s.grid? grid).map fun g => g.gen).getD 0
  let kids := (plan.filter fun c => c.pkg == s.pkg && c.copy != 0).map fun c =>
    (c, (imageWords e c.slot).drop 1, (imageWords e c.slot).headD 0)
  let later := e.lists.filter fun l => gen < l.1 / 2 ^ 16
  let s := { s with exchs := s.exchs.filter fun x => x.grid != grid }
  popDepart (if later.isEmpty then s else setExch s { exchOf s grid with lists := later }) grid gen plan kids

/-- The exchange of a grid on one package once its last live thread has arrived: its plan with the images it needs, whose copies end before any
thread departs (R278, R334). -/
def exchAlone (s : State) (g : Grid) : State :=
  let s := if !(exchOf s g.handle).plan.isEmpty then s
    else if !allSampled s g.handle || (localArrs s g.handle).all fun a => a.free then s
    else match popPlan (localArrs s g.handle) g.seed g.gen g.l.popcap with
      | .error f => popRaise s g.handle f.1 (BitVec.ofNat 64 f.2)
      | .ok plan => match gatherKids g.handle (plan.filter fun c => c.copy != 0) s with
        | (s, none) => s
        | (s, some ks) => setExch (dropPriv s) { exchOf s g.handle with
            plan := planWords (.ok plan), imaged := true, images := ks.map fun k => (k.1.slot, k.2.2 :: k.2.1) }
  if (exchOf s g.handle).plan.isEmpty then s
  else
    let s := exchWrite s g.handle
    if imagesPut s g.handle then exchDepart s g.handle else s

/-- A RESAMPLE goes on: within one package, or the next step of an exchange between packages (R334). -/
def resampleTry (s : State) (grid : Nat) : State :=
  match s.grid? grid with
  | none => s
  | some g =>
    if !g.l.pop || g.decided then s
    else if gridPkgs s grid != [s.pkg] then exchClose (exchStep s grid) grid
    else exchAlone s g

/-- A packet of an exchange performed, or a notice between the packages of a grid (log 66). -/
def exchArrive (s : State) (p : Packet) : State :=
  let grid := tfield p 0 8
  let e := exchOf s grid
  match tfield p 14 1 with
  | 8 => goOn (barriersAgain (hearGrid s p) grid)
  | kind =>
    let s := match kind with
      | 4 => setExch s { e with lists := e.lists ++ [(p.src + 2 ^ 16 * tfield p 8 4, p.data)] }
      | 5 => setExch s { e with plan := e.plan ++ p.data }
      | 6 => setExch s { e with images := e.images ++ [(tfield p 16 8, p.data)] }
      | _ => setExch s { e with done := e.done ++ [p.src] }
    -- a plan goes on when all its words are there
    if kind == 5 && (exchOf s grid).plan.length < tfield p 24 8 then s else resampleTry s grid

/-- CLONE_IMAGE_COPY: the copy engines make the images of the grid's children as far as they can, and the exchange goes on (R278, R334). -/
def execCloneImageCopy (grid : Nat) (s : State) : Host.Outcome State Fault Refusal := .next (resampleTry s grid)

/- The instructions (R275, R279). -/

/-- A RESAMPLE: refused outside a population grid; held while the group's tokens or stores are outstanding; else every active member
arrives with its token raised, and waits. -/
def resampleOf (i : Instr) (x y z : Reg) (u : Option Reg) (k : BitVec 3) (s : State) : Host.Outcome State Fault Refusal :=
  issueWhole i s fun b g _ =>
    if !(s.launchOf b.grid).pop then (threadFault s b g ((activeLanes b g).map fun m => m.2) 0x0901 g.idx 0 0).idle
    else withDrain s b g fun s =>
      let b := (s.block? b.grid b.bidx).getD b
      if (activeLanes b g).any fun m => m.2.stores != 0 || m.2.toks.any fun t => t != 0 then waitAccept s b
      else
        let s := (activeLanes b g).foldl (fun s m =>
          s.updThread (trefOf b m.2) fun (t : Thread) =>
            { t.setTok k.toNat (t.tok k.toNat + 1) with
              status := .barrier, readySince := s.now
              sample := some { d := x, k := k.toNat, w := (m.2.reg y).toNat % 2 ^ 32, n := (m.2.reg z).toNat
                               u := u.map fun r => (m.2.reg r).toNat % 2 ^ 53, hdr := g.hdr, idx := g.idx } }) s
        resampleTry (advanceIn s b.grid b.bidx g.gid (Instr.len i) []) b.grid

/-- RESAMPLE (R275). -/
def execResample (x y z : Reg) (k : BitVec 3) (s : State) : Host.Outcome State Fault Refusal := resampleOf (.resample x y z k) x y z none k s

/-- RESAMPLE.u (R275). -/
def execResampleU (x y z u : Reg) (k : BitVec 3) (s : State) : Host.Outcome State Fault Refusal :=
  resampleOf (.resampleU x y z u k) x y z (some u) k s

/-- POPSEED (R279): the grid's seed, told to its other packages with its place among the POPSEEDs this package knows of (log 66); without effect
outside a population grid beyond the seed itself. -/
def execPopseed (x : Reg) (k : BitVec 3) (l : BitVec 4) (s : State) : Host.Outcome State Fault Refusal :=
  issueWhole (.popseed x k l) s fun b g th =>
    let n := ((s.grid? b.grid).map fun g => (seedsOf s g).foldl (fun m y => max m y.1) 0).getD 0
    let s := tellGrid (s.updGrid b.grid fun g => { g with seed := th.reg x }) b.grid tellSeed (n + 1) (th.reg x).toNat
    engIssue s b g (.popseed x k l) k l (.ready [])

end Sys2Proof.Machine
end

