-- ==== Sys2Proof/Machine/Place.lean ====
section
/-! DEFINITION. The package dispatcher (R297 to R300): extent tables (R63), gangs and blocks placed on the cores of a lease (R18, R48, R49,
R308), admission within a job's leases, records sent to the pod, and LAUNCH, PHASE and GRAPHRUN (R283). -/

namespace Sys2Proof.Machine

open Sys2Proof

/- Extents (R63). -/

/-- The leaf entry of a page as this package's tables hold it, where it is present and not MIGRATING. -/
def pageEntry (s : State) (root page : Nat) : Option Word :=
  match walk s.mem root (page * 2 ^ 16) with
  | .ok (_, e) => if pteP e && ptePlace e != 3 then some e else none
  | .error _ => none

/-- An extent of one page. -/
def extentOf (page : Nat) (e : Word) (w : Bool) : Extent :=
  { vabase := page, pages := 1, frame := ptePa e (page * 2 ^ 16) / 2 ^ 16, pkg := ptePkg e, fmt := pteFmt e, geom := pteGeom e
    cbslot := pteCb e, v := true, u := pteU e, w := w && pteW e && ptePlace e != 1 && (pteSnap e == 0 || pteSnap e == 2) }

/-- Two neighbouring extents join where the conditions do not change. W is 1 only if every page's is. -/
def joinExtent (a b : Extent) : Option Extent :=
  if a.vabase + a.pages == b.vabase && a.frame + a.pages == b.frame && a.frame / 2 ^ 20 == b.frame / 2 ^ 20 && a.pkg == b.pkg
      && a.fmt == b.fmt && a.geom == b.geom && a.cbslot == b.cbslot && a.u == b.u && a.pages < 65535
  then some { a with pages := a.pages + 1, w := a.w && b.w } else none

/-- The pages of a range from `page` on, `n` of them, cut into extents; pages of earlier ranges are left out. `run`: the extent that is
still open. -/
def cutRange (s : State) (root : Nat) (old : List Extent) (w : Bool) : Nat → Nat → Option Extent → List Extent
  | 0, _, run => run.toList
  | n + 1, page, run =>
    let covered := old.any fun e => e.vabase ≤ page && page < e.vabase + e.pages
    let far := page / 2 ^ 40 % 2 == 1 && page / 2 ^ 28 % 2 ^ 12 != s.pkg
    match (if covered || far then none else pageEntry s root page) with
    | none => run.toList ++ cutRange s root old w n (page + 1) none
    | some e =>
      let x := extentOf page e w
      match run with
      | none => cutRange s root old w n (page + 1) (some x)
      | some r => match joinExtent r x with
        | some y => cutRange s root old w n (page + 1) (some y)
        | none => r :: cutRange s root old w n (page + 1) (some x)

/-- The extent table of a launch on this package: at most 64 entries in the order of the ranges (R63). Pages of the partitioned segment are
covered only where they name this package. -/
def buildExtents (s : State) (job : Nat) (l : Launch) : List Extent :=
  match jobRoot s job with
  | none => []
  | some root =>
    ((l.ranges.take l.nrange).foldl (fun es r =>
      if r.2.2 == 0 then es
      else
        let p0 := r.1 / 2 ^ 16
        let p1 := min (2 ^ 41 - 1) ((r.1 + r.2.2 - 1) / 2 ^ 16)
        es ++ cutRange s root es r.2.1 (p1 + 1 - p0) p0 none) []).take 64

/-- DSM is set in every page of an extent with W = 1 (R344). -/
def extentsDsm (s : State) (job : Nat) (es : List Extent) : State :=
  (es.filter fun e => e.w).foldl (fun s e => (List.range e.pages).foldl (fun s i => noteDsm s job ((e.vabase + i) * 2 ^ 16)) s) s

/- Cores (R48, R308). -/

/-- Blocks that hold resources of a core: resident or halted. -/
def onCore (s : State) (core : Nat) : List Block := s.blocks.filter fun b => b.core == core && b.place ≤ 1

/-- Sum of a launch quantity over blocks. -/
def sumOf (s : State) (bs : List Block) (f : Launch → Nat) : Nat := (bs.map fun b => f (s.launchOf b.grid)).sum

/-- Preemptible-fast of class BATCH or BACKGROUND (R308). -/
def Launch.shy (l : Launch) : Bool := l.pfast && 2 ≤ l.cls

/- Shelves and carve-outs (R304 to R308). -/

/-- KiB of a block's footprint (R306). -/
def footK (l : Launch) : Nat := (l.foot_ + 1023) / 1024

/-- KiB of the shelf and of the carve-out in use. -/
def shelfK (k : Core) : Nat := ((k.held.filter fun h => h.2.2.2.isNone).map fun h => h.2.2.1).sum
def carveK (k : Core) : Nat := ((k.held.filter fun h => h.2.2.2.isSome).map fun h => h.2.2.1).sum

/-- MiB of carve-out per core (R304). -/
def cmib (s : State) : Nat := bits s.preemptCtl.toNat 15 8

/-- PA of a KiB of a core's carve-out (R304). -/
def carvePa (s : State) (core o : Nat) : Nat := bits s.preemptCtl.toNat 45 28 <<< 21 + core * cmib s * 2 ^ 20 + 1024 * o

/-- KiB of a core's carve-out that saved context may use: the last 256 KiB are the spill area (R307, R414; log 80). -/
def carveRoom (s : State) : Nat := 1024 * cmib s - 256

/-- The lowest KiB from which n KiB of a core's carve-out are free. -/
def carveFree (k : Core) (n : Nat) : Nat :=
  let used := k.held.filterMap fun h => h.2.2.2.map fun o => (o, h.2.2.1)
  ((sortBy (· ≤ ·) (0 :: used.map fun u => u.1 + u.2)).find? fun o => used.all fun u => o + n ≤ u.1 || u.1 + u.2 ≤ o).getD 0

/-- Entries of a context of n KiB: on the shelf as far as it has room, the rest in the carve-out; a shelf with other context takes none
(R305, R307). -/
def heldFor (shelf : Bool) (k : Core) (g b n : Nat) : List (Nat × Nat × Nat × Option Nat) :=
  let onShelf := if shelf then min n (256 - shelfK k) else 0
  (if onShelf == 0 then [] else [(g, b, onShelf, none)])
    ++ if n == onShelf then [] else [(g, b, n - onShelf, some (carveFree k (n - onShelf)))]

/-- An entry passes the core's carve-out (R307, R435). -/
def carveOver (s : State) (es : List (Nat × Nat × Nat × Option Nat)) : Bool := es.any fun e => match e.2.2.2 with
  | some o => carveRoom s < o + e.2.2.1
  | none => false

/-- Context written to a core's carve-out, with sound seals (R75, R304). The manual gives the bytes of a context no order: they are free values
(log 75), and the block's record stands for what they say. -/
def carveWrite (s : State) (core o n : Nat) : State :=
  let pa := carvePa s core o
  if populated pa && populated (pa + 1024 * n - 1) then
    { s with mem := s.mem.write pa ((List.range (1024 * n)).map fun i => (Config.freeWord (s.free + i)).setWidth 8), free := s.free + 1024 * n }
  else s

/-- Entries of a context enter its core. -/
def holdEntries (s : State) (core : Nat) (es : List (Nat × Nat × Nat × Option Nat)) : State :=
  es.foldl (fun s e => match e.2.2.2 with
    | some o => carveWrite s core o e.2.2.1
    | none => s) (s.updCore core fun k => { k with held := k.held ++ es })

/-- Some context on the core's shelf is not the grid's. -/
def shelfOther (k : Core) (grid : Nat) : Bool := k.held.any fun h => h.1 != grid && h.2.2.2.isNone

/-- One entry moved from the shelf to the core's carve-out; none where it has no room. -/
def toCarve (core : Nat) (s : State) (h : Nat × Nat × Nat × Option Nat) : Option State :=
  let o := carveFree (s.core core) h.2.2.1
  if carveRoom s < o + h.2.2.1 then none
  else
    let s := carveWrite (s.updCore core fun k => { k with held := replaceFirst (fun x => x == h) (fun x => (x.1, x.2.1, x.2.2.1, some o)) k.held })
      core o h.2.2.1
    let k := s.core core
    let s := s.updCore core fun k => { k with snapHeld := k.held.any fun x => 2 ^ 40 ≤ x.1 && x.2.2.2.isNone }
    if k.held.any fun x => x.1 == h.1 && x.2.1 == h.2.1 && x.2.2.2.isNone then some s
    else some (s.updBlock h.1 h.2.1 fun b => { b with place := if b.place == 2 then 3 else b.place })

/-- The contexts of other grids on a core's shelf moved to its carve-out, before a block is placed that must find the shelf empty (R300, R308);
none where they have no room there. -/
def clearShelf (s : State) (core grid : Nat) : Option State :=
  ((s.core core).held.filter fun h => h.1 != grid && h.2.2.2.isNone).foldlM (toCarve core) s

/-- A block of the launch fits on the core beside what is there (R48); preemptible-fast grids keep to FOOT, and need a shelf that can be made
empty (R300, R308). -/
def fitsCore (s : State) (l : Launch) (grid core : Nat) : Bool :=
  let bs := onCore s core
  let cl := s.blocks.filter fun b => b.core / 4 == core / 4 && b.place ≤ 1
  (List.range 4).all (fun q => sumOf s bs (fun x => x.troopsOn q) + l.troopsOn q ≤ 16
      && sumOf s bs (fun x => x.regsOn q) + l.regsOn q ≤ 8192)
    && sumOf s bs Launch.scratchK + l.scratchK ≤ 256
    && sumOf s bs Launch.desc + l.desc ≤ 64
    && sumOf s cl Launch.acc + l.acc ≤ 8
    && (!l.pfast || (((bs.filter fun b => b.grid == grid).length + 1) * l.foot_ ≤ 1024 * l.foot))
    && (!l.shy || !shelfOther (s.core core) grid || (clearShelf s core grid).isSome)

/-- The core's shelf as a block of the launch must find it. -/
def readyShelf (s : State) (l : Launch) (grid core : Nat) : State := if l.shy then (clearShelf s core grid).getD s else s

/-- The lowest free slots of the core's partitions for the home troops of a block, in order (R18). -/
def slotsFor (s : State) (l : Launch) (core : Nat) : List Nat :=
  let used (q : Nat) : List Nat := (onCore s core).flatMap fun b =>
    (b.slots.zipIdx.filter fun x => x.2 % 4 == q).map fun x => x.1
  (List.range l.t).foldl (fun acc h =>
    let mine := (acc.zipIdx.filter fun x => x.2 % 4 == h % 4).map fun x => x.1
    acc ++ [((List.range 16).find? fun i => !(used (h % 4)).contains i && !mine.contains i).getD 0]) []

/-- A thread at dispatch (R34, R300, R332): the grid's mode is that of its submission. -/
def newThread (s : State) (g : Grid) (bidx tid : Nat) : Thread :=
  let regs := (g.l.roleOf tid).2.regs
  { tid := tid, pc := g.l.entry.setWidth 57, regs := List.replicate regs 0, preds := 0, toks := List.replicate 7 0, stores := 0
    meet := [], callDepth := 0, tstat := 0, status := .ready, priv := !g.user, ageMark := s.now, readySince := s.now, starving := false
    flushes := 0, segment := 0, order := 0, lid := if g.l.pop then BitVec.ofNat 64 (bidx * g.l.n + tid) else 0
    parent := if g.l.pop then 0xFFFFFFFFFFFFFFFF else 0, met := false, goto := none, trapAfter := none, mfence := false, sample := none
    yieldAfter := false, until_ := 0, bar := none, bara := [], parked := [], kept := .ready }

/-- A block placed on a core (R300). -/
def newBlock (s : State) (g : Grid) (exts : List Extent) (bidx gang rank size core : Nat) : Block :=
  let l := g.l
  { grid := g.handle, bidx := bidx, cx := bidx % l.gx, cy := bidx / l.gx % l.gy, cz := bidx / l.gx / l.gy, gang := gang, grank := rank
    gsize := size, core := core, slots := slotsFor s l core, threads := (List.range l.n).map (newThread s g bidx)
    scratch := Memory.empty, full := [], consts := l.consts
    lps := List.replicate 7 ((List.range 32).map fun i => BitVec.ofNat 6 i), descs := List.replicate l.desc none
    tiles := List.replicate l.acc tileInit, binds := [], extents := exts, groups := [], place := 0, frames := core }

/- Gangs (R49, R300). -/

/-- The blocks of a gang placed one after another on the lowest-indexed core of a unit that has room. -/
def placeGang (g : Grid) (exts : List Extent) (cores : List Nat) (gang size : Nat) : List (Nat × Nat) → State → Option State
  | [], s => some s
  | (bidx, rank) :: r, s => match cores.find? fun c => fitsCore s g.l g.handle c with
    | none => none
    | some c =>
      let s := readyShelf s g.l g.handle c
      placeGang g exts cores gang size r { s with blocks := s.blocks ++ [newBlock s g exts bidx gang rank size c] }

/-- The lease's clusters or dies in ascending order, as lists of cores. -/
def leaseUnits (g : Grid) (die : Bool) : List (List Nat) :=
  let key (c : Nat) : Nat := if die then dieOf c else c / 4
  ((g.leases.map key).foldl (fun acc u => markSet acc u true) []).map fun u => sortBy (· ≤ ·) (g.leases.filter fun c => key c == u)

/-- A gang of the first blocks still to dispatch, of a size and scope, in the first unit that takes it whole. -/
def tryGang (s : State) (g : Grid) (exts : List Extent) (spec : Nat) : Option State :=
  let bs := (g.todo.take (spec % 128)).map fun t => t.1
  (leaseUnits g (spec / 128 == 1)).findSome? fun cores =>
    (placeGang g exts cores g.gangNo bs.length bs.zipIdx s).map fun s =>
      s.updGrid g.handle fun x => { x with todo := x.todo.drop bs.length, gangNo := x.gangNo + 1 }

/-- The next gang: of the preferred size while one fits, of the fallback size from the first time one does not (R49). True where one was
dispatched. -/
def nextGang (s : State) (g : Grid) (exts : List Extent) : State × Bool :=
  match (if g.fallback then none else tryGang s g exts g.l.pgang) with
  | some s => (s, true)
  | none =>
    let s := s.updGrid g.handle fun x => { x with fallback := true }
    match tryGang s { g with fallback := true } exts g.l.fgang with
    | some s => (s, true)
    | none => (s, false)

/-- Gangs dispatched while they fit. -/
def gangsWhile (exts : List Extent) (handle : Nat) : Nat → State → State
  | 0, s => s
  | n + 1, s => match s.grid? handle with
    | none => s
    | some g =>
      if g.todo.isEmpty then s
      else match nextGang s g exts with
        | (s, false) => s
        | (s, true) => gangsWhile exts handle n s

/-- BLOCK_DISPATCH: blocks of an admitted grid placed as far as the lease has room; a co-resident grid only whole (R53, R300). Every block
receives the extent table built before the first (R63). -/
def dispatchBlocks (s : State) (handle : Nat) : State :=
  match s.grid? handle with
  | none => s
  | some g =>
    if g.decided || g.halting.isSome || g.shelved || !g.loaded || g.todo.isEmpty then s
    else
      let exts := g.table.getD (buildExtents s g.l.job g.l)
      let s' := gangsWhile exts handle g.todo.length s
      let left := ((s'.grid? handle).map fun x => x.todo.length).getD 0
      if g.l.cores_ && left != 0 then s
      else if g.table.isSome || left == g.todo.length then s'
      else extentsDsm (s'.updGrid handle fun x => { x with table := some exts }) g.l.job exts

/-- Every grid with blocks to dispatch is looked at, lower classes first (R297). -/
def dispatchAll (s : State) : State :=
  (sortBy (fun a b => a.l.cls ≤ b.l.cls) s.grids).foldl (fun s g => dispatchBlocks s g.handle) s

/- Admission. -/

/-- A grid as it is admitted (R299, R332). -/
def newGrid (handle va unit : Nat) (l : Launch) (user local_ : Bool) (leases : List Nat) (lo hi : Nat) : Grid :=
  { handle := handle, recVa := va, l := l, user := user, todo := (List.range (hi - lo)).map fun i => (lo + i, 0, 0, 0), leases := leases
    retired := [], total := hi - lo, h0 := 0, h1 := 0, seed := l.seed, gen := 0, applied := [], faulted := false, decided := false
    local_ := local_, unit := unit, gbase := 0, flushTok := none, ordTok := none, flushSent := none, gangNo := lo, fallback := false, halting := none
    shelved := false, loaded := true, loadTok := none, cancels := [], peers := [], told := [], dkey := 0, table := none }

/-- Cores of the HELD rows of this package whose grid belongs to a job (R297). -/
def jobCores (s : State) (job : Nat) : List Nat :=
  sortBy (· ≤ ·) (s.words.flatMap fun kw =>
    let w := kw.2.toNat
    if kw.1 < 0x10000 && bits w 63 52 == s.pkg && bits w 13 12 == 1
        && (s.podGrids.any fun p => p.handle == bits w 31 16 && p.job == job)
    then (List.range (bits w 41 32 + 1 - bits w 51 42)).map fun i => bits w 51 42 + i else [])

/-- A gang of the preferred or of the fallback size can never fit its scope, even in an empty cluster or die (R49, R393). -/
def gangTooBig (l : Launch) : Bool :=
  [l.pgang, l.fgang].any fun g => min l.b (g % 128) > (if g / 128 == 1 then 52 else 1) * l.perCluster

/-- Cores a co-resident grid needs (R299). -/
def coresNeeded (l : Launch) : Nat :=
  let b := max 1 l.perCore
  if l.acc == 0 then (l.b + b - 1) / b
  else
    let q := max 1 (min (4 * b) (8 / l.acc))
    4 * ((l.b + q - 1) / q)

/-- C of a grid (R295). DESIGN CHOICE (log 77): a computed C that passes the 16 bits of its field (R289) is carried whole. -/
def coreRequest (s : State) (l : Launch) : Nat :=
  if l.cores_ then coresNeeded l
  else if l.creq != 0 then l.creq
  else
    let b := max 1 l.perCore
    max 1 (min ((l.b + b - 1) / b) (832 * (if l.span then (jobPkgs s l.job).length else 1)))

/-- A handle for a grid the pod does not know (R297): above every 16-bit handle, with low bits from the top of the table, where the pod's
handles come last. -/
def localHandle (s : State) : Nat :=
  ((List.range (s.grids.length + 1)).find? fun k => !(s.grids.any fun g => g.handle == 0x1FFFE - k)).elim 0x1FFFE fun k => 0x1FFFE - k

/-- The bound collective of a launch taken by the engine of its rank's package (R325). -/
def takeBound (s : State) (g : Grid) : State :=
  if g.l.collbind == 0 then s
  else match boundAt s g.l.job g.user g.l with
    | (s, .ok (some b)) =>
      if !b.here s then s
      else
        let e : EngBy := { core := 0, grid := g.handle, bidx := 0, tid := 0, job := g.l.job, user := g.user, recVa := at_ b.bind 0 8
                           score := 0x3FF, store := 0 }
        bindColl s e g.handle (at_ b.bind 8 4) b.d b.ranks b.aux
    | (s, _) => s

/-- A grid admitted: it stands in the table, its bound collective is taken, its blocks are dispatched. -/
def admitGrid (s : State) (g : Grid) : State :=
  dispatchBlocks (takeBound { s with grids := s.grids ++ [g] } g) g.handle

/- Units (R50). -/

/-- A decrement of a job's signal object is still to be performed: parked on an entry, on its way to another package, or given back by it. -/
def decOut (s : State) (job va : Nat) : Bool :=
  let is (p : Packet) : Bool := p.job == job && p.base.toNat == va && p.typ == 8 && p.src == s.pkg && tfield p 0 1 == 19
  s.sigHeld.any (fun x => x.1 == job && x.2.2.1 == va) || s.retained.any (fun k => is k.p) || s.remHeld.any fun x => is x.2

/-- A member of a unit has had its counter decremented. -/
def unitCount (s : State) (id va : Nat) : State :=
  { s with units := replaceFirst (fun x => x.id == id) (fun x => { x with left := x.left - 1, done := x.done ++ [va] }) s.units }

/-- A unit all of whose members' decrements have been performed decrements its own counter, with status CANCELLED where it was cancelled
(R50, R51), and its parent counts it. -/
def unitOver (s : State) (u : WUnit) : State :=
  if u.left != 0 || u.done.any fun va => decOut s u.job va then s
  else
    let s := signalDone { s with units := s.units.filter fun x => x.id != u.id } u.job u.user u.counter (b2n u.decided)
    unitCount s u.parent u.counter

/-- Every unit is looked at, level by level: jobs after phases, phases after graphs (R50). -/
def unitsAgain (s : State) : State :=
  [1, 2, 3].foldl (fun s lv => (s.units.filter fun u => u.level == lv).foldl unitOver s) s

/-- One member of a unit has decremented the counter at a VA, and the unit follows once that is performed. -/
def unitMember (s : State) (id va : Nat) : State := unitsAgain (unitCount s id va)

/-- A record is decided without being dispatched: its COMPL takes a status (R297, R393). -/
def decideRecord (s : State) (x : Sub) (status : Nat) : State :=
  unitMember (signalDone s x.job x.user x.l.compl status) x.unit x.l.compl

/- DISPATCH_RECORD (R297). -/

/-- What the wait signals of a record say: met, an error status, not yet, or a read that stops. -/
inductive WaitRes
  | met
  | err (status : Nat)
  | not
  | ask (va pkg : Nat)
  | parked (e : ReadErr)
  | failed (e : ReadErr)
  deriving DecidableEq, Repr, Inhabited

/-- Wait signals read in order: while one is not met nothing is decided; the first error decides (R231, R297). -/
def testWaits (job : Nat) (user : Bool) : List Nat → State → State × WaitRes
  | [], s => (s, .met)
  | va :: r, s =>
    let rest (w : WaitRes) (s : State) : State × WaitRes := match testWaits job user r s with
      | (s, .met) | (s, .err _) | (s, .failed _) => (s, w)
      | x => x
    if va % 8 != 0 then rest (.failed { code := 0x0408, va := va, detail := 0, compl := 0 }) s
    else match readAs s 0 job va user 0x0504 8 with
      | (s, .error e) => if e.code == 0 then (s, .ask e.va e.detail.toNat) else if rungOf e.code == 1 then (s, .parked e) else rest (.failed e) s
      | (s, .ok bs) =>
        let w := BitVec.ofNat 64 (leNat bs)
        if sigErr w then rest (.err (sigStatus w)) s
        else if sigCount w ≤ 0 then testWaits job user r s
        else rest .not s

/-- The queue entry at a position changed or removed. -/
def updQueue (s : State) (cls pos : Nat) (f : Sub → Option Sub) : State :=
  { s with queues := s.queues.zipIdx.map fun q =>
      if q.2 == cls then (q.1.zipIdx.filterMap fun x => if x.2 == pos then f x.1 else some x.1) else q.1 }

/-- A record leaves its queue: rejected, admitted within its job's leases, or sent to the pod (R297, R393). -/
def leaveQueue (s : State) (x : Sub) : State :=
  let l := x.l
  let s := { s with engGot := s.engGot.filter fun y => y.1 != dispOp, engAsks := s.engAsks.filter fun a => a.op != dispOp }
  let pkgs := if l.span then (jobPkgs s l.job).length else 1
  if gangTooBig l || (l.cores_ && coresNeeded l > 832 * max 1 pkgs) then
    decideRecord (queueRec s 0 (unitRec s 0x0731 (BitVec.ofNat 64 x.va) 0xFFFF 0 l.job)) x 3
  else
    let g := newGrid (localHandle s) x.va x.unit l x.user true (jobCores s l.job) 0 l.b
    -- it fits where its blocks, or for a grid that is not co-resident its first gang, can be placed now
    let s' := gangsWhile (buildExtents s l.job l) g.handle (if l.cores_ then l.b else 1) { s with grids := s.grids ++ [g] }
    let left := ((s'.grid? g.handle).map fun y => y.todo.length).getD l.b
    if !l.span && !g.leases.isEmpty && (if l.cores_ then left == 0 else left < l.b) then admitGrid s g
    else
      sendEvent { s with subs := s.subs ++ [{ x with sent := true }] }
        (.submit (evHdr s l.job) (BitVec.ofNat 57 x.va) (if pkgs == 0 then 0 else coreRequest s l)
          (BitVec.ofNat 8 (b2n l.cores_ + b2n l.span <<< 1 + l.cls <<< 2 + b2n (l.cores_ && l.acc != 0) <<< 4)))

/-- The record leaves its queue as soon as it is tested (R297). -/
def recordLeaves (s : State) (x : Sub) : Bool :=
  x.token == 0 && (match (testWaits x.job x.user (x.l.waits.take x.l.nwait) s).2 with
    | .met | .err _ | .failed _ => true
    | _ => false)

/-- Records of a lower class, or of the same class further ahead, are tested first, and one of them leaves (R297). -/
def recordFirst (s : State) (cls pos : Nat) : Bool :=
  ((s.queues.take cls).any fun q => q.any (recordLeaves s)) || ((s.queues.getD cls []).take pos).any (recordLeaves s)

/-- What the record's waits and the reading of its binding say (R297, R325). -/
def testRecord (s : State) (x : Sub) : State × WaitRes :=
  match testWaits x.job x.user (x.l.waits.take x.l.nwait) s with
  | (s, .met) =>
    if x.l.collbind == 0 then (s, .met)
    else match boundAt s x.job x.user x.l with
      | (s, .error e) => (s, if e.code == 0 then .ask e.va e.detail.toNat else if rungOf e.code == 1 then .parked e else .failed e)
      | (s, .ok _) => (s, .met)
  | r => r

/-- DISPATCH_RECORD: the record at a position of a class queue is tested, and leaves its queue once its waits are met (R297). -/
def execDispatchRecord (cls pos : Nat) (s : State) : Host.Outcome State Fault Refusal :=
  .next (match (s.queues.getD cls [])[pos]? with
    | none => s
    | some x =>
      if x.token != 0 || recordFirst s cls pos then s
      else match testRecord s x with
        | (s, .not) => s
        | (s, .ask va pkg) => dispAsk s x.job x.user va pkg
        | (s, .parked e) =>
          let (s, tok, new) := waitEntry s 0 x.job (e.va / 2 ^ 16)
          let s := updQueue s cls pos fun y => some { y with token := tok }
          if new then queueRec s 0 { unitRec s e.code (BitVec.ofNat 64 e.va) (e.detailOr 8) 0 x.job with
            flags := 1, token := tok, entry := some (bits tok 29 20) } else s
        | (s, .failed e) =>
          decideRecord (queueRec (updQueue s cls pos fun _ => none) 0 (unitRec s e.code (BitVec.ofNat 64 e.va) (e.detailOr 8) 0 x.job)) x 3
        | (s, .err st) => decideRecord (updQueue s cls pos fun _ => none) x st
        | (s, .met) => leaveQueue (updQueue s cls pos fun _ => none) x)

/- Submission (R120, R283). -/

/-- An outstanding result changed. -/
def updPend (s : State) (id : Nat) (f : Pend → Pend) : State := { s with pend := replaceFirst (fun p => p.id == id) f s.pend }

/-- A submission whose status is known gives it to the submitting thread, or returns it to the host (R283, R331). -/
def submitStatus (s : State) (x : Sub) (n : Nat) : State :=
  if x.host then { s with outHost := s.outHost ++ [(x.job, x.va, n)] }
  else updPend s x.pend fun p => { p with kind := .ready [(p.acc.d, BitVec.ofNat 64 n)] }

/-- A submission made, and its status delivered where there is one. -/
def submitFor (s : State) (x : Sub) : State :=
  match submitNow s x with
  | (s, some n, c) => signalDone (submitStatus s x n) x.job x.user c 3
  | (s, none, _) => s

/-- Submissions that waited for another package's bytes are made again. -/
def subsAgain (s : State) : State :=
  let ready := s.subs.filter fun x => x.token == askTok
  if ready.isEmpty || s.engAsks.any fun a => a.op == dispOp then s
  else
    let s := ready.foldl (fun s x => submitFor { s with subs := s.subs.filter fun y => y != x } { x with token := 0 }) s
    if s.subs.any fun x => x.token == askTok then s else { s with engGot := s.engGot.filter fun y => y.1 != dispOp }

/-- LAUNCH, PHASE and GRAPHRUN: each active lane submits its record once every earlier store of the group is performed, which is its release at
pod scope (R120); the status comes on its token. -/
def submitLanes (i : Instr) (kind : Nat) (x y : Reg) (k : BitVec 3) (l : BitVec 4) (s : State) : Host.Outcome State Fault Refusal :=
  issue i s fun b g => withDrain s b g fun s =>
    let (s, ws) := (activeLanes b g).foldl (fun (s, ws) m =>
      let id := s.nextId
      let (s, w) := addPlain s b g m.2 y k l (.engine (2 ^ 50 + id))
      (submitFor s { kind := kind, va := (m.2.reg x).toNat, job := s.jobOf b.grid, user := !m.2.priv, unit := 0, pend := id
                     token := 0, sent := false, host := false, l := default, handle := none }, ws ++ w)) (s, [])
    advanceIn s b.grid b.bidx g.gid (Instr.len i) ws

/-- LAUNCH (R283). -/
def execLaunch (x y : Reg) (k : BitVec 3) (l : BitVec 4) (s : State) : Host.Outcome State Fault Refusal := submitLanes (.launch x y k l) 0 x y k l s

/-- PHASE (R283). -/
def execPhase (x y : Reg) (k : BitVec 3) (l : BitVec 4) (s : State) : Host.Outcome State Fault Refusal := submitLanes (.phase x y k l) 1 x y k l s

/-- GRAPHRUN (R283). -/
def execGraphrun (x y : Reg) (k : BitVec 3) (l : BitVec 4) (s : State) : Host.Outcome State Fault Refusal := submitLanes (.graphrun x y k l) 2 x y k l s

/-- HOST_SUBMISSION: the bridging package's dispatcher enters a record as a user thread of the job would, and the status of R283 is
returned to the host (R331). -/
def execHostSubmission (kind : SubKind) (job : Nat) (va : Va) (s : State) : Host.Outcome State Fault Refusal :=
  .next (submitFor s
    { kind := match kind with
        | .launch => 0
        | .phase => 1
        | .graph => 2
      va := va.toNat, job := job, user := true, unit := 0, pend := 0, token := 0, sent := false, host := true, l := default, handle := none })

end Sys2Proof.Machine
end

