-- ==== Sys2Proof/Machine/Replay.lean ====
section
/-! DEFINITION. Closing wait-table entries (R379, R383, R403 to R406, R456, R457): parked accesses re-execute from translation, groups form
again, engines, orders, submissions and held packets go on. -/

namespace Sys2Proof.Machine

open Sys2Proof

/- Tokens that are not entries. -/

/-- Token of an access that waits for an entry to free (R378), of a closed entry whose block was shelved (R383), and of a thread that BKPT
or HALT stopped (R432). -/
def fullTok : Nat := 2 ^ 32
def closedTok : Nat := 2 ^ 36
def stopTok : Nat := 2 ^ 33

/-- Token of a transfer executed again whose target's header is still being fetched, or whose page is moving (R180, R395). -/
def lookTok : Nat := 2 ^ 39

/-- The page of an open entry. -/
def tokPage (s : State) (tok : Nat) : Option Nat :=
  ((s.die (tok / 2 ^ 30 % 4)).waits.find? fun w => w.index == bits tok 29 20 && w.gen == tok % 2 ^ 20).map fun w => w.page

/- Lanes (R404). -/

/-- The check of a parked access when it is executed again. -/
def reCheck (s : State) (b : Block) (g : Group) (th : Thread) (acc : Acc) : State × LaneCheck :=
  match acc.op with
  | .reissue => (s, .go)
  | .jump _ _ =>
    if acc.y == 2 then
      (match accFaults s b (!th.priv) (popAcc s b th) with
      | (s, x :: _) =>
        (s, .fault [{ tid := th.tid, code := x.1, addr := x.2, detail := accDetail s b (popAcc s b th) x.1 x.2, acc := acc }])
      | (s, []) => match popTarget s b th with
        | some v => targetCheck s b th (jumpAcc v 3 0)
        | none => (s, .go))
    else if acc.y == 1 then
      (match accFaults s b (!th.priv) (pushAcc s b th g.fall) with
      | (s, x :: _) =>
        (s, .fault [{ tid := th.tid, code := x.1, addr := x.2, detail := accDetail s b (pushAcc s b th g.fall) x.1 x.2, acc := acc }])
      | (s, []) => targetCheck s b th acc)
    else targetCheck s b th acc
  | .sigarm _ _ =>
    (match accCheck b s th acc with
    | (s, .go) => (s, match armCause s b (!th.priv) [] acc with
      | some c => .trap c acc.ea
      | none => .go)
    | r => r)
  | _ => accCheck b s th acc

/-- A transfer executed again whose target is not known yet: it stays, a return's slot having been loaded (R180, R395). -/
def reLook (s : State) (b : Block) (th : Thread) (acc : Acc) : State × Option Acc :=
  match acc.op with
  | .jump _ _ =>
    (match (if acc.y == 2 then popTarget s b th else some acc.ea) with
    | none => (s, none)
    | some t => match targetLook s b (!th.priv) t with
      | (s, some _) => (s, none)
      | (s, none) => (s, some (if acc.y == 2 then jumpAcc t 3 0 else acc)))
  | _ => (s, none)

/-- The access performed as at its issue (R404). -/
def reAct (s : State) (b : Block) (g : Group) (th : Thread) (acc : Acc) : State × List Window :=
  match acc.op with
  | .reissue => (s, [])
  | .jump _ _ => if acc.y == 2 then retWait s b g th else (takeJump s b (trefOf b th) acc, [])
  | _ => actAcc s (trefOf b th) g.hdr g.idx (!th.priv) acc

/-- One thread of a parked sub-group, some of whose entries are closed: it is released with the windows it opens, or waits on. -/
def reexecLane (closed : Nat → Bool) (grid bidx : Nat) (g : Group) (tid : Nat) (s : State) : State × Option (List Window) :=
  let who : Tref := { grid := grid, bidx := bidx, tid := tid }
  match s.block? grid bidx, s.thread? who with
  | some b, some th =>
    let rest := th.parked.filter fun p => !closed p.1
    (match th.parked.find? fun p => closed p.1 with
    | none => (s, none)
    | some (_, acc) =>
      match reLook s b th acc with
      | (s, some acc) => (s.updThread who fun (t : Thread) => { t with parked := rest ++ [(lookTok, acc)] }, none)
      | (s, none) =>
      let (s, c) := reCheck s b g th acc
      match c with
      | .trap code d =>
        let r := threadRec s b g.hdr g.idx tid code 0 d 1
        let s := s.updThread who fun (t : Thread) => { t with parked := [] }
        (trapOrPark (dieOf b.core) r g.gid (fun _ => g.hdr) [th] s 0, none)
      | c =>
        -- a page whose entry is still open is not faulted on again
        let all : List LFault := match c with
          | .fault fs => fs
          | _ => []
        let fs := all.filter fun f => !(rest.any fun p => tokPage s p.1 == some (f.addr / 2 ^ 16))
        let r3 := fs.filter fun f => rungOf f.code != 1
        let (s, ts) := openAll b g (fs.filter fun f => rungOf f.code == 1) s
        let s := rung3Rec s b g r3
        let ts := rest ++ (ts.map fun t => (t.2.1, t.2.2)) ++ r3.map fun f => (0, f.acc)
        if ts.isEmpty then
          let s := s.updThread who fun (t : Thread) => { t with status := .issuing, parked := [] }
          let (s, ws) := reAct s b g th acc
          (s, some ws)
        else (s.updThread who fun (t : Thread) => { t with parked := ts }, none))
  | _, _ => (s, none)

/-- Words of the instruction a group stands at. -/
def groupLen (g : Group) : Nat := match decode g.rest with
  | .ok (i, _) => Instr.len i
  | .error _ => 1

/-- A parked sub-group, some of whose threads are released together: they form one group after the instruction; one that issues it again
stands at it (R404). -/
def reexecGroup (closed : Nat → Bool) (grid bidx : Nat) (s : State) (g : Group) : State :=
  let again := (s.block? grid bidx).any fun b => b.threads.any fun th =>
    (g.member? th.tid).isSome && th.parked.any fun p => closed p.1 && p.2.op == .reissue
  let tids := sortBy (· ≤ ·) (g.members.map fun m => m.tid)
  let (s, out) := tids.foldl (fun (x : State × List (Nat × List Window)) tid =>
    match reexecLane closed grid bidx g tid x.1 with
    | (s, some ws) => (s, x.2 ++ [(tid, ws)])
    | (s, none) => (s, x.2)) (s, [])
  if out.isEmpty then s
  else
    let free (m : Member) : Bool := out.any fun o => o.1 == m.tid
    let gid := s.nextId
    let new : Group := { g with gid := gid, members := g.members.filter free, parked := false }
    let new := stepGroup new (if again then 0 else groupLen g) (out.flatMap fun o => o.2)
    let s := s.updBlock grid bidx fun b =>
      { b with groups := ((b.groups.map fun (x : Group) => if x.gid == g.gid then { x with members := x.members.filter fun m => !free m } else x).filter
                 fun x => !(x.gid == g.gid && x.members.isEmpty)) ++ [new] }
    settleGroup { s with nextId := gid + 1 } grid bidx gid

/-- The parked accesses of a running block whose entries are closed (R404, R405); a group parked at the fetch of its clause goes back to
the clause boundary (R410). -/
def reexecBlock (closed : Nat → Bool) (s : State) (b : Block) : State :=
  let s := (b.groups.filter fun g => g.parked && g.held.isEmpty).foldl (reexecGroup closed b.grid b.bidx) s
  s.updBlock b.grid b.bidx fun b =>
    let opened (g : Group) : Bool := g.parked && !g.held.isEmpty && g.held.all closed
    let freed (tid : Nat) : Bool := b.groups.any fun g => opened g && (match g.member? tid with
      | some m => m.active
      | none => false)
    let grouped (tid : Nat) : Bool := b.groups.any fun g => (g.member? tid).isSome
    { b with
      groups := b.groups.map fun (g : Group) =>
        if opened g then { g with parked := false, held := [] } else { g with held := g.held.filter fun t => !closed t }
      threads := b.threads.map fun (th : Thread) =>
        if freed th.tid then { th with status := .issuing }
        else if !grouped th.tid && !th.parked.isEmpty && th.parked.all fun p => closed p.1 then
          { th with status := .ready, parked := [], readySince := s.now }
        else th }

/-- In a block that is not running, closed entries are noted; the accesses execute on resume (R383). -/
def noteClosed (closed : Nat → Bool) (b : Block) : Block :=
  let f (t : Nat) : Nat := if closed t then closedTok else t
  { b with
    groups := b.groups.map fun (g : Group) => { g with held := g.held.map f }
    threads := b.threads.map fun (th : Thread) => { th with parked := th.parked.map fun p => (f p.1, p.2) } }

/-- Every thread and group that waits on closed tokens. -/
def reexecAll (closed : Nat → Bool) (s : State) : State :=
  s.blocks.foldl (fun s b =>
    if b.place == 0 then reexecBlock closed s b else s.updBlock b.grid b.bidx (noteClosed closed)) s

/-- Transfers that wait to know their targets are executed again. -/
def looksAgain (s : State) : State :=
  if s.blocks.any fun b => b.threads.any fun th => th.parked.any fun p => p.1 == lookTok then reexecAll (fun t => t == lookTok) s else s

/- Everything else that parks. -/

/-- A held packet re-sent: a new SEQ, the original PSER and PATH; its answer stands for the original packet's (R456). -/
def resendHeld (s : State) (p : Packet) : State :=
  let key := 8 * p.dst + p.vc
  let n := tget 0 s.seqOut key
  let p' : Packet := { p with seq := n % 2 ^ 32, col := s.colour, lvl := freeLevel s s.ringOf }
  let is (d q : Nat) : Bool := d == p.dst && q == p.seq
  let s := leaveKept { s with seqOut := tset s.seqOut key (n + 1) } p' (pathOf s)
  { s with
    inFlight := s.inFlight.map fun f => if is f.1 f.2.1 then (f.1, p'.seq, f.2.2) else f
    grids := s.grids.map fun (g : Grid) => { g with flushSent := g.flushSent.map fun a => if is a.1 a.2 then (a.1, p'.seq) else a }
    engAsks := s.engAsks.map fun (a : EngAsk) => if is a.dst a.seq then { a with seq := p'.seq } else a
    lineAsks := s.lineAsks.map fun a => if is (a.2.2 / 2 ^ 32) (a.2.2 % 2 ^ 32) then (a.1, a.2.1, 2 ^ 32 * p.dst + p'.seq) else a
    shoots := s.shoots.map fun (x : Shoot) => { x with pkgs := x.pkgs.map fun a => if is a.1 a.2 then (a.1, p'.seq) else a }
    fwds := s.fwds.map fun (x : Fwd) => if is x.dst x.seq then { x with seq := p'.seq } else x
    pend := s.pend.map fun (x : Pend) => match x.kind with
      | .remote asks got => { x with kind := .remote (asks.map fun a => if is a.1 a.2 then (a.1, p'.seq) else a) got }
      | _ => x }

/-- A matrix entry parked on a token goes on. -/
def MEntry.freed (tok : Nat) (e : MEntry) : MEntry := if 10 ≤ e.phase && e.token == tok then { e with phase := e.phase - 10, token := 0 } else e

/-- Everything that can go on after an answer has come, a page has stopped moving, or an entry has closed. -/
def wakeAll (s : State) : State :=
  goOn (unitsAgain (xfersAgain (collsAgain (copiesAgain (returnsAgain (looksAgain (fenceacksAgain s)))))))

/-- What is parked on a token outside the threads goes on (R231, R297, R379, R403, R456, R457). -/
def closeOthers (s : State) (tok : Nat) : State :=
  let sigs := s.sigHeld.filter fun x => x.2.2.2.2 == tok
  let subs := s.subs.filter fun x => x.token == tok && !x.sent
  let pkts := s.remHeld.filter fun x => x.1 == tok
  let gone (t : Option Nat) : Option Nat := if t == some tok then none else t
  let s := { s with
    sigHeld := s.sigHeld.filter fun x => x.2.2.2.2 != tok
    subs := s.subs.filter fun x => !(x.token == tok && !x.sent)
    remHeld := s.remHeld.filter fun x => x.1 != tok
    queues := s.queues.map fun q => q.map fun (x : Sub) => if x.token == tok then { x with token := 0 } else x
    grids := s.grids.map fun (g : Grid) => { g with flushTok := gone g.flushTok, ordTok := gone g.ordTok, loadTok := gone g.loadTok }
    clusters := s.clusters.map fun (c : Nat × List MEntry) => (c.1, c.2.map (MEntry.freed tok))
    aside := s.aside.map (MEntry.freed tok)
    writes := s.writes.map fun (w : PWrite) => if w.token == tok then { w with token := 0 } else w
    pend := s.pend.map fun (p : Pend) => if p.kind == .onEntry tok then { p with kind := .held } else p
    rebuilds := s.rebuilds.map fun (r : Rebuild) => { r with token := gone r.token }
    copies := s.copies.map fun (c : Copy) => if c.phase == 2 && c.token == tok then { c with phase := 0, token := 0 } else c
    xfers := s.xfers.map fun (x : Xfer) => { x with token := gone x.token }
    colls := s.colls.map fun (c : Coll) => if c.token == some tok then { c with token := none, refetch := true } else c }
  let s := sigs.foldl (fun s x => signalDoneAt s (tok / 2 ^ 30 % 4) x.1 x.2.1 x.2.2.1 x.2.2.2.1) s
  let s := subs.foldl (fun s x => submitFor s { x with token := 0 }) s
  let s := pkts.foldl (fun s x => resendHeld s x.2) s
  wakeAll s

/-- One open entry closed: its accesses execute again, and accesses that waited for a free entry open theirs (R378, R379). -/
def closeEntry (s : State) (die : Nat) (w : WaitEntry) : State :=
  let tok := die <<< 30 + w.index <<< 20 + w.gen
  let s := s.updDie die fun d => { d with waits := d.waits.filter fun x => x.index != w.index }
  let s := closeOthers (reexecAll (fun t => t == tok) s) tok
  closeOthers (reexecAll (fun t => t == fullTok) s) fullTok

/-- The open entries of the package that meet p, with their dies. -/
def openEntries (s : State) (p : Nat → WaitEntry → Bool) : List (Nat × WaitEntry) :=
  (List.range 4).flatMap fun d => ((s.die d).waits.filter (p d)).map fun w => (d, w)

end Sys2Proof.Machine
end

