-- ==== Sys2Proof/Machine/Retire.lean ====
section
/-! DEFINITION. The end of grids and units: what a block has under way (R46), grid completion (R50, R227), and cancellation (R51, R284,
R382, R383). -/

namespace Sys2Proof.Machine

open Sys2Proof

/- Wait-table entries that nothing waits on any more (R383). -/

/-- Some access, operation or order is parked on the token. -/
def tokenHeld (s : State) (tok : Nat) : Bool :=
  (s.blocks.any fun b => (b.threads.any fun th => th.parked.any fun p => p.1 == tok) || b.groups.any fun g => g.held.contains tok)
  || (s.grids.any fun g => g.flushTok == some tok || g.ordTok == some tok || g.loadTok == some tok)
  || (s.subs.any fun x => x.token == tok) || (s.queues.any fun q => q.any fun x => x.token == tok)
  || (s.sigHeld.any fun x => x.2.2.2.2 == tok)
  || (s.entries.any fun e => 10 ≤ e.phase && e.token == tok)
  || (s.writes.any fun w => w.token == tok) || (s.pend.any fun p => p.kind == .onEntry tok)
  || (s.rebuilds.any fun r => r.token == some tok) || (s.copies.any fun c => c.phase == 2 && c.token == tok)
  || (s.xfers.any fun x => x.token == some tok) || (s.colls.any fun c => c.token == some tok)
  || (s.remHeld.any fun x => x.1 == tok)

/-- Token of a wait-table entry (R378). -/
def WaitEntry.tok (die : Nat) (w : WaitEntry) : Nat := die <<< 30 + w.index <<< 20 + w.gen

/-- The entries that `before` held an access of and `s` does not are freed. -/
def freeEntries (before s : State) : State :=
  (List.range 4).foldl (fun s die => s.updDie die fun d =>
    { d with waits := d.waits.filter fun w => tokenHeld s (w.tok die) || !tokenHeld before (w.tok die) }) s

/- What a block or grid still has under way. -/

/-- The access changes memory without being a store. -/
def AccOp.isAtomic : AccOp → Bool
  | .atom _ _ _ _ | .sig _ _ _ | .rel _ | .sigarm _ _ => true
  | _ => false

/-- An outstanding result that is an issued atomic (R46, R51). -/
def Pend.atomWork (p : Pend) : Bool :=
  match p.kind with
  | .ticket => true
  | .scTicket | .remote _ _ | .held | .onEntry _ => p.acc.op.isAtomic
  | _ => false

/-- An outstanding result that is an atomic or an engine operation of its thread (R46). -/
def Pend.opWork (p : Pend) : Bool :=
  match p.kind with
  | .engine op => op < 2 ^ 50
  | _ => p.atomWork

/-- A store, atomic or engine operation of the block is not complete (R46). -/
def blockBusy (s : State) (b : Block) : Bool :=
  let mine (e : EngBy) : Bool := e.grid == b.grid && e.bidx == b.bidx
  let own (t : Tref) : Bool := t.grid == b.grid && t.bidx == b.bidx
  (s.pend.any fun p => own p.who && p.opWork)
  || (s.writes.any fun w => own w.who)
  || (b.threads.any fun th => th.stores != 0 || !th.parked.isEmpty || remoteOut s b.core (trefOf b th))
  || (s.entries.any fun e => e.grid == b.grid && e.bidx == b.bidx)
  || (s.copies.any fun c => mine c.by_) || (s.xfers.any fun x => mine x.by_) || (s.rebuilds.any fun r => mine r.by_)
  || (s.colls.any fun c => c.kind != 3 && mine c.by_)

/-- A staged atomic of the block is not applied, or its .ord operation not released (R55). -/
def blockStaged (s : State) (b : Block) : Bool :=
  (s.cores.any fun c => c.2.staged.any fun e => e.who.grid == b.grid && e.who.bidx == b.bidx)
  || (List.range 4).any fun d => (s.die d).tickets.any fun t => t.who.grid == b.grid && t.who.bidx == b.bidx

/-- No thread of a population grid is left in any block (R333). -/
def popOver (s : State) (grid : Nat) : Bool :=
  if !(s.launchOf grid).pop then true
  else if gridPkgs s grid != [s.pkg] then (exchOf s grid).plan == planOver
  else (s.blocks.filter fun b => b.grid == grid).all fun b => b.threads.all fun th => th.status == .exited

/-- A block leaves its core; arrivals, outstanding results and windows of its threads go with it. -/
def removeBlock (s : State) (grid bidx : Nat) : State :=
  { s with
    blocks := s.blocks.filter fun b => !isBlock grid bidx b
    pend := s.pend.filter fun p => !(p.who.grid == grid && p.who.bidx == bidx)
    bars := s.bars.filter fun x => !(x.kind == .block && x.grid == grid && x.idx == bidx)
    issuing := match s.issuing with
      | some c => if c.grid == grid && c.bidx == bidx then none else some c
      | none => none }

/-- A grid that halts has no block left to halt or to save: it is shelved as far as anything of it is left here (R305, R310). -/
def haltEnds (s : State) (h : Nat) : State :=
  s.updGrid h fun g =>
    if g.halting.isSome && !s.blocks.any fun b => b.grid == h && b.place ≤ 1
    then { g with halting := none, shelved := !g.todo.isEmpty || s.blocks.any fun b => b.grid == h } else g

/- Grids (R50, R51). -/

/-- The origin of a grid the pod knows. -/
def originOf (s : State) (h : Nat) : Nat := ((s.podGrids.find? fun p => p.handle == h).map fun p => p.origin).getD s.pkg

/-- A grid the pod knows is decided here, at its origin: its counter and its unit's follow. -/
def originDecides (s : State) (h status : Nat) : State :=
  if originOf s h != s.pkg then s
  else match s.subs.find? fun x => x.handle == some h with
    | some x => decideRecord { s with subs := s.subs.filter fun y => y.handle != some h } x status
    | none => match s.grid? h with
      | some g => signalDone s g.l.job g.user g.l.compl status
      | none => s

/-- Flush stop of a grid whose digest pair is on its way to another package. -/
def digestTok : Nat := 2 ^ 35

/-- The final digest pair of an ordered grid written to bytes 127:112 of its launch record (R227); false where the write waits. -/
def writeDigest (s : State) (g : Grid) : State × Bool :=
  let op := 2 ^ 43 + g.handle
  if !g.l.ord then (s, true)
  else if g.flushTok == some digestTok then (s, !engOut s op)
  else
    let e : EngBy := { core := 0, grid := g.handle, bidx := 0, tid := 0, job := g.l.job, user := g.user, recVa := g.recVa, score := 0x3FF, store := 0 }
    match engPuts e op [(g.recVa + 112, leBytes g.h0.toNat 8, 0), (g.recVa + 120, leBytes g.h1.toNat 8, 0)] s with
    | (s, _, .done) => if engOut s op then (s.updGrid g.handle fun x => { x with flushTok := some digestTok }, false) else (s, true)
    | (s, _, .wait) => (s, false)
    | (s, _, .bad c a d) => match engFault s e c a d with
      | (s, some tok) => (s.updGrid g.handle fun x => { x with flushTok := some tok }, false)
      | (s, none) => (s, true)

/-- Flush stop of a decided grid whose FINISH waits until no grid admitted within its lease is left. -/
def finishTok : Nat := 2 ^ 37

/-- FINISH is sent for each decided grid whose cores no local grid uses any more (R288). -/
def sendFinishes (s : State) : State :=
  (s.grids.filter fun g => g.flushTok == some finishTok
      && !(s.grids.any fun x => x.local_ && x.leases.any fun c => g.leases.contains c)).foldl (fun s g =>
    (sendEvent s (.finish (evHdr s g.l.job) g.handle s.pkg)).updGrid g.handle fun x => { x with flushTok := none }) s

/-- Every block has retired, the last flush is complete and every bound collective is done (R50). -/
def gridOver (s : State) (g : Grid) : Bool :=
  g.loaded && !g.decided && !g.shelved && g.todo.isEmpty && (g.flushTok.isNone || g.flushTok == some digestTok) && g.ordTok.isNone
    && !(s.blocks.any fun b => b.grid == g.handle) && gridFlushed s g.handle
    && !(s.colls.any fun c => c.kind == 3 && c.grid == g.handle)

/-- GRID_COMPLETION: the digest is written, the completion counter decremented and the units follow (R50, R227). A grid of the pod sends
FINISH; one that spans packages is decided when all have (R288). -/
def execGridCompletion (grid : Nat) (s : State) : Host.Outcome State Fault Refusal :=
  .next (match s.grid? grid with
    | none => s
    | some g =>
      if !gridOver s g then s
      else match writeDigest s g with
        | (s, false) => s
        | (s, true) =>
          if g.local_ then
            dispatchAll (sendFinishes (unitMember
              (signalDone { s with grids := s.grids.filter fun x => x.handle != grid } g.l.job g.user g.l.compl 0) g.unit g.l.compl))
          else
            let s := if g.l.span then s else originDecides s grid 0
            dispatchAll (sendFinishes (s.updGrid grid fun x => { x with decided := true, flushTok := some finishTok })))

/- Cancellation (R51). -/

/-- Flush stop of a grid that has been cancelled with a status, whose counter is still to be decremented. -/
def cancelTok (status : Nat) : Nat := 2 ^ 38 + status

/-- The grid's release order can go no further: an operation of it has faulted (R457). -/
def orderStopped (s : State) (h : Nat) : Bool := ((s.grid? h).bind fun g => g.ordTok).any fun t => t != 2 ^ 33

/-- .ord operations of a cancelled grid behind one that has faulted are not released any more (R51, R457). -/
def dropOrder (s : State) (h : Nat) : State :=
  if !orderStopped s h then s
  else
    let s := (List.range 4).foldl (fun s d => s.updDie d fun x => { x with tickets := x.tickets.filter fun t => t.who.grid != h }) s
    { s.updGrid h (fun g => { g with ordTok := none }) with pend := s.pend.filter fun p => !(p.who.grid == h && p.kind == .ticket) }

/-- Everything of the grid stops: its blocks keep only the stores, atomics and engine operations that they have issued, as place 4; staged
atomics, contexts and parked accesses are discarded, copies end at a chunk boundary with CANCELLED, parked operations at once, bound
collectives at every rank (R51, R267, R383, R416, R434). -/
def stopGrid (s : State) (h status : Nat) : State :=
  let before := s
  let s := { s with writes := s.writes.filter fun w => !(w.who.grid == h && w.token != 0) }
  let s := (s.blocks.filter fun b => b.grid == h).foldl (fun s b => b.threads.foldl (fun s th => flushThread s b.core (trefOf b th)) s) s
  let s := s.updGrid h fun g => { g with todo := [] }
  let s := { s with
    blocks := s.blocks.map fun (b : Block) =>
      if b.grid == h then
        { b with place := 4, groups := []
                 threads := b.threads.map fun (t : Thread) => { t with status := .exited, kept := .exited, parked := [], bar := none, bara := [] } }
      else b
    cores := s.cores.map fun (c : Nat × Core) => (c.1, { c.2 with
      staged := c.2.staged.filter fun e => e.who.grid != h
      held := c.2.held.filter fun x => x.1 != h
      busy := c.2.busy && s.blocks.any fun b => b.core == c.1 && b.place == 1 && b.grid != h })
    pend := s.pend.filter fun p => p.who.grid != h || (p.atomWork && (match p.kind with
      | .onEntry _ => false
      | _ => true))
    bars := s.bars.filter fun x => x.grid != h
    clusters := s.clusters.map fun (c : Nat × List MEntry) => (c.1, c.2.filter fun e => e.grid != h)
    aside := s.aside.filter fun e => e.grid != h
    exchs := s.exchs.filter fun e => e.grid != h
    rebuilds := s.rebuilds.filter fun r => !(r.by_.grid == h && r.token.isSome)
    copies := s.copies.map fun (c : Copy) => if c.by_.grid == h && c.ends.isNone then
        { c with ends := some (4, 1), out := if c.phase == 2 then [] else c.out, phase := 0 } else c
    issuing := match s.issuing with
      | some c => if c.grid == h then none else some c
      | none => none }
  let s := dropOrder (tellReached s h) h
  let s := releaseAll h (ticketCount s h) s
  let s := (s.xfers.filter fun x => x.by_.grid == h && x.token.isSome).foldl (fun s x => xferEnd s x 1) s
  let s := (s.colls.filter fun c => c.kind == 3 && c.grid == h).foldl (fun s c => collFail s c status) s
  let s := (s.colls.filter fun c => c.kind != 3 && c.by_.grid == h && c.token.isSome).foldl (fun s c => collFail s c 1) s
  freeEntries before s

/-- Blocks of a cancelled grid leave once what they had issued is complete; then the grid's counter takes its status, and its unit's follow
(R50, R51). A grid of the pod sends FINISH. -/
def stoppedAgain (s : State) (h : Nat) : State :=
  let s := dropOrder s h
  let s := { s with blocks := s.blocks.filter fun b => !(b.grid == h && b.place == 4 && !blockBusy s b && !blockStaged s b) }
  match s.grid? h with
  | none => s
  | some g => match g.flushTok with
    | none => s
    | some t =>
      if t < cancelTok 0 || cancelTok 8 ≤ t || s.blocks.any fun b => b.grid == h then s
      else
        let st := t - cancelTok 0
        if g.local_ then
          unitMember (signalDone { s with grids := s.grids.filter fun x => x.handle != h } g.l.job g.user g.l.compl st) g.unit g.l.compl
        else (originDecides s h st).updGrid h fun x => { x with flushTok := some finishTok }

/-- A grid decided by cancellation: FAULT where a FAULT event has named it, else CANCELLED (R382). -/
def cancelStatus (s : State) (h : Nat) : Nat :=
  if ((s.grid? h).map fun g => g.faulted).getD false || s.podGrids.any fun p => p.handle == h && p.fault then 3 else 1

/-- A grid this package runs is cancelled; a grid of the pod sends FINISH unless it has, once no local grid uses its cores. One already
decided is left as it is. -/
def cancelGrid (s : State) (h : Nat) : State :=
  match s.grid? h with
  | none => s
  | some g =>
    let st := cancelStatus s h
    if g.decided then
      (if !g.l.span || (g.flushTok.any fun t => cancelTok 0 ≤ t) then s
       else (originDecides s h st).updGrid h fun x => { x with l := { x.l with flags := setBits x.l.flags 6 6 0 } })
    else
      stoppedAgain ((stopGrid s h st).updGrid h fun x =>
        { x with decided := true, flushTok := some (cancelTok st), l := { x.l with flags := setBits x.l.flags 6 6 0 } }) h

/-- A record of this package that the pod has or will have is cancelled: where it waits, it leaves its row; where other packages run it,
they are told. -/
def cancelSub (s : State) (x : Sub) (tell : Bool) : State :=
  match x.handle with
  | none => decideRecord { s with subs := s.subs.filter fun y => y != x } x 1
  | some h =>
    if (s.grid? h).isSome then cancelGrid s h
    else
      let waits := bits (tget 0 s.words (0x10000 + 2 * h)).toNat 54 53 == 1
      let s := if waits then sendEvent s (.finish (evHdr s x.job) h s.pkg)
        else if tell then sendEvent s (.cancel (evHdr s x.job) (BitVec.ofNat 57 x.l.compl) .grid) else s
      originDecides s h (cancelStatus s h)

/-- Queue records that meet p are decided CANCELLED without being dispatched. -/
def cancelQueued (s : State) (p : Sub → Bool) : State :=
  let xs := s.queues.flatMap fun q => q.filter p
  let before := s
  let s := { s with queues := s.queues.map fun q => q.filter fun x => !p x }
  xs.foldl (fun s x => decideRecord s x 1) (freeEntries before s)

/-- The records, submissions and grids of this package that meet p are cancelled. -/
def cancelWork (s : State) (pq : Sub → Bool) (pg : Grid → Bool) (tell : Bool) : State :=
  let s := cancelQueued s pq
  let s := (s.subs.filter fun x => x.sent && pq x).foldl (fun s x => cancelSub s x tell) s
  dispatchAll (sendFinishes ((s.grids.filter pg).foldl (fun s g => cancelGrid s g.handle) s))

/-- A unit and everything in it is cancelled (R50, R51); of an open job the share of its closing falls away. `fuel`: levels below. -/
def cancelUnit : Nat → State → WUnit → State
  | 0, s, _ => s
  | fuel + 1, s, u =>
    let cut (x : WUnit) : WUnit := { x with decided := true, left := if x.level == 3 then x.left - 1 else x.left }
    let s := { s with units := replaceFirst (fun x => x.id == u.id) cut s.units }
    let s := (s.units.filter fun x => x.parent == u.id && !x.decided).foldl (cancelUnit fuel) s
    cancelWork s (fun x => x.unit == u.id) (fun g => g.local_ && g.unit == u.id) true

/-- Units that meet p are cancelled, each once. -/
def cancelThose (s : State) (p : WUnit → Bool) : State :=
  unitsAgain ((s.units.filter fun u => p u && !u.decided).foldl (cancelUnit 4) s)

/-- The units of a job a counter names at a level (R284); job 0 names units of any job. -/
def ofJob (job j : Nat) : Bool := job == 0 || job == j

/-- A CANCEL of the counter at a level, applied (R51, R284). -/
def cancelUnits (s : State) (job va : Nat) (lv : Level) : State :=
  match lv with
  | .grid =>
    let s := { s with grids := s.grids.map fun (g : Grid) =>
      if !g.loaded && ofJob job g.l.job then { g with cancels := g.cancels ++ [va] } else g }
    cancelWork s (fun x => x.kind == 0 && x.l.compl == va && ofJob job x.job)
      (fun g => g.loaded && g.l.compl == va && ofJob job g.l.job) false
  | .graph => cancelThose s fun u => u.level == 1 && u.counter == va && ofJob job u.job
  | .phase => cancelThose s fun u => u.level == 2 && u.counter == va && ofJob job u.job
  | .job =>
    -- the counter a job's row names is COORD (R291, R293)
    let js := (List.range 4096).filter fun j => j != 0 && ofJob job j && (s.jobWord j 1).toNat == va && (s.jobWord j 0) != 0
    js.foldl (fun s j =>
      let s := cancelThose s fun u => u.job == j && u.parent == 0
      let before := s
      let s := { s with subs := s.subs.filter fun x => x.job != j || x.sent }
      unitsAgain (cancelWork (freeEntries before s) (fun x => x.job == j) (fun g => g.l.job == j) false)) s

/-- CANCEL events of this package, by what they name: the outstanding results that wait for them. -/
def cancelDone (s : State) (va : Nat) (lv : Level) : State :=
  let code : Word := match lv with
    | .grid => 0
    | .graph => 1
    | .phase => 2
    | .job => 3
  match s.pend.find? fun p => p.kind == .engine (2 ^ 51) && p.acc.ea.toNat == va && p.acc.x == code with
  | some p => complete s p [] 0
  | none => s

/-- Jobs of the live units this package knows with a counter at a level (R387 cause 0x04). -/
def unitJobs (s : State) (va : Nat) (lv : Level) : List Nat :=
  match lv with
  | .grid =>
    ((s.queues.flatMap fun q => q.filter fun x => x.l.compl == va).map fun x => x.job)
      ++ ((s.subs.filter fun x => x.sent && x.l.compl == va).map fun x => x.job)
      ++ (s.grids.filter fun g => g.loaded && !g.decided && g.l.compl == va).map fun g => g.l.job
  | .graph => (s.units.filter fun u => u.level == 1 && u.counter == va).map fun u => u.job
  | .phase => (s.units.filter fun u => u.level == 2 && u.counter == va).map fun u => u.job
  | .job => (List.range 4096).filter fun j => j != 0 && (s.jobWord j 0) != 0 && (s.jobWord j 1).toNat == va

/-- CANCEL (R284): the event goes to the pod and the token falls when it has been applied. In user mode a unit of another job is a
privilege fault (R387). -/
def execCancel (lv : Level) (x : Reg) (k : BitVec 3) (l : BitVec 4) (s : State) : Host.Outcome State Fault Refusal :=
  runLanes (.cancel lv x k l) s
    (fun b _ s _ th =>
      let js := unitJobs s (th.reg x).toNat lv
      if !th.priv && !js.isEmpty && !js.contains (s.jobOf b.grid) then (s, .trap 0x0204 0) else (s, .go))
    fun b g s _ th =>
      let va := (th.reg x).toNat
      let code : Word := match lv with
        | .grid => 0
        | .graph => 1
        | .phase => 2
        | .job => 3
      let s := sendEvent s (.cancel (evHdr s (s.jobOf b.grid)) (BitVec.ofNat 57 va) lv)
      if k == 7 then (s, []) else addNamed s b g th 0 k l (.engine (2 ^ 51)) (BitVec.ofNat 64 (va % 2 ^ 57)) code

end Sys2Proof.Machine
end

