-- ==== Sys2Proof/Machine/Preempt.lean ====
section
/-! DEFINITION. The pre-emption path on the package (R305 to R310, R435): cores halt a grid's blocks, contexts pass to the shelf or the
carve-out, and shelved grids resume; and block retirement (R46, R333). -/

namespace Sys2Proof.Machine

open Sys2Proof

/- Whether a grid runs. -/

/-- State of a grid's row in the replica: 0 FREE, 1 QUEUED, 2 ADMITTED, 3 SHELVED (R291). -/
def rowState (s : State) (h : Nat) : Nat := bits (tget 0 s.words (0x10000 + 2 * h)).toNat 54 53

/-- The cores of a grid are its own to run on: its row is ADMITTED, or its job still holds every core it was admitted to (R297). -/
def wantsRun (s : State) (g : Grid) : Bool :=
  if g.local_ then
    let cs := jobCores s g.l.job
    g.leases.all fun c => cs.contains c
  else rowState s g.handle == 2

/-- Step 1 of R305: the dispatcher stops, the cores are told. A grid without a block on the package is shelved at once, and one all of whose
blocks here have retired has nothing to shelve (R310). -/
def startHalt (s : State) (h : Nat) : State :=
  s.updGrid h fun g =>
    if g.halting.isSome || g.shelved || g.decided then g
    else if s.blocks.any fun b => b.grid == h && b.place ≤ 1 then { g with halting := some s.now }
    else if g.loaded && g.todo.isEmpty then g
    else { g with shelved := true }

/-- A cut of the job is being taken here (R339). -/
def cutting (s : State) (job : Nat) : Bool := (s.snap.map fun x => x.job == job && x.phase == 0).getD false

/- Halt (R305 steps 2 to 7). -/

/-- A population exchange of the grid is under way here (R435): the last thread has arrived and CLOSE is not applied. -/
def exchOpen (s : State) (h : Nat) : Bool :=
  (s.launchOf h).pop && (((exchOf s h).rooted || !(exchOf s h).plan.isEmpty) && (exchOf s h).plan != planOver
    || (gridPkgs s h == [s.pkg] && allSampled s h && (localArrs s h).any fun a => !a.free))

/-- A thread as it is shelved: its wait state is kept (R37, R54). -/
def shelveThread (th : Thread) : Thread :=
  if th.status == .exited || th.status == .shelved then th else { th with status := .shelved, kept := th.status }

/-- An outstanding load is abandoned: it keeps its token and is executed again on resume (R305 step 2, R140). -/
def abandon (p : Pend) : Pend :=
  if !p.acc.op.isLoad then p
  else match p.kind with
    | .result _ _ => { p with kind := .held }
    | .remote _ _ => { p with kind := .held }
    | .refresh _ _ => { p with kind := .held }
    | _ => p

/-- A block halts at the instruction boundary it stands at: its stores are performed as far as they can be and its lines sent, its loads are
abandoned, its matrix entries without a grant leave their table, and its copies stop after their chunk (R305). -/
def haltBlock (s : State) (b : Block) : State :=
  let s := b.threads.foldl (fun s th => flushThread s b.core (trefOf b th)) s
  let s := { s with
    pend := s.pend.map fun (p : Pend) => if p.who.grid == b.grid && p.who.bidx == b.bidx then abandon p else p
    issuing := match s.issuing with
      | some c => if c.grid == b.grid && c.bidx == b.bidx then none else some c
      | none => none }
  let s := s.updBlock b.grid b.bidx fun x => { x with place := 1, threads := x.threads.map shelveThread }
  let s := leaveTable s b.grid b.bidx
  (s.copies.filter fun c => c.by_.grid == b.grid && c.by_.bidx == b.bidx && c.phase == 0).foldl (fun s c =>
    let s := if c.out.isEmpty then s else copyWrite s c
    updCopy s c.op fun x => if x.phase == 0 then { x with phase := 3 } else x) s

/-- A core that was told to halt the grid has reached an instruction boundary in every block of it (R305). -/
def coreHalt (core grid : Nat) (s : State) : State :=
  match s.grid? grid with
    | none => s
    | some g =>
      if g.halting.isNone || exchOpen s grid then s
      else
        let bs := s.blocks.filter fun b => b.grid == grid && b.core == core && b.place == 0
        if bs.isEmpty then s
        else
          -- halt times are counted in bins of 100 ns (R454)
          let bin := min 15 ((s.now - g.halting.getD s.now) / 80)
          let s := { s with field := { s.field with halt := countAt 32 s.field.halt bin } }
          (bs.foldl haltBlock s).updCore core fun k => { k with busy := true }

/-- HALT_TIMEOUT: a core not halted 100 µs after the bound of R30: SCHED cause 0x0A08, and the package publishes no further DIGEST
(R417). -/
def execHaltTimeout (core : Nat) (s : State) : Host.Outcome State Fault Refusal :=
  .next (
    let late (b : Block) : Bool := b.core == core && b.place == 0 && (match (s.grid? b.grid).bind fun g => g.halting with
      | some t => t + 81200 ≤ s.now && !exchOpen s b.grid
      | none => false)
    if s.quiet || !(s.blocks.any late) then s
    else queueRec { s with quiet := true } (dieOf core)
      { unitRec s 0x0A08 0 (BitVec.ofNat 64 s.pkg) 0 0 with core := core, rung := 4 })

/- Saving (R305 step 8, R306 to R308). -/

/-- Contexts of other grids, or of a snapshot, are on the core's shelf; or a block that must find the shelf empty is resident (R307,
R308). -/
def shelfTaken (s : State) (core grid : Nat) : Bool :=
  (s.core core).snapHeld || shelfOther (s.core core) grid
    || s.blocks.any fun b => b.core == core && b.place ≤ 1 && b.grid != grid && (s.launchOf b.grid).shy

/-- A context that is lost: its block goes, a record names the cause, and the package has the grid cancelled, which decides it with status FAULT
(R382, R410, R435). -/
def loseContext (s : State) (b : Block) (code addr : Nat) (detail : Word) : State :=
  let l := s.launchOf b.grid
  let s := removeBlock s b.grid b.bidx
  let s := s.updCore b.core fun k => { k with held := k.held.filter fun h => !(h.1 == b.grid && h.2.1 == b.bidx) }
  let s := queueRec s (dieOf b.core) { unitRec s code (BitVec.ofNat 64 addr) detail b.grid l.job with core := b.core, bidx := b.bidx, rung := 3 }
  sendEvent s (.cancel (evHdr s l.job) (BitVec.ofNat 57 l.compl) .grid)

/-- One block's context saved; one that would pass the carve-out is lost (R435). -/
def saveBlock (shelf : Bool) (s : State) (b : Block) : State :=
  let es := heldFor shelf (s.core b.core) b.grid b.bidx (footK (s.launchOf b.grid))
  if carveOver s es then loseContext s b 0x0A07 0 (BitVec.ofNat 64 s.pkg)
  else (holdEntries s b.core es).updBlock b.grid b.bidx fun x => { x with place := if es.all fun e => e.2.2.2.isSome then 3 else 2 }

/- Resuming (R309). -/

/-- Every store and atomic of the block has been performed (R309). -/
def blockSettled (s : State) (b : Block) : Bool :=
  !(s.writes.any fun w => w.who.grid == b.grid && w.who.bidx == b.bidx)
    && !(b.threads.any fun th => remoteOut s b.core (trefOf b th))
    && !(s.pend.any fun p => p.who.grid == b.grid && p.who.bidx == b.bidx && p.opWork && (match p.kind with
        | .remote _ _ => true
        | .held => true
        | _ => false))

/-- The first granule of a block's context in its core's carve-out whose seal fails, as its PA (R76, R410 cause 0x07). The shelf's granules are not
bytes of the model (log 75). -/
def contextBad (s : State) (b : Block) : Option Nat :=
  ((s.core b.core).held.filter fun h => h.1 == b.grid && h.2.1 == b.bidx).findSome? fun h => match h.2.2.2 with
    | some o => (s.mem.badAt (carvePa s b.core o) (1024 * h.2.2.1)).map fun q => 8 * q
    | none => none

/-- The frames of a block's threads copied to their addresses for the core and the slots it resumes on (R374): a user thread in privileged mode holds
one. One that hardware cannot reach stays where it is. -/
def moveFrames (s : State) (b : Block) (slots : List Nat) : State :=
  let job := s.jobOf b.grid
  let user := ((s.grid? b.grid).map fun g => g.user).getD false
  let to_ (t : Nat) : Nat := frameVa s { b with slots := slots } t
  let fs := (b.threads.filter fun th => user && th.priv && th.live).filterMap fun th =>
    if frameVa s { b with core := b.frames } th.tid == to_ th.tid then none
    else (hwRead s job (frameVa s { b with core := b.frames } th.tid) 64).map fun n => (th.tid, leBytes n 64)
  (fs.foldl (fun s f => (hwWrite s job (to_ f.1) f.2).getD s) s).updBlock b.grid b.bidx fun x => { x with frames := b.core }

/-- A saved block runs again on its core: its threads in their kept states, its loads executed again, its matrix entries back in a table, its
copies on from their progress (R54, R309); accesses whose entries were closed meanwhile are executed (R383). -/
def resumeBlock (s : State) (b : Block) : State :=
  let l := s.launchOf b.grid
  let s := readyShelf s l b.grid b.core
  let slots := slotsFor s l b.core
  let s := moveFrames s b slots
  let s := s.updCore b.core fun k => { k with held := k.held.filter fun h => !(h.1 == b.grid && h.2.1 == b.bidx) }
  let s := s.updBlock b.grid b.bidx fun x =>
    { x with place := 0, slots := slots
             threads := x.threads.map fun (th : Thread) =>
               if th.status == .shelved then { th with status := th.kept, readySince := s.now } else th }
  let s := reenter { s with copies := s.copies.map fun (c : Copy) =>
      if c.by_.grid == b.grid && c.by_.bidx == b.bidx && c.phase == 3 then { c with phase := 0 } else c }
  match s.block? b.grid b.bidx with
  | some b => reexecBlock (fun t => t == closedTok) s b
  | none => s

/-- The blocks of a gang resume together where all their contexts are on cores of the lease with room; none otherwise. -/
def resumeGang (s : State) (g : Grid) : List Block → Option State
  | [] => some s
  | b :: r =>
    if g.leases.contains b.core && blockSettled s b && fitsCore s g.l g.handle b.core then resumeGang (resumeBlock s b) g r else none

/-- A shelved grid whose cores are its own again resumes: gang by gang, or whole where it is co-resident (R49, R53, R309); while its job is rolled
back it does not (R349). A context that fails its seals is lost (R410). -/
def resumeGrid (s : State) (h : Nat) : State :=
  match s.grid? h with
  | none => s
  | some g =>
    if !g.shelved || g.decided || !wantsRun s g || s.rolls.any (fun r => r.job == g.l.job) then s
    else
      let saved := s.blocks.filter fun b => b.grid == h && 2 ≤ b.place
      match saved.findSome? fun b => (contextBad s b).map fun pa => (b, pa) with
      | some (b, pa) =>
        loseContext s b 0x0507 pa (sealDetail (s.mem.read pa 8) pa 0x0507 (s.mem.err (pa / 8)))
      | none =>
        let gangs := (saved.map fun b => b.gang).foldl (fun acc x => markSet acc x true) []
        let s' := if g.l.cores_ then (resumeGang s g saved).getD s
          else gangs.foldl (fun s k => (resumeGang s g (saved.filter fun b => b.gang == k)).getD s) s
        let s' := wakeAll s'
        if s'.blocks.any fun b => b.grid == h && 2 ≤ b.place then s'
        else dispatchBlocks (s'.updGrid h fun x => { x with shelved := false }) h

/-- Every shelved grid that can resume does. -/
def resumeAll (s : State) : State := (s.grids.filter fun g => g.shelved).foldl (fun s g => resumeGrid s g.handle) s

/-- BLOCK_RETIRE: all threads exited, every issued store, atomic and engine operation done; the ordered flush first (R46, R55, R333). Its
resources are free, its bound segment is ready (R325), and blocks that wait for a core are dispatched. A block of a cancelled grid leaves
when what it had issued is complete (R51). -/
def execBlockRetire (bidx grid : Nat) (s : State) : Host.Outcome State Fault Refusal :=
  .next (match s.block? grid bidx with
    | none => s
    | some b =>
      if b.place == 4 then
        let s := b.threads.foldl (fun s th => flushThread s b.core (trefOf b th)) s
        dispatchAll (sendFinishes (stoppedAgain (releaseAll grid (ticketCount s grid) s) grid))
      else if b.place != 0 || b.threads.any fun th => th.status != .exited then s
      else
        let s := b.threads.foldl (fun s th => flushThread s b.core (trefOf b th)) s
        let s := if (s.launchOf grid).pop then resampleTry s grid else s
        let s := if s.ordered grid then
            let m := (b.threads.map fun th => th.flushes).foldl max 0
            releaseAll grid (ticketCount s grid) (applyBatches grid ((s.blocks.length + 1) * (m + 2)) s)
          else s
        if blockBusy s b || blockStaged s b || !popOver s grid then s
        else
          let before := s
          let s := freeEntries before (removeBlock s grid bidx)
          let s := s.updGrid grid fun g => { g with retired := g.retired ++ [bidx] }
          dispatchAll (resumeAll (haltEnds (barriersAgain (segReady s grid bidx) grid) grid)))

/-- CONTEXT_SAVE_COMPLETE: the contexts of the grid's halted blocks on the core are saved (R305, R307); when the last one is, the grid is
shelved here, or resumes at once where its rows have come back meanwhile (R310). -/
def execContextSaveComplete (core grid : Nat) (s : State) : Host.Outcome State Fault Refusal :=
  .next (
    let bs := sortBy (fun a b => a.bidx ≤ b.bidx) (s.blocks.filter fun b => b.grid == grid && b.core == core && b.place == 1)
    if bs.isEmpty || cutting s (s.jobOf grid) then s
    else
      let s := bs.foldl (saveBlock (!shelfTaken s core grid)) s
      let s := s.updCore core fun k => { k with busy := s.blocks.any fun b => b.core == core && b.place == 1 }
      if s.blocks.any fun b => b.grid == grid && b.place ≤ 1 then s else dispatchAll (resumeAll (haltEnds s grid)))

/-- CONTEXT_MOVE: a copy engine has moved a saved context: to the carve-out of its core, to make the shelf empty (R308), or to the
lowest-indexed core of the lease with room (R309). -/
def execContextMove (bidx grid toCore : Nat) (carve : Bool) (s : State) : Host.Outcome State Fault Refusal :=
  .next (match s.block? grid bidx, s.grid? grid with
    | some b, some g =>
      if b.place < 2 || g.decided then s
      else
        let mine (h : Nat × Nat × Nat × Option Nat) : Bool := h.1 == grid && h.2.1 == bidx
        if carve then
          (if toCore != b.core then s
           else match ((s.core b.core).held.filter fun h => mine h && h.2.2.2.isNone).foldlM (toCarve b.core) s with
            | some s => dispatchAll s
            | none => s)
        else if g.leases.contains b.core || (sortBy (· ≤ ·) g.leases).find? (fun c => fitsCore s g.l grid c) != some toCore then s
        else
          let es := heldFor (!shelfTaken s toCore grid) (s.core toCore) grid bidx (footK g.l)
          if carveOver s es then s
          else
            let s := s.updCore b.core fun k => { k with held := k.held.filter fun h => !mine h }
            resumeGrid ((holdEntries s toCore es).updBlock grid bidx fun x =>
              { x with core := toCore, place := if es.all fun e => e.2.2.2.isSome then 3 else 2 }) grid
    | _, _ => s)

end Sys2Proof.Machine
end

