-- ==== Sys2Proof/Machine/Pod.lean ====
section
/-! DEFINITION. The replicated pod state (R291 to R296, R424): words, digests, grid rows, class rings, lease rows, placement, victims and
returns; and what a package does about the rows that name it. -/

namespace Sys2Proof.Machine

open Sys2Proof

/- Words and their digest (R291, R294). -/

/-- A replica word written; words of zero are not listed. -/
def setWord (s : State) (i : Nat) (w : Word) : State :=
  { s with words := if w == 0 then s.words.filter fun x => x.1 != i else tset s.words i w }

def State.word (s : State) (i : Nat) : Word := tget 0 s.words i

/-- Replica words laid out by R291 (log 12). -/
def wordCount : Nat := 0x54080

/-- One word's term of a digest half (R294). -/
def wordTerm (seed : Word) (i : Nat) (w : Word) : Word := m64 (seed ^^^ m64 (BitVec.ofNat 64 i) ^^^ w)

/-- The sum of the terms of n zero words. -/
def zeroTerms (seed : Word) : Nat → Word
  | 0 => 0
  | n + 1 => zeroTerms seed n + wordTerm seed n 0

/-- A digest half: every word's term, those of zero included (R294). -/
def podDigest (s : State) (seed : Word) : Word :=
  s.words.foldl (fun h x => h - wordTerm seed x.1 0 + wordTerm seed x.1 x.2) (zeroTerms seed wordCount)

def seed0 : Word := 0
def seed1 : Word := 0xC3A5C85C97CB3127

/- Lease rows (R292). -/

def rowPkg (w : Word) : Nat := bits w.toNat 63 52
def rowFirst (w : Word) : Nat := bits w.toNat 51 42
def rowLast (w : Word) : Nat := bits w.toNat 41 32
def rowGrid (w : Word) : Nat := bits w.toNat 31 16
def rowSt (w : Word) : Nat := bits w.toNat 13 12
def mkRow (pkg first last grid cls st : Nat) : Word :=
  BitVec.ofNat 64 (pkg <<< 52 + first <<< 42 + last <<< 32 + grid <<< 16 + cls <<< 14 + st <<< 12)

/-- The lease rows in use, with their index: 1 HELD, 2 SHELVED, 3 FENCED. -/
def leaseRows (s : State) : List (Nat × Word) := s.words.filter fun x => x.1 < 0x10000 && rowSt x.2 != 0

/-- The rows of a grid. -/
def rowsOf (s : State) (h : Nat) : List (Nat × Word) := (leaseRows s).filter fun x => rowGrid x.2 == h

/-- Cores a row covers. -/
def rowCores (w : Word) : List Nat := (List.range (rowLast w + 1 - rowFirst w)).map fun i => rowFirst w + i

/-- A core covered by no HELD row, of a package that is not FENCED, is free (R292, R424). -/
def coreFree (s : State) (pkg c : Nat) : Bool :=
  !s.fenced.contains pkg
    && !((leaseRows s).any fun x => rowSt x.2 == 1 && rowPkg x.2 == pkg && rowFirst x.2 ≤ c && c ≤ rowLast x.2)

/-- Every row of a grid takes a state. -/
def setRows (s : State) (h st : Nat) (p : Word → Bool) : State :=
  ((rowsOf s h).filter fun x => p x.2).foldl (fun s x => setWord s x.1 (if st == 0 then 0 else pteSet x.2 13 12 st)) s

/-- The lowest FREE lease row. -/
def freeRow (s : State) : Option Nat := (List.range 0x10000).find? fun i => rowSt (s.word i) == 0

/-- Cores of one package cut into maximal runs of consecutive ones. -/
def coreRuns : List Nat → List (Nat × Nat)
  | [] => []
  | c :: r => match coreRuns r with
    | (a, b) :: t => if a == c + 1 then (c, b) :: t else (c, c) :: (a, b) :: t
    | [] => [(c, c)]

/-- One HELD row per maximal run of taken cores of one package (R295). -/
def writeRows (s : State) (h cls : Nat) (cores : List (Nat × Nat)) : State :=
  let pkgs := cores.foldl (fun acc x => markSet acc x.1 true) []
  pkgs.foldl (fun s p =>
    (coreRuns (sortBy (· ≤ ·) ((cores.filter fun x => x.1 == p).map fun x => x.2))).foldl (fun s r =>
      match freeRow s with
      | some i => setWord s i (mkRow p r.1 r.2 h cls 1)
      | none => s) s) s

/- Grid rows and class rings (R289, R291). -/

def gridWord (s : State) (h : Nat) : Word := s.word (0x10000 + 2 * h)
def gridCls (s : State) (h : Nat) : Nat := bits (gridWord s h).toNat 52 51
def gridBlocked (s : State) (h : Nat) : Bool := (gridWord s h).getLsbD 55
def setGridState (s : State) (h st : Nat) : State := setWord s (0x10000 + 2 * h) (pteSet (gridWord s h) 54 53 st)
def setBlocked (s : State) (h : Nat) (b : Bool) : State := setWord s (0x10000 + 2 * h) (pteSet (gridWord s h) 55 55 (b2n b))
def updPod (s : State) (h : Nat) (f : PodGrid → PodGrid) : State :=
  { s with podGrids := replaceFirst (fun p => p.handle == h) f s.podGrids }
def State.pod? (s : State) (h : Nat) : Option PodGrid := s.podGrids.find? fun p => p.handle == h

def ringHead (s : State) (c : Nat) : Nat := (s.word (0x54000 + 2 * c)).toNat
def ringTail (s : State) (c : Nat) : Nat := (s.word (0x54001 + 2 * c)).toNat
def ringWord (c n : Nat) : Nat := 0x40000 + 16384 * c + n % 16384

/-- A handle entered at the tail of its class ring. -/
def ringPut (s : State) (c h : Nat) : State :=
  setWord (setWord s (ringWord c (ringTail s c)) (BitVec.ofNat 64 h)) (0x54001 + 2 * c) (BitVec.ofNat 64 (ringTail s c + 1))

/-- A handle taken from its class ring: those before it move up one place. -/
def ringTake (s : State) (c h : Nat) : State :=
  let hd := ringHead s c
  match (List.range (ringTail s c - hd)).find? fun i => (s.word (ringWord c (hd + i))).toNat == h with
  | none => s
  | some k =>
    let old (i : Nat) : Word := s.word (ringWord c (hd + i))
    let s := (List.range k).foldl (fun x i => setWord x (ringWord c (hd + 1 + i)) (old i)) s
    setWord s (0x54000 + 2 * c) (BitVec.ofNat 64 (hd + 1))

/-- A handle of a class ring moved to its head: those before it move down one place. -/
def ringFirst (s : State) (c h : Nat) : State :=
  let hd := ringHead s c
  match (List.range (ringTail s c - hd)).find? fun i => (s.word (ringWord c (hd + i))).toNat == h with
  | none => s
  | some k =>
    let old (i : Nat) : Word := s.word (ringWord c (hd + i))
    setWord ((List.range k).foldl (fun x i => setWord x (ringWord c (hd + 1 + i)) (old i)) s) (ringWord c hd) (BitVec.ofNat 64 h)

/-- The pre-emption-enable bit of a package (R291, R304). -/
def preemptOn (s : State) (p : Nat) : Bool := (s.word (0x54040 + p / 64)).getLsbD (p % 64)

/- Placement (R295, R424, R425). -/

/-- Packages a grid may take: its origin, or with the span flag every package of its job, ascending and each once (R295; after a substitution
the job's list is neither). -/
def mayTake (s : State) (g : PodGrid) : List Nat :=
  if bitOf g.flags 1 then (jobPkgs s g.job).foldl (fun acc p => markSet acc p true) [] else [g.origin]

/-- Word 1 of the grid's row counts the packages that hold blocks of it (R291): those its rows name, a lost one apart. -/
def countPkgs (s : State) (h : Nat) : State :=
  let ps := ((rowsOf s h).filter fun x => !(rowSt x.2 == 3 && s.lost.contains (rowPkg x.2))).foldl
    (fun acc x => markSet acc (rowPkg x.2) true) []
  setWord s (0x10001 + 2 * h) (pteSet (s.word (0x10001 + 2 * h)) 27 16 ps.length)

/-- Cores of a cluster that a grid may take in order: the free ones, or for whole clusters all four or none. -/
def clusterFree (s : State) (whole : Bool) (p k : Nat) : List (Nat × Nat) :=
  let cs := ((List.range 4).map fun i => 4 * k + i).filter fun c => coreFree s p c
  (if whole && cs.length < 4 then [] else cs).map fun c => (p, c)

/-- place(g, C): packages in the given order, dies and clusters ascending, free cores in ascending index until C are taken (R295). -/
def placeCores (s : State) (pkgs : List Nat) (whole : Bool) (c : Nat) : Option (List (Nat × Nat)) :=
  let got := (pkgs.flatMap fun p => (List.range 208).map fun k => (p, k)).foldl
    (fun acc x => if c ≤ acc.length then acc else acc ++ clusterFree s whole x.1 x.2) []
  if got.length < c then none else some (got.take c)

/-- The rows of a placed grid written; it is ADMITTED and leaves its ring. -/
def enactPlace (s : State) (h : Nat) (cores : List (Nat × Nat)) : State :=
  let cls := gridCls s h
  let pkgs := cores.foldl (fun acc x => markSet acc x.1 true) []
  let s := countPkgs (setGridState (writeRows (ringTake s cls h) h cls cores) h 2) h
  updPod s h fun p => { p with parts := pkgs.map fun q => (q, (cores.filter fun x => x.1 == q).length) }

/-- A grid's rows SHELVED (R296). -/
def shelveRows (s : State) (h seq : Nat) : State :=
  updPod (setGridState (setRows s h 2 fun w => rowSt w == 1) h 3) h fun p => { p with shelf := some seq }

/-- The grids an EXPRESS grid may shelve, in the order in which it does (R296): BACKGROUND before BATCH, highest ADMIT SEQ first; only
where every row lies on a package whose bit is 1, and some row on a package the grid may take. -/
def victims (s : State) (g : PodGrid) : List Nat :=
  let ok (p : PodGrid) : Bool :=
    rowState s p.handle == 2 && 2 ≤ gridCls s p.handle
      && ((rowsOf s p.handle).all fun x => preemptOn s (rowPkg x.2))
      && (rowsOf s p.handle).any fun x => (mayTake s g).contains (rowPkg x.2)
  (sortBy (fun a b => gridCls s a.handle > gridCls s b.handle
      || (gridCls s a.handle == gridCls s b.handle && a.admission.getD 0 ≥ b.admission.getD 0))
    (s.podGrids.filter ok)).map fun p => p.handle

/-- Victims shelved one after another until the grid can be placed; none where all together do not free enough. -/
def shelveFor (seq : Nat) (g : PodGrid) (c : Nat) : List Nat → State → Option State
  | [], _ => none
  | v :: r, s =>
    let s := shelveRows s v seq
    match placeCores s (mayTake s g) (bitOf g.flags 4) c with
    | some cs => some (enactPlace s g.handle cs)
    | none => shelveFor seq g c r s

/-- A QUEUED grid that has been admitted is placed where it can be (R295, R296). -/
def placeGrid (s : State) (seq : Nat) (g : PodGrid) : State :=
  let c := max 1 g.c
  match placeCores s (mayTake s g) (bitOf g.flags 4) c with
  | some cs => enactPlace s g.handle cs
  | none =>
    if gridCls s g.handle == 0 then (shelveFor seq g c (victims s g) s).getD s else s

/-- The substitute of a lost package in a job (R425). -/
def substitute (s : State) (job : Nat) : Option Nat :=
  let live := s.podPkgs.filter fun p => !s.lost.contains p && !s.fenced.contains p
  let inJob (p : Nat) : Bool := (List.range 4096).any fun j => j != 0 && s.jobWord j 0 != 0 && (jobPkgs s j).contains p
  (live.find? fun p => !inJob p).or (live.find? fun p => (jobPkgs s job).contains p)

/-- A lost package's share placed again as far as a core is free: the substitute first, then the job's packages in order (R424). -/
def placeAgain (s : State) (g : PodGrid) : State :=
  if g.replace_ == 0 || rowState s g.handle != 2 then s
  else
    let pkgs := ((substitute s g.job).toList ++ jobPkgs s g.job).filter fun p => !s.fenced.contains p
    let free := (pkgs.foldl (fun acc x => if acc.contains x then acc else acc ++ [x]) ([] : List Nat)).flatMap fun p =>
      (List.range 208).flatMap fun k => clusterFree s false p k
    let cs := free.take g.replace_
    if cs.isEmpty then s
    else
      let ps := cs.foldl (fun (acc : List Nat) x => if acc.contains x.1 then acc else acc ++ [x.1]) []
      let s := countPkgs (writeRows s g.handle (gridCls s g.handle) cs) g.handle
      updPod s g.handle fun p =>
        { p with replace_ := 0
                 done := p.done.filter fun q => !ps.contains q
                 moves := p.moves.map fun m =>
                   if m.2.isEmpty then (m.1, ps.map fun x => (x, (cs.filter fun y => y.1 == x).length)) else m }

/-- A SHELVED grid's rows return to HELD where all their cores are free (R296); one whose rows were all lost returns to have its share
placed again (R424, R435). -/
def returnRows (s : State) (h : Nat) : State :=
  let rs := (rowsOf s h).filter fun x => rowSt x.2 == 2
  if (!rs.isEmpty || ((s.pod? h).any fun p => p.replace_ != 0)) && rs.all fun x => (rowCores x.2).all fun c => coreFree s (rowPkg x.2) c then
    updPod (setGridState (setRows s h 1 fun w => rowSt w == 2) h 2) h fun p => { p with shelf := none }
  else s

/-- The waiting grids considered, class by class: shelved ones by the SEQ of their shelving, shares to place again, queued ones by ADMIT
SEQ (R295). Nothing is placed or returned in a hold (R427). DESIGN CHOICE (log 79): of shelved grids with one SEQ of shelving, as one EXPRESS grid's
victims are, the one submitted first returns first; R296 gives no order among them. -/
def considerWaiting (s : State) (seq : Nat) : State :=
  if s.hold then s
  else (List.range 4).foldl (fun s c =>
    let mine (s : State) (st : Nat) : List PodGrid := s.podGrids.filter fun p => gridCls s p.handle == c && rowState s p.handle == st
    let s := ((sortBy (fun (a b : PodGrid) => a.shelf.getD 0 ≤ b.shelf.getD 0) (mine s 3)).filter fun p => !gridBlocked s p.handle).foldl
      (fun s p => returnRows s p.handle) s
    let s := (s.podGrids.filter fun p => gridCls s p.handle == c && p.replace_ != 0).foldl placeAgain s
    (sortBy (fun (a b : PodGrid) => a.admission.getD 0 ≤ b.admission.getD 0) ((mine s 1).filter fun p => p.admission.isSome)).foldl
      (fun s p => if rowState s p.handle == 1 then placeGrid s seq p else s) s) s

/-- A grid's row becomes FREE. -/
def freeGrid (s : State) (h : Nat) : State :=
  let s := if rowState s h == 1 then ringTake s (gridCls s h) h else s
  { setWord (setWord s (0x10000 + 2 * h) 0) (0x10001 + 2 * h) 0 with podGrids := s.podGrids.filter fun p => p.handle != h }

/- Blocks of a spanning grid (R424). -/

/-- Consecutive pieces of a list in proportion to weights, rounded down, the remainder with the last. -/
def shareOut (xs : List Nat) (n w : Nat) : List (Nat × Nat) → List (Nat × List Nat)
  | [] => []
  | [(p, _)] => [(p, xs)]
  | (p, k) :: r => (p, xs.take (n * k / max 1 w)) :: shareOut (xs.drop (n * k / max 1 w)) n w r

/-- The blocks of a package: its range in the first division, and its pieces of lost packages' shares. -/
def blocksOf (b : Nat) (g : PodGrid) (pkg : Nat) : List Nat :=
  let total (ps : List (Nat × Nat)) : Nat := (ps.map fun x => x.2).sum
  let first := shareOut (List.range b) b (total g.parts) g.parts
  let all := g.moves.foldl (fun (acc : List (Nat × List Nat)) m =>
    if m.2.isEmpty then acc
    else
      let xs := (acc.filter fun a => a.1 == m.1).flatMap fun a => a.2
      acc.filter (fun a => a.1 != m.1) ++ shareOut xs xs.length (total m.2) m.2) first
  (all.filter fun a => a.1 == pkg).flatMap fun a => a.2

/- What this package enacts. -/

/-- Cores of this package in a grid's HELD rows. -/
def heldCores (s : State) (h : Nat) : List Nat :=
  sortBy (· ≤ ·) (((rowsOf s h).filter fun x => rowSt x.2 == 1 && rowPkg x.2 == s.pkg).flatMap fun x => rowCores x.2)

/-- The launch record of a placed grid is read; then its blocks here are dispatched. A cancelled one ends at once; one that cannot be read
is parked, or ends as this package's share with a record (R297, R403). -/
def loadGrid (s : State) (h : Nat) : State :=
  match s.grid? h, s.pod? h with
  | some g, some p =>
    if g.loaded || g.loadTok.isSome || g.decided then s
    else
      let sub := s.subs.find? fun x => x.handle == some h
      let res : State × Except ReadErr (Option Launch) := match sub with
        | some x =>
          if x.l.collbind == 0 then (s, .ok (some x.l))
          else (match boundAt s x.job x.user x.l with
            | (s, .error e) => (s, .error e)
            | (s, .ok _) => (s, .ok (some x.l)))
        | none => launchAt s p.va p.job (p.job != 0)
      let fail (s : State) : State :=
        sendFinishes (s.updGrid h fun x => { x with decided := true, flushTok := some finishTok })
      match res with
      | (s, .error e) =>
        if e.code == 0 then dispAsk s p.job (p.job != 0) e.va e.detail.toNat
        else if rungOf e.code == 1 then
          let (s, tok, new) := waitEntry s 0 p.job (e.va / 2 ^ 16)
          let s := s.updGrid h fun x => { x with loadTok := some tok }
          if new then queueRec s 0 { unitRec s e.code (BitVec.ofNat 64 e.va) (e.detailOr (7 + p.va <<< 4)) h p.job with
            flags := 1, token := tok, entry := some (bits tok 29 20) } else s
        else fail (queueRec s 0 (unitRec s e.code (BitVec.ofNat 64 e.va) (e.detailOr (7 + p.va <<< 4)) h p.job))
      | (s, .ok none) => fail s
      | (s, .ok (some l)) =>
        if g.cancels.contains l.compl then cancelGrid (s.updGrid h fun x => { x with loaded := true, l := l }) h
        else
          let g' : Grid := { newGrid h p.va ((sub.map fun x => x.unit).getD 0) l ((sub.map fun x => x.user).getD (p.job != 0)) false
                               (heldCores s h) 0 0 with
            todo := (blocksOf l.b p s.pkg).map fun i => (i, 0, 0, 0)
            total := (blocksOf l.b p s.pkg).length
            gangNo := ((blocksOf l.b p s.pkg).headD 0)
            cancels := g.cancels }
          dispatchBlocks (takeBound (s.updGrid h fun _ => g') g') h
  | _, _ => s

/-- Every grid whose record is still to be read. -/
def loadGrids (s : State) : State := (s.grids.filter fun g => !g.loaded).foldl (fun s g => loadGrid s g.handle) s

/-- A grid stands placed here for the first time. -/
def beginGrid (s : State) (p : PodGrid) : State :=
  let g : Grid := { newGrid p.handle p.va 0 default true false [] 0 0 with loaded := false, l := { (default : Launch) with job := p.job } }
  loadGrid { s with grids := s.grids ++ [g] } p.handle

/-- More blocks of a lost package's share have come to a grid here: they are dispatched, and it is not finished (R424). -/
def addShare (s : State) (p : PodGrid) : State :=
  match s.grid? p.handle with
  | none => s
  | some g =>
    let new := (blocksOf g.l.b p s.pkg).filter fun i =>
      !(g.todo.any fun t => t.1 == i) && !g.retired.contains i && !(s.blocks.any fun b => b.grid == p.handle && b.bidx == i)
    if !g.loaded || new.isEmpty || s.rolls.any (fun r => r.job == p.job) then s
    else dispatchBlocks (s.updGrid p.handle fun x =>
      { x with todo := x.todo ++ new.map fun i => (i, 0, 0, 0), total := x.total + new.length, decided := false, leases := heldCores s p.handle })
      p.handle

/-- The rows that name this package are enacted: grids begin, halt and resume; local grids follow their job's cores; a job
that is rolled back waits until that is done (R295, R305, R309, R349). -/
def enact (s : State) : State :=
  let s := s.podGrids.foldl (fun s p =>
    match s.grid? p.handle, rowState s p.handle with
    | none, 2 =>
      if (heldCores s p.handle).isEmpty || p.done.contains s.pkg || s.rolls.any (fun r => r.job == p.job) then s else beginGrid s p
    | some g, 2 =>
      if g.decided && p.moves.isEmpty then s
      else
        let s := s.updGrid p.handle fun x => { x with leases := heldCores s p.handle }
        addShare (resumeGrid s p.handle) p
    | some _, 3 => startHalt s p.handle
    | _, _ => s) s
  let s := (s.grids.filter fun g => g.local_).foldl (fun s g => if wantsRun s g then resumeGrid s g.handle else startHalt s g.handle) s
  dispatchAll s

end Sys2Proof.Machine
end

