-- ==== Sys2Proof/Machine/Context.lean ====
section
/-! DEFINITION. What a package writes of a job into its snapshot slice beside pages, words and log, as bytes and back (R339, R340, R347): the
contexts of blocks with their asynchronous work, and one record of the grids, barriers, submissions and requests on the way. The manual gives
the contents and no order of the bytes (DESIGN CHOICE, log 21). -/

namespace Sys2Proof.Machine

open Sys2Proof

/- Numbers as bytes: how many bytes a number takes, then its bytes. -/

def natItem (n : Nat) : List Byte :=
  let k := if n == 0 then 0 else n.log2 / 8 + 1
  BitVec.ofNat 8 k :: leBytes n k

def itemBytes (ns : List Nat) : List Byte := ns.flatMap natItem

/-- The numbers of some bytes; bytes of padding read as zeros. `fuel`: the bytes. -/
def itemsOf : Nat → List Byte → List Nat
  | 0, _ => []
  | _, [] => []
  | fuel + 1, k :: r => leNat (r.take k.toNat) :: itemsOf fuel (r.drop k.toNat)

/- Reading numbers off a list. -/

abbrev Rd := StateT (List Nat) Option

def rN : Rd Nat := fun l => match l with
  | [] => none
  | n :: r => some (n, r)

def rRep {α : Type} (d : Rd α) : Nat → Rd (List α)
  | 0 => pure []
  | n + 1 => do
    let x ← d
    let r ← rRep d n
    pure (x :: r)

def rL {α : Type} (d : Rd α) : Rd (List α) := do rRep d (← rN)
def rO {α : Type} (d : Rd α) : Rd (Option α) := do
  if (← rN) == 0 then pure none else pure (some (← d))
def rB : Rd Bool := do pure ((← rN) != 0)
def rBv (w : Nat) : Rd (BitVec w) := do pure (BitVec.ofNat w (← rN))
def rI : Rd Int := do
  let n ← rN
  pure (if n % 2 == 0 then Int.ofNat (n / 2) else - Int.ofNat (n / 2))
def rP {α β : Type} (a : Rd α) (b : Rd β) : Rd (α × β) := do
  let x ← a
  pure (x, ← b)
def rEnum {α : Type} (all : List α) : Rd α := do
  match all[(← rN)]? with
  | some x => pure x
  | none => failure

def wL {α : Type} (f : α → List Nat) (l : List α) : List Nat := l.length :: l.flatMap f
def wO {α : Type} (f : α → List Nat) : Option α → List Nat
  | none => [0]
  | some x => 1 :: f x
def wN (n : Nat) : List Nat := [n]
def wB (b : Bool) : List Nat := [b2n b]
def wBv {w : Nat} (x : BitVec w) : List Nat := [x.toNat]
def wI (i : Int) : List Nat := [2 * i.natAbs + b2n (i < 0)]
def wP {α β : Type} (f : α → List Nat) (g : β → List Nat) (x : α × β) : List Nat := f x.1 ++ g x.2
def wEnum {α : Type} [BEq α] (all : List α) (x : α) : List Nat := [all.idxOf x]

/-- A number that names an outstanding result or operation, in the reader's own numbering: 0 is none, engine numbers of their own kind keep
theirs. -/
def rId (base : Nat) : Rd Nat := do
  let n ← rN
  pure (if n == 0 then 0 else if n < 2 ^ 40 || n / 2 ^ 50 == 1 then n + base else n)

/- Accesses. -/

def allStatus : List Status :=
  [.ready, .issuing, .token, .formation, .meeting, .barrier, .signal, .fullEmpty, .parked, .yielded, .shelved, .exited]
def allAtom : List AtomOp := [.add, .addf, .min, .max, .and, .or, .xor, .xch, .cas]
def allAtomTy : List AtomTy := [.d, .w, .du, .wu]
def allOrder : List Order := [.none, .acq, .rel, .ar, .sc, .ord]
def allScope : List Scope := [.blk, .clu, .die, .pkg, .pod]
def allSig : List SigOp := [.dec, .inc, .set]
def allFeL : List FeL := [.none, .wf, .wfc]
def allFence : List FenceO := [.acq, .rel, .ar]
def allBar : List BarKind := [.block, .gang, .grid]
def allWalk : List WalkOp := [.a96, .i32, .max, .min]

def wOp : AccOp → List Nat
  | .ld n sx g => [0, n, b2n sx, b2n g]
  | .st n ord g => [1, n, b2n ord, b2n g]
  | .ldf bf => [2, b2n bf]
  | .lds n q => [3, n] ++ wEnum allFeL q
  | .sts n sf => [4, n, b2n sf]
  | .ldws n => [5, n]
  | .atom o t od sc => [6] ++ wEnum allAtom o ++ wEnum allAtomTy t ++ wEnum allOrder od ++ wEnum allScope sc
  | .acq sc => [7] ++ wEnum allScope sc
  | .rel sc => [8] ++ wEnum allScope sc
  | .rbind => [9]
  | .runbind => [10]
  | .sig o od sc => [11] ++ wEnum allSig o ++ wEnum allOrder od ++ wEnum allScope sc
  | .sigwait od sc => [12] ++ wEnum allOrder od ++ wEnum allScope sc
  | .sigarm od sc => [13] ++ wEnum allOrder od ++ wEnum allScope sc
  | .jump t d => [14, t.toNat, d]
  | .fence o sc => [15] ++ wEnum allFence o ++ wEnum allScope sc
  | .reissue => [16]

def rOp : Rd AccOp := do
  match (← rN) with
  | 0 => pure (.ld (← rN) (← rB) (← rB))
  | 1 => pure (.st (← rN) (← rB) (← rB))
  | 2 => pure (.ldf (← rB))
  | 3 => pure (.lds (← rN) (← rEnum allFeL))
  | 4 => pure (.sts (← rN) (← rB))
  | 5 => pure (.ldws (← rN))
  | 6 => pure (.atom (← rEnum allAtom) (← rEnum allAtomTy) (← rEnum allOrder) (← rEnum allScope))
  | 7 => pure (.acq (← rEnum allScope))
  | 8 => pure (.rel (← rEnum allScope))
  | 9 => pure .rbind
  | 10 => pure .runbind
  | 11 => pure (.sig (← rEnum allSig) (← rEnum allOrder) (← rEnum allScope))
  | 12 => pure (.sigwait (← rEnum allOrder) (← rEnum allScope))
  | 13 => pure (.sigarm (← rEnum allOrder) (← rEnum allScope))
  | 14 => pure (.jump (← rBv 57) (← rN))
  | 15 => pure (.fence (← rEnum allFence) (← rEnum allScope))
  | 16 => pure .reissue
  | _ => failure

def wAcc (a : Acc) : List Nat := wOp a.op ++ [a.ea.toNat, a.x.toNat, a.y.toNat, a.d.toNat, a.k, a.l]
def rAcc : Rd Acc := do
  pure { op := (← rOp), ea := (← rBv 64), x := (← rBv 64), y := (← rBv 64), d := (← rBv 6), k := (← rN), l := (← rN) }

def wTref (t : Tref) : List Nat := [t.grid, t.bidx, t.tid]
def rTref : Rd Tref := do pure { grid := (← rN), bidx := (← rN), tid := (← rN) }

/- Threads and blocks. -/

def wSample (x : Sample) : List Nat := [x.d.toNat, x.w, x.n] ++ wO wN x.u ++ [x.hdr.toNat, x.idx, x.k]
def rSample : Rd Sample := do pure { d := (← rBv 6), w := (← rN), n := (← rN), u := (← rO rN), hdr := (← rBv 57), idx := (← rN), k := (← rN) }

def wThread (t : Thread) : List Nat :=
  [t.tid, t.pc.toNat] ++ wL wBv t.regs ++ [t.preds.toNat] ++ wL wN t.toks ++ [t.stores] ++ wL wBv t.meet ++ [t.callDepth, t.tstat.toNat]
    ++ wEnum allStatus t.status ++ [b2n t.priv, t.ageMark, t.readySince, b2n t.starving, t.flushes, t.segment, t.order, t.lid.toNat
      , t.parent.toNat, b2n t.met] ++ wO wBv t.goto ++ wO (wP wN (wP wBv wN)) t.trapAfter ++ [b2n t.mfence] ++ wO wSample t.sample
    ++ [b2n t.yieldAfter, t.until_] ++ wO (wP (wEnum allBar) (wP wN wN)) t.bar ++ wL (wP wN wN) t.bara ++ wL (wP wN wAcc) t.parked
    ++ wEnum allStatus t.kept
def rThread : Rd Thread := do
  pure { tid := (← rN), pc := (← rBv 57), regs := (← rL (rBv 64)), preds := (← rBv 7), toks := (← rL rN), stores := (← rN)
         meet := (← rL (rBv 57)), callDepth := (← rN), tstat := (← rBv 6), status := (← rEnum allStatus), priv := (← rB)
         ageMark := (← rN), readySince := (← rN), starving := (← rB), flushes := (← rN), segment := (← rN), order := (← rN)
         lid := (← rBv 64), parent := (← rBv 64), met := (← rB), goto := (← rO (rBv 57)), trapAfter := (← rO (rP rN (rP (rBv 57) rN)))
         mfence := (← rB), sample := (← rO rSample), yieldAfter := (← rB), until_ := (← rN)
         bar := (← rO (rP (rEnum allBar) (rP rN rN))), bara := (← rL (rP rN rN)), parked := (← rL (rP rN rAcc))
         kept := (← rEnum allStatus) }

def wMember (m : Member) : List Nat := [m.tid, m.lane, b2n m.active]
def rMember : Rd Member := do pure { tid := (← rN), lane := (← rN), active := (← rB) }

def wGroup (g : Group) : List Nat :=
  [g.gid, g.part, b2n g.home, g.hdr.toNat, g.header.toNat] ++ wL wBv g.words ++ [g.idx] ++ wL wMember g.members ++ [g.stamp, g.stampTid]
    ++ wL (fun (w : Window) => [w.id, w.left]) g.windows ++ [b2n g.parked] ++ wL wN g.held
def rGroup (base : Nat) : Rd Group := do
  pure { gid := (← rId base), part := (← rN), home := (← rB), hdr := (← rBv 57), header := (← rBv 32), words := (← rL (rBv 32)), idx := (← rN)
         members := (← rL rMember), stamp := (← rN), stampTid := (← rN)
         windows := (← rL (do pure { id := (← rId base), left := (← rN) })), parked := (← rB), held := (← rL rN) }

def wExtent (e : Extent) : List Nat := [e.vabase, e.pages, e.frame, e.pkg, e.fmt, e.geom, e.cbslot, b2n e.w, b2n e.v, b2n e.u]
def rExtent : Rd Extent := do
  pure { vabase := (← rN), pages := (← rN), frame := (← rN), pkg := (← rN), fmt := (← rN), geom := (← rN), cbslot := (← rN), w := (← rB)
         v := (← rB), u := (← rB) }

def wTile (t : Tile) : List Nat :=
  wL (wP wN (wP wI wN)) t.elems ++ wI t.anchor ++ [b2n t.aov, b2n t.dof, b2n t.dsat, b2n t.mism, t.prog]
def rTile : Rd Tile := do
  pure { elems := (← rL (rP rN (rP rI rN))), anchor := (← rI), aov := (← rB), dof := (← rB), dsat := (← rB), mism := (← rB), prog := (← rN) }

def wMemory (m : Memory) : List Nat := wL (wP wN wBv) m.cells ++ wL (wP wN wBv) m.errs ++ wL wN m.poison
def rMemory : Rd Memory := do pure { cells := (← rL (rP rN (rBv 8))), errs := (← rL (rP rN (rBv 8))), poison := (← rL rN) }

def wBind (x : Bind) : List Nat :=
  [x.base, x.len, x.obj, x.tid, b2n x.all] ++ wL (wP wN wN) x.via ++ wL wN x.off ++ wL (wP wN wN) x.offVia
def rBind : Rd Bind := do
  pure { base := (← rN), len := (← rN), obj := (← rN), tid := (← rN), all := (← rB), via := (← rL (rP rN rN)), off := (← rL rN)
         offVia := (← rL (rP rN rN)) }

def wBlock (b : Block) : List Nat :=
  [b.grid, b.bidx, b.cx, b.cy, b.cz, b.gang, b.grank, b.gsize, b.core] ++ wL wN b.slots ++ wL wThread b.threads ++ wMemory b.scratch
    ++ wL wN b.full ++ wL wBv b.consts ++ wL (wL wBv) b.lps ++ wL (wO (wL wBv)) b.descs ++ wL wTile b.tiles
    ++ wL wBind b.binds ++ wL wExtent b.extents ++ wL wGroup b.groups ++ [b.place, b.frames]
def rBlock (base : Nat) : Rd Block := do
  pure { grid := (← rN), bidx := (← rN), cx := (← rN), cy := (← rN), cz := (← rN), gang := (← rN), grank := (← rN), gsize := (← rN)
         core := (← rN), slots := (← rL rN), threads := (← rL rThread), scratch := (← rMemory), full := (← rL rN), consts := (← rL (rBv 64))
         lps := (← rL (rL (rBv 6))), descs := (← rL (rO (rL (rBv 64)))), tiles := (← rL rTile)
         binds := (← rL rBind), extents := (← rL rExtent), groups := (← rL (rGroup base))
         place := (← rN), frames := (← rN) }

/- Asynchronous work (R340). -/

def wKind : PendKind → List Nat
  | .result v f => [0, v.toNat, f.toNat]
  | .remote a g => [1] ++ wL (wP wN wN) a ++ wL (wP wN wBv) g
  | .fullEmpty o n c => [2, o, n, b2n c]
  | .signal pa od sc t => [3, pa] ++ wEnum allOrder od ++ wEnum allScope sc ++ wI t
  | .flush b => [4, b]
  | .digest => [5]
  | .refresh o n => [6, o, n]
  | .ticket => [7]
  | .scTicket => [8]
  | .engine op => [9, op]
  | .fenceack is => [10] ++ wL wN is
  | .mwait is => [11] ++ wL wN is
  | .ready ds => [12] ++ wL (wP wBv wBv) ds
  | .held => [13]
  | .onEntry t => [14, t]
def rKind (base : Nat) : Rd PendKind := do
  match (← rN) with
  | 0 => pure (.result (← rBv 64) (← rBv 6))
  | 1 => pure (.remote (← rL (rP rN rN)) (← rL (rP rN (rBv 8))))
  | 2 => pure (.fullEmpty (← rN) (← rN) (← rB))
  | 3 => pure (.signal (← rN) (← rEnum allOrder) (← rEnum allScope) (← rI))
  | 4 => pure (.flush (← rN))
  | 5 => pure .digest
  | 6 => pure (.refresh (← rN) (← rN))
  | 7 => pure .ticket
  | 8 => pure .scTicket
  | 9 => pure (.engine (← rId base))
  | 10 => pure (.fenceack (← rL rN))
  | 11 => pure (.mwait (← rL (rId base)))
  | 12 => pure (.ready (← rL (rP (rBv 6) (rBv 64))))
  | 13 => pure .held
  | 14 => pure (.onEntry (← rN))
  | _ => failure

def wPend (p : Pend) : List Nat :=
  [p.id] ++ wTref p.who ++ [p.tok] ++ wAcc p.acc ++ wKind p.kind ++ [p.hdr.toNat, p.idx, p.aged, b2n p.mem]
def rPend (base : Nat) : Rd Pend := do
  pure { id := (← rId base), who := (← rTref), tok := (← rN), acc := (← rAcc), kind := (← rKind base), hdr := (← rBv 57), idx := (← rN)
         aged := (← rN), mem := (← rB) }

def wStaged (e : Staged) : List Nat := [e.va, e.x.toNat, e.order] ++ wTref e.who ++ [e.batch, b2n e.spilled]
def rStaged : Rd Staged := do
  pure { va := (← rN), x := (← rBv 32), order := (← rN), who := (← rTref), batch := (← rN), spilled := (← rB) }

def wTicket (t : Ticket) : List Nat := [t.id, t.seg] ++ wTref t.who ++ [t.order] ++ wAcc t.acc
def rTicket (base : Nat) : Rd Ticket := do
  pure { id := (← rId base), seg := (← rN), who := (← rTref), order := (← rN), acc := (← rAcc) }

def wBy (e : EngBy) : List Nat := [e.core, e.grid, e.bidx, e.tid, e.job, b2n e.user, e.recVa, e.score, e.store]
def rBy : Rd EngBy := do
  pure { core := (← rN), grid := (← rN), bidx := (← rN), tid := (← rN), job := (← rN), user := (← rB), recVa := (← rN), score := (← rN)
         store := (← rN) }

def wMKind : MKind → List Nat
  | .mzero => [0]
  | .manchor a => [1] ++ wI a
  | .mma => [2]
  | .mconv => [3]
  | .mwalk o c => [4] ++ wEnum allWalk o ++ [c]
  | .mdrain rs z => [5, b2n rs, b2n z]
  | .mrow i => [6, b2n i]
  | .mstat c => [7, b2n c]
def rMKind : Rd MKind := do
  match (← rN) with
  | 0 => pure .mzero
  | 1 => pure (.manchor (← rI))
  | 2 => pure .mma
  | 3 => pure .mconv
  | 4 => pure (.mwalk (← rEnum allWalk) (← rN))
  | 5 => pure (.mdrain (← rB) (← rB))
  | 6 => pure (.mrow (← rB))
  | 7 => pure (.mstat (← rB))
  | _ => failure

def wEntry (e : MEntry) : List Nat :=
  [e.id] ++ wMKind e.kind ++ [e.grid, e.bidx, e.core] ++ wBy e.by_ ++ wL (wP wN wN) e.who ++ [e.tile] ++ wL wBv e.da ++ wL wBv e.db
    ++ wL wBv e.dO ++ [e.x, e.y, e.z, e.dreg.toNat, e.passes, e.prog] ++ wL wN e.chunks ++ [e.chunk, e.born] ++ wO wN e.since
    ++ [b2n e.starving, e.phase, e.token] ++ wO wTile e.next ++ wL (wP wN (wL wBv)) e.out ++ [e.part]
def rEntry (base : Nat) : Rd MEntry := do
  pure { id := (← rId base), kind := (← rMKind), grid := (← rN), bidx := (← rN), core := (← rN), by_ := (← rBy), who := (← rL (rP rN rN))
         tile := (← rN), da := (← rL (rBv 64)), db := (← rL (rBv 64)), dO := (← rL (rBv 64)), x := (← rN), y := (← rN), z := (← rN)
         dreg := (← rBv 6), passes := (← rN), prog := (← rN), chunks := (← rL rN), chunk := (← rN), born := (← rN), since := (← rO rN)
         starving := (← rB), phase := (← rN), token := (← rN), next := (← rO rTile), out := (← rL (rP rN (rL (rBv 8)))), part := (← rN) }

def wXfer (x : Xfer) : List Nat :=
  [x.op, x.kind] ++ wBy x.by_ ++ [x.dst, x.src, x.left, x.ver, x.want.toNat, x.sig, x.stage, x.status] ++ wO wN x.token ++ [x.total]
def rXfer (base : Nat) : Rd Xfer := do
  pure { op := (← rId base), kind := (← rN), by_ := (← rBy), dst := (← rN), src := (← rN), left := (← rN), ver := (← rN), want := (← rBv 64)
         sig := (← rN), stage := (← rN), status := (← rN), token := (← rO rN), total := (← rN) }

def wCopy (c : Copy) : List Nat :=
  [c.op] ++ wBy c.by_ ++ [c.die, c.dst, c.src, c.rowlen, c.rows, c.dstr, c.sstr, c.mode, c.signal, c.prow, c.poff, c.invblk, c.phase, c.token]
    ++ wL (wP wN (wP (wL wBv) wBv)) c.out ++ [c.ahead] ++ wL wN c.stops ++ wL wN c.goes ++ [c.stage]
    ++ wL (wP wN (wP (wL wBv) wBv)) c.tail ++ wO (wP wN wN) c.ends
def rCopy (base : Nat) : Rd Copy := do
  pure { op := (← rId base), by_ := (← rBy), die := (← rN), dst := (← rN), src := (← rN), rowlen := (← rN), rows := (← rN), dstr := (← rN)
         sstr := (← rN), mode := (← rN), signal := (← rN), prow := (← rN), poff := (← rN), invblk := (← rN), phase := (← rN), token := (← rN)
         out := (← rL (rP rN (rP (rL (rBv 8)) (rBv 8)))), ahead := (← rN), stops := (← rL (rId base)), goes := (← rL (rId base)), stage := (← rN)
         tail := (← rL (rP rN (rP (rL (rBv 8)) (rBv 8)))), ends := (← rO (rP rN rN)) }

/-- A collective as it was issued (R340): what it has exchanged since is not part of it. -/
def wColl (c : Coll) : List Nat :=
  [c.op] ++ wBy c.by_ ++ [c.die, c.kind, c.no, c.grid, c.sbase] ++ wL wBv c.d ++ wL wN c.ranks ++ wL wN c.aux
    ++ wL (wP wN (wP wN (wP wN (wP wN wN)))) c.moves
def rColl (base : Nat) : Rd Coll := do
  pure { op := (← rId base), by_ := (← rBy), die := (← rN), kind := (← rN), no := (← rN), grid := (← rN), sbase := (← rN), d := (← rL (rBv 8))
         ranks := (← rL rN), aux := (← rL rN), moves := (← rL (rP rN (rP rN (rP rN (rP rN rN))))), phase := 0, todo := [], ready := []
         stage := [], heads := [], notices := [], chunks := [], out := [], outOf := 0, landed := [], status := 0, token := none
         refetch := false }

/-- A block's context in the slice (R339, R340, R347 KIND 1). -/
def wCtx (c : SnapCtx) : List Nat :=
  wBlock c.block ++ wL wPend c.pends ++ wL wStaged c.staged ++ wL (wP wN wTicket) c.tickets ++ wL wEntry c.entries ++ wL wXfer c.xfers
    ++ wL wCopy c.copies ++ wL wColl c.colls
def rCtx (base : Nat) : Rd SnapCtx := do
  pure { block := (← rBlock base), pends := (← rL (rPend base)), staged := (← rL rStaged), tickets := (← rL (rP rN (rTicket base)))
         entries := (← rL (rEntry base)), xfers := (← rL (rXfer base)), copies := (← rL (rCopy base)), colls := (← rL (rColl base)), moved := true }

/- Grids and what else the job has at the package. -/

def wRole (r : Role) : List Nat := [r.troops, r.regs, r.priv]
def rRole : Rd Role := do pure { troops := (← rN), regs := (← rN), priv := (← rN) }

def wLaunch (l : Launch) : List Nat :=
  [l.entry.toNat, l.gx, l.gy, l.gz, l.sx, l.sy, l.sz] ++ wL wRole l.roles ++ [l.scratch, l.acc, l.desc, l.pgang, l.fgang, l.flags, l.cbmask
    , l.nwait, l.nrange, l.creq, l.foot, l.job, l.popcap, l.compl, l.priv, l.seed.toNat, l.collbind] ++ wL wN l.waits ++ wL wBv l.consts
    ++ wL (wP wN (wP wB wN)) l.ranges
def rLaunch : Rd Launch := do
  pure { entry := (← rBv 64), gx := (← rN), gy := (← rN), gz := (← rN), sx := (← rN), sy := (← rN), sz := (← rN), roles := (← rL rRole)
         scratch := (← rN), acc := (← rN), desc := (← rN), pgang := (← rN), fgang := (← rN), flags := (← rN), cbmask := (← rN), nwait := (← rN)
         nrange := (← rN), creq := (← rN), foot := (← rN), job := (← rN), popcap := (← rN), compl := (← rN), priv := (← rN)
         seed := (← rBv 64), collbind := (← rN), waits := (← rL rN), consts := (← rL (rBv 64)), ranges := (← rL (rP rN (rP rB rN))) }

def wGrid (g : Grid) : List Nat :=
  [g.handle, g.recVa] ++ wLaunch g.l ++ [b2n g.user] ++ wL (wP wN (wP wN (wP wN wN))) g.todo ++ wL wN g.leases ++ wL wN g.retired
    ++ [g.total, g.h0.toNat, g.h1.toNat, g.seed.toNat, g.gen] ++ wL (wP wN wN) g.applied ++ [b2n g.faulted, b2n g.decided, b2n g.local_, g.unit
      , g.gbase] ++ wO wN g.flushTok ++ wO wN g.ordTok ++ [g.gangNo, b2n g.fallback] ++ wO wN g.halting ++ [b2n g.shelved, b2n g.loaded]
    ++ wO wN g.loadTok ++ wL wN g.cancels ++ wO (wP wN wN) g.flushSent ++ wL (wP wN (wP wN (wP wN wN))) g.peers ++ wL (wP wN wN) g.told
    ++ [g.dkey] ++ wO (wL wExtent) g.table
def rGrid (base : Nat) : Rd Grid := do
  pure { handle := (← rN), recVa := (← rN), l := (← rLaunch), user := (← rB), todo := (← rL (rP rN (rP rN (rP rN rN)))), leases := (← rL rN)
         retired := (← rL rN), total := (← rN), h0 := (← rBv 64), h1 := (← rBv 64), seed := (← rBv 64), gen := (← rN)
         applied := (← rL (rP rN rN)), faulted := (← rB), decided := (← rB), local_ := (← rB), unit := (← rId base), gbase := (← rN)
         flushTok := (← rO rN), ordTok := (← rO rN), gangNo := (← rN), fallback := (← rB), halting := (← rO rN), shelved := (← rB)
         loaded := (← rB), loadTok := (← rO rN), cancels := (← rL rN), flushSent := (← rO (rP rN rN))
         peers := (← rL (rP rN (rP rN (rP rN rN)))), told := (← rL (rP rN rN)), dkey := (← rN), table := (← rO (rL rExtent)) }

def wBarI (x : BarInst) : List Nat := wEnum allBar x.kind ++ [x.grid, x.idx, x.n, x.gen] ++ wL (wP wN wN) x.arrivals ++ [b2n x.full, x.mark]
def rBarI (base : Nat) : Rd BarInst := do
  pure { kind := (← rEnum allBar), grid := (← rN), idx := (← rN), n := (← rN), gen := (← rN), arrivals := (← rL (rP rN rN)), full := (← rB)
         mark := (← rId base) }

def wSub (x : Sub) : List Nat :=
  [x.kind, x.va, x.job, b2n x.user, x.unit, x.pend, x.token, b2n x.sent, b2n x.host] ++ wLaunch x.l ++ wO wN x.handle
def rSub (base : Nat) : Rd Sub := do
  pure { kind := (← rN), va := (← rN), job := (← rN), user := (← rB), unit := (← rId base), pend := (← rId base), token := (← rN), sent := (← rB)
         host := (← rB), l := (← rLaunch), handle := (← rO rN) }

def wUnit (u : WUnit) : List Nat := [u.id, u.level, u.parent, u.job, b2n u.user, u.counter, u.left] ++ wL wN u.done ++ [b2n u.decided]
def rUnit (base : Nat) : Rd WUnit := do
  pure { id := (← rId base), level := (← rN), parent := (← rId base), job := (← rN), user := (← rB), counter := (← rN), left := (← rN)
         done := (← rL rN), decided := (← rB) }

def wPacket (p : Packet) : List Nat :=
  [p.typ, p.dst, p.src, p.vc, b2n p.pen, b2n p.col, b2n p.host, p.ctlResvd, p.path, p.n, p.seq, p.pser, p.score, p.hjob, p.lvl, p.base.toNat
    , p.tspec.toNat] ++ wL wBv p.offs ++ wL wBv p.data ++ wL wBv p.seals ++ wL wBv p.masks ++ [p.job, b2n p.user]
def rPacket : Rd Packet := do
  pure { typ := (← rN), dst := (← rN), src := (← rN), vc := (← rN), pen := (← rB), col := (← rB), host := (← rB), ctlResvd := (← rN)
         path := (← rN), n := (← rN), seq := (← rN), pser := (← rN), score := (← rN), hjob := (← rN), lvl := (← rN), base := (← rBv _)
         tspec := (← rBv _), offs := (← rL (rBv _)), data := (← rL (rBv _)), seals := (← rL (rBv _)), masks := (← rL (rBv _)), job := (← rN)
         user := (← rB) }

def wKept (k : Kept) : List Nat := wPacket k.p ++ [k.link, k.at_, b2n k.sent]
def rKept : Rd Kept := do pure { p := (← rPacket), link := (← rN), at_ := (← rN), sent := (← rB) }

def wLine (l : WcLine) : List Nat :=
  [l.peer, l.job, b2n l.user, l.va] ++ wL (wP wN wBv) l.bytes ++ wL (wP wN wTref) l.whos ++ [l.born]
def rLine : Rd WcLine := do
  pure { peer := (← rN), job := (← rN), user := (← rB), va := (← rN), bytes := (← rL (rP rN (rBv 8))), whos := (← rL (rP rN rTref))
         born := (← rN) }

/-- The package's record of the job (R340, R347 KIND 4): the next number it would have given, its grids, barrier instances, submissions,
units, and requests on the way. -/
def wJob (nextId : Nat) (sn : Snap) : List Nat :=
  [nextId] ++ wL wGrid sn.grids ++ wL wBarI sn.bars ++ wL wSub sn.subs ++ wL wUnit sn.units ++ wL wKept sn.kept
    ++ wL (wP wN (wP wN wLine)) sn.flight
/-- What another package's record holds, put into a snapshot of no contents; and that package's next number. -/
def rJob (base : Nat) (sn : Snap) : Rd (Nat × Snap) := do
  let n ← rN
  pure (n, { sn with grids := (← rL (rGrid base)), bars := (← rL (rBarI base)), subs := (← rL (rSub base)), units := (← rL (rUnit base))
                     kept := (← rL rKept), flight := (← rL (rP rN (rP rN rLine))) })

/-- Something read off the bytes of the slice; none where they are not what a package writes. -/
def readBytes {α : Type} (d : Rd α) (bs : List Byte) : Option α := (d.run (itemsOf bs.length bs)).map fun x => x.1

end Sys2Proof.Machine
end

