-- ==== Sys2Proof/Machine/Snapshot.lean ====
section
/-! DEFINITION. Consistent snapshots (R280 to R282, R336 to R348, R436): SNAP, SNAPWAIT, SNAPSTAT, the local cut, preservation copies, the
slice and its manifest part, commit and abort. -/

namespace Sys2Proof.Machine

open Sys2Proof

/- The state word (R280, R291). -/

def snapEpoch (w : Word) : Nat := bits w.toNat 63 16
def snapSt (w : Word) : Nat := bits w.toNat 3 2

/-- Job-table word 3: epoch and STATE. -/
def mkSnap (epoch st : Nat) : Word := BitVec.ofNat 64 (epoch <<< 16 + st <<< 2)

/-- The word SNAPSTAT reads: with the package's colour. -/
def snapWord (s : State) (job : Nat) : Word := s.jobWord job 3 ||| BitVec.ofNat 64 (b2n s.colour)

/-- Numbers under which SNAP and SNAPWAIT results, the record's reading, BALCOUNT and manifest reads are outstanding. -/
def snapOp : Nat := 2 ^ 52
def snapwaitOp : Nat := 2 ^ 53
def recOp : Nat := 2 ^ 44
def balOp : Nat := 2 ^ 45

/-- SNAPWAITs of a job that are satisfied write the word (R282). -/
def snapwaitsAgain (s : State) (job : Nat) : State :=
  let w := snapWord s job
  s.pend.foldl (fun s p =>
    if p.kind == .engine snapwaitOp && s.jobOf p.who.grid == job
        && (snapEpoch w > p.acc.ea.toNat || (snapEpoch w == p.acc.ea.toNat && snapSt w != 1))
    then complete s p [(p.acc.d, w)] 0 else s) s

/-- The outstanding SNAP of a job on a record for an epoch. -/
def isSnap (s : State) (job recVa epoch : Nat) (p : Pend) : Bool :=
  p.kind == .engine snapOp && p.acc.ea.toNat == recVa && p.acc.x.toNat == epoch && s.jobOf p.who.grid == job

/-- A SNAP's result: its epoch, or 0 where another opened it (R281). -/
def snapDone (s : State) (job recVa epoch : Nat) (v : Word) : State :=
  match s.pend.find? (isSnap s job recVa epoch) with
  | some p => complete s p [(p.acc.d, v)] 0
  | none => s

/-- The SNAP that asked for an epoch waits for the one that its SNAPOPEN opens: another may have been opened and ended before (R281). -/
def snapRename (s : State) (job recVa asked epoch : Nat) : State :=
  { s with pend := replaceFirst (isSnap s job recVa asked) (fun p => { p with acc := { p.acc with x := BitVec.ofNat 64 epoch } }) s.pend }

/-- SNAP (R281): the event asks for the next epoch; where one is open, 0. -/
def execSnap (x y : Reg) (k : BitVec 3) (l : BitVec 4) (s : State) : Host.Outcome State Fault Refusal :=
  runLanes (.snap x y k l) s (fun _ _ s _ _ => (s, .go)) fun b g s _ th =>
    let job := s.jobOf b.grid
    let w := s.jobWord job 3
    if snapSt w == 1 then addPlain s b g th x k l (.ready [(x, 0)])
    else
      let va := (th.reg y).toNat % 2 ^ 57
      let s := sendEvent (drainThread s (trefOf b th)) (.snapopen (evHdr s job) (BitVec.ofNat 57 va) (snapEpoch w + 1))
      addNamed s b g th x k l (.engine snapOp) (BitVec.ofNat 64 va) (BitVec.ofNat 64 (snapEpoch w + 1))

/-- SNAPWAIT (R282). -/
def execSnapwait (x : Reg) (k : BitVec 3) (l : BitVec 4) (s : State) : Host.Outcome State Fault Refusal :=
  runLanes (.snapwait x k l) s (fun _ _ s _ _ => (s, .go)) fun b g s _ th =>
    let (s', win) := addNamed s b g th x k l (.engine snapwaitOp) (th.reg x) 0
    (snapwaitsAgain s' (s.jobOf b.grid), win)

/-- SNAPSTAT (R282). -/
def execSnapstat (x : Reg) (k : BitVec 3) (l : BitVec 4) (s : State) : Host.Outcome State Fault Refusal :=
  runLanes (.snapstat x k l) s (fun _ _ s _ _ => (s, .go)) fun b g s _ th =>
    addPlain s b g th x k l (.ready [(x, snapWord s (s.jobOf b.grid))])

/- The record and the slice (R336). -/

def Snap.f (sn : Snap) (o n : Nat) : Nat := at_ sn.fields o n
def Snap.area (sn : Snap) : Nat := sn.f 0 8
def Snap.size (sn : Snap) : Nat := sn.f 8 8
def Snap.manif (sn : Snap) : Nat := sn.f 16 8
def Snap.prev (sn : Snap) : Nat := sn.f 24 8
def Snap.signal (sn : Snap) : Nat := sn.f 40 8

/-- Part tables stand right after the manifest header. (DESIGN CHOICE, log 19.) -/
def Snap.partsVa (sn : Snap) : Nat := sn.manif + 64

/-- This package's slice: its first byte and length. -/
def slice (s : State) (sn : Snap) : Nat × Nat :=
  let ps := jobPkgs s sn.job
  let n := sn.size / max 1 ps.length
  (sn.area + (ps.findIdx fun p => p == s.pkg) * n, n)

/-- Bytes of the page of a leaf entry (R60). -/
def pageLen (e : Word) : Nat := if pteSize e then 2 ^ 21 else 2 ^ 16

/-- A page of n bytes overlaps what is exempt (R336). -/
def exempt (s : State) (sn : Snap) (page n : Nat) : Bool :=
  let laps (a k : Nat) : Bool := k != 0 && meets a k (page * 2 ^ 16) n
  laps sn.area sn.size || laps sn.recVa 64 || laps sn.manif 64 || laps sn.partsVa (16 * (jobPkgs s sn.job).length)

/-- The identity of the package's own reads and writes for a job. -/
def sysBy (job recVa : Nat) : EngBy :=
  { core := 0, grid := 2 ^ 40, bidx := 0, tid := 0, job := job, user := false, recVa := recVa, score := 0x3FF, store := 0 }

/- The job's page tables (R59, R339). -/

/-- Indices of a table with an entry that is not zero. -/
def tableIdx (m : Memory) (tbl n : Nat) : List Nat :=
  ((m.cells.filter fun c => tbl ≤ c.1 && c.1 < tbl + 8 * n).map fun c => (c.1 - tbl) / 8).foldl
    (fun acc i => if acc.getLast? == some i then acc else acc ++ [i]) []

/-- The present leaf entries of a root: page, address of the entry, entry; of the 32 entries of a 2 MiB page the first (R60). -/
def leaves (m : Memory) (root : Nat) : List (Nat × Nat × Word) :=
  let ent (a : Nat) : Word := BitVec.ofNat 64 (m.num a 8)
  (tableIdx m root 32768).flatMap fun i =>
    let e2 := ent (root + 8 * i)
    if !pteP e2 then []
    else
      let t1 := pteFrame e2 <<< 16
      (tableIdx m t1 8192).flatMap fun j =>
        let e1 := ent (t1 + 8 * j)
        if !pteP e1 then []
        else
          let t0 := pteFrame e1 <<< 16
          (tableIdx m t0 8192).filterMap fun k =>
            let e := ent (t0 + 8 * k)
            if pteP e && !(pteSize e && k % 32 != 0) then some (i <<< 26 + j <<< 13 + k, t0 + 8 * k, e) else none

/-- The job's present leaf entries at this package. -/
def jobLeaves (s : State) (job : Nat) : List (Nat × Nat × Word) := ((jobRoot s job).map fun r => leaves s.mem r).getD []

/-- Leaf entries rewritten; the dies' translations of the job and the extents' W go with them (R62). -/
def setLeaves (s : State) (job : Nat) (f : Nat → Word → Option Word) : State :=
  let s := (jobLeaves s job).foldl (fun s x => match f x.1 x.2.2 with
    | some e => { s with mem := s.mem.putLeaf x.2.1 e }
    | none => s) s
  (List.range 4).foldl (fun s d => s.updDie d fun y => { y with tlb := y.tlb.filter fun t => t.job != job }) s

/- The cut (R339). -/

/-- The grids of a job here. -/
def jobGrids (s : State) (job : Nat) : List Grid := s.grids.filter fun g => g.l.job == job && !g.decided

/-- The record of the open epoch is read; the epoch is given up where it cannot be (log 20). -/
def snapLoad (s : State) : State :=
  match s.snap with
  | none => s
  | some sn =>
    if sn.phase != 0 || sn.fields.length == 64 then s
    else match engGrans (sysBy sn.job sn.recVa) recOp true (granRange sn.recVa 64) s with
      | (s, .wait) => s
      | (s, .ok gs) => { dropGot s recOp with snap := some { sn with fields := gBytes gs sn.recVa 64 } }
      | (s, .bad _ _ _) =>
        sendEvent { s with snap := some { sn with fields := List.replicate 64 0 } }
          (.snapcommit (evHdr s sn.job) sn.epoch sn.cutSeq 0 2)

/-- The package is ready for the cut instant: every block of the job has halted, no exchange is open, the record is read. -/
def cutReady (s : State) (sn : Snap) : Bool :=
  sn.phase == 0 && sn.fields.length == 64
    && !(s.blocks.any fun b => b.place == 0 && s.jobOf b.grid == sn.job)
    && !((jobGrids s sn.job).any fun g => exchOpen s g.handle)

/-- A block's context with its asynchronous work (R339, R340). -/
def captureBlock (s : State) (b : Block) : SnapCtx :=
  let own (t : Tref) : Bool := t.grid == b.grid && t.bidx == b.bidx
  let by_ (e : EngBy) : Bool := e.grid == b.grid && e.bidx == b.bidx
  { block := b
    pends := s.pend.filter fun p => own p.who
    staged := s.cores.flatMap fun c => c.2.staged.filter fun e => own e.who
    tickets := (List.range 4).flatMap fun d => ((s.die d).tickets.filter fun t => own t.who).map fun t => (d, t)
    entries := s.entries.filter fun e => e.grid == b.grid && e.bidx == b.bidx
    xfers := s.xfers.filter fun x => by_ x.by_
    copies := s.copies.filter fun c => by_ c.by_
    colls := s.colls.filter fun c => c.kind != 3 && by_ c.by_
    moved := false }

/-- The job's replica words: lease rows, grid rows, unit rows, job-table words (R339). -/
def jobImage (s : State) (job : Nat) : List (Nat × Word) :=
  let hs := (s.podGrids.filter fun p => p.job == job).map fun p => p.handle
  s.words.filter fun x =>
    (x.1 < 0x10000 && rowSt x.2 != 0 && hs.contains (rowGrid x.2))
    || (0x10000 ≤ x.1 && x.1 < 0x30000 && hs.contains ((x.1 - 0x10000) / 2))
    || (0x50000 + 4 * job ≤ x.1 && x.1 < 0x50004 + 4 * job)

/-- A snapshot's context held on a core: the shelf where nothing else is there and no block needs it empty (R308, R339). DESIGN CHOICE (log 75): of a
cut whose context would pass the carve-out the spec says nothing; the cut is taken, and no place is held for it. -/
def holdCtx (s : State) (b : Block) : State :=
  let l := s.launchOf b.grid
  let shelf := !l.shy && !((s.core b.core).held.any fun h => h.2.2.2.isNone && h.1 < 2 ^ 40)
    && !(s.blocks.any fun x => x.core == b.core && x.place ≤ 1 && x.grid != b.grid && (s.launchOf x.grid).shy)
  let es := heldFor shelf (s.core b.core) (2 ^ 40 + b.grid) b.bidx (footK l)
  if carveOver s es then s
  else (holdEntries s b.core es).updCore b.core fun k => { k with snapHeld := k.snapHeld || es.any fun e => e.2.2.2.isNone }

/-- A halted block goes on where it stood. -/
def unhaltBlock (s : State) (b : Block) : State :=
  let s := s.updBlock b.grid b.bidx fun x =>
    { x with place := 0, threads := x.threads.map fun (th : Thread) =>
        if th.status == .shelved then { th with status := th.kept, readySince := s.now } else th }
  let s := s.updCore b.core fun k => { k with busy := false }
  { s with copies := s.copies.map fun (c : Copy) =>
      if c.by_.grid == b.grid && c.by_.bidx == b.bidx && c.phase == 3 then { c with phase := 0 } else c }

/-- The grids of a job that were halted for a cut go on, unless their rows are SHELVED (R339 step 5). -/
def unhaltJob (s : State) (job : Nat) : State :=
  let s := (jobGrids s job).foldl (fun s g =>
    if g.halting.isNone || !wantsRun s g then s
    else
      let s := (s.blocks.filter fun b => b.grid == g.handle && b.place == 1).foldl unhaltBlock s
      let s := (s.blocks.filter fun b => b.grid == g.handle && b.place == 0).foldl (reexecBlock fun t => t == closedTok) s
      s.updGrid g.handle fun x => { x with halting := none }) s
  dispatchAll (wakeAll (reenter s))

/-- The cut instant and steps 2 to 5 of R339. -/
def takeCut (s : State) (sn : Snap) : State :=
  let me := s.pkg
  let old := s.colour
  let new := sn.epoch % 2 == 1
  let others := (jobPkgs s sn.job).filter fun p => p != me
  let ct (p : Nat) : Nat := tget 0 s.sentTo (colKey p old)
  let counts := others.map fun p => (p, ct p)
  let reset (t : Tab Nat) : Tab Nat := t.filter fun x => x.1 % 2 != b2n new
  let s := { s with colour := new, sentTo := reset s.sentTo, recvFrom := reset s.recvFrom }
  -- the issuing thread is captured after its SNAP (R281)
  let s := if sn.snapper == me then snapDone s sn.job sn.recVa sn.epoch (BitVec.ofNat 64 sn.epoch) else s
  let ls := (jobLeaves s sn.job).filter fun x => pteDsm x.2.2 && ptePkg x.2.2 == me
  let cow := (ls.filter fun x => !exempt s sn x.1 (pageLen x.2.2)).map fun x => x.1
  let s := setLeaves s sn.job fun page e =>
    if pteDsm e && ptePkg e == me then some (pteSet (if cow.contains page then pteSet e 21 20 1 else e) 28 28 0) else none
  let s := { s with
    blocks := s.blocks.map fun (b : Block) =>
      if s.jobOf b.grid == sn.job then { b with extents := b.extents.map fun (x : Extent) => { x with w := false } } else b
    grids := s.grids.map fun (g : Grid) =>
      if g.l.job == sn.job then { g with table := g.table.map fun es => es.map fun (x : Extent) => { x with w := false } } else g }
  let s := counts.foldl (fun s c => (sendPacket s { blankPacket with
    typ := 12, dst := c.1, vc := 3, job := sn.job, tspec := tspecOf [(0, 4, sn.epoch), (4, 8, c.2)] }).1) s
  let bs := s.blocks.filter fun b => s.jobOf b.grid == sn.job && b.place != 4
  let s := bs.foldl holdCtx s
  let sn := { sn with
    phase := 1
    pages := sortBy (· ≤ ·) cow
    ctxs := bs.map (captureBlock s)
    collNos := s.collNos.filter fun x => x.1 == sn.job
    early := s.earlyChunks.filter fun p => p.job == sn.job
    grids := jobGrids s sn.job
    bars := s.bars.filter fun x => s.jobOf x.grid == sn.job
    subs := s.subs.filter fun x => x.job == sn.job && x.sent
    units := s.units.filter fun u => u.job == sn.job
    kept := s.retained.filter fun k => k.p.job == sn.job
    flight := s.inFlight.filter fun f => f.2.2.job == sn.job
    image := if sn.image.isEmpty then jobImage s sn.job else sn.image }
  unhaltJob { s with snap := some sn } sn.job

/-- The cut goes on as far as it can. -/
def cutStep (s : State) : State :=
  let s := snapLoad s
  match s.snap with
  | some sn => if cutReady s sn then takeCut s sn else s
  | none => s

/-- An effective SNAPOPEN at a package of the job: its grids are told to halt (R339 step 1). -/
def startCut (s : State) (sn : Snap) : State :=
  let s := { s with snap := some sn }
  let s := (jobGrids s sn.job).foldl (fun s g =>
    if s.blocks.any fun b => b.grid == g.handle && b.place ≤ 1 then s.updGrid g.handle fun x =>
      { x with halting := x.halting.or (some s.now) } else s) s
  cutStep s

/-- A new epoch of a job. -/
def newSnap (job epoch seq recVa snapper : Nat) : Snap :=
  { job := job, epoch := epoch, cutSeq := seq, recVa := recVa, snapper := snapper, fields := [], phase := 0, bal := [], log := [], pages := []
    parts := [], used := 0, ctxs := [], grids := [], bars := [], subs := [], units := [], image := [], podGrids := [], kept := [], flight := []
    collNos := [], early := [] }

/-- Two jobs have a package in common (R337). -/
def jobsMeet (s : State) (i j : Nat) : Bool := (jobPkgs s i).any fun p => (jobPkgs s j).contains p

/-- The job of an open epoch that keeps a job's SNAPOPEN waiting. -/
def snapBusy (s : State) (job : Nat) : Bool :=
  (List.range 4096).any fun j => j != job && snapSt (s.jobWord j 3) == 1 && s.jobWord j 0 != 0 && jobsMeet s j job

/-- An epoch opens at every replica; packages of the job take their cut, others keep the job's words (R337, R349). -/
def openEpoch (s : State) (seq job recVa epoch snapper : Nat) : State :=
  let s := setWord s (0x50003 + 4 * job) (mkSnap epoch 1)
  let s := { s with pkgCol := (jobPkgs s job).foldl (fun t p => tset t p (epoch % 2)) s.pkgCol }
  let sn := { newSnap job epoch seq recVa snapper with
    image := jobImage s job, podGrids := s.podGrids.filter fun p => p.job == job }
  if (jobPkgs s job).contains s.pkg then startCut s sn else { s with saves := s.saves ++ [sn] }

/-- SNAPOPEN applied (R337). -/
def snapopen (s : State) (seq job recVa epoch snapper : Nat) : State :=
  let w := s.jobWord job 3
  if s.jobWord job 0 == 0 || snapSt w == 1 || s.snapWait.any (fun x => x.1 == job) then
    if snapper == s.pkg then snapDone s job recVa epoch 0 else s
  else
    let s := if snapper == s.pkg then snapRename s job recVa epoch (snapEpoch w + 1) else s
    if snapBusy s job then { s with snapWait := s.snapWait ++ [(job, recVa, snapEpoch w + 1, snapper)] }
    else openEpoch s seq job recVa (snapEpoch w + 1) snapper

/-- SNAPOPENs that waited for another job's epoch open, in order (R337). -/
def snapNext (s : State) (seq : Nat) : State :=
  s.snapWait.foldl (fun s x =>
    if snapBusy s x.1 then s
    else openEpoch { s with snapWait := s.snapWait.filter fun y => y != x } seq x.1 x.2.1 x.2.2.1 x.2.2.2) s

/- The slice (R343, R345, R347, R348). -/

/-- digest_granule over words in ascending VA (R348). -/
def digestWords : Word × Word → Nat → List Word → Word × Word
  | h, _, [] => h
  | h, va, d :: r =>
    let v : Word := BitVec.ofNat 64 va
    digestWords (m64 (m64 (h.1 ^^^ v) ^^^ d), m64 (m64 (h.2 ^^^ v ^^^ 0xA5A5A5A5A5A5A5A5#64) ^^^ d)) (va + 8) r

/-- Bytes as granules. -/
def granWords (bs : List Byte) : List Word := (List.range ((bs.length + 7) / 8)).map fun i => BitVec.ofNat 64 (at_ bs (8 * i) 8)

/-- Granules with their syndromes put at a VA of the job: here, or as LOG packets on VC 3 (R343). The answer is a fault, as code and VA, code 0
being a page that waits. -/
def slicePut (job epoch : Nat) : Nat → Nat → List (List Byte × Byte) → State → State × Option (Nat × Nat)
  | 0, _, _, s => (s, none)
  | fuel + 1, va, gs, s =>
    if gs.isEmpty then (s, none)
    else match translate s 0 job [] va true false with
      | (s, .here pa _) =>
        let n := min (min 32 gs.length) ((2 ^ 16 - va % 2 ^ 16) / 8)
        let s := { s with mem := (gs.take n).zipIdx.foldl (fun m x => m.writeGranule (pa / 8 + x.2) x.1.1 x.1.2) s.mem }
        let s := if gs.length ≤ n || (va + 8 * n) % 2 ^ 16 == 0 then noteDsm s job va else s
        slicePut job epoch fuel (va + 8 * n) (gs.drop n) s
      | (s, .away p) =>
        let n := min (min 32 gs.length) ((2 ^ 16 - va % 2 ^ 16) / 8)
        let es := gs.take n
        let (s, _) := sendPacket s { blankPacket with
          typ := 13, dst := p, vc := 3, n := n, base := BitVec.ofNat 64 va, job := job, tspec := tspecOf [(0, 4, epoch)]
          data := es.map fun e => BitVec.ofNat 64 (leNat e.1)
          seals := es.zipIdx.map fun e => seal8 e.1.1 (va + 8 * e.2) ^^^ e.1.2
          masks := es.map fun _ => 0xFF }
        slicePut job epoch fuel (va + 8 * n) (gs.drop n) s
      | (s, .held) => (s, some (0, va))
      | (s, .bad c) => (s, some (c, va))

/-- The slice page of a copy faults: the copy engine parks on a wait-table entry until the page is there; the happening tries again, as
it does for a page that waits. -/
def sliceFault (s : State) (sn : Snap) (code va : Nat) : State :=
  if code != 0 && (openEntries s fun _ w => w.job == sn.job && w.page == va / 2 ^ 16).isEmpty then
    (engFault s (sysBy sn.job sn.recVa) code va (engDetail (sysBy sn.job sn.recVa))).1
  else s

/-- A SNAP record (R417, R418). -/
def snapRec (s : State) (code manif epoch idx : Nat) (job : Nat) : State :=
  queueRec s 0 { unitRec s code (BitVec.ofNat 64 manif) (BitVec.ofNat 64 (epoch % 2 ^ 32 + idx <<< 32)) 0 job with
    rung := if code % 256 ≤ 2 then 2 else 5 }

/-- n bytes of the slice: their VA, or none where the slice is full, which aborts the epoch (R436). -/
def sliceTake (s : State) (sn : Snap) (n align : Nat) : State × Option Nat :=
  let (lo, len) := slice s sn
  let at_ := (sn.used + align - 1) / align * align
  if at_ + n > len then
    (sendEvent { snapRec s 0x0C01 sn.manif sn.epoch 0 sn.job with snap := some { sn with phase := 4 } }
       (.snapcommit (evHdr s sn.job) sn.epoch sn.cutSeq (BitVec.ofNat 57 sn.manif) 2), none)
  else ({ s with snap := some { sn with used := at_ + n } }, some (lo + at_))

/-- Bytes put in the slice under a manifest entry. The answer says whether they are there. -/
def putPart (s : State) (kind va align : Nat) (gs : List (List Byte × Byte)) : State × Bool :=
  match s.snap with
  | none => (s, false)
  | some sn =>
    match sliceTake s sn (8 * gs.length) align with
    | (s, none) => (s, false)
    | (s1, some loc) =>
      match slicePut sn.job sn.epoch (gs.length + 1) loc gs s1 with
      | (s2, some (c, a)) => ({ sliceFault s2 sn c a with snap := some sn }, false)
      | (s2, none) =>
        let h := digestWords (0, 0) va (gs.map fun g => BitVec.ofNat 64 (leNat g.1))
        ({ s2 with snap := s2.snap.map fun (x : Snap) =>
            { x with parts := x.parts ++ [{ kind := kind, va := va, ver := sn.epoch, h0 := h.1, h1 := h.2, loc := loc, len := 8 * gs.length }] } },
          true)

/-- Plain bytes as sound granules. -/
def soundGrans (bs : List Byte) : List (List Byte × Byte) :=
  (granWords bs).map fun w => (leBytes w.toNat 8, 0)

/-- A COW page is copied into the slice with its seals and becomes COPIED; held accesses proceed (R343). -/
def preservationCopy (job page : Nat) (s : State) : State :=
  match s.snap with
    | none => s
    | some sn =>
      if sn.job != job || sn.phase != 1 || !sn.pages.contains page then s
      else match (jobLeaves s job).find? fun x => x.1 == page with
        | none => s
        | some (_, _, e) =>
          let pa := ptePa e (page * 2 ^ 16)
          let gs := (List.range (pageLen e / 8)).map fun i => (s.mem.read (pa + 8 * i) 8, s.mem.err (pa / 8 + i))
          match putPart s 0 (page * 2 ^ 16) (2 ^ 16) gs with
          | (s, false) => s
          | (s, true) =>
            let s := setLeaves s job fun p x => if p == page then some (pteSet x 21 20 2) else none
            let s := { s with snap := s.snap.map fun (x : Snap) => { x with pages := x.pages.filter fun p => p != page } }
            wakeAll s

/-- The cut's contexts of a core pass into the slice, and the core's shelf is free of them (R339). Before the
cut it is the cut that goes on. -/
def snapshotContextTransfer (job core : Nat) (s : State) : State :=
  match s.snap with
    | none => s
    | some sn =>
      if sn.job != job then s
      else if sn.phase == 0 then cutStep s
      else
        let mine (c : SnapCtx) : Bool := c.block.core == core && !c.moved
        let todo := sn.ctxs.filter mine
        let (s, ok) := todo.foldl (fun (x : State × Bool) c =>
          if !x.2 then x
          else
            let (s, ok) := putPart x.1 1 (c.block.grid <<< 32 + c.block.bidx) 8 (soundGrans (itemBytes (wCtx c)))
            (if ok then { s with snap := s.snap.map fun (y : Snap) => { y with ctxs := y.ctxs.map fun (d : SnapCtx) =>
                if d.block.grid == c.block.grid && d.block.bidx == c.block.bidx then { d with moved := true } else d } } else s, ok)) (s, true)
        if ok && !todo.isEmpty then
          dispatchAll (s.updCore core fun k => { k with held := k.held.filter fun h => h.1 < 2 ^ 40, snapHeld := false })
        else s

/-- A packet as it lies in a channel log: its flits, header first (R314, R315). -/
def packetFlits (p : Packet) : List Byte :=
  let hdr := leBytes p.dst 2 ++ leBytes p.src 2 ++ leBytes (p.vc + b2n p.pen <<< 3 + b2n p.col <<< 4 + b2n p.host <<< 5 + p.ctlResvd <<< 6) 1
    ++ leBytes p.typ 1 ++ leBytes p.path 1 ++ leBytes p.n 1 ++ leBytes p.seq 4 ++ leBytes p.pser 4 ++ leBytes p.score 2 ++ leBytes p.hjob 2
    ++ leBytes p.lvl 1 ++ leBytes 0 3 ++ leBytes p.base.toNat 8 ++ leBytes p.tspec.toNat 32
  let offs := if p.typ == 2 || p.typ == 4 then (List.range 32).flatMap fun i => leBytes ((p.offs.getD i 0).toNat) 2 else []
  let pad := (64 - 8 * p.data.length % 64) % 64
  let data := if p.data.isEmpty then [] else (p.data.flatMap fun d => leBytes d.toNat 8) ++ List.replicate pad 0
    ++ (List.range 32).map (fun i => p.seals.getD i 0) ++ (List.range 32).map fun i => p.masks.getD i 0
  hdr ++ offs ++ data

/-- The channel log: for each packet a descriptor entry, then its flits (R345). -/
def logBytes (log : List (Nat × Nat × Packet)) : List Byte :=
  log.flatMap fun x =>
    let f := packetFlits x.2.2
    leBytes x.1 8 ++ leBytes (f.length / 64) 2 ++ leBytes x.2.1 1 ++ List.replicate 53 0 ++ f

/-- Every other package's burgee has come and its count has been reached (R342). -/
def balanced (s : State) (sn : Snap) : Bool :=
  let old := sn.epoch % 2 == 0
  ((jobPkgs s sn.job).filter fun p => p != s.pkg).all fun p => match sn.bal.find? fun b => b.1 == p with
    | some b => tget 0 s.recvFrom (colKey p old) == b.2
    | none => false

/-- 48 bytes of a manifest entry (R347). -/
def partBytes (p : Part) : List Byte :=
  leBytes p.va 8 ++ leBytes p.ver 8 ++ leBytes p.h0.toNat 8 ++ leBytes p.h1.toNat 8 ++ leBytes p.loc 8 ++ leBytes p.len 4 ++ leBytes p.kind 1
    ++ List.replicate 3 0

/-- The manifest header (R347). -/
def headerBytes (sn : Snap) (j : Nat) : List Byte :=
  leBytes 0x54514E4D 4 ++ leBytes 0 4 ++ leBytes sn.epoch 8 ++ leBytes sn.cutSeq 8 ++ leBytes sn.prev 8 ++ leBytes sn.job 2 ++ leBytes j 2
    ++ leBytes 0 4 ++ leBytes sn.partsVa 8 ++ List.replicate 16 0

/-- The package whose atomic has found BALCOUNT at J − 1 commits the epoch (R345). -/
def snapCount (s : State) (old : Nat) : State :=
  match s.snap with
  | none => s
  | some sn =>
    if sn.phase != 2 then s
    else
      let s := { s with snap := some { sn with phase := 3 } }
      if old + 1 == (jobPkgs s sn.job).length then
        sendEvent s (.snapcommit (evHdr s sn.job) sn.epoch sn.cutSeq (BitVec.ofNat 57 sn.manif) 0)
      else s

/-- BALCOUNT raised by 1 with an .ar atomic at pod scope (R345). -/
def raiseBal (s : State) (sn : Snap) : State :=
  let va := sn.recVa + 32
  match translate s 0 sn.job [] va true false with
  | (s, .here pa _) =>
    let old := s.mem.num pa 8
    snapCount (memPut (noteDsm s sn.job va) pa (leBytes (old + 1) 8)) old
  | (s, .away p) =>
    let acc : Acc := { op := .atom .add .d .ar .pod, ea := BitVec.ofNat 64 va, x := 1, y := 0, d := 0, k := 7, l := 0 }
    let (s, pk) := sendPacket s (atomPacketOf sn.job false p 0x3FF acc)
    { s with engAsks := s.engAsks ++ [{ dst := p, seq := pk.seq, op := balOp, va := va, n := 0, recVa := sn.recVa }] }
  | (s, .held) => { s with snap := some { sn with phase := 1 } }
  | (s, .bad c) => { sliceFault s sn c va with snap := some { sn with phase := 1 } }

/-- Some parts put one after another until one is not there. -/
def putParts : List (Nat × Nat × List Byte) → State → State × Bool
  | [], s => (s, true)
  | (kind, va, bs) :: r, s => match putPart s kind va 8 (soundGrans bs) with
    | (s, true) => putParts r s
    | (s, false) => (s, false)

/-- SNAPSHOT_DONE: balanced, every page COPIED and every context in the slice, the package writes its channel log, words, record of the job
and manifest part, and raises BALCOUNT (R345, R347). -/
def execSnapshotDone (job : Nat) (s : State) : Host.Outcome State Fault Refusal :=
  .next (match s.snap with
    | none => s
    | some sn =>
      if sn.job != job || sn.phase != 1 || !sn.pages.isEmpty || sn.ctxs.any (fun c => !c.moved) || !balanced s sn then s
      else
        let ps := jobPkgs s job
        let pos := ps.findIdx fun p => p == s.pkg
        let low := ps.head? == some s.pkg
        let image := sn.image.flatMap fun x => leBytes x.1 8 ++ leBytes x.2.toNat 8
        let none_ := sn.ctxs.isEmpty && sn.grids.isEmpty && sn.subs.isEmpty && sn.units.isEmpty
        let items : List (Nat × Nat × List Byte) :=
          (if low then [(2, 0, image)] else []) ++ (if sn.log.isEmpty then [] else [(3, 0, logBytes sn.log)])
            ++ if none_ then [] else [(4, 0, itemBytes (wJob s.nextId sn))]
        match putParts items s with
        | (s, false) => { s with snap := if s.snap.any (fun x => x.phase == 4) then s.snap else some sn }
        | (s, true) => match s.snap with
          | none => s
          | some sn1 =>
            let bs := sn1.parts.flatMap partBytes
            match sliceTake s sn1 bs.length 8 with
            | (s, none) => s
            | (s2, some loc) =>
              let entry := leBytes loc 8 ++ leBytes sn1.parts.length 8
              let (s2, f1) := slicePut job sn.epoch (bs.length + 1) loc (soundGrans bs) s2
              let (s2, f2) := slicePut job sn.epoch 3 (sn.partsVa + 16 * pos) (soundGrans entry) s2
              let (s2, f3) := if low then slicePut job sn.epoch 9 sn.manif (soundGrans (headerBytes sn ps.length)) s2 else (s2, none)
              match f1.or (f2.or f3) with
              | some (c, a) => { sliceFault s2 sn c a with snap := some sn }
              | none => raiseBal { s2 with snap := s2.snap.map fun (x : Snap) => { x with phase := 2 } } { sn1 with phase := 2 })

/- Commit and abort (R346, R436). -/

/-- This package is the lowest-numbered of the job that is not lost. -/
def lowestOf (s : State) (job : Nat) : Bool := ((jobPkgs s job).filter fun p => !s.lost.contains p).head? == some s.pkg

/-- The package that decrements SIGNAL: the one whose SNAP opened the epoch, or, where it is lost, the job's lowest (DEDUCED, log 22). -/
def snapSigner (s : State) (sn : Snap) : Bool :=
  if s.lost.contains sn.snapper then lowestOf s sn.job else sn.snapper == s.pkg

/-- SNAPCOMMIT of KIND 0: the epoch is committed (R346). -/
def commitEpoch (s : State) (seq job epoch : Nat) : State :=
  let w := s.jobWord job 3
  if snapSt w != 1 || snapEpoch w != epoch then s
  else
    let s := setWord s (0x50003 + 4 * job) (mkSnap epoch 0)
    let s := match s.snap with
      | some sn =>
        if sn.job != job then s
        else
          let s := setLeaves s job fun _ e => if pteSnap e == 2 then some (pteSet e 21 20 0) else none
          let s := { s with snap := none, saves := s.saves ++ [sn] }
          if snapSigner s sn then signalDone s job false sn.signal 0 else s
      | none => s
    snapNext (snapwaitsAgain s job) seq

/-- The epoch is abandoned at every package of the job (R436). -/
def abortEpoch (s : State) (seq job epoch : Nat) : State :=
  let w := s.jobWord job 3
  if snapSt w != 1 || snapEpoch w != epoch then s
  else
    let s := setWord s (0x50003 + 4 * job) (mkSnap epoch 2)
    let s := { s with saves := s.saves.filter fun x => !(x.job == job && x.epoch == epoch) }
    let s := match s.snap with
      | some sn =>
        if sn.job != job then s
        else
          let s := if sn.phase == 0 then
              let new := epoch % 2 == 1
              let reset (t : Tab Nat) : Tab Nat := t.filter fun x => x.1 % 2 != b2n new
              unhaltJob { s with snap := none, colour := new, sentTo := reset s.sentTo, recvFrom := reset s.recvFrom } job
            else { s with snap := none }
          let s := if sn.snapper == s.pkg && sn.phase == 0 then snapDone s job sn.recVa epoch (BitVec.ofNat 64 epoch) else s
          let s := setLeaves s job fun _ e => if pteSnap e != 0 then some (pteSet (pteSet e 21 20 0) 28 28 1) else none
          let s := { s with cores := s.cores.map fun (c : Nat × Core) =>
            (c.1, { c.2 with held := c.2.held.filter fun h => h.1 < 2 ^ 40, snapHeld := false }) }
          let s := if lowestOf s job && sn.manif != 0 then
              (engPuts (sysBy job sn.manif) (2 ^ 46) [(sn.manif, leBytes 0 4, 0)] s).1 else s
          let s := if snapSigner s sn then signalDone s job false sn.signal 3 else s
          dispatchAll (wakeAll s)
      | none => s
    snapNext (snapwaitsAgain s job) seq

end Sys2Proof.Machine
end

