-- ==== Sys2Proof/Machine/Requests.lean ====
section
/-! DEFINITION. Request packets performed at this package (R65, R66, R76, R77, R315, R318, R401, R455, R456): translation of what they
name, forwarding to the holder of a page, writes, reads, flags, atomics, shootdowns, placement copies, chunks and log packets. -/

namespace Sys2Proof.Machine

open Sys2Proof

/-- TSPEC bytes 62:55 of an answer: the holder's leaf entry (log 18). -/
def leafFs (e : Word) : List (Nat × Nat × Nat) := [(23, 8, e.toNat)]

/-- VA of entry e of a packet (R315). -/
def entryVa (p : Packet) (e : Nat) : Nat :=
  if p.typ == 2 || p.typ == 4 then p.base.toNat + (p.offs.getD e 0).toNat else p.base.toNat + 8 * e

/-- Entries of a request. -/
def entryCount (p : Packet) : Nat :=
  match p.typ with
  | 3 => min 32 (tfield p 0 4)
  | 6 | 8 => 1
  | _ => min 32 p.n

/-- The atomic operation number of an ATOM (log 15). -/
def atomCode (p : Packet) : Nat := tfield p 0 1

/-- The request writes. -/
def reqWrites (p : Packet) : Bool :=
  p.typ == 1 || p.typ == 2 || p.typ == 6 || (p.typ == 8 && !([20, 21, 24].contains (atomCode p)))

/-- Where one entry goes: as `translate`, and whether the package it goes to is to place the page (R66). -/
def ingressLoc (s : State) (p : Packet) (va : Nat) (write : Bool) : State × XRes × Bool :=
  if va / 2 ^ 56 == 1 || p.job == 0 then
    let (s, r) := translateGen false s 0 p.job [] va write p.user
    (s, r, false)
  else match agentLookup s 0 p.job va with
    | (s, .error c) => (s, .bad c, false)
    | (s, .ok e) =>
      if pteP e then (s, pteRes s e va write p.user, false)
      else if tfield p 31 1 == 1 || (directoryOf s p.job va == s.pkg && p.src == s.pkg) then
        match firstTouch s 0 p.job va with
        | (s, .error c) => (s, .bad c, false)
        | (s, .ok e) => (s, pteRes s e va write p.user, false)
      else if directoryOf s p.job va != s.pkg then (s, .away (directoryOf s p.job va), false)
      else if s.fwds.any fun f => f.touch && f.orig.job == p.job && f.orig.base.toNat / 2 ^ 16 == va / 2 ^ 16 then (s, .held, false)
      else (s, .away p.src, true)

/-- Every entry's place. -/
def reqLocs (s : State) (p : Packet) : State × List (Nat × Nat × XRes × Bool) :=
  (List.range (entryCount p)).foldl (fun (x : State × List (Nat × Nat × XRes × Bool)) e =>
    let va := entryVa p e
    let (s, r) := ingressLoc x.1 p va (reqWrites p)
    (s, x.2 ++ [(e, va, r)])) (s, [])

/-- A request sent on to the holder of its page, or to the requester as the page's first toucher (R66, R455). -/
def forwardReq (s : State) (p : Packet) (q : Nat) (touch : Bool) : State :=
  let (s, f) := sendPacket s { p with
    dst := q, vc := 0, score := 0x3FF, host := false, hjob := 0, pen := p.typ == 6
    tspec := BitVec.ofNat 256 (p.tspec.toNat % 2 ^ 248 + b2n touch <<< 248) }
  { s with fwds := s.fwds ++ [{ orig := p, dst := q, seq := f.seq, touch := touch }] }

/- Writes (R76, R77). -/

/-- The grid that holds a core of a package by its lease row; 2^32 where none does. -/
def gridOfCore (s : State) (pkg core : Nat) : Nat :=
  ((leaseRows s).find? fun x => rowSt x.2 == 1 && rowPkg x.2 == pkg && rowFirst x.2 ≤ core && core ≤ rowLast x.2).elim (2 ^ 32) fun x => rowGrid x.2

/-- One written granule: a fault code where its old seal is bad, and whether its own seal is, so that it is never performed (R77, R410). -/
def writeEntry (s : State) (p : Packet) (e va pa : Nat) : State × Option Nat × Bool :=
  let d := leBytes (p.data.getD e 0).toNat 8
  let m := (p.masks.getD e 0).toNat
  let sl := p.seals.getD e 0
  let q := pa / 8
  let tag := va / 8 * 8
  if m == 0 then (s, none, false)
  else if m == 255 then
    let old := s.mem
    let s := noteOperand s s.nextId q 1
    (afterWrite { s with mem := s.mem.putGranule q d (sl ^^^ seal8 d tag) } old (8 * q) 8, none, false)
  else
    let md := d.zipIdx.map fun x => if bitOf m x.2 then x.1 else 0
    if seal8 md tag != sl then
      let det := BitVec.ofNat 64 ((seal8 md tag).toNat + sl.toNat <<< 8 + 5 <<< 16)
      (queueRec s (homeDie pa) (unitRec s 0x0505 (BitVec.ofNat 64 tag) det (gridOfCore s p.src p.score % 2 ^ 16) p.job), none, true)
    else if s.mem.err q != 0 then (s, some 0x0502, false)
    else
      let old := s.mem.read (8 * q) 8
      (memPut s (8 * q) (d.zipIdx.map fun x => if bitOf m x.2 then x.1 else old.getD x.2 0), none, false)

/-- What the entries of a request came to: first fault code, mask of faulting entries, whether one is held for ever. -/
structure Tally where
  code : Nat
  mask : Nat
  hold : Bool
  deriving DecidableEq, Repr, Inhabited

def Tally.fault (t : Tally) (e code : Nat) : Tally := { t with code := if t.mask == 0 then code else t.code, mask := t.mask + 2 ^ e }

/-- The access counted at its home once (R68), with DSM set before a write (R344). -/
def countReq (s : State) (p : Packet) (ls : List (Nat × Nat × XRes × Bool)) : State :=
  match ls.findSome? fun x => match x.2.2.1 with
      | .here pa e => some (x.2.1, pa, e)
      | _ => none with
  | some (va, pa, e) => noteHeat s p.job va pa e p.src (reqWrites p)
  | none => s

/-- The leaf entry a request's first granule was found by. -/
def leafIn (ls : List (Nat × Nat × XRes × Bool)) : Word :=
  (ls.findSome? fun x => match x.2.2.1 with
    | .here _ e => some e
    | _ => none).getD 0

/-- A WRITE, VWRITE or FLAG performed in entry order and answered (R316, R318, R410, R456). -/
def performWrites (s : State) (p : Packet) (ls : List (Nat × Nat × XRes × Bool)) : State :=
  let s := match ls.head? with
    | some x => noteDsm s p.job x.2.1
    | none => s
  let (s, t) := ls.foldl (fun (x : State × Tally) l =>
    match l.2.2.1 with
    | .here pa _ =>
      if p.typ == 6 then
        (if l.2.1 % 8 != 0 then (x.1, x.2.fault l.1 0x0408) else (memPut x.1 pa (leBytes (tfield p 0 8) 8), x.2))
      else (match writeEntry x.1 p l.1 l.2.1 pa with
        | (s, some c, _) => (s, x.2.fault l.1 c)
        | (s, none, h) => (s, { x.2 with hold := x.2.hold || h }))
    | .bad c => (x.1, x.2.fault l.1 c)
    | _ => x) (s, ({ code := 0, mask := 0, hold := false } : Tally))
  let s := countReq s p ls
  if t.mask != 0 then answer s p 7 (ackFs p 2 t.code t.mask) [] []
  else if t.hold then { s with withheld := s.withheld ++ [(gridOfCore s p.src p.score, p.job, p)] }
  else answer s p 7 (ackFs p 0 0 0 ++ leafFs (leafIn ls)) [] []

/-- A READ or VREAD performed: granules with the seals they carry (R76, R315). -/
def performReads (s : State) (p : Packet) (ls : List (Nat × Nat × XRes × Bool)) : State :=
  let t := ls.foldl (fun (t : Tally) l => match l.2.2.1 with
    | .bad c => t.fault l.1 c
    | _ => t) ({ code := 0, mask := 0, hold := false } : Tally)
  if t.mask != 0 then answer s p 7 (ackFs p 2 t.code t.mask) [] []
  else
    let gs := ls.map fun l => match l.2.2.1 with
      | .here pa _ => (s.mem.read (pa / 8 * 8) 8, seal8 (s.mem.read (pa / 8 * 8) 8) (l.2.1 / 8 * 8) ^^^ s.mem.err (pa / 8))
      | _ => (List.replicate 8 0, 0)
    answer (countReq s p ls) p 5 (dataFs p ++ leafFs (leafIn ls)) (gs.map fun g => BitVec.ofNat 64 (leNat g.1)) (gs.map fun g => g.2)

/- Atomics (R221, R232, R233, R259). -/

/-- Bytes an ATOM touches. -/
def atomSize (p : Packet) : Nat :=
  let c := atomCode p
  if c == 8 then 4 else if c ≤ 7 then (if tfield p 1 1 % 2 == 1 then 4 else 8) else if c == 32 then 16 else if 33 ≤ c && c ≤ 35 then 4 else 8

def atomOf : Nat → AtomOp
  | 0 => .add | 1 => .min | 2 => .max | 3 => .and | 4 => .or | 5 => .xor | 6 => .xch | 7 => .cas | _ => .addf
def atomTyOf : Nat → AtomTy
  | 0 => .d | 1 => .w | 2 => .du | _ => .wu

/-- A walk's combine on memory with the element as the sender has formed it (R259): the new bytes, MISM and AOV. -/
def combineRem (code v : Nat) (m : List Byte) : List Byte × Nat :=
  let old := leNat m
  match code with
  | 32 =>
    let x := combineAt .a96 (sgn 16 (v / 2 ^ 96 % 2 ^ 16)) (sgn 96 (v % 2 ^ 96), v / 2 ^ 112 % 4) m
    (x.1, b2n x.2.1 + b2n x.2.2.1 <<< 1)
  | 33 => (leBytes ((old + v) % 2 ^ 32) 4, 0)
  | c =>
    let better := if c == 34 then key32 old < key32 (v % 2 ^ 32) else key32 (v % 2 ^ 32) < key32 old
    let x := if better then v % 2 ^ 32 else old
    (leBytes (if (ffS.val x).isNan then ffS.nanC else x) 4, 0)

/-- An ATOM performed at its home slice and answered; a SIGWAIT that is not satisfied waits there for its answer. -/
def performAtom (s : State) (p : Packet) (va pa : Nat) (e : Word) : State :=
  let code := atomCode p
  let n := atomSize p
  let x := tfield p 8 8
  let y := tfield p 16 8
  let say (s : State) (old flags : Nat) : State := answer s p 9 (atomrFs p old flags ++ leafFs e) [] []
  if va % (min 8 n) != 0 then answer s p 7 (ackFs p 2 0x0408 1) [] []
  else if code != 25 && s.mem.bad pa n then answer s p 7 (ackFs p 2 0x0503 1) [] []
  else
    let s := if reqWrites p then noteDsm s p.job va else s
    let heat (s : State) : State := noteHeat s p.job va pa e p.src (reqWrites p)
    let old := s.mem.num pa n
    let w := BitVec.ofNat 64 (s.mem.num pa 8)
    let sig (o : SigOp) : State := heat (signalPut s pa (sigNew o w (BitVec.ofNat 64 x)))
    match code with
    | 16 => say (sig .dec) w.toNat 0
    | 17 => say (sig .inc) w.toNat 0
    | 18 => say (sig .set) w.toNat 0
    | 19 => say (heat (signalPut s pa (sigDone w (x % 8)))) w.toNat 0
    | 20 =>
      if sigMet w (sigCount (BitVec.ofNat 64 x)) then say (heat s) w.toNat 0
      else
        let acc : Acc := { op := .sigwait .none .blk, ea := BitVec.ofNat 64 va, x := BitVec.ofNat 64 x, y := 0, d := 0, k := 7, l := 0 }
        let q : Pend := { id := s.nextId, who := { grid := 2 ^ 41, bidx := p.src, tid := 0 }, tok := 7, acc := acc
                          kind := .signal pa .none .blk (sigCount (BitVec.ofNat 64 x)), hdr := 0, idx := 0, aged := 0, mem := false }
        heat { s with pend := s.pend ++ [q], nextId := s.nextId + 1, remWaits := s.remWaits ++ [(q.id, p)] }
    | 21 =>
      if 4096 ≤ (s.die (homeDie pa)).arms.length then answer s p 7 (ackFs p 2 0x0807 1) [] []
      else
        say (heat (armEntry s { obj := pa, job := p.job, user := p.user, t := sigCount (BitVec.ofNat 64 x), kind := bits y 63 61
                                addr := y % 2 ^ 57 })) w.toNat 0
    | 48 =>
      let st := old % 256
      say (heat (if st == 0 || st == 3 || st == 4 then memPut s pa [1] else s)) old 0
    | 24 => say (heat s) w.toNat 0
    | 25 => say (heat (signalPut s pa (BitVec.ofNat 64 x))) w.toNat 0
    | 32 | 33 | 34 | 35 =>
      let r := combineRem code (tfield p 8 16) (s.mem.read pa n)
      say (heat (memPut s pa r.1)) 0 r.2
    | c => say (heat (memPut s pa (leBytes (atomNew (atomOf c) (atomTyOf (tfield p 1 1)) old (x % 2 ^ (8 * n)) (y % 2 ^ (8 * n))) n))) old 0

/- Placement copies that come here (R70). -/

/-- A packet of a placement copy: the first one takes the frame, the last one makes the entry LOCAL or REPLICA (R70, R344); an empty ring
is answered with MEMORY cause 0x02 (R409). -/
def performMove (s : State) (p : Packet) : State :=
  let page := p.base.toNat / 2 ^ 16
  let is (i : Incoming) : Bool := i.job == p.job && i.page == page
  let repl := tfield p 31 1 == 3
  let s := if s.incoming.any is || p.base.toNat % 2 ^ 16 != 0 then s
    else match takeFrame s s.ringOf with
      | none => s
      | some (fr, s) => { s with incoming := s.incoming ++ [{ job := p.job, page := page, frame := fr, count := 0 }] }
  match s.incoming.find? is with
  | none => answer s p 7 (ackFs p 2 0x0602 (2 ^ p.n - 1)) [] []
  | some i =>
    let q0 := (i.frame * 2 ^ 16 + p.base.toNat % 2 ^ 16) / 8
    let s := { s with
      mem := (List.range p.n).foldl (fun m k =>
        let d := leBytes (p.data.getD k 0).toNat 8
        m.putGranule (q0 + k) d (p.seals.getD k 0 ^^^ seal8 d (p.base.toNat + 8 * k))) s.mem }
    let s := if i.count + 1 < 256 then
        { s with incoming := s.incoming.map fun (x : Incoming) => if is x then { x with count := x.count + 1 } else x }
      else
        let e := BitVec.ofNat 64 (tfield p 23 8)
        let e := pteSet (pteSet (pteSet (pteSet e 63 52 s.pkg) 51 29 i.frame) 23 22 (if repl then 1 else 0)) 0 0 1
        let e := if repl then e else pteSet e 28 28 1
        shootHere (setLeaf { s with incoming := s.incoming.filter fun x => !is x } p.job page fun _ => e) p.job page
    answer s p 7 (ackFs p 0 0 0) [] []

/-- A LOG packet: granules put into this package's part of the area (R343). -/
def performLog (s : State) (p : Packet) : State :=
  (List.range p.n).foldl (fun s k =>
    let va := p.base.toNat + 8 * k
    let d := leBytes (p.data.getD k 0).toNat 8
    match translate s 0 p.job [] va true false with
    | (s, .here pa _) => { s with mem := s.mem.putGranule (pa / 8) d (p.seals.getD k 0 ^^^ seal8 d va) }
    | (s, _) => s) s

/-- A request performed and answered, or sent on; none where it must wait (R65, R66, R343, R455). -/
def performReq (s : State) (p : Packet) : Option State :=
  if p.typ == 10 || p.typ == 11 then
    let s := if 4 ≤ tfield p 14 1 then exchArrive s p else collArrive s p
    some (answer s p 7 (ackFs p 0 0 0) [] [])
  else if p.typ == 13 then some (performLog s p)
  else if p.typ == 8 && atomCode p == 40 then
    some (answer (shootHere (setLeaf s p.job (p.base.toNat / 2 ^ 16) fun e => if ptePlace e == 2 then pteSet e 63 52 (tfield p 8 8) else e)
      p.job (p.base.toNat / 2 ^ 16)) p 9 (atomrFs p 0 0) [] [])
  else if p.typ == 8 && atomCode p == 41 then
    some (answer (shootAny s (p.base.toNat / 2 ^ 16) (fun _ => true) fun _ => true) p 9 (atomrFs p 0 0) [] [])
  else if p.typ == 1 && (tfield p 31 1 == 2 || tfield p 31 1 == 3) then some (performMove s p)
  else
    let (s, ls) := reqLocs s p
    if ls.any fun l => l.2.2.1 == .held then none
    else match ls.findSome? fun l => match l.2.2 with
        | (.away q, t) => some (q, t)
        | _ => none with
      | some (q, t) => some (forwardReq s p q t)
      | none =>
        if reqWrites p && ls.any (fun l => writeHeld s p.job l.2.1) then none
        else if p.typ == 3 || p.typ == 4 then some (performReads s p ls)
        else if p.typ == 8 then
          some (match ls.head? with
            | some (_, va, .here pa e, _) => performAtom s p va pa e
            | some (_, _, .bad c, _) => answer s p 7 (ackFs p 2 c 1) [] []
            | _ => s)
        else some (performWrites s p ls)

/- The order of performing (R318, R343, R455). -/

/-- Two packets name one page. -/
def sameReqPage (p q : Packet) : Bool := p.job == q.job && p.base.toNat / 2 ^ 16 == q.base.toNat / 2 ^ 16

/-- A delivered request waits for an earlier one: a pennant packet for all of its source, a page's packets of one source in order, its
writes in the order of their arrival; one that has been sent on stands until its answer is back. -/
def reqBlocked (s : State) (before : List Packet) (p : Packet) : Bool :=
  (before.any fun q => (q.src == p.src && q.typ != 13 && (p.pen || sameReqPage p q)) || (reqWrites p && sameReqPage p q))
  || s.fwds.any fun f => f.orig.src == p.src && (p.pen || sameReqPage p f.orig)

/-- One pass over the delivered requests, in the order of delivery: those that can be are performed. -/
def inboxPass : List Packet → List Packet → State → State
  | [], _, s => s
  | p :: r, before, s =>
    if reqBlocked s before p then inboxPass r (before ++ [p]) s
    else match performReq s p with
      | some s => inboxPass r before { s with inbox := s.inbox.filter fun q => q != p }
      | none => inboxPass r (before ++ [p]) s

end Sys2Proof.Machine
end

