-- ==== Sys2Proof/Machine/Answers.lean ====
section
/-! DEFINITION. Answers to this package's requests (R210, R315, R318, R319, R432 to R434, R455, R456): acknowledgement counts, installed entries, stores
performed, loads and atomics that get their values, engine granules, and accesses that faulted at another package. -/

namespace Sys2Proof.Machine

open Sys2Proof

/- Acknowledgement counts (R319). -/

/-- ACKP of a path raised over the packets already acknowledged. -/
def advanceAck (path : Nat) : Nat → Core → Core
  | 0, k => k
  | n + 1, k =>
    let a := k.ackp.getD path 0
    if k.acked.contains (path, a) then
      advanceAck path n { k with ackp := k.ackp.set path ((a + 1) % 2 ^ 32), acked := k.acked.filter fun x => x != (path, a) }
    else k

/-- A core's packet is acknowledged (R319). -/
def countAck (s : State) (p : Packet) : State :=
  if p.score ≥ 832 || 2 ^ 31 ≤ (p.pser + 2 ^ 32 - (s.core p.score).ackp.getD p.path 0) % 2 ^ 32 then s
  else s.updCore p.score fun k =>
    let k := { k with acked := if k.acked.contains (p.path, p.pser) then k.acked else k.acked ++ [(p.path, p.pser)] }
    advanceAck p.path k.acked.length k

/-- PSER and path an answer acknowledges (R315). -/
def answerOf (a : Packet) : Nat × Nat :=
  if a.typ == 9 then (tfield a 8 4, tfield a 12 1) else (tfield a 0 4, tfield a 4 1)

/-- The kept request an answer belongs to (R318). -/
def keptFor (s : State) (a : Packet) : Option Kept :=
  s.retained.find? fun k => k.p.dst == a.src && k.p.score == a.score && (k.p.pser, k.p.path) == answerOf a

/-- The entry an answer installs: REMOTE at its holder (R66, R455). -/
def installEntry (s : State) (k a : Packet) : State :=
  let e := BitVec.ofNat 64 (tfield a 23 8)
  if tfield a 31 1 != 1 || !pteP e || ptePkg e == s.pkg then s
  else
    let page := k.base.toNat / 2 ^ 16
    shootHere (setLeaf s k.job page fun _ => pteSet (pteSet (pteSet e 23 22 2) 21 20 0) 28 28 0) k.job page

/-- The stores a packet carried are performed: they leave their threads' store counts, and the operation's list (R210); an .ord store of which no
piece is left is finished (R225). -/
def storesDone (s : State) (k : Packet) : State :=
  match s.inFlight.find? fun f => f.1 == k.dst && f.2.1 == k.seq with
  | none => s
  | some f =>
    f.2.2.whos.foldl (fun s w => if w.2.grid < 2 ^ 40 then remoteDone s w.2 w.1 else s)
      { s with inFlight := s.inFlight.filter fun g => !(g.1 == k.dst && g.2.1 == k.seq) }

/-- The ticket of an .ord operation, with its die. -/
def ticketAt (s : State) (who : Tref) (id : Nat) : Option (Nat × Ticket) :=
  (List.range 4).findSome? fun d => ((s.die d).tickets.find? fun t => t.id == id && t.who == who).map fun t => (d, t)

/-- The stores a packet carried are dropped: an .ord store among them stops its grid's order (R456, R457). -/
def storesLost (s : State) (k : Packet) : State :=
  let ord := (s.inFlight.filter fun f => f.1 == k.dst && f.2.1 == k.seq).flatMap fun f =>
    (f.2.2.whos.filter fun w => (ticketAt s w.2 w.1).isSome).map fun w => w.2.grid
  if ord.isEmpty then storesDone s k
  else
    let s := { s with inFlight := s.inFlight.filter fun g => !(g.1 == k.dst && g.2.1 == k.seq) }
    { s with grids := s.grids.map fun (g : Grid) => if ord.contains g.handle then { g with ordTok := some 0 } else g }

/- Faulted accesses (R456). -/

/-- Who issued an engine operation. -/
def opBy (s : State) (op : Nat) : Option EngBy :=
  ((s.xfers.find? fun x => x.op == op).map fun x => x.by_).or
    (((s.copies.find? fun c => c.op == op).map fun c => c.by_).or
      (((s.colls.find? fun c => c.op == op).map fun c => c.by_).or
        (((s.rebuilds.find? fun r => r.op == op).map fun r => r.by_).or
          ((s.entries.find? fun e => e.id == op).map fun e => e.by_))))

/-- Outstanding results that wait for the answer. -/
def waitsFor (k : Packet) (p : Pend) : Bool :=
  match p.kind with
  | .remote asks _ => asks.contains (k.dst, k.seq)
  | _ => false

/-- Engine operations the packet belongs to. -/
def packetOps (s : State) (k : Packet) : List Nat :=
  ((s.engAsks.filter fun a => a.dst == k.dst && a.seq == k.seq).map fun a => a.op)
    ++ (s.inFlight.filter fun f => f.1 == k.dst && f.2.1 == k.seq).flatMap fun f =>
      (f.2.2.whos.filter fun w => w.2.grid == 2 ^ 40).map fun w => w.1

/-- The staged entry whose application at another package a packet is (R224). -/
def flushEntry (s : State) (k : Packet) : Option (Grid × Staged) :=
  (s.grids.find? fun g => g.flushSent == some (k.dst, k.seq)).bind fun g => (turnBatch s g).bind fun t =>
    ((batchOf s g.handle t.2 t.1).head?).map fun e => (g, e.2)

/-- The threads whose stores or accesses a packet carries. -/
def packetThreads (s : State) (k : Packet) : List Tref :=
  ((s.inFlight.filter fun f => f.1 == k.dst && f.2.1 == k.seq).flatMap fun f =>
      (f.2.2.whos.filter fun w => w.2.grid < 2 ^ 40).map fun w => w.2)
    ++ ((s.pend.filter (waitsFor k)).map fun p => p.who) ++ ((flushEntry s k).map fun x => x.2.who).toList

/-- Access kind of a packet's record (R402). -/
def packetKind (s : State) (k : Packet) : Nat :=
  match s.pend.find? (waitsFor k) with
  | some p => p.acc.op.kind
  | none => if k.score == 0x3FF then 7 else if k.typ == 2 then 6 else if k.typ == 8 then 2 else 1

/-- The record of an access that faulted at another package, with the lowest TID among its threads (R456). The seals of a SEAL record are free:
the answer that names the fault does not carry them (R315, R410; DESIGN CHOICE, log 10). -/
def remoteRec (s : State) (k : Packet) (code va : Nat) : FRec :=
  let ts := sortBy (fun (a b : Tref) => a.tid ≤ b.tid) (packetThreads s k)
  let det : Word :=
    if code / 256 == 5 then BitVec.ofNat 64 ((Config.freeWord s.free).toNat % 2 ^ 16 + (code % 256) <<< 16) else BitVec.ofNat 64 (packetKind s k)
  let r := unitRec s code (BitVec.ofNat 64 va) det 0 k.job
  match ts.head?, (packetOps s k).findSome? (opBy s) with
  | some t, _ => { r with core := k.score, tid := t.tid, grid := t.grid, bidx := t.bidx }
  | none, some e => { r with core := e.core, tid := e.tid, grid := e.grid, bidx := e.bidx
                             detail := if code / 256 == 5 then det else engDetail e }
  | none, none => { r with core := k.score }

/-- Lowest set bit of a mask below 32. -/
def lowBit (mask : Nat) : Nat := ((List.range 32).find? fun i => bitOf mask i).getD 0

/-- The faulting entries alone; a read or an atomic is sent again whole. -/
def heldPacket (k : Packet) (mask : Nat) : Packet :=
  if k.typ == 1 || k.typ == 2 then { k with masks := k.masks.zipIdx.map fun x => if bitOf mask x.2 then x.1 else 0 } else k

/-- A rung-1 fault: the entries are held on a wait-table entry of the requester's die (R456). `det`: DETAIL where the requester is the one that
found the fault. -/
def holdRemote (s : State) (k : Packet) (code mask : Nat) (det : Option Word) : State :=
  let die := if k.score < 832 then dieOf k.score else 0
  let va := entryVa k (lowBit mask)
  let r := remoteRec s k code va
  let r := { r with detail := det.getD r.detail }
  let s := { s with free := s.free + 1 }
  let (s, tok, new) := waitEntry s die k.job (va / 2 ^ 16)
  let s := { s with remHeld := s.remHeld ++ [(tok, heldPacket k mask)] }
  if new then queueRec s die { r with flags := 1, token := tok, entry := some (bits tok 29 20) } else s

/-- An engine operation completes with FAULT (R403). -/
def opFail (s : State) (op : Nat) : State :=
  match s.xfers.find? fun x => x.op == op with
  | some x => xferEnd s x 3
  | none => match s.copies.find? fun c => c.op == op with
    | some c => if c.stage == 0 then copyClose s c 4 3 else copyOver s c (if c.ends == some (4, 1) then 1 else 3)
    | none => match s.colls.find? fun c => c.op == op with
      | some c => collFail s c 3
      | none => match s.rebuilds.find? fun r => r.op == op with
        | some r => engDone { s with rebuilds := s.rebuilds.filter fun x => x.op != r.op } r.op fun _ => []
        | none => match s.entries.find? fun e => e.id == op with
          | some e => entryDone (setProg s e 0) e fun _ => []
          | none => s

/-- What stands for granules that a package's own read could not get: bytes whose record is invalid and whose signal word shows FAULT. -/
def lostGranules (op va n : Nat) : List (Nat × Nat × List (Byte × Byte)) :=
  (List.range n).map fun i => (op, va / 8 + i, List.replicate 8 (if op == dispOp then 0xB0 else 0, 0))

/-- The group whose acceptance reads have an operation number. -/
def acceptGroup (s : State) (op : Nat) : Option (Block × Group) :=
  s.blocks.findSome? fun b => (b.groups.find? fun g => acceptOp g == op || startOp g == op).map fun g => (b, g)

/-- A rung-3 fault of an engine's read. -/
def askFailed (s : State) (a : EngAsk) (code : Nat) : State :=
  match acceptGroup s a.op with
  | some (b, g) => match (activeLanes b g).head? with
    | some (_, th) =>
      (parkLanes s b g [{ tid := th.tid, code := code, addr := a.va
                          detail := BitVec.ofNat 64 (7 + (a.recVa % 2 ^ 57) <<< 4)
                          acc := { op := .reissue, ea := 0, x := 0, y := 0, d := 0, k := 7, l := 0 } }]).1
    | none => s
  | none => if a.op < 2 ^ 40 then opFail s a.op else { s with engGot := s.engGot ++ lostGranules a.op a.va a.n }

/-- A SIGARM that another package's full arm table refuses traps its thread (R233, R394). -/
def armRefused (s : State) (p : Pend) : State :=
  match s.block? p.who.grid p.who.bidx with
  | none => s
  | some b => match b.thread? p.who.tid with
    | none => s
    | some th =>
      let gid := ((b.groups.find? fun g => (g.member? th.tid).isSome).map fun g => g.gid).getD 0
      let s := complete s p [] 0
      settleGroup (trapOrPark (dieOf b.core) (threadRec s b p.hdr p.idx th.tid 0x0807 0 p.acc.ea 1) gid (fun _ => th.pc) [th] s 0) b.grid b.bidx gid

/-- A rung-3 fault: one record, the entries dropped, the packet counted as acknowledged (R456). -/
def dropRemote (s : State) (k : Packet) (code mask : Nat) : State :=
  let die := if k.score < 832 then dieOf k.score else 0
  let asks := s.engAsks.filter fun a => a.dst == k.dst && a.seq == k.seq
  let lanes := s.pend.filter (waitsFor k)
  let ops := (s.inFlight.filter fun f => f.1 == k.dst && f.2.1 == k.seq).flatMap fun f =>
    (f.2.2.whos.filter fun w => w.2.grid == 2 ^ 40).map fun w => w.1
  let isLine (x : Nat × Nat × Nat) : Bool := x.2.2 == 2 ^ 32 * k.dst + k.seq
  let isRec := !(s.lineAsks.any isLine) && !(asks.any fun a => (acceptGroup s a.op).isSome)
  let flag := if lanes.isEmpty then 0 else 1
  let arm := code == 0x0807 && !lanes.isEmpty
  let s := if isRec && !arm then queueRec s die { remoteRec s k code (entryVa k (lowBit mask)) with flags := flag } else s
  let s := { s with
    engAsks := s.engAsks.filter fun a => !(a.dst == k.dst && a.seq == k.seq)
    lines := s.lines ++ (s.lineAsks.filter isLine).map fun x => (x.1, x.2.1, leBytes code 2)
    lineAsks := s.lineAsks.filter fun x => !isLine x }
  -- a staged entry's or an .ord operation's stops its order until the grid is decided (R457)
  let stop := ((flushEntry s k).map fun x => x.1.handle).toList
  let ord := (lanes.filter fun p => (ticketAt s p.who p.id).isSome).map fun p => p.who.grid
  let s := { s with grids := s.grids.map fun (g : Grid) =>
    { g with flushTok := if stop.contains g.handle then some 0 else g.flushTok
             flushSent := if stop.contains g.handle then none else g.flushSent
             ordTok := if ord.contains g.handle then some 0 else g.ordTok } }
  let s := storesLost s k
  let s := lanes.foldl (if arm then armRefused else parkDropped) s
  let s := asks.foldl (fun s a => askFailed s a code) s
  countAck { ops.foldl opFail s with free := (ops.foldl opFail s).free + 1 } k

/- Values that come (R137, R211, R214, R221). -/

/-- The bytes a DATA answer holds, by address. -/
def dataBytes (k a : Packet) : List (Nat × Byte) :=
  (List.range a.n).flatMap fun i => (leBytes (a.data.getD i 0).toNat 8).zipIdx.map fun x => (entryVa k i / 8 * 8 + x.2, x.1)

/-- Syndrome of granule i of a DATA answer. -/
def dataErr (k a : Packet) (i : Nat) : Byte :=
  seal8 (leBytes (a.data.getD i 0).toNat 8) (entryVa k i / 8 * 8) ^^^ a.seals.getD i 0

/-- A byte among those that have come. -/
def gotByte (got : List (Nat × Byte)) (va : Nat) : Byte := ((got.find? fun x => x.1 == va).map fun x => x.2).getD 0

/-- The value of a load whose bytes have all come, or its fault: an LDF from a page that does not fit (R61, R214). -/
def loadRes (s : State) (die : Nat) (p : Pend) (got : List (Nat × Byte)) (e : Word) : Except Nat (Word × BitVec 6) :=
  let ea := p.acc.ea.toNat
  let take (va n : Nat) : List Byte := ownBytes s p.who die p.id va ((List.range n).map fun i => gotByte got (va + i))
  match p.acc.op with
  | .ldf bf =>
    if !ldfFits (pteFmt e) (pteGeom e) then .error 0x0409
    else if !ldfAligned (pteFmt e) bf ea then .error 0x0408
    else
      let rs := ldfReads (pteFmt e) bf ea
      let sc := match rs.drop 1 with
        | x :: _ => leNat (take x.1 1)
        | [] => 127
      .ok (ldfValue s die (pteFmt e) (pteCb e) bf (take ea ((rs.headD (0, 0)).2)) sc)
  | .ld n sx _ => .ok (loadValue n sx (take ea n), 0)
  | _ => .ok (loadValue 8 false (take ea 8), 0)

/-- The granules a load reads of an answer that fail their seal. -/
def loadBad (k a : Packet) (p : Pend) : Option Nat :=
  let ea := p.acc.ea.toNat
  let reads : List (Nat × Nat) := match p.acc.op with
    | .ldf bf => ldfReads (pteFmt (BitVec.ofNat 64 (tfield a 23 8))) bf ea
    | .ld n _ _ => [(ea, n)]
    | _ => [(ea, 8)]
  (List.range a.n).find? fun i => dataErr k a i != 0 && reads.any fun r => r.1 < entryVa k i / 8 * 8 + 8 && entryVa k i / 8 * 8 < r.1 + r.2

/-- A load's answer taken: its value where nothing more is awaited; a seal or format fault holds the access or drops it (R410, R456). -/
def takeLoad (s : State) (k a : Packet) (p : Pend) (asks : List (Nat × Nat)) (got : List (Nat × Byte)) : State :=
  let die := dieOf (if k.score < 832 then k.score else 0)
  match loadBad k a p with
  | some i => holdRemote s k 0x0501 (2 ^ i)
      (some (sealDetail (leBytes (a.data.getD i 0).toNat 8) (entryVa k i / 8 * 8) 0x0501 (dataErr k a i)))
  | none =>
    let rest := asks.filter fun x => x != (k.dst, k.seq)
    let got := got ++ dataBytes k a
    if !rest.isEmpty then updPend s p.id fun q => { q with kind := .remote rest got }
    else match loadRes s die p got (BitVec.ofNat 64 (tfield a 23 8)) with
      | .ok (v, f) => match p.acc.op with
        | .jump _ _ => setKind s p.id (.result v 0)
        | _ => complete s p [(p.acc.d, v)] f
      | .error c =>
        if rungOf c == 1 then holdRemote s k c 1 none
        else parkDropped (queueRec s die { remoteRec s k c p.acc.ea.toNat with flags := 1 }) p

/-- An atomic's answer taken: its register, its ticket's release, or the ticket a SIGWAIT of order sc asks for; one that has its ticket takes the
word it read if its condition still holds, and waits on otherwise (R112, R221, R225, R232). -/
def takeAtom (s : State) (a : Packet) (p : Pend) : State :=
  let old := tfield a 0 8
  match ticketAt s p.who p.id, p.acc.op with
  | some (d, t), .atom o ty _ _ =>
    let n := p.acc.op.size
    let bs := leBytes (atomNew o ty old (p.acc.x.toNat % 2 ^ (8 * n)) (p.acc.y.toNat % 2 ^ (8 * n))) n
    finishTicket (s.updGrid p.who.grid fun g => { g with ordTok := if g.ordTok == some (2 ^ 33) then none else g.ordTok }) d t
      p.acc.ea.toNat bs (some (atomOld o ty old))
  | _, .atom o ty _ _ => complete s p (if p.tok == 8 then [] else [(p.acc.d, atomOld o ty old)]) 0
  | _, .sigwait .sc _ =>
    if (scOf s p.id).isNone then askTicket s p.id p.acc
    else if sigMet (BitVec.ofNat 64 old) (sigCount p.acc.x) then complete s p [(p.acc.d, BitVec.ofNat 64 old)] 0
    else setKind (dropSc s p.id) p.id .held
  | _, _ => complete s p (if p.tok == 8 then [] else [(p.acc.d, BitVec.ofNat 64 old)]) 0

/-- MISM and AOV of a walk's combine set in its tile (R259). -/
def walkFlags (s : State) (op flags : Nat) : State :=
  match s.entries.find? fun e => e.id == op with
  | some e => setTile s e { tileOf s e with mism := (tileOf s e).mism || bitOf flags 0, aov := (tileOf s e).aov || bitOf flags 1 }
  | none => s

/-- Shootdowns that every die and package has acknowledged are done (R62). -/
def shootsAgain (s : State) : State :=
  let ended (x : Shoot) : Bool := x.dies.isEmpty && x.pkgs.isEmpty
  (s.shoots.filter ended).foldl (fun s x => engDone s x.id fun _ => []) { s with shoots := s.shoots.filter fun x => !ended x }

/-- A request has been performed (R210, R241). -/
def requestDone (s : State) (k a : Packet) : State :=
  let mine (a : EngAsk) : Bool := a.dst == k.dst && a.seq == k.seq
  let isLine (x : Nat × Nat × Nat) : Bool := x.2.2 == 2 ^ 32 * k.dst + k.seq
  let gran (i : Nat) : List Byte := leBytes (a.data.getD i 0).toNat 8
  let got (op : Nat) : List (Nat × Nat × List (Byte × Byte)) :=
    if a.typ == 9 then [(op, k.base.toNat / 8, (leBytes (tfield a 0 8) 8).map fun b => (b, 0))]
    else (List.range a.n).map fun i => (op, entryVa k i / 8, (gran i).map fun b => (b, dataErr k a i))
  let lineBytes : List Byte := match (List.range a.n).find? fun i => dataErr k a i != 0 with
    | some i => leBytes 0x0501 2 ++ leBytes i 1 ++ leBytes (sealDetail (gran i) (entryVa k i / 8 * 8) 0x0501 (dataErr k a i)).toNat 8
    | none => (List.range a.n).flatMap gran
  let asks := s.engAsks.filter mine
  let ops := packetOps s k
  let s := { s with
    engAsks := s.engAsks.filter fun a => !mine a
    engGot := s.engGot ++ (asks.filter fun x => x.op != balOp).flatMap fun x => got x.op
    lines := s.lines ++ (s.lineAsks.filter isLine).map fun x => (x.1, x.2.1, lineBytes)
    lineAsks := s.lineAsks.filter fun x => !isLine x
    shoots := s.shoots.map fun (x : Shoot) => { x with pkgs := x.pkgs.filter fun y => y != (k.dst, k.seq) } }
  let s := flushAnswered (storesDone s k) k.dst k.seq
  let s := if asks.any fun x => x.op == balOp then snapCount s (tfield a 0 8) else s
  let s := if a.typ == 9 && tfield a 13 1 != 0 then ops.foldl (fun s o => walkFlags s o (tfield a 13 1)) s else s
  shootsAgain ((s.pend.filter (waitsFor k)).foldl (fun s p => match p.kind with
    | .remote asks got => if a.typ == 9 then takeAtom s a p else takeLoad s k a p asks got
    | _ => s) s)

/-- The answer to a request that was sent on goes to its sender under the original's name; a first touch placed by its requester makes the
directory's entry REMOTE (R66, R455). -/
def forwardedDone (s : State) (f : Fwd) (a : Packet) (faulted : Bool) : State :=
  let o := f.orig
  let page := o.base.toNat / 2 ^ 16
  let s := { s with fwds := s.fwds.filter fun x => x != f }
  if faulted then answer s o 7 (ackFs o 2 (tfield a 6 2) (tfield a 8 4)) [] []
  else
    let s := if f.touch then
        shootHere (setLeaf s o.job page fun e => pteSet (pteSet (pteSet e 63 52 f.dst) 23 22 2) 0 0 1) o.job page
      else s
    let more := [(23, 8, tfield a 23 8), (31, 1, 1)]
    match a.typ with
    | 5 => answer s o 5 (dataFs o ++ more) a.data a.seals
    | 9 => answer s o 9 (atomrFs o (tfield a 0 8) (tfield a 13 1) ++ more) [] []
    | _ => answer s o 7 (ackFs o 0 0 0 ++ more) [] []

/-- A placement copy's packet was answered MEMORY cause 0x02 (R409). -/
def moveFailed (s : State) (k : Packet) : State :=
  let ops := packetOps s k
  storesDone { s with moves := s.moves.map fun (m : Move) => if ops.contains m.op then { m with failed := true } else m } k

/-- An answer delivered: matched with its request, which is no longer kept, so that a waiting one may leave (R433); a host packet's answer goes on to the host (R331). -/
def recvAnswer (s : State) (a : Packet) : State :=
  match keptFor s a with
  | none => s
  | some k =>
    let s := sendWaiting { s with retained := s.retained.filter fun x => x != k }
    let faulted := a.typ == 7 && bitOf (tfield a 5 1) 1
    let dropped := a.typ == 7 && bitOf (tfield a 5 1) 0
    let code := tfield a 6 2
    if k.p.host && k.p.src == s.pkg then { s with outPackets := s.outPackets ++ [a] }
    else match s.fwds.find? fun f => f.dst == k.p.dst && f.seq == k.p.seq with
      | some f => forwardedDone s f a faulted
      | none =>
        if faulted then
          if code == 0x0602 then moveFailed s k.p
          else if rungOf code == 1 then holdRemote s k.p code (tfield a 8 4) none
          else dropRemote s k.p code (tfield a 8 4)
        else if dropped then storesDone (countAck s k.p) k.p
        else requestDone (installEntry (countAck s k.p) k.p a) k.p a

end Sys2Proof.Machine
end

