-- ==== Sys2Proof/Machine/Rollback.lean ====
section
/-! DEFINITION. Rollback to a committed snapshot (R349, R437, R438): the checks of ROLLBACK, what the KIND 1 event does at every replica, and
the restoring of pages, channel log, operations and contexts at each package of the job. -/

namespace Sys2Proof.Machine

open Sys2Proof

/-- Numbers under which manifest reads and ROLLBACK results are outstanding. -/
def rollOp : Nat := 2 ^ 46
def rollPend : Nat := 2 ^ 54

/-- Bytes of the job's memory as the snapshot hardware reads them: they are there, awaited, or a fault with its VA. -/
def rollRead (s : State) (job va n : Nat) : State × Except (Option (Nat × Nat)) (List Byte) :=
  match engGrans (sysBy job va) rollOp false (granRange va n) s with
  | (s, .ok gs) => (s, .ok (gBytes gs va n))
  | (s, .wait) => (s, .error none)
  | (s, .bad c a _) => (s, .error (some (c, a)))

/-- A page the rollback needs faults: one wait-table entry is opened and the rollback goes on after its REPLAY (R438). -/
def rollFault (s : State) (job code va : Nat) : State :=
  if (openEntries s fun _ w => w.job == job && w.page == va / 2 ^ 16).isEmpty then (engFault s (sysBy job va) code va (engDetail (sysBy job va))).1 else s

/- ROLLBACK (R285, R437). -/

/-- The headers of a PREV chain from a VA: whether all pass the checks; the first one's epoch and cut SEQ. -/
def chainOk (s : State) (job last : Nat) : Nat → Nat → State × Except (Option (Nat × Nat)) Bool
  | 0, _ => (s, .ok false)
  | fuel + 1, va =>
    match rollRead s job va 64 with
    | (s, .error e) => (s, .error e)
    | (s, .ok h) =>
      if at_ h 0 4 != 0x54514E4D || at_ h 32 2 != job || last < at_ h 8 8 then (s, .ok false)
      else if at_ h 24 8 == 0 then (s, .ok true)
      else chainOk s job last fuel (at_ h 24 8)

/-- The job's last committed epoch. -/
def lastEpoch (s : State) (job : Nat) : Nat :=
  ((s.saves.filter fun x => x.job == job).map fun x => x.epoch).foldl max 0

/-- ROLLBACKs that wait for their manifest are checked: refused, or sent to the pod as SNAPCOMMIT of KIND 1. -/
def rollbacksAgain (s : State) : State :=
  s.pend.foldl (fun s p =>
    if p.kind != .engine rollPend || p.acc.x != 0 then s
    else
      let job := s.jobOf p.who.grid
      let manif := p.acc.ea.toNat
      match chainOk s job (lastEpoch s job) 65536 manif with
      | (s, .error none) => s
      | (s, .error (some (c, a))) => rollFault s job c a
      | (s, .ok false) => complete (snapRec s 0x0C03 manif (lastEpoch s job) 0 job) p [] 0
      | (s, .ok true) => match rollRead s job manif 64 with
        | (s, .ok h) =>
          sendEvent (updPend s p.id fun q => { q with acc := { q.acc with x := 1 } })
            (.snapcommit (evHdr s job) (at_ h 8 8) (at_ h 16 8) (BitVec.ofNat 57 manif) 1)
        | (s, _) => s) s

/-- ROLLBACK (R285, R349, R437): the thread waits until the manifest is refused. An accepted rollback stops its own grid too, which is one of the
job (R437), so the instruction has no thread to return to. -/
def execRollback (x : Reg) (s : State) : Host.Outcome State Fault Refusal :=
  runLanesThen (.rollback x) s (fun _ _ s _ _ => (s, .go)) (fun b g s _ th =>
    addNamed s b g th 0 7 0 (.engine rollPend) (BitVec.ofNat 64 ((th.reg x).toNat % 2 ^ 57)) 0)
    fun _ _ s => rollbacksAgain s

/- Step 1 and the replica words (R349). -/

/-- Everything of the job at this package is discarded; no completion counter is decremented. -/
def discardJob (s : State) (job : Nat) : State :=
  let before := s
  let mine (h : Nat) : Bool := s.jobOf h == job && (s.grid? h).isSome
  let s := { s with
    blocks := s.blocks.filter fun b => !mine b.grid
    pend := s.pend.filter fun p => !mine p.who.grid
    writes := s.writes.filter fun w => !mine w.who.grid
    bars := s.bars.filter fun x => !mine x.grid
    exchs := s.exchs.filter fun e => !mine e.grid
    clusters := s.clusters.map fun (c : Nat × List MEntry) => (c.1, c.2.filter fun e => !mine e.grid)
    aside := s.aside.filter fun e => !mine e.grid
    remHeld := s.remHeld.filter fun x => x.2.job != job
    sigHeld := s.sigHeld.filter fun x => x.1 != job
    rebuilds := s.rebuilds.filter fun r => !mine r.by_.grid
    copies := s.copies.filter fun c => !mine c.by_.grid
    xfers := s.xfers.filter fun x => !mine x.by_.grid
    colls := s.colls.filter fun c => !mine c.grid && !mine c.by_.grid
    collNos := s.collNos.filter fun x => x.1 != job
    earlyChunks := s.earlyChunks.filter fun p => p.job != job
    cores := s.cores.map fun (c : Nat × Core) => (c.1, { c.2 with
      wc := c.2.wc.filter fun l => l.job != job
      staged := c.2.staged.filter fun e => !mine e.who.grid
      held := c.2.held.filter fun x => !mine x.1 })
    dies := s.dies.map fun (d : Nat × Die) => (d.1, { d.2 with tickets := d.2.tickets.filter fun t => !mine t.who.grid })
    subs := s.subs.filter fun x => x.job != job
    queues := s.queues.map fun q => q.filter fun x => x.job != job
    units := s.units.filter fun u => u.job != job
    retained := s.retained.filter fun k => k.p.job != job
    inFlight := s.inFlight.filter fun f => f.2.2.job != job
    lineAsks := s.lineAsks.filter fun x => x.1 != job
    issuing := match s.issuing with
      | some c => if mine c.grid then none else some c
      | none => none
    grids := s.grids.filter fun g => g.l.job != job }
  freeEntries before s

/-- The rows of the job's grids are freed. -/
def freeJobRows (s : State) (job : Nat) : State :=
  (s.podGrids.filter fun p => p.job == job).foldl (fun s p => freeGrid (setRows s p.handle 0 fun _ => true) p.handle) s

/-- One lease row of the image, SHELVED, at its index or the lowest free one. -/
def putRow (s : State) (i : Nat) (w : Word) : State :=
  let w := pteSet w 13 12 2
  if rowSt (s.word i) == 0 then setWord s i w
  else match freeRow s with
    | some j => setWord s j w
    | none => s

/-- What a replica knows of a grid of the image: a lost package's range and its part as origin are the substitute's (R438). `rows`: its rows in
the image. -/
def standPod (s : State) (p : PodGrid) (rows : List (Nat × Word)) : PodGrid :=
  let q (k : Nat) : Nat := (aliasOf s p.job k).1
  let gone := ((rows.map fun x => rowPkg x.2).eraseDups).filter fun k => q k != k
  { p with origin := q p.origin, done := p.done.filter fun k => !(gone.map q).contains k, moves := p.moves ++ gone.map fun k => (k, [(q k, 1)]) }

/-- The job's words replaced by the image: its lease rows SHELVED, those of a lost package naming its substitute (R438), its admitted grids with
them, queued ones back in their ring; rows of a handle that another job has taken meanwhile are left out. -/
def imageWords' (s : State) (seq : Nat) (sn : Snap) : State :=
  sn.podGrids.foldl (fun s p =>
    if (s.pod? p.handle).isSome then s
    else
      let val (i : Nat) : Word := tget 0 sn.image i
      let w := val (0x10000 + 2 * p.handle)
      let st := bits w.toNat 54 53
      let rows := sn.image.filter fun x => x.1 < 0x10000 && rowGrid x.2 == p.handle
      let s := { s with podGrids := s.podGrids ++ [{ standPod s p rows with shelf := if st == 2 then some seq else p.shelf }] }
      let s := setWord (setWord s (0x10000 + 2 * p.handle) (if st == 2 then pteSet w 54 53 3 else w)) (0x10001 + 2 * p.handle)
        (val (0x10001 + 2 * p.handle))
      let s := rows.foldl (fun s x => putRow s x.1 (pteSet x.2 63 52 (aliasOf s p.job (rowPkg x.2)).1)) s
      if st == 1 then ringPut s (bits w.toNat 52 51) p.handle else s) s

/- Contexts (R340, R349 step 6). -/

/-- A captured transfer from its start, and a captured collective (R340). -/
def xferAgain (x : Xfer) : Xfer :=
  { x with dst := x.dst - (x.total - x.left), src := x.src - (x.total - x.left), left := x.total, stage := 0, status := 0, token := none }
def collAgain (c : Coll) : Coll :=
  { c with phase := 0, todo := [], stage := [], heads := [], notices := [], chunks := [], out := [], landed := [], status := 0, token := none
           refetch := false }

/-- A wait-table token under which nothing is open any more: the access it parks executes again on resume (R383). -/
def deadTok (s : State) (t : Nat) : Bool := 1 ≤ t && t ≤ 2 ^ 32 && (tokPage s t).isNone

/-- One block context back on its core's shelf, or in its carve-out; its matrix entries wait until it resumes (R305, R309). -/
def restoreCtx (s : State) (x : SnapCtx) : State :=
  let dead := deadTok s
  let b := noteClosed dead x.block
  let es := heldFor (!shelfTaken s b.core b.grid) (s.core b.core) b.grid b.bidx (footK (s.launchOf b.grid))
  let s := (holdEntries s b.core es).updCore b.core fun k => { k with staged := k.staged ++ x.staged }
  let s := x.tickets.foldl (fun s t => s.updDie t.1 fun d => { d with tickets := d.tickets ++ [t.2] }) s
  { s with
    blocks := s.blocks ++ [{ b with place := if es.all fun e => e.2.2.2.isSome then 3 else 2
                                    threads := b.threads.map shelveThread }]
    pend := s.pend ++ x.pends.map fun (p : Pend) => match p.kind with
      | .onEntry t => if dead t then { p with kind := .held } else p
      | _ => p
    aside := sortBy (fun x y => x.id ≤ y.id) (s.aside ++ x.entries.map fun e => if dead e.token then e.freed e.token else e)
    copies := s.copies ++ x.copies.map fun (c : Copy) =>
      if c.phase == 0 || (c.phase == 2 && dead c.token) then { c with phase := 3, token := 0 } else c }

/-- A grid as the snapshot holds it, shelved; what this package has of it already takes over its blocks (R438). -/
def restoreGrid (s : State) (g : Grid) : State :=
  let live (t : Option Nat) : Option Nat := t.filter fun t => !deadTok s t
  let g := { g with shelved := true, halting := none, leases := [], flushTok := live g.flushTok, ordTok := live g.ordTok, loadTok := live g.loadTok }
  if (s.grid? g.handle).isNone then { s with grids := s.grids ++ [g] }
  else s.updGrid g.handle fun x => { x with todo := x.todo ++ g.todo, retired := x.retired ++ g.retired, total := x.total + g.total }

/-- What the snapshot holds of the job's grids at a package. -/
def restoreGrids (s : State) (sn : Snap) : State :=
  let s := sn.grids.foldl restoreGrid s
  let s := { s with
    bars := s.bars ++ sn.bars, subs := s.subs ++ sn.subs, units := s.units ++ sn.units
    retained := s.retained ++ sn.kept, inFlight := s.inFlight ++ sn.flight }
  sn.ctxs.foldl restoreCtx s

/- The chain (R347, R438). -/

/-- The package whose pages, contexts and log this one restores beside its own: one it stands for (R438). -/
def standsFor (s : State) (job p : Nat) : Bool := (aliasOf s job p).1 == s.pkg

/-- The entries of one part. -/
def partsOf (bs : List Byte) : List Part :=
  (List.range (bs.length / 48)).map fun i =>
    { va := at_ bs (48 * i) 8, ver := at_ bs (48 * i + 8) 8, h0 := BitVec.ofNat 64 (at_ bs (48 * i + 16) 8)
      h1 := BitVec.ofNat 64 (at_ bs (48 * i + 24) 8), loc := at_ bs (48 * i + 32) 8, len := at_ bs (48 * i + 40) 4, kind := at_ bs (48 * i + 44) 1 }

/-- Whose part stands at a position of the list: the lost package's at whose position another stands, unless it is this package's own (R438). -/
def partOwner (s : State) (job : Nat) (ps : List Nat) (j : Nat) (own : List Part) (es : List Part) : Nat :=
  match s.aliases.find? fun a => a.1 == job && a.2.2.2 == j with
  | some a => if es == own && ps.getD j 0 == s.pkg then s.pkg else a.2.1
  | none => ps.getD j 0

/-- The parts of a manifest, by package: J table entries, then each part's entries. -/
def readParts (own : List Part) (s : State) (job : Nat) (ps : List Nat) (table : List Byte) : Nat → State × Except (Option (Nat × Nat)) (List (Nat × Part))
  | 0 => (s, .ok [])
  | n + 1 =>
    let j := ps.length - (n + 1)
    let cnt := at_ table (16 * j + 8) 8
    match (if cnt == 0 then (s, .ok []) else rollRead s job (at_ table (16 * j) 8) (48 * cnt)) with
    | (s, .error e) => (s, .error e)
    | (s, .ok bs) => match readParts own s job ps table n with
      | (s, .error e) => (s, .error e)
      | (s, .ok r) => (s, .ok ((partsOf bs).map (fun x => (partOwner s job ps j own (partsOf bs), x)) ++ r))

/-- One manifest of the chain: what it names that no newer one does, and the next header's VA. -/
def readManifest (s : State) (r : Roll) : State × Except (Option (Nat × Nat)) Roll :=
  match rollRead s r.job r.va 64 with
  | (s, .error e) => (s, .error e)
  | (s, .ok h) =>
    let ps := jobPkgs s r.job
    match rollRead s r.job (at_ h 40 8) (16 * ps.length) with
    | (s, .error e) => (s, .error e)
    | (s, .ok tb) => match readParts (((s.saves.find? fun x => x.job == r.job && x.epoch == r.epoch).map fun x => x.parts).getD []) s r.job ps tb
        ps.length with
      | (s, .error e) => (s, .error e)
      | (s, .ok new) =>
        let new := new.filter fun x =>
          if x.2.kind == 0 then !(r.entries.any fun y => y.2.kind == 0 && y.2.va == x.2.va) else r.va == r.manif
        (s, .ok { r with entries := r.entries ++ new, va := at_ h 24 8 })

/- The restoring (R349 steps 2, 4, 5). -/

def updRoll (s : State) (job : Nat) (f : Roll → Roll) : State := { s with rolls := replaceFirst (fun r => r.job == job) f s.rolls }

/-- A page written back with its seals: to its frame, or to one of the ring (R349). The ring gives frames of 64 KiB: a 2 MiB page that is not
present comes back as pages of 64 KiB (DESIGN CHOICE, log 23). `fuel`: pages. -/
def putPage : Nat → State → Nat → Nat → List (Nat × List Byte × Byte) → State × Option (Nat × Nat)
  | 0, s, _, _, _ => (s, none)
  | fuel + 1, s, job, va, gs =>
    if gs.isEmpty then (s, none)
    else match leafOf s job va with
    | none => (s, some (0x0401, va))
    | some (a, e) =>
      let put (s : State) (e : Word) (pa : Nat) : State × Option (Nat × Nat) :=
        let n := (pageLen e - pa % pageLen e) / 8
        let e' := pteSet (pteSet (pteSet (pteSet (pteSet e 63 52 s.pkg) 28 28 0) 23 22 0) 21 20 0) 0 0 1
        let m := (gs.take n).zipIdx.foldl (fun (m : Memory) x => m.writeGranule (pa / 8 + x.2) x.1.2.1 x.1.2.2) s.mem
        putPage fuel (shootHere { s with mem := m.putLeaf a e' } job (va / 2 ^ 16)) job (va + 8 * n) (gs.drop n)
      if pteP e && ptePkg e == s.pkg && ptePlace e != 2 then put s e (ptePa e va)
      else match takeFrame s s.ringOf with
        | some (fr, s) => put s (pteSet (pteSet e 51 29 fr) 10 10 0) (fr * 2 ^ 16)
        | none => (s, some (0x0601, va))

/-- One entry: its digest is checked, a page is put back; what a lost package wrote beside pages is kept (R348, R349, R437, R438). -/
def rollEntry (s : State) (r : Roll) (i : Nat) (x : Nat × Part) : State × Except (Option (Nat × Nat)) Bool :=
  if !standsFor s r.job x.1 then (s, .ok true)
  else match engGrans (sysBy r.job x.2.loc) rollOp false (granRange x.2.loc x.2.len) s with
    | (s, .wait) => (s, .error none)
    | (s, .bad c a _) => (s, .error (some (c, a)))
    | (s, .ok gs) =>
      let h := digestWords (0, 0) x.2.va (gs.map fun g => BitVec.ofNat 64 (leNat g.2.1))
      if h != (x.2.h0, x.2.h1) then (snapRec s 0x0C04 r.manif r.epoch i r.job, .ok false)
      else if x.2.kind != 0 then
        (if x.1 == s.pkg || x.2.kind == 2 then s
         else updRoll s r.job fun y => { y with bytes := y.bytes ++ [(x.1, x.2.kind, gs.flatMap fun g => g.2.1)] }, .ok true)
      else match putPage 32 s r.job x.2.va gs with
        | (s, none) => (s, .ok true)
        | (s, some e) => (s, .error (some e))

/-- Pages present here that another package's part names go there; those no manifest names take P = 0, unless exempt. -/
def dropPages (s : State) (r : Roll) (sn : Snap) : State :=
  setLeaves s r.job fun page e =>
    match r.entries.find? fun x => x.2.kind == 0 && x.2.va == page * 2 ^ 16 with
    | some x =>
      if standsFor s r.job x.1 then none else some (pteSet (pteSet (pteSet (pteSet e 63 52 (aliasOf s r.job x.1).1) 23 22 2) 21 20 0) 28 28 0)
    | none => if exempt s sn page (pageLen e) || ptePlace e == 2 then none else some (pteSet (pteSet e 21 20 0) 0 0 0)

/-- The operations of R340 that are issued again from the start; a collective with a rank on a lost package has R434's end. -/
def restoreOps (s : State) (sn : Snap) : State :=
  let cs := sn.ctxs.flatMap fun c => c.colls.map collAgain
  let s := { s with xfers := s.xfers ++ sn.ctxs.flatMap fun c => c.xfers.map xferAgain, colls := s.colls ++ cs }
  (cs.filter fun c => c.ranks.any fun p => s.lost.contains p).foldl (fun s c => collEnd s c 3) s

/-- The channel log performed in arrival order, the operations of R340 issued again, and bound collectives taken again. -/
def rollLog (s : State) (sn : Snap) : State :=
  let s := { s with collNos := s.collNos ++ sn.collNos, earlyChunks := s.earlyChunks ++ sn.early }
  let s := sn.log.foldl (fun s x =>
    if x.2.2.typ == 5 || x.2.2.typ == 7 || x.2.2.typ == 9 then recvAnswer s x.2.2 else (performReq s x.2.2).getD s) s
  let s := restoreOps s sn
  let s := (sn.grids.filter fun g => g.l.collbind != 0).foldl (fun s g => g.retired.foldl (fun s b => segReady s g.handle b) (takeBound s g)) s
  wakeAll s

/- What a lost package had of the job, at its substitute (R438). -/

/-- A packet of a channel log from its flits, header first (R314, R315, R345). It was admitted when it came: it is performed as the snapshot
hardware does. -/
def packetOf (job : Nat) (f : List Byte) : Packet :=
  let typ := at_ f 5 1
  let n := at_ f 7 1
  let offs := typ == 2 || typ == 4
  let d := f.drop (if offs then 128 else 64)
  let b4 := at_ f 4 1
  let tail := d.drop ((8 * n + 63) / 64 * 64)
  { typ := typ, dst := at_ f 0 2, src := at_ f 2 2, vc := b4 % 8, pen := bitOf b4 3, col := bitOf b4 4, host := bitOf b4 5, ctlResvd := b4 / 64
    path := at_ f 6 1, n := n, seq := at_ f 8 4, pser := at_ f 12 4, score := at_ f 16 2, hjob := at_ f 18 2, lvl := at_ f 20 1
    base := BitVec.ofNat 64 (at_ f 24 8), tspec := BitVec.ofNat 256 (at_ f 32 32)
    offs := if offs then (List.range n).map fun i => BitVec.ofNat 16 (at_ f (64 + 2 * i) 2) else []
    data := if d.isEmpty then [] else (List.range n).map fun i => BitVec.ofNat 64 (at_ d (8 * i) 8)
    seals := if d.isEmpty then [] else tail.take n, masks := if d.isEmpty then [] else (tail.drop 32).take n, job := job, user := false }

/-- The packets of a channel log in arrival order (R345). -/
def logOf (job : Nat) : Nat → List Byte → List Packet
  | 0, _ => []
  | fuel + 1, bs =>
    let n := at_ bs 8 2
    if n == 0 then [] else packetOf job ((bs.drop 64).take (64 * n)) :: logOf job fuel (bs.drop (64 * (n + 1)))

/-- Requests of the lost package on the way keep their places in an own numbering here. -/
def farSeq (n : Nat) : Nat := n + 2 ^ 33

/-- A context as its substitute takes it up: every wait-table entry of the lost package is closed, its extents are read again, its requests have
their own numbering, and its FENCEACKs are over, since its stores are in pages and logs (R340). -/
def farCtx (x : SnapCtx) : SnapCtx :=
  let dead (t : Nat) : Bool := 1 ≤ t && t ≤ 2 ^ 32
  let b := noteClosed dead x.block
  { x with
    block := { b with extents := b.extents.map fun (e : Extent) => { e with v := false } }
    pends := x.pends.map fun (p : Pend) => match p.kind with
      | .fenceack _ => { p with kind := .ready [] }
      | .onEntry _ => { p with kind := .held }
      | .remote asks got => { p with kind := .remote (asks.map fun a => (a.1, farSeq a.2)) got }
      | _ => p
    entries := x.entries.map fun (e : MEntry) => if 10 ≤ e.phase then { e with phase := e.phase - 10, token := 0 } else e
    copies := x.copies.map fun (c : Copy) => if c.phase == 2 then { c with phase := 3, token := 0 } else c }

/-- What a lost package wrote into its slice, in this package's numbering. -/
def farSnap (r : Roll) (base p : Nat) : Nat × Snap :=
  let of_ (k : Nat) : List (List Byte) := (r.bytes.filter fun x => x.1 == p && x.2.1 == k).map fun x => x.2.2
  let (n, x) := (((of_ 4).head?.bind fun bs => readBytes (rJob base (newSnap r.job r.epoch 0 0 p)) bs).getD
    (0, newSnap r.job r.epoch 0 0 p))
  let dead (t : Option Nat) : Option Nat := t.filter fun t => t == 0 || 2 ^ 32 < t
  (n, { x with
    ctxs := (of_ 1).filterMap fun bs => (readBytes (rCtx base) bs).map farCtx
    grids := x.grids.map fun (g : Grid) => { g with flushTok := dead g.flushTok, ordTok := dead g.ordTok, loadTok := dead g.loadTok }
    log := (of_ 3).flatMap fun bs => (logOf r.job bs.length bs).map fun q => (0, 0, q)
    kept := x.kept.map fun (k : Kept) => { k with p := { k.p with seq := farSeq k.p.seq } }
    flight := x.flight.map fun f => (f.1, farSeq f.2.1, { f.2.2 with whos := f.2.2.whos.map fun w =>
      if w.2.grid == 2 ^ 40 then (w.1 + base, { w.2 with bidx := w.2.bidx + base }) else w }) })

/-- An answer of the lost package's log: its request is one of that package's, and this package's own counts of R319 stay. -/
def farAnswer (x : State × List Kept × List (Nat × Nat × WcLine)) (a : Packet) : State × List Kept × List (Nat × Nat × WcLine) :=
  let (s, kept, flight) := x
  let t := recvAnswer { s with retained := kept, inFlight := flight, fwds := [] } a
  let cores := t.cores.map fun (c : Nat × Core) => (c.1, { c.2 with ackp := (s.core c.1).ackp, acked := (s.core c.1).acked })
  ({ t with retained := s.retained, inFlight := s.inFlight, fwds := s.fwds, cores := cores }, t.retained, t.inFlight)

/-- A request that the lost package had not yet sent (R433) leaves from here, under a number of this package. -/
def farSend (flight : List (Nat × Nat × WcLine)) (s : State) (k : Kept) : State :=
  let (s, q) := sendPacket s k.p
  let is (d n : Nat) : Bool := d == k.p.dst && n == k.p.seq
  { s with
    inFlight := s.inFlight ++ (flight.filter fun f => is f.1 f.2.1).map fun f => (f.1, q.seq, f.2.2)
    pend := s.pend.map fun (p : Pend) => match p.kind with
      | .remote asks got => { p with kind := .remote (asks.map fun a => if is a.1 a.2 then (a.1, q.seq) else a) got }
      | _ => p }

/-- The contexts, channel log and operations of one lost package, at its substitute (R438). -/
def restoreFar (r : Roll) (s : State) (p : Nat) : State :=
  let (n, x) := farSnap r s.nextId p
  let s := restoreGrids { s with nextId := s.nextId + n } { x with kept := [], flight := [] }
  let out := x.log.foldl (fun (y : State × List Kept × List (Nat × Nat × WcLine)) q =>
    if q.2.2.typ == 5 || q.2.2.typ == 7 || q.2.2.typ == 9 then farAnswer y q.2.2 else ((performReq y.1 q.2.2).getD y.1, y.2))
    ((x.kept.filter fun k => !k.sent).foldl (farSend x.flight) s, x.kept.filter fun k => k.sent, x.flight)
  wakeAll (restoreOps out.1 x)

/-- A rollback goes on as far as it can. `fuel`: entries and headers. -/
def rollStep : Nat → State → Nat → State
  | 0, s, _ => s
  | fuel + 1, s, job =>
    match s.rolls.find? fun r => r.job == job with
    | none => s
    | some r =>
      match r.step with
      | 0 =>
        if r.va == 0 then rollStep fuel (updRoll s job fun x => { x with step := 1 }) job
        else match readManifest s r with
          | (s, .error none) => s
          | (s, .error (some (c, a))) => rollFault s job c a
          | (s, .ok r') => rollStep fuel (updRoll s job fun _ => r') job
      | 1 =>
        match r.entries[r.next]? with
        | none => rollStep fuel (updRoll s job fun x => { x with step := 2 }) job
        | some x => match rollEntry s r r.next x with
          | (s, .error none) => s
          | (s, .error (some (c, a))) => rollFault s job c a
          | (s, .ok false) => updRoll s job fun x => { x with step := 9 }
          | (s, .ok true) =>
            rollStep fuel (updRoll { s with engGot := s.engGot.filter fun g => g.1 != rollOp } job fun x => { x with next := x.next + 1 }) job
      | 2 =>
        match s.saves.find? fun x => x.job == job && x.epoch == r.epoch with
        | none => { s with rolls := s.rolls.filter fun x => x.job != job }
        | some sn =>
          -- a substitute that took no part in the cut reads the record for what is exempt (R336)
          if sn.fields.length != 64 then match rollRead s job sn.recVa 64 with
            | (s, .error none) => s
            | (s, .error (some (c, a))) => rollFault s job c a
            | (s, .ok bs) => rollStep fuel { s with
                saves := replaceFirst (fun x => x.job == job && x.epoch == r.epoch) (fun x => { x with fields := bs }) s.saves } job
          else
            let s := ((r.bytes.map fun x => x.1).eraseDups).foldl (restoreFar r) (rollLog (dropPages s r sn) sn)
            enact { s with rolls := s.rolls.filter fun x => x.job != job }
      | _ => s

/-- Every rollback goes on. -/
def rollsAgain (s : State) : State :=
  (s.rolls.map fun r => r.job).foldl (fun s j =>
    rollStep (8192 + ((s.rolls.map fun r => r.entries.length).sum)) s j) (rollbacksAgain s)

/-- SNAPCOMMIT of KIND 1 applied (R349): an open epoch of the job is given up, its grids are discarded, its words replaced, its contexts
restored to the shelves; the packages of the job then restore their memory. -/
def rollEpoch (s : State) (seq job epoch manif : Nat) : State :=
  let w := s.jobWord job 3
  let s := if snapSt w == 1 then abortEpoch s seq job (snapEpoch w) else s
  match s.saves.find? fun x => x.job == job && x.epoch == epoch with
  | none => s
  | some sn =>
    let s := freeJobRows (discardJob s job) job
    let s := imageWords' s seq sn
    if (jobPkgs s job).contains s.pkg || (s.aliases.any fun a => a.1 == job && a.2.2.1 == s.pkg) then
      let s := sendWaiting (restoreGrids s sn)
      rollsAgain { s with rolls := s.rolls.filter (fun r => r.job != job)
                                    ++ [{ job := job, manif := manif, epoch := epoch, step := 0, va := manif, entries := [], next := 0, bytes := [] }] }
    else sendWaiting s

end Sys2Proof.Machine
end

