-- ==== Sys2Proof/Machine/Fabric.lean ====
section
/-! DEFINITION. The fabric's ingress (R318, R331, R338, R341, R433): sequence and colour, delivery, the packets of R315 as happenings, and
re-sending; and the snapshot and halt happenings after which held packets go on. -/

namespace Sys2Proof.Machine

open Sys2Proof

/- Colour (R338, R341). -/

/-- Jobs that are open (R291). -/
def openJobs (s : State) : List Nat :=
  s.words.filterMap fun x => if 0x50000 ≤ x.1 && x.1 < 0x54000 && x.1 % 4 == 0 && x.2 != 0 then some ((x.1 - 0x50000) / 4) else none

/-- A packet whose colour runs ahead of this package's, or a BURGEE before the cut, is held (R341). -/
def colourHeld (s : State) (p : Packet) : Bool :=
  if p.typ == 12 then
    (match s.snap with
    | some sn => sn.job == p.job && sn.phase == 0
    | none => snapEpoch (s.jobWord p.job 3) < tfield p 0 4)
  else if 2 ≤ p.vc || p.src == s.pkg then false
  else if s.snap.any fun sn => sn.phase == 0 && (jobPkgs s sn.job).contains p.src then p.col != s.colour
  else
    let js := (openJobs s).filter fun j => j != 0 && (jobPkgs s j).contains p.src
    p.col != (tget 0 s.pkgCol p.src == 1) && p.col != (tget 0 s.colIn (8 * p.src + p.vc) == 1)
      && (js.any fun j => (jobPkgs s j).contains s.pkg) && !js.any fun j => snapSt (s.jobWord j 3) == 1

/- Waiting work (R210, R271, R297, R319, R339). -/

/-- Everything that waits for an answer, a page or a halt goes on as far as it can. -/
def wake (s : State) : State :=
  let s := wakeAll s
  let s := (s.grids.filter fun g => g.l.pop).foldl (fun s g => resampleTry s g.handle) s
  let s := rollsAgain (cutStep (loadGrids (subsAgain s)))
  let s := inboxPass s.inbox [] s
  -- what this package sends to itself, for a package it stands for (R425, R426)
  let mine := s.outPackets.filter fun p => p.dst == s.pkg && p.src == s.pkg && !p.host
  if mine.isEmpty then s
  else
    let s := { s with outPackets := s.outPackets.filter fun p => !(p.dst == s.pkg && p.src == s.pkg && !p.host) }
    let isAns (p : Packet) : Bool := p.typ == 5 || p.typ == 7 || p.typ == 9
    let s := (mine.filter isAns).foldl recvAnswer s
    { s with inbox := s.inbox ++ mine.filter fun p => !isAns p }

/- Delivery (R318). -/

/-- A job the configuration record grants to the host (R331, R449). -/
def hostGranted (s : State) (job : Nat) : Bool :=
  (List.range (min 8 (at_ s.config 40 1))).any fun i => at_ s.config (42 + 2 * i) 2 == job

/-- A packet dropped with a LINK record and a dropped ACK (R417, R433). -/
def dropPacket (s : State) (p : Packet) (code : Nat) : State :=
  answer (linkRec s code p.path p.src p.typ) p 7 (ackFs p 1 0 0) [] []

/-- A packet delivered: counted by colour, logged where it crossed the cut, and taken by what its type says. -/
def deliver (s : State) (p : Packet) : State :=
  let key := 8 * p.src + p.vc
  let ck := colKey p.src p.col
  let s := { s with
    seqIn := tset s.seqIn key (tget 0 s.seqIn key + 1)
    colIn := if p.vc < 2 then tset s.colIn key (b2n p.col) else s.colIn
    ingress := s.ingress.filter fun q => q != p
    recvFrom := if p.vc < 2 then tset s.recvFrom ck (tget 0 s.recvFrom ck + 1) else s.recvFrom
    lvls := if p.vc == 0 then tset s.lvls p.src p.lvl else s.lvls
    snap := s.snap.map fun (x : Snap) =>
      if p.vc < 2 && x.phase == 1 && p.col != s.colour && p.src != s.pkg && (jobPkgs s x.job).contains p.src then
        { x with log := x.log ++ [(x.log.length, p.path, p)] } else x }
  if p.typ == 0 || 14 ≤ p.typ || p.ctlResvd != 0 then dropPacket s p 0x0B04
  else if p.src == s.pkg && (!p.host || !hostGranted s p.hjob) then dropPacket s p 0x0B05
  else
    let p := if p.src == s.pkg then { p with job := p.hjob, user := p.hjob != 0 } else p
    match p.typ with
    | 5 | 7 | 9 => recvAnswer s p
    | 12 => { s with snap := s.snap.map fun (x : Snap) =>
        if x.job == p.job && x.epoch % 2 ^ 32 == tfield p 0 4 then { x with bal := x.bal ++ [(p.src, tfield p 4 8)] } else x }
    | _ => { s with inbox := s.inbox ++ [p] }

/-- Packets at ingress are delivered in SEQ order of each stream, colour permitting. `fuel`: packets held. -/
def drainIngress : Nat → State → State
  | 0, s => s
  | n + 1, s =>
    match s.ingress.find? fun p => p.seq == tget 0 s.seqIn (8 * p.src + p.vc) % 2 ^ 32 && !colourHeld s p with
    | some p => drainIngress n (deliver s p)
    | none => s

/-- Held packets are delivered where they can be, and what waits goes on. -/
def carryOn (s : State) : State :=
  let s := wake s
  if s.ingress.isEmpty then s else wake (drainIngress s.ingress.length s)

/-- A packet arrives. A reserved VC is dropped at once; one delivered before is answered again where its answer is known; a host packet for
another package is sent on in this package's name (R318, R331, R433). -/
def recvPacket (s : State) (p : Packet) : State :=
  if s.withdrawn then s
  else if p.src == s.pkg && p.dst != s.pkg && p.host && p.vc == 0 then
    (if hostGranted s p.hjob then (sendPacket s { p with score := 0x3FF, job := p.hjob, user := p.hjob != 0 }).1 else dropPacket s p 0x0B05)
  else if p.dst != s.pkg || p.vc == 2 || p.vc == 4 then s
  else if 5 ≤ p.vc then dropPacket s p 0x0B04
  else
    let next := tget 0 s.seqIn (8 * p.src + p.vc)
    if 2 ^ 31 ≤ (p.seq + 2 ^ 32 - next % 2 ^ 32) % 2 ^ 32 then
      (match s.answers.find? fun a => a.1 == p.src && a.2.1 == p.seq && p.vc == 0 with
      | some a => { s with outPackets := s.outPackets ++ [a.2.2] }
      | none => s)
    else if s.ingress.any fun q => q.src == p.src && q.vc == p.vc && q.seq == p.seq then s
    else
      let s := { s with ingress := s.ingress ++ [p], linkHeard := tset s.linkHeard p.path s.now }
      carryOn (drainIngress s.ingress.length s)

/- The packets as happenings (R315): each is taken for what its TYPE says. -/

/-- WRITE (R77, R315). -/
def execWritePacket (p : Packet) (s : State) : Host.Outcome State Fault Refusal := .next (recvPacket s { p with typ := 1 })

/-- VWRITE (R316). -/
def execVwritePacket (p : Packet) (s : State) : Host.Outcome State Fault Refusal := .next (recvPacket s { p with typ := 2 })

/-- READ (R315). -/
def execReadPacket (p : Packet) (s : State) : Host.Outcome State Fault Refusal := .next (recvPacket s { p with typ := 3 })

/-- VREAD (R316). -/
def execVreadPacket (p : Packet) (s : State) : Host.Outcome State Fault Refusal := .next (recvPacket s { p with typ := 4 })

/-- DATA (R315, R318). -/
def execDataPacket (p : Packet) (s : State) : Host.Outcome State Fault Refusal := .next (recvPacket s { p with typ := 5 })

/-- FLAG: a PUTF, with PEN always 1 (R271, R318). -/
def execFlagPacket (p : Packet) (s : State) : Host.Outcome State Fault Refusal := .next (recvPacket s { p with typ := 6, pen := true })

/-- ACK (R318, R433, R456). -/
def execAckPacket (p : Packet) (s : State) : Host.Outcome State Fault Refusal := .next (recvPacket s { p with typ := 7 })

/-- ATOM (R221, R315). -/
def execAtomPacket (p : Packet) (s : State) : Host.Outcome State Fault Refusal := .next (recvPacket s { p with typ := 8 })

/-- ATOMR (R315, R318). -/
def execAtomrPacket (p : Packet) (s : State) : Host.Outcome State Fault Refusal := .next (recvPacket s { p with typ := 9 })

/-- CHUNK (R323). -/
def execChunkPacket (p : Packet) (s : State) : Host.Outcome State Fault Refusal := .next (recvPacket s { p with typ := 10 })

/-- SWRED: a chunk a switch may have reduced (R326, R327). -/
def execSwredPacket (p : Packet) (s : State) : Host.Outcome State Fault Refusal := .next (recvPacket s { p with typ := 11 })

/-- BURGEE (R342). -/
def execBurgeePacket (p : Packet) (s : State) : Host.Outcome State Fault Refusal := .next (recvPacket s { p with typ := 12, vc := 3 })

/-- LOG (R343). -/
def execLogPacket (p : Packet) (s : State) : Host.Outcome State Fault Refusal := .next (recvPacket s { p with typ := 13, vc := 3 })

/-- A packet with a reserved TYPE, VC or CTL bits (R314, R315, R417 cause 0x0B04). -/
def execReservedPacketType (p : Packet) (s : State) : Host.Outcome State Fault Refusal := .next (recvPacket s p)

/- Re-sending (R433). -/

/-- A kept packet sent again on the link R312 chooses; it keeps SEQ, PSER, PEN and PATH. -/
def resendKept (s : State) (k : Kept) : State :=
  let j := pathOf s
  { s with
    outPackets := s.outPackets ++ [k.p]
    retained := s.retained.map fun (x : Kept) => if x == k then { x with link := j, at_ := s.now } else x
    linkSent := tset s.linkSent j s.now }

/-- ACK_TIMEOUT_RESEND: a packet kept since it was sent has waited 100 µs for its ACK (R433, cause 0x0B03). -/
def execAckTimeoutResend (idx : Nat) (s : State) : Host.Outcome State Fault Refusal :=
  .next (match s.retained[idx]? with
    | none => s
    | some k => if s.now < k.at_ + 80000 || s.withdrawn || !k.sent then s else resendKept (linkRec s 0x0B03 k.link k.p.dst 0) k)

/-- WC_LINE_TIMEOUT: 2 µs have passed since the line's first store (R317). -/
def execWcLineTimeout (core line : Nat) (s : State) : Host.Outcome State Fault Refusal :=
  .next (match (s.core core).wc[line]? with
    | none => s
    | some l => if s.now < l.born + 1600 then s else sendLine s core l)

/- Happenings after which held packets can go on. -/

/-- CORE_HALT: a core has halted a grid's blocks; the cut they were halted for is taken when the last has (R305, R339). -/
def execCoreHalt (core grid : Nat) (s : State) : Host.Outcome State Fault Refusal := .next (carryOn (coreHalt core grid s))

/-- PRESERVATION_COPY: a COW page is in the slice, and held writes proceed (R343). -/
def execPreservationCopy (job page : Nat) (s : State) : Host.Outcome State Fault Refusal := .next (carryOn (preservationCopy job page s))

/-- SNAPSHOT_CONTEXT_TRANSFER: contexts of the cut pass into the slice (R339). -/
def execSnapshotContextTransfer (job core : Nat) (s : State) : Host.Outcome State Fault Refusal :=
  .next (carryOn (snapshotContextTransfer job core s))

end Sys2Proof.Machine
end

