-- ==== Sys2Proof/Machine/Replica.lean ====
section
/-! DEFINITION. Halyard events at this package (R287 to R297, R304, R335, R346, R382, R419 to R429, R436, R439): receipt in SEQ order, the
effect of each type on the replica and here, digests, fencing, loss, and the events as happenings. -/

namespace Sys2Proof.Machine

open Sys2Proof

def Event.hdr : Event → EvHdr
  | .submit h _ _ _ | .admission h _ | .finish h _ _ | .block h _ | .unblock h _ | .cancel h _ _ | .fault h _ _ _ _ _ _ _ | .loss h _ _
  | .join h _ _ _ _ | .fence h _ _ _ | .digest h _ _ _ | .rebalance h _ _ _ _ _ _ _ _ | .snapcommit h _ _ _ _ | .snapopen h _ _
  | .ticket h | .job h _ _ | .preemptcfg h _ _ | .reserved h _ => h

def Event.seq (e : Event) : Nat := e.hdr.seq

/-- A SCHED record: subject package and checkpoint or missing SEQ (R417, R418). -/
def schedRec (s : State) (code rung pkg n grid job : Nat) : State :=
  queueRec s 0 { unitRec s code 0 (BitVec.ofNat 64 (pkg + n <<< 16)) grid job with rung := rung }

/- Grid rows (R289, R295, R296). -/

/-- SUBMIT: the lowest FREE grid row takes the record (R289). With no row, or a full ring, the origin decides it with status FAULT. -/
def applySubmit (s : State) (h : EvHdr) (va c : Nat) (flags : Nat) : State :=
  let cls := bits flags 3 2
  let mine := h.origin == s.pkg
  let sub := if mine then s.subs.find? fun x => x.sent && x.handle.isNone && x.va == va && x.job == h.job else none
  match (if 16384 ≤ ringTail s cls - ringHead s cls then none else (List.range 65536).find? fun g => rowState s g == 0) with
  | none => match sub with
    | some x =>
      let s := { s with subs := s.subs.filter fun y => y != x }
      decideRecord (queueRec s 0 (unitRec s 0x0731 (BitVec.ofNat 64 va) 0xFFFF 0 h.job)) x 3
    | none => s
  | some g =>
    let s := setWord s (0x10000 + 2 * g) (BitVec.ofNat 64 (va / 64 + cls <<< 51 + 1 <<< 53))
    let s := ringPut (setWord s (0x10001 + 2 * g) 0) cls g
    let s := { s with podGrids := s.podGrids ++ [{ handle := g, origin := h.origin, va := va, job := h.job, c := c, flags := flags, admission := none
                                                   shelf := none, done := [], fault := false, replace_ := 0, parts := [], moves := [] }] }
    if !mine then s
    else match sub with
      | some x =>
        sendEvent { s with subs := s.subs.map fun (y : Sub) => if y == x then { y with handle := some g } else y } (.admission (evHdr s h.job) g)
      | none => sendEvent s (.finish (evHdr s h.job) g s.pkg)

/-- ADMIT: the grid's leases are placed; one that cannot be placed stays QUEUED at the head of its class queue (R295; log 74). -/
def applyAdmit (s : State) (seq g : Nat) : State :=
  match s.pod? g with
  | none => s
  | some p =>
    if p.admission.isSome || rowState s g != 1 then s
    else
      let s := setWord s (0x10001 + 2 * g) (pteSet (s.word (0x10001 + 2 * g)) 63 28 (seq % 2 ^ 36))
      let p := { p with admission := some seq }
      let s := placeGrid (updPod s g fun _ => p) seq p
      if rowState s g == 1 then ringFirst s (gridCls s g) g else s

/-- Every package's rows of the grid are FREE, those of a package that is lost apart, and no share waits to be placed again. -/
def gridFinished (s : State) (p : PodGrid) : Bool :=
  p.replace_ == 0 && !((rowsOf s p.handle).any fun x => !(rowSt x.2 == 3 && s.lost.contains (rowPkg x.2)))

/-- The grid's row becomes FREE once all have finished; the origin of a spanning grid decrements its counter (R50, R289). -/
def finishIfOver (s : State) (g : Nat) : State :=
  match s.pod? g with
  | none => s
  | some p =>
    if !gridFinished s p then s
    else
      let open_ := bitOf p.flags 1 && ((s.subs.any fun x => x.handle == some g) || ((s.grid? g).map fun x => x.l.span).getD false)
      let s := if open_ then originDecides s g 0 else s
      let s := freeGrid s g
      dispatchAll { s with grids := s.grids.filter fun x => x.handle != g }

/-- FINISH (R289). -/
def applyFinish (s : State) (seq g pkg : Nat) : State :=
  match s.pod? g with
  | none => s
  | some _ =>
    let s := countPkgs (setRows s g 0 fun w => rowPkg w == pkg) g
    considerWaiting (finishIfOver (updPod s g fun p => { p with done := markSet p.done pkg true }) g) seq

/-- BLOCK (R296): without effect where a row lies on a package that has pre-emption off, or the grid is shelved already (R310). -/
def applyBlock (s : State) (seq g : Nat) : State :=
  let st := rowState s g
  if st == 0 || st == 3 || !((rowsOf s g).all fun x => preemptOn s (rowPkg x.2)) then s
  else
    let s := setBlocked s g true
    if st == 2 then shelveRows s g seq else s

/-- UNBLOCK (R296). -/
def applyUnblock (s : State) (seq g : Nat) : State :=
  if gridBlocked s g then considerWaiting (setBlocked s g false) seq else s

/-- CANCEL: the units the counter names are decided at this package (R51, R284). -/
def applyCancel (s : State) (h : EvHdr) (va : Nat) (lv : Level) : State :=
  let s := cancelUnits s h.job va lv
  considerWaiting (if h.origin == s.pkg then cancelDone s va lv else s) h.seq

/-- FAULT: a CANCEL that follows decides the grid with status FAULT (R382). -/
def applyFault (s : State) (h : EvHdr) (g : Nat) : State :=
  { s with
    podGrids := s.podGrids.map fun (p : PodGrid) => if p.handle == g then { p with fault := true } else p
    grids := s.grids.map fun (x : Grid) => if x.local_ && h.origin == s.pkg && x.handle % 2 ^ 16 == g % 2 ^ 16 then { x with faulted := true } else x }

/-- JOB: a job's row opened or closed (R293). DESIGN CHOICE (log 78): the job's completion counter (R50) is the one its record names, COORD; the
package that opened the job decrements it when the job closes and the phases it has submitted are over. -/
def applyJob (s : State) (j va : Nat) (close mine : Bool) : State :=
  let at_ (i : Nat) : Nat := 0x50000 + 4 * j + i
  if j == 0 || 4096 ≤ j then s
  else if close then
    if s.word (at_ 0) == 0 || s.podGrids.any fun p => p.job == j then s
    else
      let s := unitsAgain { s with units := s.units.map fun (u : WUnit) =>
        if u.level == 3 && u.job == j && !u.decided then { u with left := u.left - 1 } else u }
      let s := (List.range 4).foldl (fun s i => setWord s (at_ i) 0) s
      { s with aliases := s.aliases.filter fun a => a.1 != j, saves := s.saves.filter fun x => x.job != j, epochs := s.epochs.filter fun x => x.1 != j }
  else if s.word (at_ 0) != 0 then s
  else
    let coord := ((hwPaRoot s s.job0Root va).map fun pa => s.mem.num (pa + 24) 8).getD 0
    let s := if mine then { s with
        nextId := s.nextId + 1
        units := s.units ++ [{ id := s.nextId, level := 3, parent := 0, job := j, user := false, counter := coord, left := 1, done := [], decided := false }] }
      else s
    let s := setWord (setWord s (at_ 0) (BitVec.ofNat 64 va)) (at_ 1) (BitVec.ofNat 64 coord)
    setWord (setWord s (at_ 2) 0) (at_ 3) (mkSnap 0 0)

/-- Number under which JOBCTL's results are outstanding. -/
def jobOp : Nat := 2 ^ 55

/-- A JOBCTL of this package whose event has been applied (R285). -/
def jobDone (s : State) (va : Nat) (close : Bool) : State :=
  match s.pend.find? fun p => p.kind == .engine jobOp && p.acc.ea.toNat == va && p.acc.x == BitVec.ofNat 64 (b2n close) with
  | some p => complete s p [] 0
  | none => s

/-- PREEMPTCFG (R304). -/
def applyPreemptcfg (s : State) (seq pkg : Nat) (en : Bool) : State :=
  let i := 0x54040 + pkg / 64
  let s := setWord s i (pteSet (s.word i) (pkg % 64) (pkg % 64) (b2n en))
  considerWaiting (if pkg == s.pkg then { s with preemptCtl := pteSet s.preemptCtl 0 0 (b2n en) } else s) seq

/- Tickets (R112). -/

/-- A ticket of this package: the oldest access of the job that waits for one takes it, and is performed in its turn; a SIGWAIT tests its word
again (R112, R232). -/
def applyTicket (s : State) (h : EvHdr) : State :=
  match s.pend.find? fun p => p.kind == .scTicket && s.jobOf p.who.grid == h.job with
  | none => s
  | some p => goOn { setKind s p.id .held with scOut := s.scOut ++ [(true, h.seq, p.id)] }

/- Withdrawal (R422). -/

/-- Every core halts and its contexts, and what its units have under way, are discarded. -/
def haltCores (s : State) : State :=
  { s with
    blocks := [], bars := [], pend := [], writes := [], issuing := none, clusters := [], aside := [], scOut := [], rebuilds := [], copies := []
    xfers := [], sigHeld := []
    colls := [], exchs := [], engAsks := [], engGot := [], opWrites := [], retained := [], inFlight := [], remHeld := [], lineAsks := []
    shoots := [], moves := [], fwds := [], grids := []
    cores := s.cores.map fun (c : Nat × Core) => (c.1, { c.2 with wc := [], staged := [], held := [], snapHeld := false, busy := false })
    dies := s.dies.map fun (d : Nat × Die) => (d.1, { d.2 with tickets := [] }) }

/-- The package withdraws: one record, then nothing further is sent, applied or run until it rejoins (R422). -/
def withdrawSelf (s : State) (code n : Nat) : State :=
  { haltCores (schedRec s code 4 s.pkg n 0 0) with withdrawn := true, rejoin := none }

/- Fencing and loss (R421 to R427). -/

/-- Packages that count: of the pod and not FENCED. -/
def livePkgs (s : State) : List Nat := s.podPkgs.filter fun p => !s.fenced.contains p

/-- Distinct senders that count, of the votes on a package. -/
def voters (s : State) (votes : List (Nat × Nat)) (p : Nat) : Nat :=
  ((livePkgs s).filter fun q => q != p && votes.contains (p, q)).length

/-- The record of a FENCE or LOSS that has become effective, by the lowest-numbered live package (R417). -/
def fencedRec (s : State) (p : Nat) : State :=
  if (livePkgs s).head? == some s.pkg then schedRec s 0x0A04 4 p (tget 0 s.fenceCkpt p) 0 0 else s

/-- FENCE(p) effective: its lease rows become FENCED (R424). A package that waits to rejoin sends its JOIN again (R429). -/
def fenceNow (s : State) (p ckpt : Nat) (tell : Bool) : State :=
  let rows := (leaseRows s).filter fun x => rowPkg x.2 == p
  let s := rows.foldl (fun s x => setWord s x.1 (pteSet x.2 13 12 3)) s
  let s := { s with fenced := s.fenced ++ [p], fenceCkpt := tset s.fenceCkpt p ckpt, fenceSent := s.fenceSent.filter fun q => q != p + 4096 }
  if p == s.pkg then
    { s with
      field := { s.field with diverg := (satAdd 64 s.field.diverg.1 1, s.field.diverg.2) }
      rejoin := s.rejoin.map fun (r : Rejoin) => if r.phase == 2 then { r with phase := 1 } else r }
  else
    let s := if s.withdrawn then s else fencedRec s p
    if tell && !s.withdrawn && !s.fenced.contains s.pkg then sendEvent s (.loss (evHdr s 0) p 0) else s

/-- A kept request goes to the substitute with a new SEQ, a waiting one when there is room (R426, R433); what it carries is known under its new name. -/
def readdress (s : State) (k : Kept) (q : Nat) : State :=
  let p := k.p
  let n := tget 0 s.seqOut (8 * q + p.vc)
  let p' : Packet := { p with dst := q, seq := n % 2 ^ 32, col := s.colour, lvl := freeLevel s s.ringOf }
  let is (d x : Nat) : Bool := d == p.dst && x == p.seq
  let s := { s with
    seqOut := tset s.seqOut (8 * q + p.vc) (n + 1)
    retained := s.retained.map fun (x : Kept) => if x.p == p then { x with p := p', link := pathOf s, at_ := s.now } else x }
  let s := if k.sent then leave s p' (pathOf s) else s
  { s with
    inFlight := s.inFlight.map fun f => if is f.1 f.2.1 then (q, p'.seq, { f.2.2 with peer := q }) else f
    grids := s.grids.map fun (g : Grid) => { g with flushSent := g.flushSent.map fun a => if is a.1 a.2 then (q, p'.seq) else a }
    engAsks := s.engAsks.map fun (a : EngAsk) => if is a.dst a.seq then { a with dst := q, seq := p'.seq } else a
    lineAsks := s.lineAsks.map fun a => if is (a.2.2 / 2 ^ 32) (a.2.2 % 2 ^ 32) then (a.1, a.2.1, 2 ^ 32 * q + p'.seq) else a
    shoots := s.shoots.map fun (x : Shoot) => { x with pkgs := x.pkgs.map fun a => if is a.1 a.2 then (q, p'.seq) else a }
    fwds := s.fwds.map fun (x : Fwd) => if is x.dst x.seq then { x with dst := q, seq := p'.seq } else x
    pend := s.pend.map fun (x : Pend) => match x.kind with
      | .remote asks got => { x with kind := .remote (asks.map fun a => if is a.1 a.2 then (q, p'.seq) else a) got }
      | _ => x }

/-- A transfer toward a package: its remote side lies in that package's partition, or its packets went there. -/
def xferToward (s : State) (p : Nat) (x : Xfer) : Bool :=
  let far := if x.kind == 1 || x.kind == 2 then x.src else x.dst
  (far / 2 ^ 56 == 1 && bits far 55 44 == p) || (s.engAsks.any fun a => a.op == x.op && a.dst == p)
    || s.inFlight.any fun f => f.1 == p && f.2.2.whos.contains (engWho x.op)

/-- This package's own work after LOSS(p) (R426). -/
def ownAfterLoss (s : State) (p : Nat) : State :=
  let xs := (s.xfers.filter (xferToward s p)).map fun x => x.op
  let s := { s with xfers := s.xfers.map fun (x : Xfer) => if xs.contains x.op then xferAgain x else x }
  let s := (s.retained.filter fun k => k.p.dst == p).foldl (fun s k => match aliasOf s k.p.job p with
    | (q, some _) => readdress s k q
    | _ => match substitute s k.p.job with
      | some q => readdress s k q
      | none => s) s
  let s := { s with cores := s.cores.map fun (c : Nat × Core) => (c.1, { c.2 with wc := c.2.wc.map fun (l : WcLine) =>
    if l.peer == p then { l with peer := (aliasOf s l.job p).1 } else l }) }
  let cs := s.colls.filter fun c => c.ranks.contains p
  cs.foldl (fun s c => collEnd s c 3) s

/-- The substitute takes p's position in the list of a job (R293, R425). -/
def aliasJob (s : State) (p q j : Nat) : State :=
  match (jobPkgs s j).findIdx? fun x => x == p with
  | none => s
  | some i =>
    let s := { s with aliases := (s.aliases.map fun a => if a.1 == j && a.2.2.1 == p then (a.1, a.2.1, q, a.2.2.2) else a) ++ [(j, p, q, i)] }
    match jobRecPa s j with
    | some pa => (leBytes q 2).zipIdx.foldl (fun s y => match hwPaRoot s s.job0Root (s.mem.num (pa + 8) 8 + 2 * i + y.2) with
      | some a => { s with mem := s.mem.write a [y.1] }
      | none => s) s
    | none => s

/-- A grid with rows on a lost package (R424): a co-resident one is decided with status FAULT, the share of any other waits to be placed
again. A grid whose origin is lost is the substitute's to decide. -/
def gridAfterLoss (q p : Nat) (s : State) (g : PodGrid) : State :=
  let rows := (rowsOf s g.handle).filter fun x => rowPkg x.2 == p
  let s := if g.origin == p then updPod s g.handle fun x => { x with origin := q } else s
  let s := if g.origin == p && q == s.pkg then
      (match launchAt s g.va g.job (g.job != 0) with
      | (s, .ok (some l)) =>
        { s with subs := s.subs ++ [{ kind := 0, va := g.va, job := g.job, user := g.job != 0, unit := 0, pend := 0, token := 0, sent := true, host := false
                                      l := l, handle := some g.handle }] }
      | (s, _) => s) else s
  if rows.isEmpty then s
  else if bitOf g.flags 0 then
    let s := updPod s g.handle fun x => { x with fault := true }
    let s := if (livePkgs s).head? == some s.pkg && !s.withdrawn then schedRec s 0x0A09 3 p (tget 0 s.fenceCkpt p) g.handle g.job else s
    let s := if (s.grid? g.handle).isSome then cancelGrid s g.handle else originDecides s g.handle 3
    finishIfOver s g.handle
  else
    let n := (rows.map fun x => (rowCores x.2).length).sum
    updPod (countPkgs s g.handle) g.handle fun x => { x with replace_ := x.replace_ + n, moves := x.moves ++ [(p, [])], done := x.done.filter fun y => y != p }

/-- An open epoch of a job that has lost a package aborts (R436, cause 0x0C02). -/
def epochAfterLoss (seq p : Nat) (s : State) (j : Nat) : State :=
  let w := s.jobWord j 3
  if snapSt w != 1 || !(jobPkgs s j).contains p then s
  else
    let manif := (s.snap.map fun x => if x.job == j then x.manif else 0).getD 0
    let s := if lowestOf s j then snapRec s 0x0C02 manif (snapEpoch w) 0 j else s
    abortEpoch s seq j (snapEpoch w)

/-- LOSS(p) effective (R424 to R426, R434, R436). -/
def lossNow (s : State) (seq p : Nat) : State :=
  let s := if s.fenced.contains p then s else fenceNow s p 0 false
  let s := { s with lost := s.lost ++ [p] }
  let s := if s.withdrawn || p == s.pkg then s else fencedRec s p
  let js := openJobs s
  let s := js.foldl (epochAfterLoss seq p) s
  let q (j : Nat) : Nat := (substitute s j).getD s.pkg
  let qs := js.map fun j => (j, q j)
  let q0 := q 0
  let qOf (j : Nat) : Nat := ((qs.find? fun x => x.1 == j).map fun x => x.2).getD q0
  let s := (js.filter fun j => (jobPkgs s j).contains p).foldl (fun s j => aliasJob s p (qOf j) j) s
  -- entries that name p read as P = 0
  let dead (e : Extent) : Extent := if e.pkg == p then { e with v := false } else e
  let s := { s with
    dies := s.dies.map fun (d : Nat × Die) => (d.1, { d.2 with tlb := d.2.tlb.filter fun t => ptePkg t.pte != p })
    grids := s.grids.map fun (g : Grid) => { g with table := g.table.map (List.map dead) }
    blocks := s.blocks.map fun (b : Block) => { b with extents := b.extents.map dead } }
  let s := s.podGrids.foldl (fun s g => gridAfterLoss (qOf g.job) p s g) s
  let s := if s.hold then s else s.podGrids.foldl placeAgain s
  if p == s.pkg || s.withdrawn then s else ownAfterLoss s p

/-- FENCE applied: a counted vote (R423). -/
def applyFence (s : State) (h : EvHdr) (p ckpt : Nat) : State :=
  if s.fenced.contains p then s
  else
    let s := { s with fenceVotes := if s.fenceVotes.contains (p, h.origin) then s.fenceVotes else s.fenceVotes ++ [(p, h.origin)] }
    if (livePkgs s).length < 2 * voters s s.fenceVotes p then fenceNow s p ckpt true else s

/-- LOSS applied: a counted vote (R423). -/
def applyLoss (s : State) (h : EvHdr) (p : Nat) : State :=
  if s.lost.contains p then s
  else
    let s := { s with lossVotes := if s.lossVotes.contains (p, h.origin) then s.lossVotes else s.lossVotes ++ [(p, h.origin)] }
    if (livePkgs s).length < 2 * voters s s.lossVotes p then lossNow s h.seq p else s

/-- JOIN applied: it acts only where p is FENCED, for the first time since the fence, and names an earlier SEQ (R429). -/
def applyJoin (s : State) (h : EvHdr) (p last : Nat) : State :=
  if !s.fenced.contains p || s.fenceSent.contains (p + 4096) then s
  else
    let s := { s with fenceSent := s.fenceSent ++ [p + 4096] }
    if h.seq ≤ last then s
    else
      let s := ((leaseRows s).filter fun x => rowPkg x.2 == p && rowSt x.2 == 3).foldl (fun s x => setWord s x.1 0) s
      let s := { s with
        fenced := s.fenced.filter fun q => q != p, lost := s.lost.filter fun q => q != p, joined := tset s.joined p h.seq
        fenceVotes := s.fenceVotes.filter fun v => v.1 != p, lossVotes := s.lossVotes.filter fun v => v.1 != p
        fenceSent := s.fenceSent.filter fun q => q != p && q != p + 4096 }
      if p == s.pkg then { s with withdrawn := false, rejoin := none, quiet := false } else s

/-- A package's digest of a checkpoint differs from the majority's, or has not come (R421): this package withdraws, or says FENCE. -/
def divergent (s : State) (p ckpt reason : Nat) : State :=
  if s.fenced.contains p || s.fenceSent.contains p || s.withdrawn then s
  else if p == s.pkg then withdrawSelf s 0x0A03 ckpt
  else sendEvent { s with fenceSent := s.fenceSent ++ [p] } (.fence (evHdr s 0) p reason ckpt)

/-- DIGEST applied (R421, R427). -/
def applyDigest (s : State) (h : EvHdr) (c : Nat) (h0 h1 : Word) : State :=
  if s.fenced.contains h.origin || s.digests.any (fun (d : Nat × Nat × Word × Word) => d.1 == c && d.2.1 == h.origin) then s
  else
    let s := { s with digests := s.digests.filter (fun (d : Nat × Nat × Word × Word) => c < d.1 + 1024) ++ [(c, h.origin, h0, h1)] }
    let of_ (v : Word × Word) : List Nat :=
      (s.digests.filter fun (d : Nat × Nat × Word × Word) => d.1 == c && (d.2.2.1, d.2.2.2) == v && (livePkgs s).contains d.2.1).map fun (d : Nat × Nat × Word × Word) => d.2.1
    match s.majority.find? fun (m : Nat × Word × Word) => m.1 == c with
    | some m => if (h0, h1) == m.2 then s else divergent s h.origin c 0
    | none =>
      if (livePkgs s).length < 2 * (of_ (h0, h1)).length then
        let s := { s with majority := s.majority.filter (fun (m : Nat × Word × Word) => c < m.1 + 1024) ++ [(c, h0, h1)] }
        (s.digests.filter fun (d : Nat × Nat × Word × Word) => d.1 == c && (d.2.2.1, d.2.2.2) != (h0, h1)).foldl (fun s d => divergent s d.2.1 c 0) s
      else if (livePkgs s).all fun p => s.digests.any fun (d : Nat × Nat × Word × Word) => d.1 == c && d.2.1 == p then
        if s.hold then s else schedRec { s with hold := true } 0x0A05 4 s.pkg c 0 0
      else s

/-- Packages whose digest of the checkpoint 256 events ago has not come (R421). -/
def missingDigests (s : State) (seq : Nat) : State :=
  let c := seq - 256
  if seq % 64 != 0 || c == 0 then s
  else ((livePkgs s).filter fun p => tget 0 s.joined p ≤ c && !s.digests.any fun d => d.1 == c && d.2.1 == p).foldl
    (fun s p => divergent s p c 1) s

/- Applying (R287, R294, R439). -/

/-- Applied in a hold (R427). -/
def Event.inHold : Event → Bool
  | .cancel _ _ _ | .fault _ _ _ _ _ _ _ _ | .loss _ _ _ | .join _ _ _ _ _ | .fence _ _ _ _ | .digest _ _ _ _ => true
  | _ => false

/-- REBALANCE: on CLOSE the package's threads depart (R334). -/
def applyRebalance (s : State) (g kind : Nat) : State :=
  if kind == 2 && (s.grid? g).isSome && (exchOf s g).imaged then exchDepart s g else s

/-- What an event does (R288). -/
def effect (s : State) : Event → State
  | .submit h va c flags => applySubmit s h va.toNat c flags.toNat
  | .admission h g => applyAdmit s h.seq g
  | .finish h g pkg => applyFinish s h.seq g pkg
  | .block h g => applyBlock s h.seq g
  | .unblock h g => applyUnblock s h.seq g
  | .cancel h va lv => applyCancel s h va.toNat lv
  | .fault h _ g _ _ _ _ _ => applyFault s h g
  | .loss h p _ => applyLoss s h p
  | .join h p last _ _ => applyJoin s h p last
  | .fence h p _ c => applyFence s h p c
  | .digest h c h0 h1 => applyDigest s h c h0 h1
  | .rebalance _ g kind _ _ _ _ _ _ => applyRebalance s g kind
  | .snapcommit h e _ manif kind =>
    if kind == 0 then commitEpoch s h.seq h.job e
    else if kind == 1 then rollEpoch s h.seq h.job e manif.toNat
    else if kind == 2 then abortEpoch s h.seq h.job e
    else s
  | .snapopen h va e => snapopen s h.seq h.job va.toNat e h.origin
  | .ticket h => if h.origin == s.pkg then applyTicket s h else s
  | .job h va close =>
    let s := applyJob s h.job va.toNat close (h.origin == s.pkg)
    if h.origin == s.pkg then jobDone s va.toNat close else s
  | .preemptcfg h pkg en => applyPreemptcfg s h.seq pkg en
  | .reserved h _ => schedRec s 0x0A02 2 h.origin 0 0 0

/-- The test hook fires after the event with its number (R439). -/
def fireHook (s : State) (seq : Nat) : State :=
  match s.hook with
  | some (n, i, m) => if n == seq && m != 0 && i < wordCount then { setWord s i (s.word i ^^^ m) with hook := none } else s
  | none => s

/-- The digest of a checkpoint is published (R294). -/
def publish (s : State) (seq : Nat) : State :=
  if seq % 64 != 0 || s.quiet || s.withdrawn then s
  else sendEvent s (.digest (evHdr s 0) seq (podDigest s seed0) (podDigest s seed1))

/-- Requests whose answer was withheld until their grid was decided (R410). -/
def releaseHeld (s : State) : State :=
  let ended (w : Nat × Nat × Packet) : Bool :=
    if w.1 == 2 ^ 32 then !(s.podGrids.any fun p => p.job == w.2.1) && !(s.grids.any fun g => g.l.job == w.2.1) else (s.pod? w.1).isNone
  (s.withheld.filter ended).foldl (fun s w => answer s w.2.2 7 (ackFs w.2.2 0 0 0) [] []) { s with withheld := s.withheld.filter fun w => !ended w }

/-- One event applied: its effect, the missing digests, the hook, the digest; then this package enacts the rows that name it. -/
def applyEvent (s : State) (e : Event) : State :=
  let s := { s with podSeq := e.seq, evTail := (e :: s.evTail).take 65536, evBuf := s.evBuf.filter fun x => x.seq != e.seq }
  let s := if s.hold && !e.inHold then s else effect s e
  let s := { s with
    outRetx := s.outRetx ++ (s.tailFor.filter fun x => x.2.1 ≤ e.seq && e.seq ≤ x.2.2).map fun x => (x.1, e)
    tailFor := s.tailFor.filter fun x => e.seq < x.2.2 }
  let s := publish (fireHook (missingDigests s e.seq) e.seq) e.seq
  if s.withdrawn then s else releaseHeld (enact s)

/-- No event is applied between a SNAPOPEN and the local cut, but for those up to the CLOSE of an open exchange (R339). -/
def mayApply (s : State) : Bool :=
  match s.snap with
  | some sn => sn.phase != 0 || (jobGrids s sn.job).any fun g => exchOpen s g.handle
  | none => true

/-- Buffered events applied in SEQ order while none is missing (R287, R419). -/
def applyAll : Nat → State → State
  | 0, s => s
  | fuel + 1, s =>
    if !mayApply s || (s.withdrawn && s.rejoin.all fun r => r.phase == 0) then s
    else match s.evBuf.find? fun e => e.seq == s.podSeq + 1 with
      | some e => applyAll fuel (applyEvent s e)
      | none => s

/- Rejoin (R428). -/

/-- The neighbours asked in turn: the live packages of the leaf group, then those of the pod, ascending. -/
def neighbours (s : State) : List Nat :=
  let g := max 1 (at_ s.config 58 2)
  let live := (livePkgs s).filter fun p => p != s.pkg
  let near := live.filter fun p => p / g == s.pkg / g
  if near.isEmpty then live else near

/-- IREQ to a neighbour (R428, R431). -/
def askImage (s : State) (f n : Nat) : State :=
  sendMgmt { s with rejoin := s.rejoin.map fun (r : Rejoin) => { r with phase := 0, first := some f, asked := some n, chunks := [] } }
    { mtype := 4, origin := s.pkg, link := pathOf s, a := BitVec.ofNat 64 f, b := BitVec.ofNat 32 (n <<< 16), data := [] }

/-- The next neighbour after one, in ascending order of the pod's packages. -/
def nextNeighbour (s : State) (n : Nat) : Option Nat :=
  let live := (livePkgs s).filter fun p => p != s.pkg
  (live.find? fun p => n < p).or live.head?

/-- JOIN is sent once the package has no gap and is within 64 of the highest SEQ it knows (R428). -/
def joinIfCaught (s : State) : State :=
  match s.rejoin with
  | some r =>
    if r.phase == 1 && s.evKnown ≤ s.podSeq + 64 && !(s.evBuf.any fun e => s.podSeq < e.seq) then
      sendEvent { s with rejoin := some { r with phase := 2 } }
        (.join (evHdr s 0) s.pkg s.podSeq (podDigest s seed0) (podDigest s seed1))
    else s
  | none => s

/- Receipt (R287, R419). -/

/-- A gap is open where the next event is missing and a later one is known; its handling starts over when it moves. -/
def noteGap (before : Nat) (s : State) : State :=
  let missing := s.podSeq < s.evKnown && !(s.evBuf.any fun e => e.seq == s.podSeq + 1)
  let keeps := missing && s.gap.isSome && s.podSeq == before
  -- the length of a gap that has closed is counted (R454)
  let s := match s.gap with
    | some (t, _) =>
      if keeps then s
      else
        let us := (s.now - t) / 800
        { s with field := { s.field with gaps := countAt 32 s.field.gaps (if us ≤ 1 then 0 else min 15 (log2 us)) } }
    | none => s
  { s with gap := if !missing then none else if keeps then s.gap else some (s.now, 0) }

/-- Buffered events are applied as far as they can be, and what waited goes on. -/
def runEvents (s : State) : State :=
  let n := s.podSeq
  let s := joinIfCaught (applyAll (s.evBuf.length + 1) s)
  let s := noteGap n s
  if s.withdrawn || s.podSeq == n then s else carryOn s

/-- An event arrives: a duplicate is discarded; it waits for those before it (R287, R419). -/
def recvEvent (s : State) (e : Event) : State :=
  if s.withdrawn && s.rejoin.isNone then s
  else
    let s := { s with evKnown := max s.evKnown e.seq }
    let early := s.rejoin.any fun r => r.phase == 0
    if (!early && e.seq ≤ s.podSeq) || (s.evBuf.any fun x => x.seq == e.seq) then s
    else
      let s := { s with evBuf := s.evBuf ++ [e] }
      match s.rejoin with
      | some r =>
        if r.phase == 0 then (match r.first, (neighbours s).head? with
          | none, some n => askImage s e.seq n
          | _, _ => s)
        else runEvents s
      | none => runEvents s

/- The events as happenings (R288). -/

/-- SUBMIT (R289). -/
def execSubmitEvent (h : EvHdr) (va : Va) (c : Nat) (flags : Byte) (s : State) : Host.Outcome State Fault Refusal :=
  .next (recvEvent s (.submit h va c flags))

/-- ADMIT (R295). -/
def execAdmitEvent (h : EvHdr) (grid : Nat) (s : State) : Host.Outcome State Fault Refusal := .next (recvEvent s (.admission h grid))

/-- FINISH (R289). -/
def execFinishEvent (h : EvHdr) (grid pkg : Nat) (s : State) : Host.Outcome State Fault Refusal := .next (recvEvent s (.finish h grid pkg))

/-- BLOCK (R296). -/
def execBlockEvent (h : EvHdr) (grid : Nat) (s : State) : Host.Outcome State Fault Refusal := .next (recvEvent s (.block h grid))

/-- UNBLOCK (R296). -/
def execUnblockEvent (h : EvHdr) (grid : Nat) (s : State) : Host.Outcome State Fault Refusal := .next (recvEvent s (.unblock h grid))

/-- CANCEL (R51, R284). -/
def execCancelEvent (h : EvHdr) (va : Va) (lv : Level) (s : State) : Host.Outcome State Fault Refusal := .next (recvEvent s (.cancel h va lv))

/-- FAULT (R382). -/
def execFaultEvent (h : EvHdr) (code grid core rung : Nat) (addr : Word) (bidx seq : Nat) (s : State) : Host.Outcome State Fault Refusal :=
  .next (recvEvent s (.fault h code grid core rung addr bidx seq))

/-- LOSS (R423 to R426). -/
def execLossEvent (h : EvHdr) (pkg reason : Nat) (s : State) : Host.Outcome State Fault Refusal := .next (recvEvent s (.loss h pkg reason))

/-- JOIN (R429). -/
def execJoinEvent (h : EvHdr) (pkg last : Nat) (h0 h1 : Word) (s : State) : Host.Outcome State Fault Refusal :=
  .next (recvEvent s (.join h pkg last h0 h1))

/-- FENCE (R423, R424). -/
def execFenceEvent (h : EvHdr) (pkg reason ckpt : Nat) (s : State) : Host.Outcome State Fault Refusal :=
  .next (recvEvent s (.fence h pkg reason ckpt))

/-- DIGEST (R421, R427). -/
def execDigestEvent (h : EvHdr) (ckpt : Nat) (h0 h1 : Word) (s : State) : Host.Outcome State Fault Refusal :=
  .next (recvEvent s (.digest h ckpt h0 h1))

/-- REBALANCE (R334, R335). -/
def execRebalanceEvent (h : EvHdr) (grid kind gen spkg dpkg nch rank0 slot0 : Nat) (s : State) : Host.Outcome State Fault Refusal :=
  .next (recvEvent s (.rebalance h grid kind gen spkg dpkg nch rank0 slot0))

/-- SNAPCOMMIT (R346, R349, R436). -/
def execSnapcommitEvent (h : EvHdr) (epoch cutSeq : Nat) (manif : Va) (kind : Nat) (s : State) : Host.Outcome State Fault Refusal :=
  .next (recvEvent s (.snapcommit h epoch cutSeq manif kind))

/-- SNAPOPEN (R337, R339). -/
def execSnapopenEvent (h : EvHdr) (va : Va) (epoch : Nat) (s : State) : Host.Outcome State Fault Refusal :=
  .next (recvEvent s (.snapopen h va epoch))

/-- TICKET (R112). -/
def execTicketEvent (h : EvHdr) (s : State) : Host.Outcome State Fault Refusal := .next (recvEvent s (.ticket h))

/-- JOB (R293). -/
def execJobEvent (h : EvHdr) (va : Va) (close : Bool) (s : State) : Host.Outcome State Fault Refusal := .next (recvEvent s (.job h va close))

/-- PREEMPTCFG (R304). -/
def execPreemptcfgEvent (h : EvHdr) (pkg : Nat) (en : Bool) (s : State) : Host.Outcome State Fault Refusal :=
  .next (recvEvent s (.preemptcfg h pkg en))

/-- An event with a reserved TYPE: skipped, with one record (R288, R417 cause 0x0A02). -/
def execReservedEventType (h : EvHdr) (typ : Nat) (s : State) : Host.Outcome State Fault Refusal := .next (recvEvent s (.reserved h typ))

end Sys2Proof.Machine
end

