-- ==== Sys2Proof/Machine/System.lean ====
section
/-! DEFINITION. The SYS instructions (R157, R285, R286, R379, R413, R432) but ROLLBACK, the system registers (R15, R20, R69, R74, R290, R304,
R307, R313, R375), and the happenings PREEMPT_CTL_WRITE, SHOOTDOWN_ACK and RELEASE. -/

namespace Sys2Proof.Machine

open Sys2Proof

/- System registers. -/

/-- CORE_ID (R14, R15). -/
def coreId (core : Nat) : Word :=
  BitVec.ofNat 64 (dieOf core <<< 22 + (core % 208 / 4) <<< 16 + (core % 4) <<< 14 + core)

/-- DIE_ID (R15). -/
def dieId (die : Nat) : Word := BitVec.ofNat 64 (b2n (die == 0) <<< 2 + die)

/-- SHELF_STAT (R307). DESIGN CHOICE (log 75): a carve-out of more than 64 MiB can pass the 16 bits of OVER, which then counts modulo 2^16. -/
def shelfStat (k : Core) : Word :=
  let blocks := k.held.foldl (fun (acc : List (Nat × Nat)) h => if acc.contains (h.1, h.2.1) then acc else acc ++ [(h.1, h.2.1)]) []
  BitVec.ofNat 64 (shelfK k <<< 32 + (carveK k % 2 ^ 16) <<< 16 + (blocks.length % 256) <<< 8 + b2n k.snapHeld <<< 1 + b2n k.busy)

/-- A system register as a core reads it (R157). -/
def readSys (s : State) (core r : Nat) : Word :=
  let k := s.core core
  match r with
  | 0x000 => coreId core
  | 0x001 => dieId (dieOf core)
  | 0x002 => s.pkgId
  | 0x003 => BitVec.ofNat 64 s.podSeq
  | 0x010 => (s.die (dieOf core)).faultq
  | 0x011 => shelfStat k
  | 0x012 => wsRefresh s (dieOf core)
  | 0x013 => s.preemptCtl
  | 0x014 => s.placeWeights
  | 0x015 => s.linkStat
  | 0x100 => k.perfIssue
  | 0x101 => k.perfStallSp
  | 0x102 => k.perfStallMem
  | 0x103 => k.perfForm
  | _ => 0

/-- The bits of v where mask is 1, of the old value elsewhere. -/
def maskedWord (mask old v : Word) : Word := (v &&& mask) ||| (old &&& ~~~mask)

/-- A write of PREEMPT_CTL: CARVE and CMIB at once; a new EN asks for a PREEMPTCFG event (R304). -/
def writePreemptCtl (s : State) (v : Word) : State :=
  let old := s.preemptCtl
  let s := { s with preemptCtl := maskedWord 0x00003FFFF000FF00 old v }
  if v.getLsbD 0 != old.getLsbD 0 then sendEvent s (.preemptcfg (evHdr s 0) s.pkg (v.getLsbD 0)) else s

/-- A system register written by a core; RO fields ignore the write (R7). -/
def writeSys (s : State) (core r : Nat) (v : Word) : State :=
  match r with
  | 0x010 => s.updDie (dieOf core) fun d => { d with faultq := maskedWord 0x00000FFFFFFFFFC0 d.faultq v }
  | 0x013 => writePreemptCtl s v
  | 0x014 => { s with placeWeights := maskedWord 0xFFFFFFF0FFFF0003 s.placeWeights v }
  | 0x100 => s.updCore core fun k => { k with perfIssue := v }
  | 0x101 => s.updCore core fun k => { k with perfStallSp := v }
  | 0x102 => s.updCore core fun k => { k with perfStallMem := v }
  | 0x103 => s.updCore core fun k => { k with perfForm := v }
  | _ => s

/-- MFS (R157, R285). -/
def execMfs (d : Reg) (r : BitVec 9) (s : State) : Host.Outcome State Fault Refusal :=
  onLanes (.mfs d r) s fun b _ _ th => th.setReg d (readSys s b.core r.toNat)

/-- MTS: active lanes write in ascending TID (R157, R285). -/
def execMts (r : BitVec 9) (a : Reg) (s : State) : Host.Outcome State Fault Refusal :=
  runLanes (.mts r a) s (fun _ _ s _ _ => (s, .go)) fun b _ s _ th => (writeSys s b.core r.toNat (th.reg a), [])

/-- PREEMPT_CTL_WRITE: PREEMPT_CTL takes a value (R304). -/
def execPreemptCtlWrite (v : Word) (s : State) : Host.Outcome State Fault Refusal := .next (writePreemptCtl s v)

/- Traps and stops. -/

/-- TRAP n: taken when the clause has ended (R372, R373). -/
def execTrap (n : BitVec 9) (s : State) : Host.Outcome State Fault Refusal :=
  onLanes (.trap n) s fun _ g _ th => { th with trapAfter := th.trapAfter.or (some (n.toNat, g.hdr, g.idx)) }

/-- The frame of a thread as ERET reads it: PC and mode, or the fault of the read (R374). -/
def readFrame (s : State) (b : Block) (th : Thread) : Except Nat (Word × Bool) :=
  let va := frameVa s b th.tid
  match hwPa s (s.jobOf b.grid) va with
  | none => .error 0x0401
  | some pa =>
    if s.mem.bad pa 4 || s.mem.bad (pa + 16) 8 then .error 0x0501
    else .ok (BitVec.ofNat 64 (s.mem.num (pa + 16) 8), bitOf (s.mem.num (pa + 2) 2) 3)

/-- An access that issues its instruction again when its page is there. -/
def againAcc : Acc := { op := .reissue, ea := 0, x := 0, y := 0, d := 0, k := 7, l := 0 }

/-- ERET: the thread goes on at the frame's PC in the frame's mode; its clause ends for it (R285, R373). -/
def execEret (s : State) : Host.Outcome State Fault Refusal :=
  withTargetsIn .eret s (fun b _ s th => match readFrame s b th with
    | .ok (pc, priv) => some (pc, !priv)
    | .error _ => none) fun s => runLanes .eret s
    (fun b _ s _ th => match readFrame s b th with
      | .error c =>
        (s, .fault [{ tid := th.tid, code := c, addr := frameVa s b th.tid, detail := 0, acc := againAcc }])
      | .ok (pc, priv) => match targetFault s b (!priv) pc with
        | (s, some c) => (s, .fault [{ tid := th.tid, code := c, addr := pc.toNat, detail := 0, acc := againAcc }])
        | (s, none) => (s, .go))
    fun b g s _ th => match readFrame s b th with
      | .error _ => (s, [])
      | .ok (pc, priv) =>
        let s := s.updBlock b.grid b.bidx fun b => dropMember b g.gid th.tid
        -- the clause ends for the thread: YIELD and PRI of that clause act now (R128, R183)
        (s.updThread (trefOf b th) fun (t : Thread) =>
          { t with pc := pc.extractLsb' 0 57, priv := priv, status := if t.yieldAfter then .yielded else .ready
                   goto := none, met := false, readySince := s.now, starving := false, trapAfter := none, yieldAfter := false
                   until_ := if t.yieldAfter then s.now + 32 else t.until_
                   ageMark := if hPri g.header == 1 || t.yieldAfter then s.now else t.ageMark }, [])

/-- Every active lane stops after the instruction until a RELEASE frees it: PARKED at BKPT, SHELVED at HALT (R432). -/
def stopLanes (s : State) (b : Block) (g : Group) (n : Nat) (st : Status) : State :=
  let tids := (activeLanes b g).map fun m => m.2.tid
  let gid := s.nextId
  let sub : Group := { stepGroup g n [] with gid := gid, members := g.members.filter (fun m => m.active), parked := true }
  let s := { s.updBlock b.grid b.bidx (fun b =>
      { b with
        groups := (replaceFirst (fun (x : Group) => x.gid == g.gid)
          (fun (x : Group) => { x with members := x.members.filter fun m => !m.active }) b.groups) ++ [sub]
        threads := b.threads.map fun (th : Thread) =>
          if tids.contains th.tid then { th with status := st, kept := st, parked := [(stopTok, againAcc)] } else th }) with nextId := gid + 1 }
  settleGroup s.idle b.grid b.bidx g.gid

/-- BKPT: one queue record with CODE 0x0D01 and DETAIL n (R285, R432). -/
def execBkpt (n : BitVec 9) (s : State) : Host.Outcome State Fault Refusal :=
  issue (.bkpt n) s fun b g =>
    let ls := activeLanes b g
    let r := threadRec s b g.hdr g.idx ((ls.head?.map fun m => m.2.tid).getD 0) 0x0D01 0 (BitVec.ofNat 64 n.toNat) ls.length
    stopLanes (if ls.isEmpty then s else queueRec s (dieOf b.core) { r with flags := 1 }) b g (Instr.len (.bkpt n)) .parked

/-- HALT (R285, R432). -/
def execHalt (s : State) : Host.Outcome State Fault Refusal :=
  issue .halt s fun b g => stopLanes s b g (Instr.len .halt) .shelved

/-- The stop of a thread is released: it goes on with the next instruction, on resume where its block is not running (R432). -/
def releaseStops (s : State) (core : Nat) (p : Block → Thread → Bool) : State :=
  (s.blocks.filter fun b => b.core == core).foldl (fun s b =>
    let hit (th : Thread) : Bool := p b th && th.parked.any fun x => x.1 == stopTok
    if !(b.threads.any hit) then s
    else
      let s := s.updBlock b.grid b.bidx fun (b : Block) =>
        { b with threads := b.threads.map fun (th : Thread) =>
            if hit th then { th with parked := th.parked.map fun (x : Nat × Acc) => if x.1 == stopTok then (closedTok, x.2) else x
                                     kept := if th.kept == .shelved then .parked else th.kept } else th }
      match s.block? b.grid b.bidx with
      | some b => if b.place == 0 then reexecBlock (fun t => t == closedTok) s b else s
      | none => s) s

/-- RELEASE: a management flit names a stopped thread of this package, or every one of a core; for another package it is sent on
(R431, R432). -/
def execRelease (a : Word) (target : Nat) (s : State) : Host.Outcome State Fault Refusal :=
  .next (if target != s.pkg then
      sendMgmt s { mtype := 7, origin := 0xFFF, link := pathOf s, a := a, b := BitVec.ofNat 32 target, data := [] }
    else
      let n := a.toNat
      carryOn (releaseStops s (bits n 9 0) fun b th => bitOf n 21 || (slotOf b th.tid == bits n 15 10 && th.tid % 32 == bits n 20 16)))

/- Parked accesses and translations. -/

/-- REPLAY: by page every open entry of the page, by token the entry with that token (R379). -/
def execReplay (a : Reg) (tok : Bool) (s : State) : Host.Outcome State Fault Refusal :=
  runLanesThen (.replay a tok) s (fun _ _ s _ _ => (s, .go)) (fun _ _ s _ th =>
    let x := (th.reg a).toNat
    let es := openEntries s fun d w => if tok then w.tok d == x % 2 ^ 32 else w.page == x / 2 ^ 16
    (es.foldl (fun s e => closeEntry s e.1 e.2) s, [])) fun _ _ s => carryOn s

/-- SHOOT: a shootdown at each die and package named; the thread waits for their acknowledgements (R62, R285). -/
def execShoot (a : Reg) (sc : BitVec 2) (s : State) : Host.Outcome State Fault Refusal :=
  runLanes (.shoot a sc) s (fun _ _ s _ _ => (s, .go)) fun b g s _ th =>
    let va := (th.reg a).toNat % 2 ^ 57
    let op := s.nextId
    let job := s.jobOf b.grid
    let die := dieOf b.core
    let others := if sc == 3 then (jobPkgs s job).filter fun p => p != s.pkg else []
    let (s, asks) := others.foldl (fun (x : State × List (Nat × Nat)) p =>
      let (s, pk) := sendPacket x.1 { blankPacket with
        typ := 8, dst := p, n := 1, base := BitVec.ofNat 64 (va / 2 ^ 16 * 2 ^ 16), job := job, tspec := tspecOf [(0, 1, 41)] }
      (s, x.2 ++ [(p, pk.seq)])) ({ s with nextId := op + 1 }, [])
    let s := { s with shoots := s.shoots ++ [{ id := op, page := va / 2 ^ 16, core := if sc == 0 then some b.core else none
                                               dies := if sc.toNat ≤ 1 then [die] else [0, 1, 2, 3], pkgs := asks }] }
    addPlain s b g th 0 7 0 (.engine op)

/-- SHOOTDOWN_ACK: a die's translation agent has invalidated what a shootdown names, and acknowledges it (R62). -/
def execShootdownAck (die id : Nat) (s : State) : Host.Outcome State Fault Refusal :=
  .next (match s.shoots.find? fun x => x.id == id && x.dies.contains die with
    | none => s
    | some x =>
      let s := shootAny s x.page (fun d => d == die) fun c => dieOf c == die && (match x.core with
        | some k => c == k
        | none => true)
      shootsAgain { s with shoots := s.shoots.map fun (y : Shoot) => if y.id == id then { y with dies := y.dies.filter fun d => d != die } else y })

/- The scheduler (R285, R293, R296). -/

/-- COMPL of a pod grid of a job: of the grid here, of the record as submitted here, else as its record reads; and what is still to be read of
that, as VA and package. -/
def podCompl (s : State) (p : PodGrid) : State × Option Nat × Option (Nat × Nat) :=
  match (s.grid? p.handle).filter fun g => g.loaded, s.subs.find? fun x => x.handle == some p.handle with
  | some g, _ => (s, some g.l.compl, none)
  | none, some x => (s, some x.l.compl, none)
  | none, none => match readAs s 0 p.job (p.va + 80) (p.job != 0) 0x0506 8 with
    | (s, .ok bs) => (s, some (leNat bs), none)
    | (s, .error e) => (s, none, if e.code == 0 then some (e.va, e.detail.toNat) else none)

/-- The pod's grids of a job, or of any for job 0, with their counters; some must first be read from other packages. -/
def podCompls (s : State) (job : Nat) : State × List (PodGrid × Nat) × Bool :=
  (s.podGrids.filter fun p => ofJob job p.job).foldl (fun (x : State × List (PodGrid × Nat) × Bool) p => match podCompl x.1 p with
    | (s, some c, _) => (s, x.2.1 ++ [(p, c)], x.2.2)
    | (s, none, some (va, q)) => (dispAsk s p.job (p.job != 0) va q, x.2.1, true)
    | (s, none, none) => (s, x.2)) (s, [], false)

/-- What the dispatcher had read from other packages is let go, unless something else still awaits such a line. -/
def dropAsked (s : State) : State :=
  if (s.engAsks.any fun a => a.op == dispOp) || (s.subs.any fun x => x.token == askTok) || s.grids.any fun g => !g.loaded then s
  else { s with engGot := s.engGot.filter fun y => y.1 != dispOp }

/-- PREEMPT: BLOCK or UNBLOCK goes to the pod for the grid of the counter, once the records that other packages hold have been read (R285,
R296). -/
def execPreempt (a : Reg) (resume : Bool) (s : State) : Host.Outcome State Fault Refusal :=
  let go (s : State) : Host.Outcome State Fault Refusal :=
    runLanesThen (.preempt a resume) s (fun _ _ s _ _ => (s, .go)) (fun b _ s _ th =>
      let (s, cs, _) := podCompls s (s.jobOf b.grid)
      ((cs.filter fun c => c.2 == (th.reg a).toNat).foldl (fun s c =>
        sendEvent s (if resume then .unblock (evHdr s c.1.job) c.1.handle else .block (evHdr s c.1.job) c.1.handle)) s, []))
      fun _ _ s => dropAsked s
  match s.cur? with
  | none => go s
  | some (b, g) =>
    if (entryFault s b g (.preempt a resume)).isSome then go s
    else
      let (s, _, waits) := podCompls s (s.jobOf b.grid)
      if waits then .next (waitAccept s b) else go s

/-- JOBCTL: the event of the job the record names; the thread waits until this package has applied it (R285, R293). -/
def execJobctl (a : Reg) (close : Bool) (s : State) : Host.Outcome State Fault Refusal :=
  runLanes (.jobctl a close) s
    (fun _ _ s _ th =>
      let va := (th.reg a).toNat % 2 ^ 57
      let bad (c : Nat) : LaneCheck := .fault [{ tid := th.tid, code := c, addr := va, detail := 0, acc := againAcc }]
      match hwPa s 0 va with
      | none => (s, bad 0x0401)
      | some pa => if s.mem.bad pa 2 then (s, bad 0x0501) else (s, .go))
    fun b g s _ th =>
      let va := (th.reg a).toNat % 2 ^ 57
      let job := ((hwRead s 0 va 2).getD 0) % 4096
      addNamed (sendEvent s (.job (evHdr s job) (BitVec.ofNat 57 va) close)) b g th 0 7 0 (.engine jobOp) (BitVec.ofNat 64 va)
        (BitVec.ofNat 64 (b2n close))

/- LDRAW (R286, R413). -/

/-- What the inner code finds when a granule is read is a free value (log 10): bits 3:0 of the draw bits corrected (BITS, CE), bit 4 whether the
line is stored compressed, bit 5 whether the read cannot be corrected. A poisoned granule has been encoded again, and reads without error (R412). -/
def innerDraw (s : State) (pa : Nat) : Nat × Bool × Bool :=
  let w := (Config.freeWord (s.free + pa)).toNat
  let bad := s.mem.poison.contains (pa / 8)
  let ue := bitOf w 5 && !bad
  (if bad || ue then 0 else bits w 3 0, bitOf w 4, ue)

/-- The DRAM row of a PA: which granules form a row of a stack the manual leaves open (log 10). -/
def dramRow (pa : Nat) : Nat := pa / 2 ^ 36 + 8 * (Config.dramRow pa).toNat

/-- The inner-code status word of a granule whose reading has corrected and found something (R413). -/
def innerStatus (s : State) (pa nbits : Nat) (comp ue : Bool) : Word :=
  BitVec.ofNat 64 (tget 0 s.rowCe (dramRow pa) <<< 24 + (tget 0 s.scrubs (pa / 2 ^ 36) % 256) <<< 16 + nbits <<< 4
    + b2n comp <<< 3 + b2n (s.mem.poison.contains (pa / 8)) <<< 2 + b2n ue <<< 1 + b2n (nbits != 0))

/-- An uncorrectable granule: POISON, the seal of its data at its PA with bit 0 turned, and MEMORY cause 0x11 at the die that owns the
stack (R412). -/
def poisonGranule (s : State) (pa : Nat) (d : BitVec 64) : State :=
  let s := { s with mem := s.mem.writeGranule (pa / 8) (leBytes d.toNat 8) 1 }
  let s := { s with mem := { s.mem with poison := markSet s.mem.poison (pa / 8) true } }
  queueRec s (homeDie pa) (unitRec s 0x0611 (BitVec.ofNat 64 pa) (innerStatus s pa 0 (innerDraw s pa).2.1 true) 0 0)

/-- Errors of a stack counted in the field records (R454). -/
def stackFound (s : State) (stack ce ue : Nat) : State :=
  { s with field := { s.field with stackFlds := s.field.stackFlds.zipIdx.map fun x =>
      if x.2 == stack then (satAdd 64 x.1.1 ce, satAdd 32 x.1.2.1 ue, satAdd 32 x.1.2.2 ue) else x.1 } }

/-- n corrected errors more of a row in this scrub pass, the last one of `nbits` bits; the sixteenth of a pass makes one record (R409, R413). -/
def rowErrors (s : State) (pa n nbits : Nat) : State :=
  let old := tget 0 s.rowCe (dramRow pa)
  let s := { s with rowCe := tset s.rowCe (dramRow pa) (min 255 (old + n)) }
  if 16 ≤ old || old + n < 16 then s
  else queueRec s (homeDie pa) (unitRec s 0x0610 (BitVec.ofNat 64 pa) (innerStatus s pa (min 15 nbits) (innerDraw s pa).2.1 false) 0 0)

/-- What LDRAW reads, and what its reading does: with sel 2 a correction counts for its row, and an uncorrectable granule is poisoned, its data
being what the logic die then holds, a free value (R286, R412, R413). -/
def rawRead (s : State) (pa sel : Nat) : State × Word :=
  match sel with
  | 0 => (s, BitVec.ofNat 64 (s.mem.num pa 8))
  | 1 => (s, (s.mem.sealOf (pa / 8)).zeroExtend 64)
  | _ =>
    let (n, comp, ue) := innerDraw s pa
    let s := stackFound s (pa / 2 ^ 36) (b2n (n != 0)) (b2n ue)
    let t := if ue then poisonGranule s pa (Config.freeWord (s.free + pa + 2 ^ 39)) else if n != 0 then rowErrors s pa 1 n else s
    ({ t with free := t.free + 2 ^ 40 }, innerStatus t pa n comp ue)

/-- LDRAW: no seal is checked; an unpopulated or misaligned PA writes 0 and faults with ADDRESS cause 0x0A (R286, R402). -/
def execLdraw (d a : Reg) (sl : BitVec 2) (s : State) : Host.Outcome State Fault Refusal :=
  runLanesThen (.ldraw d a sl) s
    (fun b _ s _ th =>
      let pa := (th.reg a).toNat % 2 ^ 39
      if populated pa && pa % 8 == 0 then (s, .go)
      else (s.updThread (trefOf b th) fun t => t.setReg d 0,
        .fault [{ tid := th.tid, code := 0x040A, addr := pa, detail := 0, acc := againAcc }]))
    (fun b _ s _ th =>
      let (s, v) := rawRead s ((th.reg a).toNat % 2 ^ 39) sl.toNat
      (s.updThread (trefOf b th) fun t => t.setReg d v, []))
    fun _ _ s => s

end Sys2Proof.Machine
end

