-- ==== Sys2Proof/Machine/Upkeep.lean ====
section
/-! DEFINITION. Happenings of the package's units: fault queues (R375 to R377, R383), weight-store refresh (R74), page walks (R59), counting
windows (R68), the end of placement copies (R70, R409), scrub passes (R412, R413). -/

namespace Sys2Proof.Machine

open Sys2Proof

/- Fault queues (R375 to R377). -/

/-- The grid of a thread's record had been decided when the record is written (R377, R383). -/
def orphan (s : State) (r : FRec) : Bool :=
  r.core != 0x3FF && !(s.grids.any fun g => g.handle % 2 ^ 16 == r.grid % 2 ^ 16 && !g.decided)

/-- FAULT_QUEUE_WRITE: the oldest waiting record of the die is written at slot HEAD, HEAD rises and NOTIFY is decremented; while the queue is
off or full it waits (R376). -/
def execFaultQueueWrite (die : Nat) (s : State) : Host.Outcome State Fault Refusal :=
  .next (
    let d := s.die die
    let q := d.faultq.toNat
    let base := faultqBase s die
    let e := 2 ^ (bits q 43 40 + 6)
    match d.holding with
    | [] => s
    | r :: rest =>
      let head := s.mem.num base 8
      if !bitOf q 39 || !populated base || head - s.mem.num (base + 8) 8 ≥ e then s
      else
        let count := match r.entry.bind fun i => d.waits.find? fun w => w.index == i && w.tok die == r.token with
          | some w => w.count
          | none => r.count
        let r := if orphan s r then { r with flags := r.flags ||| 4 } else r
        let bs := recBytes s r count d.lost
        let s := s.updDie die fun d => { d with holding := rest, lost := false }
        let s := memPut s (base + 64 * (1 + head % e)) bs
        let s := memPut s base (leBytes (head + 1) 8)
        carryOn (signalDoneAt s die 0 false (s.mem.num (base + 16) 8) 0))

/- The weight store's refresh (R74, R218). -/

/-- WS_REFRESH_WINDOW: dt cycles on, a bank group of the die enters or leaves its window; loads whose group's window has ended are performed, with
their checks (R74, R76). -/
def execWsRefreshWindow (die dt : Nat) (s : State) : Host.Outcome State Fault Refusal :=
  .next (
    let t := { s with now := s.now + dt }
    let c := wsClock t die
    if !(List.range 8).any fun g => c == 4000 * g || c == 4000 * g + 960 then s
    else goOn { t with pend := t.pend.map fun (p : Pend) => match p.kind with
      | .refresh off _ =>
        let mine := (t.block? p.who.grid p.who.bidx).any fun b => dieOf b.core == die
        if mine && !wsBusy t die (off / 2 ^ 16 % 8) then { p with kind := .held } else p
      | _ => p })

/- Translation and counting (R59, R68). -/

/-- PAGE_WALK: the die's page walker has walked the three levels; a present leaf entry is cached (R59, R62). -/
def execPageWalk (die job : Nat) (va : Va) (s : State) : Host.Outcome State Fault Refusal := .next (agentLookup s die job va.toNat).1

/-- HEAT_WINDOW: 2^20 cycles have passed: HEAT of the die's tracked pages is written and every count cleared (R60, R68). -/
def execHeatWindow (die : Nat) (s : State) : Host.Outcome State Fault Refusal :=
  .next (
    let d := s.die die
    if s.now < d.heatAt + 2 ^ 20 then s
    else
      let s := d.heat.foldl (fun s h => setLeaf s h.job h.page fun e =>
        if pteP e && ptePkg e == s.pkg then pteSet e 27 24 (min 15 (log2 (h.sum + 1))) else e) s
      s.updDie die fun d => { d with heatAt := s.now, heat := d.heat.map fun (h : Heat) => { h with home := 0, wr := 0, reqs := [] } })

/- Placement copies (R70, R409). -/

/-- The move of a page whose packets have all been answered. -/
def moveDone (s : State) (die page : Nat) (repl : Bool) : Option Move :=
  s.moves.find? fun m => m.die == die && m.page == page && m.repl == repl && !engOut s m.op

/-- A move that found the requester's ring empty: one record, and a migrating page is LOCAL again (R409). -/
def moveAbandoned (s : State) (m : Move) : State :=
  let s := queueRec { s with moves := s.moves.filter fun x => x != m } m.die
    { unitRec s 0x0602 (BitVec.ofNat 64 (m.page * 2 ^ 16)) 0 0 m.job with detail := BitVec.ofNat 64 m.dst }
  if m.repl then s else shootHere (setLeaf s m.job m.page fun e => pteSet e 23 22 0) m.job m.page

/-- PAGE_MIGRATION_COMPLETE: the home entry becomes REMOTE, the directory's names the new holder, held accesses go there (R70). -/
def execPageMigrationComplete (die page : Nat) (s : State) : Host.Outcome State Fault Refusal :=
  .next (match moveDone s die page false with
    | none => s
    | some m =>
      if m.failed then carryOn (moveAbandoned s m)
      else
        let s := { s with moves := s.moves.filter fun x => x != m }
        let s := shootHere (setLeaf s m.job page fun e => pteSet (pteSet e 63 52 m.dst) 23 22 2) m.job page
        let d := directoryOf s m.job (page * 2 ^ 16)
        let s := if d == s.pkg || d == m.dst then s
          else (sendPacket s { blankPacket with
            typ := 8, dst := d, n := 1, base := BitVec.ofNat 64 (page * 2 ^ 16), job := m.job
            tspec := tspecOf [(0, 1, 40), (8, 8, m.dst)] }).1
        carryOn s)

/-- PAGE_REPLICATION_COMPLETE: the requester's entry is REPLICA; the home's is unchanged (R70). -/
def execPageReplicationComplete (die page : Nat) (s : State) : Host.Outcome State Fault Refusal :=
  .next (match moveDone s die page true with
    | none => s
    | some m => carryOn (if m.failed then moveAbandoned s m else { s with moves := s.moves.filter fun x => x != m }))

/- Scrubbing (R412, R413). -/

/-- SCRUB_PASS: a logic die has scrubbed its stack once more (R412). -/
def execScrubPass (f : ScrubFindings) (s : State) : Host.Outcome State Fault Refusal :=
  .next (
    let own (pa : Nat) : Bool := pa / 2 ^ 36 == f.stack && pa % 8 == 0 && populated pa
    if 8 ≤ f.stack then s
    else
      let s := { s with
        scrubs := tset s.scrubs f.stack (tget 0 s.scrubs f.stack + 1)
        rowCe := s.rowCe.filter fun x => x.1 % 8 != f.stack
        free := s.free + 2 ^ 40 }
      let s := stackFound s f.stack (f.ce.map fun c => c.2.1).sum f.ue.length
      let s := (f.ce.filter fun c => own c.1).foldl (fun s c => rowErrors s c.1 c.2.1 c.2.2) s
      (f.ue.filter fun u => own u.1).foldl (fun s u => poisonGranule s u.1 u.2) s)

end Sys2Proof.Machine
end

