-- ==== Sys2Proof/Machine/Links.lean ====
section
/-! DEFINITION. Links and management (R313, R419, R420, R428, R430 to R433, R448): heartbeats, link states, death notices, re-transmission of
events, rejoin images, notes, pod formation, and the host's control requests (R331). -/

namespace Sys2Proof.Machine

open Sys2Proof

/- Link states (R313, R430). -/

/-- STATE of a link in LINK_STAT changed. -/
def setLink (s : State) (j st : Nat) : State := { s with linkStat := pteSet s.linkStat (4 * j + 2) (4 * j) st }

/-- The highest SEQ this package knows. -/
def knownSeq (s : State) : Nat := if s.pkgId.getLsbD 12 then max s.evKnown s.podSeq else 0

/-- HEARTBEAT: a flit has come on the link; its SEQ may open a gap (R419, R430). -/
def execHeartbeat (link seq : Nat) (s : State) : Host.Outcome State Fault Refusal :=
  .next (
    let s := { s with linkHeard := tset s.linkHeard link s.now }
    if s.withdrawn && s.rejoin.isNone then s
    else
      let s := noteGap s.podSeq { s with evKnown := max s.evKnown seq }
      joinIfCaught s)

/-- HEARTBEAT_TICK: a link that has carried no flit for a microsecond carries a heartbeat (R430, R431). -/
def execHeartbeatTick (link : Nat) (s : State) : Host.Outcome State Fault Refusal :=
  .next (if linkState s link != 2 || 16 ≤ link || s.now < tget 0 s.linkSent link + 800 then s
    else sendMgmt { s with linkSent := tset s.linkSent link s.now }
      { mtype := 1, origin := s.pkg, link := link, a := BitVec.ofNat 64 (knownSeq s), b := 0, data := [] })

/-- DEATH of a link of a package, flooded on the management links (R430, R431). -/
def floodDeath (s : State) (pkg link : Nat) : State :=
  sendMgmt { s with deaths := s.deaths ++ [(pkg, link)] }
    { mtype := 2, origin := s.pkg, link := link, a := BitVec.ofNat 64 (pkg + link <<< 16), b := 0, data := [] }

/-- What was kept on a link is sent again at once (R433). -/
def resendLink (s : State) (j : Nat) : State := (s.retained.filter fun k => k.sent && k.link == j).foldl resendKept s

/-- DEATH: forwarded once; this package's own link is DEAD; when every link of another package is, LINK cause 0x0B06 and LOSS (R417, R423,
R430). -/
def execDeath (pkg link : Nat) (s : State) : Host.Outcome State Fault Refusal :=
  .next (if s.deaths.contains (pkg, link) || 16 ≤ link then s
    else
      let s := floodDeath s pkg link
      if pkg == s.pkg then resendLink (setLink s link 4) link
      else if (List.range 16).all (fun j => s.deaths.contains (pkg, j)) && !s.withdrawn then
        sendEvent (linkRec s 0x0B06 link pkg 0) (.loss (evHdr s 0) pkg 1)
      else s)

/-- LINK_SILENT: no flit for 5 µs: SILENT, LINK cause 0x0B01, what was kept on the link is sent again, and training starts (R430, R433). -/
def execLinkSilent (link : Nat) (s : State) : Host.Outcome State Fault Refusal :=
  .next (if linkState s link != 2 || 16 ≤ link || s.now < tget 0 s.linkHeard link + 4000 then s
    else
      let s := linkRec (setLink s link 3) 0x0B01 link s.pkg 0
      resendLink { s with linkTrain := tset s.linkTrain link s.now, linkFails := tset s.linkFails link 0 } link)

/-- LINK_TRAINING_ATTEMPT: an attempt ends, in failure at the latest after 20 µs: UP, another attempt, or after the third DEAD (R430). -/
def execLinkTrainingAttempt (link : Nat) (ok : Bool) (s : State) : Host.Outcome State Fault Refusal :=
  .next (
    let count (s : State) (f : Nat × Nat → Nat × Nat) : State :=
      { s with field := { s.field with links := s.field.links.zipIdx.map fun x => if x.2 == link then f x.1 else x.1 } }
    if (linkState s link != 3 && linkState s link != 1) || 16 ≤ link then s
    else if ok then
      count (setLink { s with linkHeard := tset s.linkHeard link s.now, linkFails := tset s.linkFails link 0 } link 2)
        fun x => (satAdd 32 x.1 1, x.2)
    else
      let n := tget 0 s.linkFails link + 1
      let s := { s with linkFails := tset s.linkFails link n, linkTrain := tset s.linkTrain link s.now }
      if n < 3 then s
      else
        let s := count (linkRec (setLink s link 4) 0x0B02 link s.pkg 0) fun x => (x.1, satAdd 32 x.2 1)
        resendLink (if s.deaths.contains (s.pkg, link) then s else floodDeath s s.pkg link) link)

/-- MANAGEMENT_LINK_RETRAIN: a DEAD link trains again (R430). -/
def execManagementLinkRetrain (link : Nat) (s : State) : Host.Outcome State Fault Refusal :=
  .next (if linkState s link != 4 || 16 ≤ link then s
    else setLink { s with
      linkTrain := tset s.linkTrain link s.now, linkFails := tset s.linkFails link 0
      deaths := s.deaths.filter fun x => x != (s.pkg, link) } link 1)

/- Gaps (R419). -/

/-- The missing run: its first SEQ and how many follow in it. -/
def missingRun (s : State) : Nat × Nat :=
  let a := s.podSeq + 1
  let next := (s.evBuf.filter fun e => a < e.seq).foldl (fun m e => min m e.seq) (s.evKnown + 1)
  (a, next - a)

/-- HRETX for the missing run, in pieces of at most 65,535, to the leaf switch or a package (R431). -/
def askRun (s : State) (target : Option Nat) : State :=
  let (a, n) := missingRun s
  (List.range ((n + 65534) / 65535)).foldl (fun s i => sendMgmt s
    { mtype := 3, origin := s.pkg, link := pathOf s, a := BitVec.ofNat 64 (a + 65535 * i)
      b := BitVec.ofNat 32 (min 65535 (n - 65535 * i) + (match target with
        | some t => t <<< 16
        | none => 0)), data := [] }) s

/-- GAP_LEAF_RETX: a gap has lasted 2 µs (R419). -/
def execGapLeafRetx (s : State) : Host.Outcome State Fault Refusal :=
  .next (match s.gap with
    | some (t, 0) => if s.now < t + 1600 then s else askRun { s with gap := some (t, 1) } none
    | _ => s)

/-- Every other package of the leaf group (R311). -/
def leafGroup (s : State) : List Nat :=
  let g := max 1 (at_ s.config 58 2)
  s.podPkgs.filter fun p => p != s.pkg && p / g == s.pkg / g

/-- GAP_GROUP_RETX: a gap has lasted 100 µs (R419). -/
def execGapGroupRetx (s : State) : Host.Outcome State Fault Refusal :=
  .next (match s.gap with
    | some (t, k) =>
      if 2 ≤ k || s.now < t + 80000 then s else (leafGroup s).foldl (fun s p => askRun s (some p)) { s with gap := some (t, 2) }
    | none => s)

/-- GAP_TIMEOUT: a gap has lasted 1 ms: SCHED cause 0x0A01, and the package withdraws (R419, R429). -/
def execGapTimeout (s : State) : Host.Outcome State Fault Refusal :=
  .next (match s.gap with
    | some (t, _) =>
      if s.now < t + 800000 || s.withdrawn then s
      else withdrawSelf { s with
        gap := none, field := { s.field with diverg := (s.field.diverg.1, satAdd 64 s.field.diverg.2 1) } } 0x0A01 (s.podSeq + 1)
    | none => s)

/-- HRETX: the asked run is sent again from the event tail; one for another package is sent on (R419, R431). -/
def execHretx (origin first count target : Nat) (s : State) : Host.Outcome State Fault Refusal :=
  .next (if target != s.pkg then
      sendMgmt s { mtype := 3, origin := origin, link := pathOf s, a := BitVec.ofNat 64 first, b := BitVec.ofNat 32 (count + target <<< 16)
                   data := [] }
    else
      let es := (s.evTail.filter fun e => first ≤ e.seq && e.seq < first + count).reverse
      { s with outRetx := s.outRetx ++ es.map fun e => (origin, e) })

/-- HALYARD_FAILOVER: the sequencer's standby takes over; nothing here changes (R420). -/
def execHalyardFailover (s : State) : Host.Outcome State Fault Refusal := .next s

/- Rejoin (R428). -/

/-- MANAGEMENT_RESET: cores, shelves and dispatcher are dispatch-clear, the Halyard port is enabled (R428, R448). -/
def execManagementReset (s : State) : Host.Outcome State Fault Refusal :=
  .next (if !s.withdrawn && !s.fenced.contains s.pkg then s
    else
      { haltCores s with
        queues := [[], [], [], []], subs := [], units := [], snap := none, rolls := [], evBuf := [], evKnown := 0, gap := none
        withdrawn := true, rejoin := some { phase := 0, first := none, asked := none, k := 0, chunks := [] } })

/-- Chunks of an image before the one with the digest (R428, R431; log 12). -/
def imageChunks : Nat := (wordCount + 5) / 6

/-- One IMAGE flit. -/
def imageFlit (s : State) (dest k chunk : Nat) (ws : List Word) : Mgmt :=
  { mtype := 5, origin := s.pkg, link := pathOf s, a := BitVec.ofNat 64 k, b := BitVec.ofNat 32 (chunk + dest <<< 16), data := ws }

/-- IREQ: the replica's words and digest go to the rejoining package, and then the events up to f − 1 (R428). -/
def execIreq (origin f target : Nat) (s : State) : Host.Outcome State Fault Refusal :=
  .next (if target != s.pkg then
      sendMgmt s { mtype := 4, origin := origin, link := pathOf s, a := BitVec.ofNat 64 f, b := BitVec.ofNat 32 (target <<< 16), data := [] }
    else if s.withdrawn then s
    else
      let flits := (List.range imageChunks).map fun c => imageFlit s origin s.podSeq c ((List.range 6).map fun i => s.word (6 * c + i))
      let last := imageFlit s origin s.podSeq imageChunks [podDigest s seed0, podDigest s seed1, 0, 0, 0, 0]
      let s := { s with outMgmt := s.outMgmt ++ flits ++ [last] }
      if s.podSeq + 1 < f then { s with tailFor := s.tailFor ++ [(origin, s.podSeq + 1, f - 1)] } else s)

/-- The words of a whole image. -/
def imageOf' (chunks : List (Nat × List Word)) : Tab Word :=
  ((chunks.filter fun c => c.1 < imageChunks).flatMap fun c => c.2.zipIdx.filterMap fun w =>
    if w.1 == 0 || wordCount ≤ 6 * c.1 + w.2 then none else some (6 * c.1 + w.2, w.1)).foldl (fun t w => tset t w.1 w.2) []

/-- IMAGE: chunks of the neighbour's words; the last decides whether they are taken (R428 steps 3 and 4, cause 0x0A06). -/
def execImage (origin k chunk target : Nat) (data : List (BitVec 64)) (s : State) : Host.Outcome State Fault Refusal :=
  .next (if target != s.pkg then
      sendMgmt s { mtype := 5, origin := origin, link := pathOf s, a := BitVec.ofNat 64 k, b := BitVec.ofNat 32 (chunk + target <<< 16)
                   data := data }
    else match s.rejoin with
      | none => s
      | some r =>
        if r.phase != 0 || r.asked != some origin then s
        else
          let cs := r.chunks.filter (fun c => c.1 != chunk) ++ [(chunk, data)]
          let s := { s with rejoin := some { r with k := k, chunks := cs } }
          if cs.length ≤ imageChunks then s
          else
            let ws := imageOf' cs
            let dg := ((cs.find? fun c => c.1 == imageChunks).map fun c => c.2).getD []
            let t := { s with words := ws }
            if podDigest t seed0 != dg.getD 0 0 || podDigest t seed1 != dg.getD 1 0 then
              let s := schedRec s 0x0A06 2 origin 0 0 0
              match nextNeighbour s origin with
              | some n => askImage s (r.first.getD 0) n
              | none => s
            else
              runEvents { t with
                podSeq := k, evBuf := t.evBuf.filter fun e => k < e.seq
                podGrids := t.podGrids.filter fun p => rowState t p.handle != 0
                rejoin := some { r with phase := 1, k := k, chunks := [] } })

/-- NOTE: sent on toward the host adapter of the leaf group; a flit with a reserved MTYPE is dropped with a record (R431). -/
def execNote (m : Mgmt) (s : State) : Host.Outcome State Fault Refusal :=
  .next (if m.mtype == 0 || 8 ≤ m.mtype then linkRec s 0x0B04 m.link m.origin m.mtype
    else sendMgmt s { m with link := ((List.range 16).find? fun j => linkHost s j).getD (pathOf s) })

/- Pod formation and the host (R331, R448). -/

/-- POD_FORMATION: every package is READY and none holds a replica; the Halyard starts at SEQ 1 (R448). A pod in a hold, or a package that
has withdrawn, is formed anew (R427). -/
def execPodFormation (pkgs : List Nat) (s : State) : Host.Outcome State Fault Refusal :=
  .next (
    let ps := (sortBy (· ≤ ·) (pkgs.filter fun p => p < 4096)).foldl (fun acc p => markSet acc p true) []
    if !s.pkgId.getLsbD 12 || !ps.contains s.pkg || !(s.podPkgs.isEmpty || s.hold || s.withdrawn) then s
    else
      { haltCores s with
        podPkgs := ps, words := [], podGrids := [], podSeq := 0, evBuf := [], evTail := [], evKnown := 0, gap := none, fenced := [], lost := []
        fenceVotes := [], lossVotes := [], digests := [], majority := [], fenceSent := [], fenceCkpt := [], joined := [], hold := false
        withdrawn := false, rejoin := none, aliases := [], quiet := false, queues := [[], [], [], []], subs := [], units := [], snap := none
        snapWait := [], rolls := [], saves := [] })

/-- HOST_CONTROL_REQUEST: the host's cancellation, or opening or closing of a job, goes into the pod through the bridging package; a job that
is not granted is reported (R331, R417 cause 0x0B05). Kind 0 is a cancellation. -/
def execHostControlRequest (job kind : Nat) (va : Va) (lv : Level) (close : Bool) (s : State) : Host.Outcome State Fault Refusal :=
  .next (if !hostGranted s job then linkRec s 0x0B05 (at_ s.config 19 1 % 16) s.pkg 0
    else if kind == 0 then sendEvent s (.cancel (evHdr s job) va lv)
    else sendEvent s (.job (evHdr s job) va close))

end Sys2Proof.Machine
end

