-- ==== Sys2Proof/Machine/Lifetime.lean ====
section
/-! DEFINITION. Bring-up, attestation, margins and field records (R446 to R454): power-on and loss, the configuration record, the mailbox, the
monitors, the records in flash. -/

namespace Sys2Proof.Machine

open Sys2Proof

/- The bring-up page (R446). -/

/-- Bytes put at an offset of the bring-up page. -/
def putPage0 (s : State) (o : Nat) (bs : List Byte) : State := afterWrite { s with mem := s.mem.write o bs } s.mem o bs.length

/-- The bring-up status word. -/
def statusWord (fwver cfgver fail stage : Nat) (ready : Bool) : Nat :=
  (fwver % 65536) <<< 48 + (cfgver % 65536) <<< 32 + fail <<< 16 + stage <<< 8 + b2n ready

/- Field records (R454). -/

/-- The first 4,032 bytes of a copy. -/
def fieldBody (f : Field) : List Byte :=
  leBytes f.wcount 8 ++ leBytes f.hours 8 ++ leBytes f.cycles 4 ++ leBytes f.age 1 ++ leBytes 0 3
    ++ ((List.range 4).flatMap fun d => leBytes (wrap 16 (f.offsets.getD d 0)) 2)
    ++ ((List.range 13).flatMap fun i => leBytes (f.classes.getD i 0) 16)
    ++ ((List.range 8).flatMap fun i => leBytes (f.seals.getD i 0) 8)
    ++ ((List.range 8).flatMap fun i =>
          let x := f.stackFlds.getD i (0, 0, 0)
          leBytes x.1 8 ++ leBytes x.2.1 4 ++ leBytes x.2.2 4)
    ++ ((List.range 16).flatMap fun i =>
          let x := f.links.getD i (0, 0)
          leBytes x.1 4 ++ leBytes x.2 4)
    ++ leBytes f.diverg.1 8 ++ leBytes f.diverg.2 8
    ++ ((List.range 16).flatMap fun i => leBytes (f.halt.getD i 0) 4)
    ++ ((List.range 16).flatMap fun i => leBytes (f.gaps.getD i 0) 4)
    ++ ((List.range 16).flatMap fun i => leBytes (f.temp.getD i 0) 4)
    ++ List.replicate 3264 0

/-- A hash as the byte string that its standard gives, most significant byte of its number first. -/
def beBytes (x n : Nat) : List Byte := (leBytes x n).reverse

/-- A copy as flash and the bring-up page hold it (R454). -/
def fieldBytes (f : Field) : List Byte := fieldBody f ++ beBytes (Config.sha384 (fieldBody f)) 48 ++ List.replicate 16 0

/-- The field records written: the older copy of the two is replaced, and the bring-up page's copy follows (R454). -/
def writeField (s : State) : State :=
  let f := { s.field with wcount := satAdd 64 s.field.wcount 1 }
  let s := { s with field := f, flash := s.flash.zipIdx.map fun x => if x.2 == f.wcount % 2 then some f else x.1 }
  putPage0 s 0x1000 (fieldBytes f)

/-- FIELD_RECORD_WRITE: firmware writes the records; the temperature histogram is what its sensors have counted, a free value (R454, log
10). -/
def execFieldRecordWrite (hours : Nat) (s : State) : Host.Outcome State Fault Refusal :=
  .next (writeField { s with
    free := s.free + 16
    field := { s.field with
      hours := min (2 ^ 64 - 1) hours
      temp := (List.range 16).map fun i => (Config.freeWord (s.free + i)).toNat % 2 ^ 32 } })

/-- The valid copy with the higher write count (R454). -/
def loadField (s : State) : Field :=
  (s.flash.filterMap id).foldl (fun f x => if f.wcount ≤ x.wcount then x else f) fieldInit

/- The configuration record (R449). -/

/-- A record's fields are in range: reserved bytes zero, PKG, HLINK, LEAFSZ and VERSION (FAIL 4). -/
def recordOk (r : List Byte) : Bool :=
  zeros r 6 2 && zeros r 41 1 && zeros r 60 4 && zeros r 76 4 && zeros r 648 272 && zeros r 641 7 && bits (at_ r 18 1) 7 2 == 0
    && ((List.range 4).all fun i => zeros r (96 + 112 * i + 105) 7)
    && at_ r 16 2 ≤ 4095 && (!bitOf (at_ r 18 1) 0 || at_ r 19 1 ≤ 15)
    && 1 ≤ at_ r 58 2 && at_ r 58 2 ≤ 4096 && at_ r 4 2 == 1

/-- The slot stage 2 takes: of those that verify, the one with the higher RSEQ, slot 0 where both are equal. -/
def chooseSlot (s : State) (f : BootFindings) : Option (List Byte) :=
  let ok (i : Nat) : Option (List Byte) :=
    let r := s.cfgSlots.getD i []
    if f.slotOk.getD i false && r.length == 1024 && at_ r 0 4 == 0x47464351 then some r else none
  match ok 0, ok 1 with
  | some a, some b => some (if at_ a 88 8 < at_ b 88 8 then b else a)
  | some a, none => some a
  | none, b => b

/- Power (R447, R448, R454). -/

/-- What outlives a loss of power: flash, the time, what is still to happen, and management's list of the pod. -/
def keepPower (s t : State) : State :=
  { t with now := s.now, flash := s.flash, cfgSlots := s.cfgSlots, podPkgs := s.podPkgs, agenda := s.agenda, free := s.free }

/-- A power-on sequence that stops at a stage. -/
def bootFail (s : State) (f : BootFindings) (fail stage cfgver : Nat) : State :=
  let fw := if fail == 1 then 0 else f.fwVer
  putPage0 (keepPower s State.reset) 0 (leBytes (statusWord fw cfgver fail stage false) 8)

/-- LINK_STAT after stage 6: UP or DOWN, and the host-bridge link. -/
def bootLinks (r : List Byte) (f : BootFindings) : Word :=
  BitVec.ofNat 64 (packN 4 (fun j => (if f.linkUp.getD j false then 2 else 0)
    + (if bitOf (at_ r 18 1) 0 && at_ r 19 1 == j then 8 else 0)) 16)

/-- The sequence has reached READY with a record (R447 stages 6 to 8). A package of a pod waits for its rejoin (R448). -/
def bootDone (s : State) (f : BootFindings) (r : List Byte) : State :=
  let fl := loadField s
  let t := keepPower s State.reset
  let t := { t with
    pkgId := BitVec.ofNat 64 (at_ r 16 2 + 2 ^ 12), config := r, ringPa := at_ r 28 8 % 2 ^ 39, ringLen := at_ r 36 4, linkStat := bootLinks r f
    fwVer := f.fwVer, field := { fl with cycles := satAdd 32 fl.cycles 1 }, offsets := fl.offsets
    hook := if bitOf (at_ r 18 1) 1 then some (at_ r 64 8, at_ r 72 4, BitVec.ofNat 64 (at_ r 80 8)) else none
    withdrawn := !s.podPkgs.isEmpty
    linkHeard := (List.range 16).map fun j => (j, s.now), linkSent := (List.range 16).map fun j => (j, s.now) }
  let t := if (s.flash.filterMap id).isEmpty then t else putPage0 t 0x1000 (fieldBytes fl)
  putPage0 t 0 (leBytes (statusWord f.fwVer (at_ r 88 2) 0 8 true) 8)

/-- POWER_ON: the bring-up stages in order, up to READY or the first that fails (R447). A package that is READY is not powered on again. -/
def execPowerOn (f : BootFindings) (s : State) : Host.Outcome State Fault Refusal :=
  .next (
    if s.powered && s.pkgId.getLsbD 12 then s
    else if !f.fwSigOk then bootFail s f 1 1 0
    else match chooseSlot s f with
      | none => bootFail s f 3 2 0
      | some r =>
        let cv := at_ r 88 2
        if !recordOk r || !f.keyOk then bootFail s f 4 2 0
        else if f.fwVer < at_ r 20 8 then bootFail s f 2 2 cv
        else if !f.d2dOk then bootFail s f 5 3 cv
        else if !f.stacksOk then bootFail s f 6 4 cv
        else if !f.edramOk then bootFail s f 7 5 cv
        else bootDone s f r)

/-- POWER_LOSS: everything but the flash is lost; a copy that was being written fails its digest (R454). -/
def execPowerLoss (cutShort : Bool) (s : State) : Host.Outcome State Fault Refusal :=
  .next (
    let t := { keepPower s State.reset with powered := false, fwVer := s.fwVer }
    if cutShort then { t with flash := t.flash.zipIdx.map fun x => if x.2 == (s.field.wcount + 1) % 2 then none else x.1 } else t)

/- Attestation (R451). -/

/-- ATTESTATION_REQUEST: REQ is 1: the security block takes REQ and the nonce in one step; while a report is produced a further 1 is
ignored. -/
def execAttestationRequest (s : State) : Host.Outcome State Fault Refusal :=
  .next (if s.attest.isSome || s.mem.num 0x800 8 != 1 then s else { s with attest := some (s.mem.read 0x840 48) })

/-- The report's first 160 bytes. -/
def reportBody (s : State) (nonce : List Byte) : List Byte :=
  nonce ++ beBytes (Config.sha384 (Config.firmwareImage s.fwVer)) 48 ++ beBytes (Config.sha384 s.config) 48 ++ leBytes (at_ s.config 8 8) 8
    ++ leBytes s.podSeq 8

/-- ATTESTATION_REPORT_DONE: the signed report stands at 0x900, r and s little-endian like every value of a record (R3), and REQ becomes 2. The
signing key is that of the record's IDKEY. -/
def execAttestationReportDone (s : State) : Host.Outcome State Fault Refusal :=
  .next (match s.attest with
    | none => s
    | some nonce =>
      let body := reportBody s nonce
      let sg := Config.ecdsaSign (at_ s.config 544 97) (Config.sha384 body)
      let s := putPage0 s 0x900 (body ++ leBytes sg.1 48 ++ leBytes sg.2 48)
      putPage0 { s with attest := none } 0x800 (leBytes 2 8))

/- Margins (R452, R453). -/

/-- Steps of one die: while its slack is below 40 ps the offset rises by 5 mV, recorded before it is applied, up to +60 mV, where the AGE
flag is set. `again`: the slack measured after each step. -/
def stepMargin (die : Nat) : List Nat → State → Nat → State
  | again, s, slack =>
    let o := s.offsets.getD die 0
    let set (xs : List Int) (v : Int) : List Int := xs.zipIdx.map fun x => if x.2 == die then v else x.1
    if 40 ≤ slack then s
    else if 60 ≤ o then writeField { s with field := { s.field with age := s.field.age ||| 1 <<< die } }
    else
      let v := min 60 (o + 5)
      let s := writeField { s with field := { s.field with offsets := set s.field.offsets v } }
      let s := { s with offsets := set s.offsets v }
      match again with
      | [] => s
      | x :: r => stepMargin die r s x

/-- MARGIN_MONITOR: the readings go into the bring-up page, then margins are planned again (R452, R453). -/
def execMarginMonitor (r : Readings) (s : State) : Host.Outcome State Fault Refusal :=
  .next (
    let s := (List.range 4).foldl (fun s d => putPage0 (putPage0 s (0x008 + 8 * d) (leBytes (r.slack.getD d 0) 8)) (0x028 + 8 * d)
      (leBytes (wrap 16 (s.offsets.getD d 0)) 8)) s
    let s := (List.range 16).foldl (fun s j => putPage0 s (0x048 + 8 * j) (leBytes (r.eye.getD j 0) 8)) s
    (List.range 4).foldl (fun s d => stepMargin d (r.slackAfter.getD d []) s (r.slack.getD d 0)) s)

end Sys2Proof.Machine
end

