-- ==== Sys2Proof/Machine/Dispatch.lean ====
section
/-! DEFINITION. One arm per instruction and happening: the meaning of each constructor of Instr. -/

namespace Sys2Proof.Machine

open Sys2Proof

/-- The effect of one instruction or happening. -/
def exec (i : Instr) (s : State) : Host.Outcome State Fault Refusal :=
  match i with
  | .add w d a b l => Sys2Proof.Machine.execAdd w d a b l s
  | .sub w d a b l => Sys2Proof.Machine.execSub w d a b l s
  | .mul w d a b l => Sys2Proof.Machine.execMul w d a b l s
  | .mulh w d a b l => Sys2Proof.Machine.execMulh w d a b l s
  | .mulhu w d a b l => Sys2Proof.Machine.execMulhu w d a b l s
  | .div w d a b l => Sys2Proof.Machine.execDiv w d a b l s
  | .divu w d a b l => Sys2Proof.Machine.execDivu w d a b l s
  | .rem w d a b l => Sys2Proof.Machine.execRem w d a b l s
  | .remu w d a b l => Sys2Proof.Machine.execRemu w d a b l s
  | .shl w d a b l => Sys2Proof.Machine.execShl w d a b l s
  | .shr w d a b l => Sys2Proof.Machine.execShr w d a b l s
  | .sra w d a b l => Sys2Proof.Machine.execSra w d a b l s
  | .rol w d a b l => Sys2Proof.Machine.execRol w d a b l s
  | .min w d a b l => Sys2Proof.Machine.execMin w d a b l s
  | .max w d a b l => Sys2Proof.Machine.execMax w d a b l s
  | .minu w d a b l => Sys2Proof.Machine.execMinu w d a b l s
  | .maxu w d a b l => Sys2Proof.Machine.execMaxu w d a b l s
  | .abs w d a => Sys2Proof.Machine.execAbs w d a s
  | .neg w d a => Sys2Proof.Machine.execNeg w d a s
  | .adds w d a b l => Sys2Proof.Machine.execAdds w d a b l s
  | .subs w d a b l => Sys2Proof.Machine.execSubs w d a b l s
  | .addus w d a b l => Sys2Proof.Machine.execAddus w d a b l s
  | .subus w d a b l => Sys2Proof.Machine.execSubus w d a b l s
  | .dot2s d a b l => Sys2Proof.Machine.execDot2s d a b l s
  | .dot4s d a b l => Sys2Proof.Machine.execDot4s d a b l s
  | .rshr w d a b l => Sys2Proof.Machine.execRshr w d a b l s
  | .rshrs w d a b l => Sys2Proof.Machine.execRshrs w d a b l s
  | .qmulr w d a b l => Sys2Proof.Machine.execQmulr w d a b l s
  | .nrws w d a b l => Sys2Proof.Machine.execNrws w d a b l s
  | .lea d a b l => Sys2Proof.Machine.execLea d a b l s
  | .addi d a im => Sys2Proof.Machine.execAddi d a im s
  | .andi d a im => Sys2Proof.Machine.execAndi d a im s
  | .ori d a im => Sys2Proof.Machine.execOri d a im s
  | .xori d a im => Sys2Proof.Machine.execXori d a im s
  | .shli d a im => Sys2Proof.Machine.execShli d a im s
  | .shri d a im => Sys2Proof.Machine.execShri d a im s
  | .srai d a im => Sys2Proof.Machine.execSrai d a im s
  | .ldiS d im => Sys2Proof.Machine.execLdiS d im s
  | .ldiW d x => Sys2Proof.Machine.execLdiW d x s
  | .ldiWu d x => Sys2Proof.Machine.execLdiWu d x s
  | .ldiHi d x => Sys2Proof.Machine.execLdiHi d x s
  | .ldiD d lo hi => Sys2Proof.Machine.execLdiD d lo hi s
  | .and d a b l => Sys2Proof.Machine.execAnd d a b l s
  | .or d a b l => Sys2Proof.Machine.execOr d a b l s
  | .xor d a b l => Sys2Proof.Machine.execXor d a b l s
  | .andn d a b l => Sys2Proof.Machine.execAndn d a b l s
  | .popc w d a => Sys2Proof.Machine.execPopc w d a s
  | .clz w d a => Sys2Proof.Machine.execClz w d a s
  | .ctz w d a => Sys2Proof.Machine.execCtz w d a s
  | .brev w d a => Sys2Proof.Machine.execBrev w d a s
  | .bfx d a b => Sys2Proof.Machine.execBfx d a b s
  | .bfxS d a b => Sys2Proof.Machine.execBfxS d a b s
  | .bfi d a b => Sys2Proof.Machine.execBfi d a b s
  | .cmpm w c d a b l => Sys2Proof.Machine.execCmpm w c d a b l s
  | .cmp w c p a b => Sys2Proof.Machine.execCmp w c p a b s
  | .bsel d a b l => Sys2Proof.Machine.execBsel d a b l s
  | .fadd t d a b l => Sys2Proof.Machine.execFadd t d a b l s
  | .fsub t d a b l => Sys2Proof.Machine.execFsub t d a b l s
  | .fmul t d a b l => Sys2Proof.Machine.execFmul t d a b l s
  | .fmin t d a b l => Sys2Proof.Machine.execFmin t d a b l s
  | .fmax t d a b l => Sys2Proof.Machine.execFmax t d a b l s
  | .fminn t d a b l => Sys2Proof.Machine.execFminn t d a b l s
  | .fmaxn t d a b l => Sys2Proof.Machine.execFmaxn t d a b l s
  | .fabs t d a => Sys2Proof.Machine.execFabs t d a s
  | .fneg t d a => Sys2Proof.Machine.execFneg t d a s
  | .fcmp t c p a b l => Sys2Proof.Machine.execFcmp t c p a b l s
  | .fdiv t d a b l => Sys2Proof.Machine.execFdiv t d a b l s
  | .fsqrt t d a => Sys2Proof.Machine.execFsqrt t d a s
  | .scalex t d a b l => Sys2Proof.Machine.execScalex t d a b l s
  | .cvts t d a b => Sys2Proof.Machine.execCvts t d a b s
  | .fcmpm t c d a b l => Sys2Proof.Machine.execFcmpm t c d a b l s
  | .fma t d a b l => Sys2Proof.Machine.execFma t d a b l s
  | .fms t d a b l => Sys2Proof.Machine.execFms t d a b l s
  | .fnma t d a b l => Sys2Proof.Machine.execFnma t d a b l s
  | .frcp t d a => Sys2Proof.Machine.execFrcp t d a s
  | .frsq t d a => Sys2Proof.Machine.execFrsq t d a s
  | .fexp2 t d a => Sys2Proof.Machine.execFexp2 t d a s
  | .flog2 t d a => Sys2Proof.Machine.execFlog2 t d a s
  | .fsin t d a => Sys2Proof.Machine.execFsin t d a s
  | .fcos t d a => Sys2Proof.Machine.execFcos t d a s
  | .cvt tgt src d a => Sys2Proof.Machine.execCvt tgt src d a s
  | .cvtRs tgt src d a e => Sys2Proof.Machine.execCvtRs tgt src d a e s
  | .lpset n a => Sys2Proof.Machine.execLpset n a s
  | .shfl d a b => Sys2Proof.Machine.execShfl d a b s
  | .slide up w d a b => Sys2Proof.Machine.execSlide up w d a b s
  | .push d a b p => Sys2Proof.Machine.execPush d a b p s
  | .bcast d a n => Sys2Proof.Machine.execBcast d a n s
  | .vote m d neg p => Sys2Proof.Machine.execVote m d neg p s
  | .red t o d a => Sys2Proof.Machine.execRed t o d a s
  | .scan t o d a => Sys2Proof.Machine.execScan t o d a s
  | .redmaxi t d a b => Sys2Proof.Machine.execRedmaxi t d a b s
  | .lddShort d b o k l => Sys2Proof.Machine.execLddShort d b o k l s
  | .ldd d b o k l => Sys2Proof.Machine.execLdd d b o k l s
  | .ldw d b o k l => Sys2Proof.Machine.execLdw d b o k l s
  | .ldwu d b o k l => Sys2Proof.Machine.execLdwu d b o k l s
  | .ldh d b o k l => Sys2Proof.Machine.execLdh d b o k l s
  | .ldhu d b o k l => Sys2Proof.Machine.execLdhu d b o k l s
  | .ldb d b o k l => Sys2Proof.Machine.execLdb d b o k l s
  | .ldbu d b o k l => Sys2Proof.Machine.execLdbu d b o k l s
  | .stdShort d b o => Sys2Proof.Machine.execStdShort d b o s
  | .std d b o ord => Sys2Proof.Machine.execStd d b o ord s
  | .stw d b o ord => Sys2Proof.Machine.execStw d b o ord s
  | .sth d b o ord => Sys2Proof.Machine.execSth d b o ord s
  | .stb d b o ord => Sys2Proof.Machine.execStb d b o ord s
  | .ldfSShort d b o k l => Sys2Proof.Machine.execLdfSShort d b o k l s
  | .ldfS d b o k l => Sys2Proof.Machine.execLdfS d b o k l s
  | .ldfBf d b o k l => Sys2Proof.Machine.execLdfBf d b o k l s
  | .ldsShort d b o k l => Sys2Proof.Machine.execLdsShort d b o k l s
  | .stsShort d b o => Sys2Proof.Machine.execStsShort d b o s
  | .lds w q d b o k l => Sys2Proof.Machine.execLds w q d b o k l s
  | .sts w sf d b o => Sys2Proof.Machine.execSts w sf d b o s
  | .ldwsDShort d b o k l => Sys2Proof.Machine.execLdwsDShort d b o k l s
  | .ldwsD d b o k l => Sys2Proof.Machine.execLdwsD d b o k l s
  | .ldwsW d b o k l => Sys2Proof.Machine.execLdwsW d b o k l s
  | .ldgDShort d b o k l => Sys2Proof.Machine.execLdgDShort d b o k l s
  | .stgDShort d b o => Sys2Proof.Machine.execStgDShort d b o s
  | .ldgD d b o k l => Sys2Proof.Machine.execLdgD d b o k l s
  | .ldgW d b o k l => Sys2Proof.Machine.execLdgW d b o k l s
  | .stgD d b o ord => Sys2Proof.Machine.execStgD d b o ord s
  | .stgW d b o ord => Sys2Proof.Machine.execStgW d b o ord s
  | .prefL1Short b o => Sys2Proof.Machine.execPrefL1Short b o s
  | .prefL1 b o => Sys2Proof.Machine.execPrefL1 b o s
  | .prefL2 b o => Sys2Proof.Machine.execPrefL2 b o s
  | .aaddDShort d b o k l => Sys2Proof.Machine.execAaddDShort d b o k l s
  | .aadd t d b o k l od sc => Sys2Proof.Machine.execAadd t d b o k l od sc s
  | .aaddf d b o k l od sc => Sys2Proof.Machine.execAaddf d b o k l od sc s
  | .amin t d b o k l od sc => Sys2Proof.Machine.execAmin t d b o k l od sc s
  | .amax t d b o k l od sc => Sys2Proof.Machine.execAmax t d b o k l od sc s
  | .aand t d b o k l od sc => Sys2Proof.Machine.execAand t d b o k l od sc s
  | .aor t d b o k l od sc => Sys2Proof.Machine.execAor t d b o k l od sc s
  | .axor t d b o k l od sc => Sys2Proof.Machine.execAxor t d b o k l od sc s
  | .axch t d b o k l od sc => Sys2Proof.Machine.execAxch t d b o k l od sc s
  | .acas t d b o k l od sc => Sys2Proof.Machine.execAcas t d b o k l od sc s
  | .fence o sc => Sys2Proof.Machine.execFence o sc s
  | .acq d b o k l sc => Sys2Proof.Machine.execAcq d b o k l sc s
  | .rel d b o sc => Sys2Proof.Machine.execRel d b o sc s
  | .rbind d b o => Sys2Proof.Machine.execRbind d b o s
  | .runbind b o => Sys2Proof.Machine.execRunbind b o s
  | .aflush k l => Sys2Proof.Machine.execAflush k l s
  | .digrd d k l => Sys2Proof.Machine.execDigrd d k l s
  | .sigdecShort d b o => Sys2Proof.Machine.execSigdecShort d b o s
  | .sigdec d b o od sc => Sys2Proof.Machine.execSigdec d b o od sc s
  | .siginc d b o od sc => Sys2Proof.Machine.execSiginc d b o od sc s
  | .sigset d b o od sc => Sys2Proof.Machine.execSigset d b o od sc s
  | .sigwait d b o k l od sc => Sys2Proof.Machine.execSigwait d b o k l od sc s
  | .sigarm d b o od sc => Sys2Proof.Machine.execSigarm d b o od sc s
  | .bar n => Sys2Proof.Machine.execBar n s
  | .bara n => Sys2Proof.Machine.execBara n s
  | .barw n => Sys2Proof.Machine.execBarw n s
  | .gbar n => Sys2Proof.Machine.execGbar n s
  | .grbar n => Sys2Proof.Machine.execGrbar n s
  | .mzero t k l => Sys2Proof.Machine.execMzero t k l s
  | .mzeroExt t k l => Sys2Proof.Machine.execMzeroExt t k l s
  | .mma t da db x y z k l => Sys2Proof.Machine.execMma t da db x y z k l s
  | .mmak t da db x y z n k l => Sys2Proof.Machine.execMmak t da db x y z n k l s
  | .mconv t da db x y z n k l => Sys2Proof.Machine.execMconv t da db x y z n k l s
  | .mwalk op t da db dO c k l => Sys2Proof.Machine.execMwalk op t da db dO c k l s
  | .mdrain rs z t dO x y k l => Sys2Proof.Machine.execMdrain rs z t dO x y k l s
  | .mrow i32 t x y k l => Sys2Proof.Machine.execMrow i32 t x y k l s
  | .mwait t k l => Sys2Proof.Machine.execMwait t k l s
  | .mfence => Sys2Proof.Machine.execMfence s
  | .mstat clr t x k l => Sys2Proof.Machine.execMstat clr t x k l s
  | .cbload n x k l => Sys2Proof.Machine.execCbload n x k l s
  | .mdesc da x k l => Sys2Proof.Machine.execMdesc da x k l s
  | .mshape da x k l => Sys2Proof.Machine.execMshape da x k l s
  | .manchor reg t x im k l => Sys2Proof.Machine.execManchor reg t x im k l s
  | .cpy x k l => Sys2Proof.Machine.execCpy x k l s
  | .cpys x k l => Sys2Proof.Machine.execCpys x k l s
  | .cpyr x k l => Sys2Proof.Machine.execCpyr x k l s
  | .cpyq x y z k l => Sys2Proof.Machine.execCpyq x y z k l s
  | .put x y z k l => Sys2Proof.Machine.execPut x y z k l s
  | .putf x y k l => Sys2Proof.Machine.execPutf x y k l s
  | .get x y z k l => Sys2Proof.Machine.execGet x y z k l s
  | .getVer x y z k l => Sys2Proof.Machine.execGetVer x y z k l s
  | .coll x k l => Sys2Proof.Machine.execColl x k l s
  | .collVer x k l => Sys2Proof.Machine.execCollVer x k l s
  | .reshard x y k l => Sys2Proof.Machine.execReshard x y k l s
  | .resample x y z k => Sys2Proof.Machine.execResample x y z k s
  | .resampleU x y z u k => Sys2Proof.Machine.execResampleU x y z u k s
  | .popseed x k l => Sys2Proof.Machine.execPopseed x k l s
  | .snap x y k l => Sys2Proof.Machine.execSnap x y k l s
  | .snapwait x k l => Sys2Proof.Machine.execSnapwait x k l s
  | .snapstat x k l => Sys2Proof.Machine.execSnapstat x k l s
  | .launch x y k l => Sys2Proof.Machine.execLaunch x y k l s
  | .cancel lv x k l => Sys2Proof.Machine.execCancel lv x k l s
  | .phase x y k l => Sys2Proof.Machine.execPhase x y k l s
  | .graphrun x y k l => Sys2Proof.Machine.execGraphrun x y k l s
  | .wcflush k l => Sys2Proof.Machine.execWcflush k l s
  | .fenceack k l => Sys2Proof.Machine.execFenceack k l s
  | .bra c o => Sys2Proof.Machine.execBra c o s
  | .jmp r => Sys2Proof.Machine.execJmp r s
  | .brx r => Sys2Proof.Machine.execBrx r s
  | .call o => Sys2Proof.Machine.execCall o s
  | .callx r => Sys2Proof.Machine.execCallx r s
  | .ret => Sys2Proof.Machine.execRet s
  | .mft d x => Sys2Proof.Machine.execMft d x s
  | .movc d c => Sys2Proof.Machine.execMovc d c s
  | .clrf m => Sys2Proof.Machine.execClrf m s
  | .mpush x => Sys2Proof.Machine.execMpush x s
  | .mpop => Sys2Proof.Machine.execMpop s
  | .exit => Sys2Proof.Machine.execExit s
  | .yield => Sys2Proof.Machine.execYield s
  | .nop => Sys2Proof.Machine.execNop s
  | .pand d a b => Sys2Proof.Machine.execPand d a b s
  | .por d a b => Sys2Proof.Machine.execPor d a b s
  | .pxor d a b => Sys2Proof.Machine.execPxor d a b s
  | .pnot d a => Sys2Proof.Machine.execPnot d a s
  | .pmov d a => Sys2Proof.Machine.execPmov d a s
  | .trap n => Sys2Proof.Machine.execTrap n s
  | .eret => Sys2Proof.Machine.execEret s
  | .mfs d r => Sys2Proof.Machine.execMfs d r s
  | .mts r a => Sys2Proof.Machine.execMts r a s
  | .bkpt n => Sys2Proof.Machine.execBkpt n s
  | .halt => Sys2Proof.Machine.execHalt s
  | .replay a tok => Sys2Proof.Machine.execReplay a tok s
  | .shoot a sc => Sys2Proof.Machine.execShoot a sc s
  | .preempt a resume => Sys2Proof.Machine.execPreempt a resume s
  | .rollback a => Sys2Proof.Machine.execRollback a s
  | .ldraw d a x => Sys2Proof.Machine.execLdraw d a x s
  | .jobctl a close => Sys2Proof.Machine.execJobctl a close s
  | .preemptCtlWrite v => Sys2Proof.Machine.execPreemptCtlWrite v s
  | .issueCycle core part dt => Sys2Proof.Machine.execIssueCycle core part dt s
  | .starvation core bidx grid tid => Sys2Proof.Machine.execStarvation core bidx grid tid s
  | .yieldExpiry core bidx grid tid => Sys2Proof.Machine.execYieldExpiry core bidx grid tid s
  | .formationDeadlock bidx grid => Sys2Proof.Machine.execFormationDeadlock bidx grid s
  | .fullEmptyTimeLimit id => Sys2Proof.Machine.execFullEmptyTimeLimit id s
  | .loadResult id => Sys2Proof.Machine.execLoadResult id s
  | .storePerformed id => Sys2Proof.Machine.execStorePerformed id s
  | .wsRefreshWindow die dt => Sys2Proof.Machine.execWsRefreshWindow die dt s
  | .blockRetire bidx grid => Sys2Proof.Machine.execBlockRetire bidx grid s
  | .gridCompletion grid => Sys2Proof.Machine.execGridCompletion grid s
  | .stagedBatchApply grid => Sys2Proof.Machine.execStagedBatchApply grid s
  | .ordTicketRelease die => Sys2Proof.Machine.execOrdTicketRelease die s
  | .wcLineTimeout core line => Sys2Proof.Machine.execWcLineTimeout core line s
  | .pageWalk die job va => Sys2Proof.Machine.execPageWalk die job va s
  | .heatWindow die => Sys2Proof.Machine.execHeatWindow die s
  | .pageMigrationComplete die page => Sys2Proof.Machine.execPageMigrationComplete die page s
  | .pageReplicationComplete die page => Sys2Proof.Machine.execPageReplicationComplete die page s
  | .shootdownAck die id => Sys2Proof.Machine.execShootdownAck die id s
  | .writePacket p => Sys2Proof.Machine.execWritePacket p s
  | .vwritePacket p => Sys2Proof.Machine.execVwritePacket p s
  | .readPacket p => Sys2Proof.Machine.execReadPacket p s
  | .vreadPacket p => Sys2Proof.Machine.execVreadPacket p s
  | .dataPacket p => Sys2Proof.Machine.execDataPacket p s
  | .flagPacket p => Sys2Proof.Machine.execFlagPacket p s
  | .ackPacket p => Sys2Proof.Machine.execAckPacket p s
  | .atomPacket p => Sys2Proof.Machine.execAtomPacket p s
  | .atomrPacket p => Sys2Proof.Machine.execAtomrPacket p s
  | .chunkPacket p => Sys2Proof.Machine.execChunkPacket p s
  | .swredPacket p => Sys2Proof.Machine.execSwredPacket p s
  | .burgeePacket p => Sys2Proof.Machine.execBurgeePacket p s
  | .logPacket p => Sys2Proof.Machine.execLogPacket p s
  | .ackTimeoutResend idx => Sys2Proof.Machine.execAckTimeoutResend idx s
  | .hostSubmission kind job va => Sys2Proof.Machine.execHostSubmission kind job va s
  | .submitEvent h va c flags => Sys2Proof.Machine.execSubmitEvent h va c flags s
  | .admitEvent h grid => Sys2Proof.Machine.execAdmitEvent h grid s
  | .finishEvent h grid pkg => Sys2Proof.Machine.execFinishEvent h grid pkg s
  | .blockEvent h grid => Sys2Proof.Machine.execBlockEvent h grid s
  | .unblockEvent h grid => Sys2Proof.Machine.execUnblockEvent h grid s
  | .cancelEvent h va lv => Sys2Proof.Machine.execCancelEvent h va lv s
  | .faultEvent h code grid core rung addr bidx seq => Sys2Proof.Machine.execFaultEvent h code grid core rung addr bidx seq s
  | .lossEvent h pkg reason => Sys2Proof.Machine.execLossEvent h pkg reason s
  | .joinEvent h pkg last h0 h1 => Sys2Proof.Machine.execJoinEvent h pkg last h0 h1 s
  | .fenceEvent h pkg reason ckpt => Sys2Proof.Machine.execFenceEvent h pkg reason ckpt s
  | .digestEvent h ckpt h0 h1 => Sys2Proof.Machine.execDigestEvent h ckpt h0 h1 s
  | .rebalanceEvent h grid kind gen spkg dpkg nch rank0 slot0 => Sys2Proof.Machine.execRebalanceEvent h grid kind gen spkg dpkg nch rank0 slot0 s
  | .snapcommitEvent h epoch cutSeq manif kind => Sys2Proof.Machine.execSnapcommitEvent h epoch cutSeq manif kind s
  | .snapopenEvent h va epoch => Sys2Proof.Machine.execSnapopenEvent h va epoch s
  | .ticketEvent h => Sys2Proof.Machine.execTicketEvent h s
  | .jobEvent h va close => Sys2Proof.Machine.execJobEvent h va close s
  | .preemptcfgEvent h pkg en => Sys2Proof.Machine.execPreemptcfgEvent h pkg en s
  | .heartbeat link seq => Sys2Proof.Machine.execHeartbeat link seq s
  | .heartbeatTick link => Sys2Proof.Machine.execHeartbeatTick link s
  | .death pkg link => Sys2Proof.Machine.execDeath pkg link s
  | .hretx origin first count target => Sys2Proof.Machine.execHretx origin first count target s
  | .ireq origin f target => Sys2Proof.Machine.execIreq origin f target s
  | .image origin k chunk target data => Sys2Proof.Machine.execImage origin k chunk target data s
  | .note m => Sys2Proof.Machine.execNote m s
  | .release a target => Sys2Proof.Machine.execRelease a target s
  | .linkSilent link => Sys2Proof.Machine.execLinkSilent link s
  | .linkTrainingAttempt link ok => Sys2Proof.Machine.execLinkTrainingAttempt link ok s
  | .gapLeafRetx => Sys2Proof.Machine.execGapLeafRetx s
  | .gapGroupRetx => Sys2Proof.Machine.execGapGroupRetx s
  | .gapTimeout => Sys2Proof.Machine.execGapTimeout s
  | .halyardFailover => Sys2Proof.Machine.execHalyardFailover s
  | .managementReset => Sys2Proof.Machine.execManagementReset s
  | .dispatchRecord cls pos => Sys2Proof.Machine.execDispatchRecord cls pos s
  | .coreHalt core grid => Sys2Proof.Machine.execCoreHalt core grid s
  | .haltTimeout core => Sys2Proof.Machine.execHaltTimeout core s
  | .contextSaveComplete core grid => Sys2Proof.Machine.execContextSaveComplete core grid s
  | .contextMove bidx grid toCore carve => Sys2Proof.Machine.execContextMove bidx grid toCore carve s
  | .copyChunk id => Sys2Proof.Machine.execCopyChunk id s
  | .matrixGrant cluster => Sys2Proof.Machine.execMatrixGrant cluster s
  | .matrixGrantComplete cluster => Sys2Proof.Machine.execMatrixGrantComplete cluster s
  | .matrixEntryStarving cluster id => Sys2Proof.Machine.execMatrixEntryStarving cluster id s
  | .drainWritesComplete cluster id => Sys2Proof.Machine.execDrainWritesComplete cluster id s
  | .mwalkCombine cluster id => Sys2Proof.Machine.execMwalkCombine cluster id s
  | .codebookRebuild die => Sys2Proof.Machine.execCodebookRebuild die s
  | .collChunkReduce die id chunk => Sys2Proof.Machine.execCollChunkReduce die id chunk s
  | .collCheckNotice die id rank fault => Sys2Proof.Machine.execCollCheckNotice die id rank fault s
  | .reshardComplete die id => Sys2Proof.Machine.execReshardComplete die id s
  | .cloneImageCopy grid => Sys2Proof.Machine.execCloneImageCopy grid s
  | .preservationCopy job page => Sys2Proof.Machine.execPreservationCopy job page s
  | .snapshotDone job => Sys2Proof.Machine.execSnapshotDone job s
  | .faultQueueWrite die => Sys2Proof.Machine.execFaultQueueWrite die s
  | .scrubPass f => Sys2Proof.Machine.execScrubPass f s
  | .powerOn f => Sys2Proof.Machine.execPowerOn f s
  | .marginMonitor r => Sys2Proof.Machine.execMarginMonitor r s
  | .fieldRecordWrite hours => Sys2Proof.Machine.execFieldRecordWrite hours s
  | .attestationRequest => Sys2Proof.Machine.execAttestationRequest s
  | .podFormation pkgs => Sys2Proof.Machine.execPodFormation pkgs s
  | .managementLinkRetrain link => Sys2Proof.Machine.execManagementLinkRetrain link s
  | .powerLoss cutShort => Sys2Proof.Machine.execPowerLoss cutShort s
  | .attestationReportDone => Sys2Proof.Machine.execAttestationReportDone s
  | .reservedEventType h typ => Sys2Proof.Machine.execReservedEventType h typ s
  | .reservedPacketType p => Sys2Proof.Machine.execReservedPacketType p s
  | .snapshotContextTransfer job core => Sys2Proof.Machine.execSnapshotContextTransfer job core s
  | .hostControlRequest job kind va lv close => Sys2Proof.Machine.execHostControlRequest job kind va lv close s

end Sys2Proof.Machine
end

