-- ==== Sys2Proof/Machine/Step.lean ====
section
/-! DEFINITION. One step of the package: the instruction of the group that won its issue cycle, else the next happening of the agenda,
else an issue cycle of the partition whose turn it is. -/

namespace Sys2Proof.Machine

open Sys2Proof

/-- One step (log 2). -/
def step (s : State) : Host.Outcome State Fault Refusal :=
  if !s.powered then
    match s.agenda with
    | i :: r => if isPowerOn i then exec i { s with agenda := r } else .fault .noPower
    | [] => .fault .noPower
  else
    match s.issuing with
    | some _ => match issueNext s with
      | .ok i => exec i s
      | .error s' => .next s'
    | none => match s.agenda with
      | i :: r => if i.isInstruction then .next { s with agenda := r } else exec i { s with agenda := r }
      | [] => exec (turnCycle s).1 (turnCycle s).2

/-- The state in which the next step runs the instruction whose bits are w: a block of one thread whose group has won its issue cycle at a
clause that holds the words. It stands for the dispatch of a program (log 14). -/
def State.withFetchWord (s : State) (nbits w : Nat) : State :=
  { s with
    powered := true
    grids := probeGrid :: s.grids
    blocks := probeBlock (rowWords nbits w) :: s.blocks
    issuing := some { grid := probeHandle, bidx := 0, gid := 0 } }

end Sys2Proof.Machine
end

