-- ==== Sys2Proof/Safety.lean ====
section
/-! DEFINITION. What counts as a safe run, and the terms the claims use: a group that issues an instruction, what of a thread an instruction
leaves, and what changed between two states. -/

namespace Sys2Proof.Machine

open Sys2Proof

/-- The step from s answers the next state t. -/
def Steps (s t : State) : Prop := step s = .next t

/-- A state from which the package goes on. -/
def Safe (s : State) : Prop := ∃ t, Steps s t

/-- Group g of block b has won its issue cycle in s and issues i: i meets the clause-entry conditions that depend on the block (R384 to
R389), and no thread of the block has a TRAP to take at the end of its clause. -/
structure Issuing (s : State) (b : Block) (g : Group) (i : Instr) : Prop where
  current  : s.cur? = some (b, g)
  admitted : entryFault s b g i = none
  calm     : ∀ th ∈ b.threads, th.trapAfter = none

/-- As `Issuing`, and the thread th at member m is the group's one active lane. -/
structure IssuingAlone (s : State) (b : Block) (g : Group) (m : Member) (th : Thread) (i : Instr) : Prop extends Issuing s b g i where
  alone : activeLanes b g = [(m, th)]

/-- A thread's content: everything but where and when it runs next (pc and target, status, the marks of the grouping stage; R37 to R39). -/
def Thread.content (th : Thread) : Thread :=
  { th with pc := 0, goto := none, met := false, status := .ready, readySince := 0, starving := false, ageMark := 0, yieldAfter := false,
            until_ := 0 }

/-- A block but for its threads and groups. -/
def Block.shell (b : Block) : Block := { b with threads := [], groups := [] }

/-- Between the threads of b and those of b': every active member of g went from th to a th' with r m th th', the content of every other
member is kept, every other thread is kept whole. -/
def LanesWent (b b' : Block) (g : Group) (r : Member → Thread → Thread → Prop) : Prop :=
  ∃ f : Thread → Thread, b'.threads = b.threads.map f ∧ ∀ th ∈ b.threads,
    match g.member? th.tid with
    | some m => if m.active then r m th (f th) else (f th).content = th.content
    | none => f th = th

/-- t is s after an instruction of group g of block b that touches its lanes alone: the issue slot is free, every block but b and every
other part of the state (all of memory among them) is as before, b keeps everything but threads and groups, and its lanes went by r. -/
def LanesDid (s t : State) (b : Block) (g : Group) (r : Member → Thread → Thread → Prop) : Prop :=
  ∃ b' : Block, t = { s with blocks := replaceFirst (isBlock b.grid b.bidx) (fun _ => b') s.blocks, issuing := none }
    ∧ b'.shell = b.shell ∧ LanesWent b b' g r

/-- Between s and t the blocks changed only in b's lanes, which went by r, and the issue slot is free. -/
def OneLane (s t : State) (b : Block) (g : Group) (r : Member → Thread → Thread → Prop) : Prop :=
  ∃ b' : Block, t.blocks = replaceFirst (isBlock b.grid b.bidx) (fun _ => b') s.blocks ∧ t.issuing = none
    ∧ b'.shell = b.shell ∧ LanesWent b b' g r

end Sys2Proof.Machine
end

