-- ==== Sys2Proof/Certificates/Slice0/Obligations.lean ====
section
/-! DEFINITION. The statements for the provers. Each says what its name says, in the terms of Sys2Proof/Safety.lean; its docstring names the
rules of spec/ it formalises. -/

open Sys2Proof Sys2Proof.Machine

set_option linter.unusedVariables false

namespace Sys2Proof.Rules

/- Element results, as the rules state them. A rule gives an element as an integer, taken modulo 2^w, and the flags it raises. -/

/-- n elements of width w written to vd: element k is x k modulo 2^w, the bits above them are zero, TSTAT gains a flag exactly where some
element raises it, and the thread keeps everything else. -/
def Writes (w n : Nat) (d : Reg) (x : Nat → Int × BitVec 6) (th th' : Thread) : Prop :=
  ∃ (v : Word) (fl : BitVec 6),
    (∀ k < n, (elt w v k : Int) = (x k).1 % (2 ^ w : Nat)) ∧ v.toNat < 2 ^ (w * n)
      ∧ (∀ j : Nat, fl.getLsbD j = true ↔ ∃ k < n, (x k).2.getLsbD j = true)
      ∧ th'.content = ((th.setReg d v).setFlags fl).content

/-- The signed reading of an unsigned w-bit element (R166). -/
def s_ (w x : Nat) : Int := if 2 * x < 2 ^ w then x else (x : Int) - (2 ^ w : Nat)

/-- Saturation to a range, with SAT where it clamps (R9). -/
def clampTo (lo hi x : Int) : Int × BitVec 6 := (max lo (min hi x), if lo ≤ x ∧ x ≤ hi then 0 else 0x20)
def sat_ (w : Nat) (x : Int) : Int × BitVec 6 := clampTo (-(2 ^ (w - 1) : Nat)) ((2 ^ (w - 1) : Nat) - 1) x
def satu_ (w : Nat) (x : Int) : Int × BitVec 6 := clampTo 0 ((2 ^ w : Nat) - 1) x

/-- RSHR by n (R168). -/
def rshr_ (x : Int) (n : Nat) : Int := if n = 0 then x else (x + (2 ^ (n - 1) : Nat)) / (2 ^ n : Nat)

/-- A compare condition (R146, R174). -/
def holds_ (w : Nat) (c : Cond) (x y : Nat) : Bool :=
  match c with
  | .eq => x = y
  | .ne => x ≠ y
  | .lt => s_ w x < s_ w y
  | .le => s_ w x ≤ s_ w y
  | .ltu => x < y
  | .leu => x ≤ y

/-- The elementwise instructions of INT.D to INT.B and CMPM: width, vd, va, vb, lane pattern, and an element's result from the unsigned
elements x of va and y of vb (R166, R168, R174). -/
def packedInt : Instr → Option (IntW × Reg × Reg × Reg × BitVec 3 × (Nat → Nat → Nat → Int × BitVec 6))
  | .add w d a b l => some (w, d, a, b, l, fun _ x y => ((x : Int) + y, 0))
  | .sub w d a b l => some (w, d, a, b, l, fun _ x y => ((x : Int) - y, 0))
  | .mul w d a b l => some (w, d, a, b, l, fun _ x y => ((x : Int) * y, 0))
  | .mulh w d a b l => some (w, d, a, b, l, fun w x y => (s_ w x * s_ w y / (2 ^ w : Nat), 0))
  | .mulhu w d a b l => some (w, d, a, b, l, fun w x y => ((x : Int) * y / (2 ^ w : Nat), 0))
  | .div w d a b l => some (w, d, a, b, l, fun w x y => if y = 0 then (-1, 8) else ((s_ w x).tdiv (s_ w y), 0))
  | .divu w d a b l => some (w, d, a, b, l, fun _ x y => if y = 0 then (-1, 8) else ((x : Int) / y, 0))
  | .rem w d a b l => some (w, d, a, b, l, fun w x y => if y = 0 then (x, 8) else (s_ w x - s_ w y * (s_ w x).tdiv (s_ w y), 0))
  | .remu w d a b l => some (w, d, a, b, l, fun _ x y => if y = 0 then (x, 8) else ((x : Int) - y * (x / y : Nat), 0))
  | .shl w d a b l => some (w, d, a, b, l, fun w x y => (if w ≤ y then 0 else (x : Int) * (2 ^ y : Nat), 0))
  | .shr w d a b l => some (w, d, a, b, l, fun w x y => (if w ≤ y then 0 else (x : Int) / (2 ^ y : Nat), 0))
  | .sra w d a b l => some (w, d, a, b, l, fun w x y => (s_ w x / (2 ^ min y (w - 1) : Nat), 0))
  | .rol w d a b l => some (w, d, a, b, l, fun w x y => ((x : Int) * (2 ^ (y % w) : Nat) + x / (2 ^ (w - y % w) : Nat), 0))
  | .min w d a b l => some (w, d, a, b, l, fun w x y => (if s_ w x ≤ s_ w y then x else y, 0))
  | .max w d a b l => some (w, d, a, b, l, fun w x y => (if s_ w x ≤ s_ w y then y else x, 0))
  | .minu w d a b l => some (w, d, a, b, l, fun _ x y => (if x ≤ y then x else y, 0))
  | .maxu w d a b l => some (w, d, a, b, l, fun _ x y => (if x ≤ y then y else x, 0))
  | .abs w d a => some (w, d, a, 0, 0, fun w x _ => (if s_ w x < 0 then -s_ w x else s_ w x, 0))
  | .neg w d a => some (w, d, a, 0, 0, fun _ x _ => (-(x : Int), 0))
  | .adds w d a b l => some (w, d, a, b, l, fun w x y => sat_ w (s_ w x + s_ w y))
  | .subs w d a b l => some (w, d, a, b, l, fun w x y => sat_ w (s_ w x - s_ w y))
  | .addus w d a b l => some (w, d, a, b, l, fun w x y => satu_ w ((x : Int) + y))
  | .subus w d a b l => some (w, d, a, b, l, fun w x y => satu_ w ((x : Int) - y))
  | .rshr w d a b l => some (w, d, a, b, l, fun w x y => (rshr_ (s_ w x) (min y w), 0))
  | .rshrs w d a b l => some (w, d, a, b, l, fun w x y =>
      let n := max (-(w : Int)) (min w (s_ w y))
      if 0 ≤ n then (rshr_ (s_ w x) n.toNat, 0) else sat_ w (s_ w x * (2 ^ (-n).toNat : Nat)))
  | .qmulr w d a b l => some (w, d, a, b, l, fun w x y =>
      sat_ w ((s_ w x * s_ w y + (2 ^ (w - 2) : Nat)) / (2 ^ (w - 1) : Nat)))
  | .cmpm w c d a b l => some (w, d, a, b, l, fun w x y => (if holds_ w c x y then -1 else 0, 0))
  | _ => none

/-- Bit i of an element. -/
def bitAt (x i : Nat) : Bool := x / 2 ^ i % 2 = 1

/-- x has n leading zeros among w bits; n trailing zeros (R172). -/
def leadsWith (w x n : Nat) : Prop := n ≤ w ∧ x < 2 ^ (w - n) ∧ (n < w → 2 ^ (w - n - 1) ≤ x)
def endsWith (w x n : Nat) : Prop := n ≤ w ∧ 2 ^ n ∣ x ∧ (n < w → ¬ 2 ^ (n + 1) ∣ x)

/-- A thread's content after vd alone was written. -/
def SetsReg (d : Reg) (v : Word) (th th' : Thread) : Prop := th'.content = (th.setReg d v).content

/-- A thread's content after predicate p alone was written; p7 discards (R174, R177). -/
def SetsPred (p : BitVec 3) (v : Bool) (th th' : Thread) : Prop :=
  (∀ q : BitVec 3, th'.pred q = if q = p ∧ p ≠ 7 then v else th.pred q) ∧ ({ th' with preds := th.preds } : Thread).content = th.content

/-- The whole-register instructions INT.I, LDI, BIT fn 0 to 3, LEA and BSEL: vd, va, vb, lane pattern, and the result from va, vb and the
old vd (R144, R169, R170, R172, R174). -/
def wholeReg : Instr → Option (Reg × Reg × Reg × BitVec 3 × (Word → Word → Word → Word))
  | .lea d a b l => some (d, a, b, l, fun x y _ => BitVec.ofNat 64 ((x.toNat + 8 * y.toNat) % 2 ^ 57))
  | .addi d a i => some (d, a, 0, 0, fun x _ _ => BitVec.ofInt 64 (x.toInt + i.toInt))
  | .andi d a i => some (d, a, 0, 0, fun x _ _ => x &&& BitVec.ofInt 64 i.toInt)
  | .ori d a i => some (d, a, 0, 0, fun x _ _ => x ||| BitVec.ofInt 64 i.toInt)
  | .xori d a i => some (d, a, 0, 0, fun x _ _ => x ^^^ BitVec.ofInt 64 i.toInt)
  | .shli d a i => some (d, a, 0, 0, fun x _ _ => BitVec.ofNat 64 (x.toNat * 2 ^ i.toNat))
  | .shri d a i => some (d, a, 0, 0, fun x _ _ => BitVec.ofNat 64 (x.toNat / 2 ^ i.toNat))
  | .srai d a i => some (d, a, 0, 0, fun x _ _ => BitVec.ofInt 64 (x.toInt / (2 ^ i.toNat : Nat)))
  | .ldiS d i => some (d, 0, 0, 0, fun _ _ _ => BitVec.ofInt 64 i.toInt)
  | .ldiW d x => some (d, 0, 0, 0, fun _ _ _ => BitVec.ofInt 64 x.toInt)
  | .ldiWu d x => some (d, 0, 0, 0, fun _ _ _ => BitVec.ofNat 64 x.toNat)
  | .ldiHi d x => some (d, 0, 0, 0, fun _ _ _ => BitVec.ofNat 64 (x.toNat * 2 ^ 32))
  | .ldiD d lo hi => some (d, 0, 0, 0, fun _ _ _ => BitVec.ofNat 64 (hi.toNat * 2 ^ 32 + lo.toNat))
  | .and d a b l => some (d, a, b, l, fun x y _ => x &&& y)
  | .or d a b l => some (d, a, b, l, fun x y _ => x ||| y)
  | .xor d a b l => some (d, a, b, l, fun x y _ => x ^^^ y)
  | .andn d a b l => some (d, a, b, l, fun x y _ => x &&& ~~~y)
  | .bsel d a b l => some (d, a, b, l, fun x y o => (x &&& o) ||| (y &&& ~~~o))
  | _ => none

/-- The counting forms of BIT: width, vd, va, and what an element n of vd is to the element x of va (R172). -/
def counting : Instr → Option (IntW × Reg × Reg × (Nat → Nat → Nat → Prop))
  | .popc w d a => some (w, d, a, fun w x n => n = ((List.range w).filter (bitAt x)).length)
  | .clz w d a => some (w, d, a, leadsWith)
  | .ctz w d a => some (w, d, a, endsWith)
  | .brev w d a => some (w, d, a, fun w x n => ∀ i < w, bitAt n i = bitAt x (w - 1 - i))
  | _ => none

/-- Position and length that vb names, and its other bits (R173). -/
def pos_ (y : Word) : Nat := y.toNat % 64
def len_ (y : Word) : Nat := min (y.toNat / 256 % 128) (64 - pos_ y)
def stray_ (y : Word) : Prop := ∃ i < 64, y.getLsbD i = true ∧ ¬ i < 6 ∧ ¬ (8 ≤ i ∧ i < 15)

/-- BFX, BFX.s and BFI: vd, va, vb, and what vd is to va, vb and the old vd where vb has no stray bit (R173). -/
def bitField : Instr → Option (Reg × Reg × Reg × (Word → Word → Word → Word → Prop))
  | .bfx d a b => some (d, a, b, fun x y _ v => v.toNat = x.toNat / 2 ^ pos_ y % 2 ^ len_ y)
  | .bfxS d a b => some (d, a, b, fun x y _ v =>
      v.toInt = if len_ y = 0 then 0 else s_ (len_ y) (x.toNat / 2 ^ pos_ y % 2 ^ len_ y))
  | .bfi d a b => some (d, a, b, fun x y o v => ∀ i < 64,
      v.getLsbD i = if pos_ y ≤ i ∧ i < pos_ y + len_ y then x.getLsbD (i - pos_ y) else o.getLsbD i)
  | _ => none

/-- The elements that DOT2S, DOT4S and NRWS write: width, count, vd, va, vb, lane pattern, and element k from va, vb, old vd (R167, R168). -/
def gathered : Instr → Option (Nat × Nat × Reg × Reg × Reg × BitVec 3 × (Word → Word → Word → Nat → Int × BitVec 6))
  | .dot2s d a b l => some (32, 2, d, a, b, l, fun x y o k => sat_ 32 (s_ 32 (elt 32 o k)
      + s_ 16 (elt 16 x (2 * k)) * s_ 16 (elt 16 y (2 * k)) + s_ 16 (elt 16 x (2 * k + 1)) * s_ 16 (elt 16 y (2 * k + 1))))
  | .dot4s d a b l => some (32, 2, d, a, b, l, fun x y o k => sat_ 32 (s_ 32 (elt 32 o k)
      + (s_ 8 (elt 8 x (4 * k)) * s_ 8 (elt 8 y (4 * k)) + s_ 8 (elt 8 x (4 * k + 1)) * s_ 8 (elt 8 y (4 * k + 1))
        + s_ 8 (elt 8 x (4 * k + 2)) * s_ 8 (elt 8 y (4 * k + 2)) + s_ 8 (elt 8 x (4 * k + 3)) * s_ 8 (elt 8 y (4 * k + 3)))))
  | .nrws w d a b l => some (intBits w / 2, 2 * (64 / intBits w), d, a, b, l, fun x y _ k =>
      sat_ (intBits w / 2) (s_ (intBits w) (if k < 64 / intBits w then elt (intBits w) x k else elt (intBits w) y (k - 64 / intBits w))))
  | _ => none

/-- A value rounded once by rne, with the flags of the operation and of the rounding (R95, R96, R186). -/
def rne_ (f : FFmt) (r : FVal × BitVec 6) : Nat × BitVec 6 := ((f.put .ne r.1).1, r.2 ||| (f.put .ne r.1).2)

/-- FMIN to FMAXN: which operand, where one or both are NaN (R188). -/
def pick_ (f : FFmt) (larger numeric : Bool) (x y : Nat) : Nat × BitVec 6 :=
  let nx := (f.val x).isNan
  let ny := (f.val y).isNan
  (if nx && ny then f.nanC
   else if nx then (if numeric then y else f.nanC)
   else if ny then (if numeric then x else f.nanC)
   else if larger then (if f.ordKey x < f.ordKey y then y else x)
   else (if f.ordKey y < f.ordKey x then y else x),
   if (f.val x).isSnan || (f.val y).isSnan then 16 else 0)

/-- A floating-point compare and NV (R189). -/
def fholds_ (f : FFmt) (c : FCond) (x y : Nat) : Bool × BitVec 6 :=
  let nan := (f.val x).isNan || (f.val y).isNan
  let zeros := (f.val x).isZero && (f.val y).isZero
  let lt := !nan && !zeros && f.ordKey x < f.ordKey y
  let eq := !nan && (zeros || x == y)
  (match c with
   | .eq => eq | .ne => !eq | .lt => lt | .le => lt || eq | .un => nan,
   if (match c with
       | .lt | .le => nan
       | _ => (f.val x).isSnan || (f.val y).isSnan) then 16 else 0)

/-- The elementwise floating-point instructions with one result: format, vd, va, vb, lane pattern, and an element's code and flags from
the elements of va, vb and the old vd (R186 to R192). -/
def packedFp : Instr → Option (FpW × Reg × Reg × Reg × BitVec 3 × (FFmt → Nat → Nat → Nat → Nat × BitVec 6))
  | .fadd t d a b l => some (t, d, a, b, l, fun f x y _ => rne_ f ((f.val x).add (f.val y)))
  | .fsub t d a b l => some (t, d, a, b, l, fun f x y _ => rne_ f ((f.val x).add (f.val y).negate))
  | .fmul t d a b l => some (t, d, a, b, l, fun f x y _ => rne_ f ((f.val x).mul (f.val y)))
  | .fma t d a b l => some (t, d, a, b, l, fun f x y z => rne_ f ((f.val x).fma (f.val y) (f.val z)))
  | .fms t d a b l => some (t, d, a, b, l, fun f x y z => rne_ f ((f.val x).fma (f.val y) (f.val z).negate))
  | .fnma t d a b l => some (t, d, a, b, l, fun f x y z => rne_ f ((f.val x).negate.fma (f.val y) (f.val z)))
  | .fdiv t d a b l => some (t, d, a, b, l, fun f x y _ => f.div x y)
  | .fsqrt t d a => some (t, d, a, 0, 0, fun f x _ _ => f.sqrt x)
  | .scalex t d a b l => some (t, d, a, b, l, fun f x y _ => f.scalex x (s_ f.width y))
  | .frcp t d a => some (t, d, a, 0, 0, fun f x _ _ => f.rcp x)
  | .frsq t d a => some (t, d, a, 0, 0, fun f x _ _ => f.rsq x)
  | .fmin t d a b l => some (t, d, a, b, l, fun f x y _ => pick_ f false false x y)
  | .fmax t d a b l => some (t, d, a, b, l, fun f x y _ => pick_ f true false x y)
  | .fminn t d a b l => some (t, d, a, b, l, fun f x y _ => pick_ f false true x y)
  | .fmaxn t d a b l => some (t, d, a, b, l, fun f x y _ => pick_ f true true x y)
  | .fabs t d a => some (t, d, a, 0, 0, fun f x _ _ => (x % 2 ^ (f.width - 1), 0))
  | .fneg t d a => some (t, d, a, 0, 0, fun f x _ _ => ((x + 2 ^ (f.width - 1)) % 2 ^ f.width, 0))
  | .fcmpm t c d a b l => some (t, d, a, b, l, fun f x y _ =>
      (if (fholds_ f c x y).1 then 2 ^ f.width - 1 else 0, (fholds_ f c x y).2))
  | _ => none

/-- The code of 1.0. -/
def one_ : FpW → Nat
  | .s => 0x3F800000 | .h => 0x3C00 | .bf => 0x3F80

/-- What R191 states of FEXP2, FLOG2, FSIN and FCOS at an operand x: a NaN or infinity, zero, a negative number, 1.0, an integer, a half
integer. -/
def table191 (w : FpW) (exp2 log2 sin cos : Nat → Nat × BitVec 6) (x : Nat) : Prop :=
  let f := fpFmt w
  match f.val x with
  | .nan sg => ∀ h ∈ [exp2, log2, sin, cos], h x = (f.nanC, if sg then 16 else 0)
  | .inf n => exp2 x = (if n then 0 else f.infC, 0) ∧ log2 x = (if n then (f.nanC, 16) else (f.infC, 0)) ∧
      sin x = (f.nanC, 16) ∧ cos x = (f.nanC, 16)
  | .fin n m e =>
    (m = 0 → exp2 x = (one_ w, 0) ∧ log2 x = (f.infC + 2 ^ (f.width - 1), 8) ∧
      sin x = (if n then 2 ^ (f.width - 1) else 0, 0)) ∧
    (m ≠ 0 → n = true → log2 x = (f.nanC, 16)) ∧
    (x = one_ w → log2 x = (0, 0)) ∧
    (m ≠ 0 → (0 ≤ e ∨ 2 ^ (-e).toNat ∣ m) → sin x = (if n then 2 ^ (f.width - 1) else 0, 0)) ∧
    (e < 0 → (∃ j, m = (2 * j + 1) * 2 ^ ((-e).toNat - 1)) → cos x = (0, 0))

/-- The lanes of a special function h of format w complete: every element of vd is h's value, the free words standing where no enclosure
decides the rounding (log 10). -/
def SpecialDone (s t : State) (b : Block) (g : Group) (w : FpW) (d a : Reg) (h : FFmt → Nat → Word → Nat × BitVec 6) : Prop :=
  LanesDid { s with free := s.free + 8192 } t b g fun _ th th' =>
    Writes (fpBits w) (64 / fpBits w) d (fun k =>
      let r := h (fpFmt w) (elt (fpBits w) (th.reg a) k) (Config.freeWord (s.free + 8 * th.tid + k))
      ((r.1 : Nat), r.2)) th th'

/-- The instructions that write one predicate: the predicate, its value and flags (R174, R177, R189, R203). -/
def predicated : Instr → Option (Block → Group → Member → Thread → BitVec 3 × Bool × BitVec 6)
  | .cmp w c p a r => some fun _ _ _ th =>
      (p, holds_ (intBits w) c ((th.reg a).toNat % 2 ^ intBits w) ((th.reg r).toNat % 2 ^ intBits w), 0)
  | .fcmp t c p a r l => some fun b g m th =>
      let x := fholds_ (fpFmt t) c ((th.reg a).toNat % 2 ^ fpBits t) ((vbOf b g m th l r).toNat % 2 ^ fpBits t)
      (p, x.1, x.2)
  | .pand d a c => some fun _ _ _ th => (d, th.pred a && th.pred c, 0)
  | .por d a c => some fun _ _ _ th => (d, th.pred a || th.pred c, 0)
  | .pxor d a c => some fun _ _ _ th => (d, th.pred a ^^ th.pred c, 0)
  | .pnot d a => some fun _ _ _ th => (d, !th.pred a, 0)
  | .pmov d a => some fun _ _ _ th => (d, th.pred a, 0)
  | _ => none

/-- The active threads of a group with their lanes. -/
def actives (b : Block) (g : Group) : List (Nat × Thread) := (activeLanes b g).map fun x => (x.1.lane, x.2)

/-- Register r of lane e, zero where e names no active lane (R198). -/
def laneVal (b : Block) (g : Group) (r : Reg) (e : Nat) : Word := ((laneThread b g e).map fun t => t.reg r).getD 0

/-- The troop's register r as one vector of elements of width w (R200). -/
def troopElt (w : Nat) (b : Block) (g : Group) (r : Reg) (j : Nat) : Nat := elt w (laneVal b g r (j / (64 / w))) (j % (64 / w))

/-- Element j of a SLIDE's result (R200). -/
def slid (up : Bool) (w : Nat) (b : Block) (g : Group) (a c : Reg) (j : Nat) : Nat :=
  let m := 64 / w
  if up then (if j = 0 then elt w (laneVal b g c 31) (m - 1) else troopElt w b g a (j - 1))
  else if j + 1 = 32 * m then elt w (laneVal b g c 0) 0 else troopElt w b g a (j + 1)

/-- The cross-lane instructions that move registers, and the identity and constant forms: vd and its value in each active lane (R155, R175,
R199 to R203). -/
def laneMove : Instr → Option (State → Block → Group → Member → Thread → Reg × (Word → Prop))
  | .shfl d a c => some fun _ b g _ th => (d, fun v => v = if (th.reg c).toNat % 64 < 32 then laneVal b g a ((th.reg c).toNat % 64) else 0)
  | .bcast d a n => some fun _ b g _ _ => (d, fun v => v = laneVal b g a n.toNat)
  | .slide up w d a c => some fun _ b g m _ => (d, fun v => ∀ k < 64 / intBits w,
      elt (intBits w) v k = slid up (intBits w) b g a c (m.lane * (64 / intBits w) + k))
  | .vote .ballot d neg p => some fun _ b g _ _ =>
      (d, fun v => v = BitVec.ofNat 64 (((actives b g).filter fun x => x.2.pred p != neg).map fun x => 2 ^ x.1).sum)
  | .mft d sl => some fun s b _ m th => (d, fun v => v =
      let l := s.launchOf b.grid
      match sl.toNat with
      | 0 => BitVec.ofNat 64 th.tid
      | 1 => BitVec.ofNat 64 (th.tid % l.sx)
      | 2 => BitVec.ofNat 64 (th.tid / l.sx % l.sy)
      | 3 => BitVec.ofNat 64 (th.tid / (l.sx * l.sy))
      | 4 => BitVec.ofNat 64 (th.tid / 32)
      | 5 => BitVec.ofNat 64 (l.roleOf th.tid).1
      | 6 => BitVec.ofNat 64 m.lane
      | 7 => BitVec.ofNat 64 b.cx
      | 8 => BitVec.ofNat 64 b.cy
      | 9 => BitVec.ofNat 64 b.cz
      | 10 => BitVec.ofNat 64 b.bidx
      | 11 => BitVec.ofNat 64 b.gang
      | 12 => BitVec.ofNat 64 b.grank
      | 13 => BitVec.ofNat 64 b.gsize
      | 14 => th.lid
      | 15 => th.parent
      | 16 => BitVec.ofNat 64 (((s.grid? b.grid).map fun x => x.gen).getD 0)
      | _ => BitVec.ofNat 64 th.tstat.toNat)
  | .movc d c => some fun _ b _ _ _ => (d, fun v => v = b.consts.getD c.toNat 0)
  | _ => none

/-- The threads of the lanes that send to lane e in a PUSH, in ascending lane (R201). -/
def pushers (b : Block) (g : Group) (c : Reg) (e : Nat) : List Nat :=
  (List.range 32).filter fun l => (laneThread b g l).any fun t => (t.reg c).toNat % 64 = e

/-- What a VOTE other than .ballot finds (R203). -/
def voted (m : VoteMode) (neg : Bool) (p : BitVec 3) (b : Block) (g : Group) : Prop :=
  match m with
  | .all => ∀ x ∈ actives b g, (x.2.pred p != neg) = true
  | .any => ∃ x ∈ actives b g, (x.2.pred p != neg) = true
  | _ => ∃ v, ∀ x ∈ actives b g, (x.2.pred p != neg) = v

/-- Element e of the 32 lanes of a RED or SCAN: an inactive lane supplies the identity (R204). -/
def redLane (t : RedT) (o : RedOp) (b : Block) (g : Group) (a : Reg) (e l : Nat) : Nat :=
  ((laneThread b g l).map fun th => elt (redBits t) (th.reg a) e).getD (redIdent t o)

/-- node(k, i) of the fixed tree (R204). -/
def node (f : Nat → Nat → Nat × BitVec 6) (x : Nat → Nat) : Nat → Nat → Nat
  | 0, i => x i
  | k + 1, i => (f (node f x k (2 * i)) (node f x k (2 * i + 1))).1

/-- scan(l) combined from left to right, bits k − 1 down to 0 of n = l + 1 (R205). -/
def scanNodes (f : Nat → Nat → Nat × BitVec 6) (x : Nat → Nat) (n : Nat) : Nat → Nat → Option Nat → Option Nat
  | 0, _, acc => acc
  | k + 1, base, acc =>
    if n / 2 ^ k % 2 = 1 then
      scanNodes f x n k (base + 2 ^ k) (some (match acc with
        | none => node f x k (base / 2 ^ k)
        | some y => (f y (node f x k (base / 2 ^ k))).1))
    else scanNodes f x n k base acc

end Sys2Proof.Rules

open Sys2Proof.Rules

/-- R166, R168, R174: the elementwise integer instructions and CMPM. In every active lane element k of vd is what the rule states of the
elements k of va and vb (vb after the lane pattern), the flags are those some element raises, and nothing else changes: no other register,
predicate, flag, lane, block, and no byte of memory. -/
def Obligations.PackedIntegerResult : Prop :=
  ∀ (s : State) (b : Block) (g : Group) (i : Instr) (w : IntW) (d a c : Reg) (l : BitVec 3) (f : Nat → Nat → Nat → Int × BitVec 6),
    packedInt i = some (w, d, a, c, l, f) → Issuing s b g i →
    ∃ t, exec i s = .next t ∧ LanesDid s t b g fun m th th' =>
      Writes (intBits w) (64 / intBits w) d
        (fun k => f (intBits w) (elt (intBits w) (th.reg a) k) (elt (intBits w) (vbOf b g m th l c) k)) th th'

/-- R144, R169, R170, R172, R174: LEA, INT.I, LDI, AND, OR, XOR, ANDN and BSEL write the whole of vd and nothing else. -/
def Obligations.WholeRegisterResult : Prop :=
  ∀ (s : State) (b : Block) (g : Group) (i : Instr) (d a c : Reg) (l : BitVec 3) (f : Word → Word → Word → Word),
    wholeReg i = some (d, a, c, l, f) → Issuing s b g i →
    ∃ t, exec i s = .next t ∧ LanesDid s t b g fun m th th' => SetsReg d (f (th.reg a) (vbOf b g m th l c) (th.reg d)) th th'

/-- R172, R173: POPC, CLZ, CTZ and BREV write each element of vd, BFX, BFX.s and BFI the whole of it; a stray bit of vb leaves vd of a bit
field and sets NV. -/
def Obligations.CountAndFieldResult : Prop :=
  (∀ (s : State) (b : Block) (g : Group) (i : Instr) (w : IntW) (d a : Reg) (r : Nat → Nat → Nat → Prop),
    counting i = some (w, d, a, r) → Issuing s b g i →
    ∃ t, exec i s = .next t ∧ LanesDid s t b g fun m th th' => ∃ v, SetsReg d v th th' ∧
      ∀ k < 64 / intBits w, r (intBits w) (elt (intBits w) (th.reg a) k) (elt (intBits w) v k)) ∧
  (∀ (s : State) (b : Block) (g : Group) (i : Instr) (d a c : Reg) (r : Word → Word → Word → Word → Prop),
    bitField i = some (d, a, c, r) → Issuing s b g i →
    ∃ t, exec i s = .next t ∧ LanesDid s t b g fun m th th' =>
      (stray_ (th.reg c) → th'.content = (th.setFlags 16).content) ∧
      (¬ stray_ (th.reg c) → ∃ v, SetsReg d v th th' ∧ r (th.reg a) (th.reg c) (th.reg d) v))

/-- R167, R168: DOT2S and DOT4S add exact products of signed elements to each INT32 of vd with one saturation; NRWS narrows the elements
of va into the low half and those of vb into the high half. -/
def Obligations.DotAndNarrowResult : Prop :=
  ∀ (s : State) (b : Block) (g : Group) (i : Instr) (w n : Nat) (d a c : Reg) (l : BitVec 3) (f : Word → Word → Word → Nat → Int × BitVec 6),
    gathered i = some (w, n, d, a, c, l, f) → Issuing s b g i →
    ∃ t, exec i s = .next t ∧ LanesDid s t b g fun m th th' =>
      Writes w n d (f (th.reg a) (vbOf b g m th l c) (th.reg d)) th th'

/-- R174, R177, R189: CMP, FCMP (element 0) and the predicate instructions write one predicate, p7 discarding the write, FCMP its flags
too, and nothing else. -/
def Obligations.PredicateResult : Prop :=
  ∀ (s : State) (b : Block) (g : Group) (i : Instr) (f : Block → Group → Member → Thread → BitVec 3 × Bool × BitVec 6),
    predicated i = some f → Issuing s b g i →
    ∃ t, exec i s = .next t ∧ LanesDid s t b g fun m th th' =>
      SetsPred (f b g m th).1 (f b g m th).2.1 (th.setFlags (f b g m th).2.2) th'

/-- R186 to R192: the elementwise floating-point instructions. Every element of vd is the exact result rounded once to the format, or the
operand or constant the rule names; the flags are those of the elements; nothing else changes. -/
def Obligations.PackedFloatResult : Prop :=
  ∀ (s : State) (b : Block) (g : Group) (i : Instr) (w : FpW) (d a c : Reg) (l : BitVec 3) (f : FFmt → Nat → Nat → Nat → Nat × BitVec 6),
    packedFp i = some (w, d, a, c, l, f) → Issuing s b g i →
    ∃ t, exec i s = .next t ∧ LanesDid s t b g fun m th th' =>
      Writes (fpBits w) (64 / fpBits w) d (fun k =>
        let r := f (fpFmt w) (elt (fpBits w) (th.reg a) k) (elt (fpBits w) (vbOf b g m th l c) k) (elt (fpBits w) (th.reg d) k)
        ((r.1 : Nat), r.2)) th th'

/-- R190, R191: FEXP2, FLOG2, FSIN and FCOS complete in every state in which they issue; every element takes the function's value of its
operand, whatever stands in for a rounding that no enclosure decides (log 10); the operands of R191's table give its results and flags. -/
def Obligations.SpecialFunctionResult : Prop :=
  (∀ (s : State) (b : Block) (g : Group) (w : FpW) (d a : Reg), Issuing s b g (.fexp2 w d a) →
    ∃ t, exec (.fexp2 w d a) s = .next t ∧ SpecialDone s t b g w d a fun f x q => f.exp2 x q) ∧
  (∀ (s : State) (b : Block) (g : Group) (w : FpW) (d a : Reg), Issuing s b g (.flog2 w d a) →
    ∃ t, exec (.flog2 w d a) s = .next t ∧ SpecialDone s t b g w d a fun f x q => f.log2 x q) ∧
  (∀ (s : State) (b : Block) (g : Group) (w : FpW) (d a : Reg), Issuing s b g (.fsin w d a) →
    ∃ t, exec (.fsin w d a) s = .next t ∧ SpecialDone s t b g w d a fun f x q => f.sinpi x q) ∧
  (∀ (s : State) (b : Block) (g : Group) (w : FpW) (d a : Reg), Issuing s b g (.fcos w d a) →
    ∃ t, exec (.fcos w d a) s = .next t ∧ SpecialDone s t b g w d a fun f x q => f.cospi x q) ∧
  (∀ (w : FpW) (x : Nat) (q : Word), x < 2 ^ fpBits w →
    table191 w ((fpFmt w).exp2 · q) ((fpFmt w).log2 · q) ((fpFmt w).sinpi · q) ((fpFmt w).cospi · q) x)

/-- R193 to R195, R98: CVT converts n = 64 / max(ws, wt) elements and clears the bits above them, CVT.rs by the draw of R98 with
l = (TID mod 32) + 32·i, CVTS quantises two FP32 elements. -/
def Obligations.ConversionResult : Prop :=
  (∀ (s : State) (b : Block) (g : Group) (y x : Fmt) (d a : Reg), Issuing s b g (.cvt y x d a) →
    ∃ t, exec (.cvt y x d a) s = .next t ∧ LanesDid s t b g fun m th th' =>
      Writes (fmtBits y) (64 / max (fmtBits x) (fmtBits y)) d (fun k =>
        let r := cvtEl .ne y x (elt (fmtBits x) (th.reg a) k)
        ((r.1 : Nat), r.2)) th th') ∧
  (∀ (s : State) (b : Block) (g : Group) (y x : Fmt) (d a e : Reg), Issuing s b g (.cvtRs y x d a e) →
    ∃ t, exec (.cvtRs y x d a e) s = .next t ∧ LanesDid s t b g fun m th th' =>
      Writes (fmtBits y) (64 / max (fmtBits x) (fmtBits y)) d (fun k =>
        let w := (m64 (th.reg e ^^^ BitVec.ofNat 64 (b.bidx * 32 ||| th.tid / 32))).toNat % 2 ^ 32
        let r := cvtEl (.st w (th.tid % 32 + 32 * k)) y x (elt (fmtBits x) (th.reg a) k)
        ((r.1 : Nat), r.2)) th th') ∧
  (∀ (s : State) (b : Block) (g : Group) (y : CvtsT) (d a c : Reg), Issuing s b g (.cvts y d a c) →
    ∃ t, exec (.cvts y d a c) s = .next t ∧ LanesDid s t b g fun m th th' =>
      Writes 8 2 d (fun k =>
        let r := cvtsEl y ((th.reg c).toNat % 256) (elt 32 (th.reg a) k)
        ((r.1.toNat : Nat), r.2)) th th')

/-- R155, R175, R199, R200, R202, R203: SHFL, BCAST, SLIDE, VOTE.ballot, MFT and MOVC write vd of every active lane from the old
registers of all lanes, and nothing else. -/
def Obligations.LaneMoveResult : Prop :=
  ∀ (s : State) (b : Block) (g : Group) (i : Instr) (f : State → Block → Group → Member → Thread → Reg × (Word → Prop)),
    laneMove i = some f → Issuing s b g i →
    ∃ t, exec i s = .next t ∧ LanesDid s t b g fun m th th' =>
      ∃ v, SetsReg (f s b g m th).1 v th th' ∧ (f s b g m th).2 v

/-- R196, R201, R203: LPSET writes the whole of lpN, 32 in the entries of inactive lanes; a lane that receives in a PUSH takes va of the
highest sending lane and pd says whether two or more sent; VOTE .all, .any and .eq write pd. -/
def Obligations.LanePatternPushVoteResult : Prop :=
  (∀ (s : State) (b : Block) (g : Group) (n : BitVec 3) (a : Reg), Issuing s b g (.lpset n a) →
    ∃ t, exec (.lpset n a) s = .next t ∧ LanesDid s t { b with lps := b.lps.set (n.toNat - 1) ((List.range 32).map fun l =>
        ((laneThread b g l).map fun th => (th.reg a).extractLsb' 0 6).getD 32) } g fun m th th' => th'.content = th.content) ∧
  (∀ (s : State) (b : Block) (g : Group) (d a c : Reg) (p : BitVec 3), Issuing s b g (.push d a c p) →
    ∃ t, exec (.push d a c p) s = .next t ∧ LanesDid s t b g fun m th th' =>
      match (pushers b g c m.lane).getLast? with
      | none => SetsPred p false th th'
      | some l => SetsPred p (2 ≤ (pushers b g c m.lane).length) (th.setReg d (laneVal b g a l)) th') ∧
  (∀ (s : State) (b : Block) (g : Group) (md : VoteMode) (d : Reg) (neg : Bool) (p : BitVec 3), md ≠ .ballot →
    Issuing s b g (.vote md d neg p) →
    ∃ t, exec (.vote md d neg p) s = .next t ∧ LanesDid s t b g fun m th th' =>
      ∃ v : Bool, (v = true ↔ voted md neg p b g) ∧ SetsPred (d.extractLsb' 0 3) v th th')

/-- R204, R205, R206: RED writes node(5, 0) of the fixed tree, SCAN the prefix scan(l) combined from its nodes, to every element of vd
and no other register; REDMAXI writes the highest-ranked pair to vd and v(vd + 1). -/
def Obligations.LaneReductionResult : Prop :=
  (∀ (s : State) (b : Block) (g : Group) (y : RedT) (o : RedOp) (d a : Reg), Issuing s b g (.red y o d a) →
    ∃ t, exec (.red y o d a) s = .next t ∧ LanesDid s t b g fun m th th' => ∃ v fl, th'.content = ((th.setReg d v).setFlags fl).content ∧
      ∀ e < 64 / redBits y, elt (redBits y) v e = node (redComb y o) (redLane y o b g a e) 5 0 % 2 ^ redBits y) ∧
  (∀ (s : State) (b : Block) (g : Group) (y : RedT) (o : RedOp) (d a : Reg), Issuing s b g (.scan y o d a) →
    ∃ t, exec (.scan y o d a) s = .next t ∧ LanesDid s t b g fun m th th' => ∃ v fl, th'.content = ((th.setReg d v).setFlags fl).content ∧
      (m.lane < 32 → ∀ e < 64 / redBits y,
        some (elt (redBits y) v e) = (scanNodes (redComb y o) (redLane y o b g a e) (m.lane + 1) 6 0 none).map (· % 2 ^ redBits y))) ∧
  (∀ (s : State) (b : Block) (g : Group) (y : MaxT) (d a c : Reg), Issuing s b g (.redmaxi y d a c) →
    ∃ t, exec (.redmaxi y d a c) s = .next t ∧ LanesDid s t b g fun m th th' =>
      ∃ x ∈ activeLanes b g, (∀ z ∈ activeLanes b g,
          maxKey y (elt (maxBits y) (z.2.reg a) 0) < maxKey y (elt (maxBits y) (x.2.reg a) 0) ∨
          (maxKey y (elt (maxBits y) (z.2.reg a) 0) = maxKey y (elt (maxBits y) (x.2.reg a) 0) ∧ (x.2.reg c).toNat ≤ (z.2.reg c).toNat)) ∧
        th'.content = ((th.setReg d (BitVec.ofNat 64 (maxValue y (elt (maxBits y) (x.2.reg a) 0)))).setReg (d + 1) (x.2.reg c)).content)

namespace Sys2Proof.Rules

/- Accesses of one lane. -/

/-- v(r) plus a displacement, modulo 2^64 (R207). -/
def ea_ (th : Thread) (r : Reg) (off : Int) : Word := BitVec.ofInt 64 ((th.reg r).toInt + off)

/-- An access of an instruction: what it does, its effective address, vd, token, lookahead. -/
structure Access where
  op : AccOp
  ea : Thread → Word
  d  : Reg
  k  : BitVec 3
  l  : BitVec 4

/-- The lane's access with its operands. -/
def Access.of (a : Access) (th : Thread) : Acc := mkAcc a.op th (a.ea th) a.d a.k a.l

/-- The 8, 4, 2 and 1 byte loads of memory, gathers among them (R149, R211, R219). -/
def loads : Instr → Option Access
  | .lddShort d b o k l => some ⟨.ld 8 false false, fun th => ea_ th b (8 * o.toInt), d, k, l⟩
  | .ldd d b o k l => some ⟨.ld 8 false false, fun th => ea_ th b o.toInt, d, k, l⟩
  | .ldw d b o k l => some ⟨.ld 4 true false, fun th => ea_ th b o.toInt, d, k, l⟩
  | .ldwu d b o k l => some ⟨.ld 4 false false, fun th => ea_ th b o.toInt, d, k, l⟩
  | .ldh d b o k l => some ⟨.ld 2 true false, fun th => ea_ th b o.toInt, d, k, l⟩
  | .ldhu d b o k l => some ⟨.ld 2 false false, fun th => ea_ th b o.toInt, d, k, l⟩
  | .ldb d b o k l => some ⟨.ld 1 true false, fun th => ea_ th b o.toInt, d, k, l⟩
  | .ldbu d b o k l => some ⟨.ld 1 false false, fun th => ea_ th b o.toInt, d, k, l⟩
  | .ldgDShort d b o k l => some ⟨.ld 8 false true, fun th => ea_ th b (8 * o.toInt), d, k, l⟩
  | .ldgD d b o k l => some ⟨.ld 8 false true, fun th => ea_ th b o.toInt, d, k, l⟩
  | .ldgW d b o k l => some ⟨.ld 4 false true, fun th => ea_ th b o.toInt, d, k, l⟩
  | _ => none

/-- Formatted loads (R214); scratchpad loads (R216, R217); weight-store loads (R218). -/
def formatLoads : Instr → Option Access
  | .ldfSShort d b o k l => some ⟨.ldf false, fun th => ea_ th b (8 * o.toInt), d, k, l⟩
  | .ldfS d b o k l => some ⟨.ldf false, fun th => ea_ th b o.toInt, d, k, l⟩
  | .ldfBf d b o k l => some ⟨.ldf true, fun th => ea_ th b o.toInt, d, k, l⟩
  | _ => none
def scratchLoads : Instr → Option (Nat × FeL × Access)
  | .ldsShort d b o k l => some (8, .none, ⟨.lds 8 .none, fun th => ea_ th b (8 * o.toInt), d, k, l⟩)
  | .lds w q d b o k l => some (intBits w / 8, q, ⟨.lds (intBits w / 8) q, fun th => ea_ th b o.toInt, d, k, l⟩)
  | _ => none
def weightLoads : Instr → Option (Nat × Access)
  | .ldwsDShort d b o k l => some (8, ⟨.ldws 8, fun th => ea_ th b (8 * o.toInt), d, k, l⟩)
  | .ldwsD d b o k l => some (8, ⟨.ldws 8, fun th => ea_ th b o.toInt, d, k, l⟩)
  | .ldwsW d b o k l => some (4, ⟨.ldws 4, fun th => ea_ th b o.toInt, d, k, l⟩)
  | _ => none

/-- Stores of memory, scatters among them (R149, R211, R212, R219), and of the scratchpad (R216). -/
def stores : Instr → Option Access
  | .stdShort d b o => some ⟨.st 8 false false, fun th => ea_ th b (8 * o.toInt), d, 7, 0⟩
  | .std d b o q => some ⟨.st 8 q false, fun th => ea_ th b o.toInt, d, 7, 0⟩
  | .stw d b o q => some ⟨.st 4 q false, fun th => ea_ th b o.toInt, d, 7, 0⟩
  | .sth d b o q => some ⟨.st 2 q false, fun th => ea_ th b o.toInt, d, 7, 0⟩
  | .stb d b o q => some ⟨.st 1 q false, fun th => ea_ th b o.toInt, d, 7, 0⟩
  | .stgDShort d b o => some ⟨.st 8 false true, fun th => ea_ th b (8 * o.toInt), d, 7, 0⟩
  | .stgD d b o q => some ⟨.st 8 q true, fun th => ea_ th b o.toInt, d, 7, 0⟩
  | .stgW d b o q => some ⟨.st 4 q true, fun th => ea_ th b o.toInt, d, 7, 0⟩
  | _ => none
def scratchStores : Instr → Option (Nat × Bool × Access)
  | .stsShort d b o => some (8, false, ⟨.sts 8 false, fun th => ea_ th b (8 * o.toInt), d, 7, 0⟩)
  | .sts w f d b o => some (intBits w / 8, f, ⟨.sts (intBits w / 8) f, fun th => ea_ th b o.toInt, d, 7, 0⟩)
  | _ => none

/-- Atomics: the operation and type, and the access (R150, R221). -/
def atomics : Instr → Option (AtomOp × AtomTy × Order × Scope × Access)
  | .aaddDShort d b o k l =>
    some (.add, .d, .none, .blk, ⟨.atom .add .d .none .blk, fun th => ea_ th b (8 * o.toInt), d, k, l⟩)
  | .aadd t d b o k l od sc => some (.add, t, od, sc, ⟨.atom .add t od sc, fun th => ea_ th b o.toInt, d, k, l⟩)
  | .amin t d b o k l od sc => some (.min, t, od, sc, ⟨.atom .min t od sc, fun th => ea_ th b o.toInt, d, k, l⟩)
  | .amax t d b o k l od sc => some (.max, t, od, sc, ⟨.atom .max t od sc, fun th => ea_ th b o.toInt, d, k, l⟩)
  | .aand t d b o k l od sc => some (.and, t, od, sc, ⟨.atom .and t od sc, fun th => ea_ th b o.toInt, d, k, l⟩)
  | .aor t d b o k l od sc => some (.or, t, od, sc, ⟨.atom .or t od sc, fun th => ea_ th b o.toInt, d, k, l⟩)
  | .axor t d b o k l od sc => some (.xor, t, od, sc, ⟨.atom .xor t od sc, fun th => ea_ th b o.toInt, d, k, l⟩)
  | .axch t d b o k l od sc => some (.xch, t, od, sc, ⟨.atom .xch t od sc, fun th => ea_ th b o.toInt, d, k, l⟩)
  | .acas t d b o k l od sc => some (.cas, t, od, sc, ⟨.atom .cas t od sc, fun th => ea_ th b o.toInt, d, k, l⟩)
  | .aaddf d b o k l od sc => some (.addf, .w, od, sc, ⟨.atom .addf .w od sc, fun th => ea_ th b o.toInt, d, k, l⟩)
  | _ => none

/-- The memory value an atomic leaves of m, with operand x and, for ACAS, new value y, all of w bits (R221). -/
def atomResult (o : AtomOp) (sg : Bool) (w m x y : Nat) : Nat :=
  let less (a b : Nat) : Bool := if sg then s_ w a < s_ w b else a < b
  match o with
  | .add => (m + x) % 2 ^ w
  | .addf => (rne_ ffS ((ffS.val m).add (ffS.val x))).1
  | .min => if less x m then x else m
  | .max => if less m x then x else m
  | .and => m &&& x
  | .or => m ||| x
  | .xor => m ^^^ x
  | .xch => x
  | .cas => if m = x then y else m

/-- The name of a thread. -/
def me (b : Block) (th : Thread) : Tref := { grid := b.grid, bidx := b.bidx, tid := th.tid }

/-- The lane's access meets none of the faults of R402, lies in one page, outside the windows, and its translation, which the package
already holds, gives PA pa of this package with leaf entry e (R62, R207). -/
structure Reaches (s : State) (b : Block) (th : Thread) (a : Acc) (pa : Nat) (e : Word) : Prop where
  sound : accFaults s b (!th.priv) a = (s, [])
  page  : a.ea.toNat % 2 ^ 16 + a.op.size ≤ 2 ^ 16
  plain : inWindow a.ea.toNat = false
  here  : translate s (dieOf b.core) (s.jobOf b.grid) b.extents a.ea.toNat a.op.writes (!th.priv) = (s, .here pa e)

/-- No access of the thread is outstanding that a later one must await (R102, R121, R210): no store, no .ord operation, no line toward another
package, no access that has still to be made, no flush of staged atomics. -/
structure Drained (s : State) (b : Block) (th : Thread) : Prop where
  writes  : ∀ w ∈ s.writes, w.who ≠ me b th
  tickets : ∀ d, ∀ x ∈ (s.die d).tickets, x.who ≠ me b th
  lines   : ∀ n, linesBefore s (me b th) n = false
  reads   : ∀ p ∈ s.pend, p.who = me b th → p.kind.unread = false ∧ ∀ k, p.kind ≠ .flush k

/-- The bytes [pa, pa + n) are data above the bring-up page (R446): their page may be written now (R65, R343) and is marked modified (R344), its
granules are sound (R77), and no wait and no armed entry stands on them (R232, R233). -/
structure Plain (s : State) (job va pa n : Nat) : Prop where
  some_ : 0 < n
  above : 0x10000 ≤ pa
  seals : ∀ q, 8 * q < pa + n → pa < 8 * q + 8 → s.mem.err q = 0
  free  : writeHeld s job va = false
  here  : pageLeft s job va = false
  dsm   : noteDsm s job va = s
  waits : ∀ p ∈ s.pend, ∀ q od sc x, p.kind = .signal q od sc x → ¬(q / 8 * 8 < pa + n ∧ pa < q / 8 * 8 + 8)
  arms  : ∀ d, ∀ a ∈ (s.die d).arms, ¬(a.obj / 8 * 8 < pa + n ∧ pa < a.obj / 8 * 8 + 8)

/-- Nothing that is outstanding precedes the store (R102, R209, R210), and it is whole. -/
structure Foremost (s : State) (w : PWrite) : Prop where
  free  : w.token = 0
  first : ∀ x ∈ s.writes, x.before w = false
  reads : accBefore s w.who w.id w.va w.bytes.length true = false
  lines : linesBefore s w.who (w.id + 1) = false
  whole : ∀ x ∈ s.writes, x.id = w.id → x = w

/-- Nothing waits for a store to be performed: no held access, no held decrement, no arrival at a barrier. -/
structure Quiet (s : State) : Prop where
  held : ∀ p ∈ s.pend, p.kind ≠ .held
  sigs : ∀ x ∈ s.sigHeld, x.2.2.2.2 < 2 ^ 37
  bars : ∀ x ∈ s.bars, x.arrivals = []

/-- The thread with its token raised by a result that stays outstanding (R137). -/
def raise (k : BitVec 3) (th : Thread) : Thread := if k = 7 then th else th.setTok k.toNat (th.tok k.toNat + 1)

/-- A value delivered to vd (R137): at once where tok = 7, else outstanding under its token until LOAD_RESULT. -/
def Delivers (s t : State) (b : Block) (g : Group) (th : Thread) (d : Reg) (k : BitVec 3) (v : Word) (fl : BitVec 6) : Prop :=
  (k = 7 → t.pend = s.pend ∧ OneLane s t b g fun _ x x' => x'.content = ((x.setReg d v).setFlags fl).content) ∧
  (k ≠ 7 → OneLane s t b g (fun _ x x' => x'.content = (raise k x).content) ∧
    ∃ p, t.pend = s.pend ++ [p] ∧ p.who = me b th ∧ p.tok = k.toNat ∧ p.acc.d = d ∧ p.kind = .result v fl)

end Sys2Proof.Rules

/-- R207, R211, R219: a load or gather whose page is here delivers the n bytes at its address, little-endian, zero- or sign-extended, and
changes no memory, no other register and no other lane. -/
def Obligations.LoadResult : Prop :=
  ∀ (s : State) (b : Block) (g : Group) (m : Member) (th : Thread) (i : Instr) (a : Access) (n : Nat) (sx ga : Bool) (pa : Nat) (e : Word),
    loads i = some a → a.op = .ld n sx ga → IssuingAlone s b g m th i → Drained s b th → Reaches s b th (a.of th) pa e →
    ∃ t, exec i s = .next t ∧ t.mem = s.mem ∧ t.writes = s.writes ∧ t.cores = s.cores ∧ t.grids = s.grids ∧
      Delivers s t b g th a.d a.k
        (if sx then BitVec.ofInt 64 (s_ (8 * n) (s.mem.num pa n)) else BitVec.ofNat 64 (s.mem.num pa n)) 0

/-- R214, R215: a formatted load whose page is here delivers the decoded elements of its page's format, with the conversion's flags, and
changes no memory. -/
def Obligations.FormattedLoadResult : Prop :=
  ∀ (s : State) (b : Block) (g : Group) (m : Member) (th : Thread) (i : Instr) (a : Access) (bf : Bool) (pa : Nat) (e : Word),
    formatLoads i = some a → a.op = .ldf bf → IssuingAlone s b g m th i → Drained s b th → Reaches s b th (a.of th) pa e →
    ∃ t, exec i s = .next t ∧ t.mem = s.mem ∧ t.writes = s.writes ∧ t.cores = s.cores ∧
      let va := (a.ea th).toNat
      let r := ldfReads (pteFmt e) bf va
      let v := ldfValue s (dieOf b.core) (pteFmt e) (pteCb e) bf (s.mem.read pa ((r.headD (0, 0)).2))
        (match r with
         | _ :: x :: _ => s.mem.num (pa + x.1 - va) 1
         | _ => 127)
      Delivers s t b g th a.d a.k v.1 v.2

/-- R216 to R218: a scratchpad load without a fault whose granule is full, or that asks for no full bit, delivers its bytes zero-extended,
.wfc clearing the bit; a weight-store load outside its bank group's refresh window delivers its bytes. No memory changes. -/
def Obligations.ScratchAndWeightLoadResult : Prop :=
  (∀ (s : State) (b : Block) (g : Group) (m : Member) (th : Thread) (i : Instr) (n : Nat) (q : FeL) (a : Access),
    scratchLoads i = some (n, q, a) → IssuingAlone s b g m th i → Drained s b th →
    accFaults s b (!th.priv) (a.of th) = (s, []) →
    (q = .none ∨ b.full.contains ((a.ea th).toNat % 2 ^ 57 / 16) = true) →
    ∃ t, exec i s = .next t ∧ t.mem = s.mem ∧ t.writes = s.writes ∧
      Delivers s t { b with full := if q = .wfc then markSet b.full ((a.ea th).toNat % 2 ^ 57 / 16) false else b.full } g th a.d a.k
        (BitVec.ofNat 64 (b.scratch.num ((a.ea th).toNat % 2 ^ 57) n)) 0) ∧
  (∀ (s : State) (b : Block) (g : Group) (m : Member) (th : Thread) (i : Instr) (n : Nat) (a : Access),
    weightLoads i = some (n, a) → IssuingAlone s b g m th i →
    accFaults s b (!th.priv) (a.of th) = (s, []) →
    wsBusy s (dieOf b.core) ((a.ea th).toNat % 2 ^ 57 / 2 ^ 16 % 8) = false →
    ∃ t, exec i s = .next t ∧ t.mem = s.mem ∧ t.writes = s.writes ∧ t.cores = s.cores ∧
      Delivers s t b g th a.d a.k (BitVec.ofNat 64 ((s.die (dieOf b.core)).ws.num ((a.ea th).toNat % 2 ^ 57) n)) 0)

/-- R210 to R212, R216, R219: a store or scatter whose page is here, or a scratchpad store, issues one write of the low n bytes of vd to
its address and raises the store count by one; no byte changes before the write is performed. An .ord store of an ordered grid waits for
its place in the release order (R225) instead. R220: a prefetch delivers nothing and changes no register and no memory. -/
def Obligations.StoreAndPrefetchIssue : Prop :=
  ((∀ (s : State) (b : Block) (g : Group) (m : Member) (th : Thread) (i : Instr) (a : Access) (n : Nat) (o ga : Bool) (pa : Nat) (e : Word),
    stores i = some a → a.op = .st n o ga → IssuingAlone s b g m th i → Reaches s b th (a.of th) pa e →
    (o = false ∨ s.ordered b.grid = false) →
    ∃ t, exec i s = .next t ∧ t.mem = s.mem ∧ t.pend = s.pend ∧
      t.writes = s.writes ++ [{ id := s.nextId, who := me b th, job := s.jobOf b.grid, place := .pa pa, va := (a.ea th).toNat,
                                bytes := leBytes (th.reg a.d).toNat n, set := false, at_ := s.now, token := 0 }] ∧
      OneLane s t b g fun _ x x' => x'.content = ({ x with stores := x.stores + 1 } : Thread).content) ∧
  (∀ (s : State) (b : Block) (g : Group) (m : Member) (th : Thread) (i : Instr) (a : Access) (n : Nat) (ga : Bool) (pa : Nat) (e : Word),
    stores i = some a → a.op = .st n true ga → IssuingAlone s b g m th i → Reaches s b th (a.of th) pa e → s.ordered b.grid = true →
    ∃ t x, exec i s = .next t ∧ t.mem = s.mem ∧ t.pend = s.pend ∧ t.writes = s.writes ∧
      (t.die (dieOf b.core)).tickets = (s.die (dieOf b.core)).tickets ++ [x] ∧ x.who = me b th ∧ x.acc = a.of th ∧
      x.seg = th.segment ∧ x.order = th.order ∧
      OneLane s t b g fun _ y y' => y'.content = ({ y with stores := y.stores + 1, order := y.order + 1 } : Thread).content) ∧
  (∀ (s : State) (b : Block) (g : Group) (m : Member) (th : Thread) (i : Instr) (n : Nat) (f : Bool) (a : Access),
    scratchStores i = some (n, f, a) → IssuingAlone s b g m th i → accFaults s b (!th.priv) (a.of th) = (s, []) →
    ∃ t, exec i s = .next t ∧ t.mem = s.mem ∧ t.pend = s.pend ∧
      t.writes = s.writes ++ [{ id := s.nextId, who := me b th, job := s.jobOf b.grid, place := .scratch ((a.ea th).toNat % 2 ^ 57),
                                va := (a.ea th).toNat % 2 ^ 57, bytes := leBytes (th.reg a.d).toNat n, set := f, at_ := s.now, token := 0 }] ∧
      OneLane s t b g fun _ x x' => x'.content = ({ x with stores := x.stores + 1 } : Thread).content)) ∧
  (∀ (s : State) (b : Block) (g : Group) (r : Reg) (o6 : BitVec 6) (o : BitVec 26) (i : Instr),
    i = .prefL1Short r o6 ∨ i = .prefL1 r o ∨ i = .prefL2 r o → Issuing s b g i →
    ∃ t, exec i s = .next t ∧ LanesDid s t b g fun _ th th' => th'.content = th.content)

/-- R210, R216, R102: a store performed at this package, once nothing that precedes it is outstanding, writes exactly its bytes, in memory or in its
block's scratchpad (R73, R217: STS.sf fills the granules it touches), and lowers its thread's store count; LOAD_RESULT writes an outstanding result to its register and lowers its token
(R137, R139), and of an exited thread lowers the token alone (R182). -/
def Obligations.OutstandingAccessCompletes : Prop :=
  (∀ (s : State) (w : PWrite) (pa : Nat), s.writes.find? (fun x => x.id == w.id) = some w → w.place = .pa pa →
    Foremost s w → Quiet s → Plain s w.job w.va pa w.bytes.length →
    (w.set = true → ∀ n, linesBefore s w.who n = false) →
    ∃ t, exec (.storePerformed w.id) s = .next t ∧ t.mem = s.mem.write pa w.bytes ∧ t.pend = s.pend ∧
      t.writes = s.writes.filter (fun x => x.id != w.id) ∧
      t.blocks = (s.updThread w.who fun th => { th with stores := th.stores - 1 }).blocks) ∧
  (∀ (s : State) (w : PWrite) (off : Nat), s.writes.find? (fun x => x.id == w.id) = some w → w.place = .scratch off →
    Foremost s w → Quiet s → (w.set = true → (∀ n, linesBefore s w.who n = false) ∧
      ∀ p ∈ s.pend, ∀ o n c, p.kind = .fullEmpty o n c → p.who.grid ≠ w.who.grid ∨ p.who.bidx ≠ w.who.bidx) →
    ∃ t, exec (.storePerformed w.id) s = .next t ∧ t.mem = s.mem ∧ t.writes = s.writes.filter (fun x => x.id != w.id) ∧
      t.blocks = ((s.updBlock w.who.grid w.who.bidx fun b => { b with
          scratch := b.scratch.write off w.bytes
          full := if w.set then (List.range ((off + w.bytes.length + 15) / 16 - off / 16)).foldl (fun f i => markSet f (off / 16 + i) true) b.full
                  else b.full }).updThread w.who
        fun th => { th with stores := th.stores - 1 }).blocks) ∧
  (∀ (s : State) (p : Pend) (b : Block) (th : Thread) (v : Word) (f : BitVec 6), s.pend.find? (fun x => x.id == p.id) = some p →
    p.kind = .result v f → (∀ t k, p.acc.op ≠ .jump t k) →
    p.tok < 7 → s.block? p.who.grid p.who.bidx = some b → b.place = 0 → s.thread? p.who = some th → th.status ≠ .shelved →
    ∃ t, exec (.loadResult p.id) s = .next t ∧ t.mem = s.mem ∧ t.pend = s.pend.filter (fun x => x.id != p.id) ∧
      t.blocks = (s.updThread p.who fun th =>
        let r := if th.status = .exited then th else (th.setFlags f).setReg p.acc.d v
        r.setTok p.tok (r.tok p.tok - 1)).blocks)

/-- R221 to R223: an atomic at this package replaces its word by the operation's result and delivers the old value, sign-extended for .d and
.w, and no other byte changes (an .sc one below pod scope where no earlier .sc operation of the package is outstanding, R112); AADDF of order 0 in an
ordered grid is staged and delivers nothing. R112: an .sc atomic of pod scope asks for its ticket and stays outstanding. R225, R226: an .ord atomic of an
ordered grid enters its die's ticket unit and stays outstanding. -/
def Obligations.AtomicResult : Prop :=
  (∀ (s : State) (b : Block) (g : Group) (m : Member) (th : Thread) (i : Instr) (o : AtomOp) (y : AtomTy) (od : Order) (sc : Scope)
      (a : Access) (pa : Nat) (e : Word),
    atomics i = some (o, y, od, sc, a) → IssuingAlone s b g m th i → Drained s b th → Reaches s b th (a.of th) pa e →
    Plain s (s.jobOf b.grid) (a.ea th).toNat pa (atomBits y / 8) →
    (od = .ord ∨ (od = .none ∧ o = .addf) → s.ordered b.grid = false) → ¬(od = .sc ∧ sc = .pod) →
    (od = .sc → ∀ x ∈ s.scOut, x.1 = false → s.waitsOn x.2.2 = false) →
    let w := atomBits y
    let old := s.mem.num pa (w / 8)
    ∃ t, exec i s = .next t ∧
      t.mem = s.mem.write pa (leBytes (atomResult o (atomSigned y) w old ((th.reg a.d).toNat % 2 ^ w) ((th.reg (a.d + 1)).toNat % 2 ^ w)) (w / 8)) ∧
      Delivers s t b g th a.d a.k (if o ≠ .addf ∧ atomSigned y then BitVec.ofInt 64 (s_ w old) else BitVec.ofNat 64 old) 0) ∧
  (∀ (s : State) (b : Block) (g : Group) (m : Member) (th : Thread) (d r : Reg) (o : BitVec 26) (k : BitVec 3) (l : BitVec 4) (sc : Scope)
      (pa : Nat) (e : Word),
    IssuingAlone s b g m th (.aaddf d r o k l .none sc) → s.ordered b.grid = true →
    Reaches s b th (mkAcc (.atom .addf .w .none sc) th (ea_ th r o.toInt) d k l) pa e →
    ((s.core b.core).staged.filter fun x => !x.spilled).length < 512 →
    ∃ t x, exec (.aaddf d r o k l .none sc) s = .next t ∧ t.mem = s.mem ∧ t.pend = s.pend ∧
      (t.core b.core).staged = (s.core b.core).staged ++ [x] ∧ x.va = (ea_ th r o.toInt).toNat ∧
      x.x = (th.reg d).extractLsb' 0 32 ∧ x.who = me b th ∧ x.order = th.order ∧ x.batch = th.flushes + 1 ∧
      OneLane s t b g fun _ y y' => y'.content = ({ y with order := y.order + 1 } : Thread).content) ∧
  (∀ (s : State) (b : Block) (g : Group) (m : Member) (th : Thread) (i : Instr) (o : AtomOp) (y : AtomTy) (a : Access),
    atomics i = some (o, y, .sc, .pod, a) → IssuingAlone s b g m th i → Drained s b th →
    accFaults s b (!th.priv) (a.of th) = (s, []) →
    ∃ t p, exec i s = .next t ∧ t.mem = s.mem ∧ t.pend = s.pend ++ [p] ∧ p.kind = .scTicket ∧ p.acc = a.of th ∧ p.who = me b th ∧
      p.tok = a.k.toNat ∧ t.outEvents = s.outEvents ++ [.ticket { seq := 0, origin := s.pkg, job := s.jobOf b.grid }] ∧
      OneLane s t b g fun _ x x' => x'.content = (raise a.k x).content) ∧
  (∀ (s : State) (b : Block) (g : Group) (m : Member) (th : Thread) (i : Instr) (o : AtomOp) (y : AtomTy) (sc : Scope) (a : Access),
    atomics i = some (o, y, .ord, sc, a) → IssuingAlone s b g m th i → s.ordered b.grid = true →
    accFaults s b (!th.priv) (a.of th) = (s, []) →
    ∃ t p x, exec i s = .next t ∧ t.mem = s.mem ∧ t.pend = s.pend ++ [p] ∧ p.kind = .ticket ∧ p.acc = a.of th ∧ p.who = me b th ∧
      p.tok = a.k.toNat ∧ (t.die (dieOf b.core)).tickets = (s.die (dieOf b.core)).tickets ++ [x] ∧ x.id = p.id ∧ x.who = me b th ∧
      x.acc = a.of th ∧ x.seg = th.segment ∧ x.order = th.order ∧
      OneLane s t b g fun _ x x' => x'.content = ({ raise a.k x with stores := x.stores + 1, order := x.order + 1 } : Thread).content)

namespace Sys2Proof.Rules

/- Control. -/

/-- The instruction of n words is the last of its clause; the lane executes, has taken no earlier transfer, and no result holds its group
(R39, R137). -/
structure Last (g : Group) (th : Thread) (n : Nat) : Prop where
  idx     : g.cnt < g.idx + n
  windows : g.windows = []
  issuing : th.status = .issuing
  goto    : th.goto = none
  yield   : th.yieldAfter = false

/-- Next clause header + 4 · x, as an address that may lie outside the 57-bit space (R133, R178); the same modulo 2^57 (R179, BRX). -/
def ahead (g : Group) (x : Int) : Word := BitVec.ofInt 64 (g.fall.toNat + 4 * x)
def aheadMod (g : Group) (x : Int) : Word := BitVec.ofNat 64 (BitVec.ofInt 57 (g.fall.toNat + 4 * x)).toNat

/-- The transfers without a call: the target, none where the lane falls through (R178, R179). -/
def transfers : Instr → Option (Group → Thread → Option Word)
  | .bra c o => some fun g th => if th.pred (c.extractLsb' 0 3) ≠ c.getLsbD 3 then some (ahead g o.toInt) else none
  | .jmp r => some fun _ th => some (th.reg r)
  | .brx r => some fun g th => some (aheadMod g (th.reg r).toInt)
  | _ => none

/-- The calls and their targets (R179, R180). -/
def calls : Instr → Option (Group → Thread → Word)
  | .call o => some fun g _ => ahead g o.toInt
  | .callx r => some fun _ th => th.reg r
  | _ => none

/-- The lane stands READY at an address, its content changed by f alone. -/
def Goes (dest : Va) (f : Thread → Thread) (x x' : Thread) : Prop :=
  x'.content = (f x).content ∧ x'.status = .ready ∧ x'.pc = dest

/-- The system registers a core reads (R14, R15, R157, R290, R304, R313). -/
def sysReg (s : State) (core r : Nat) : Word :=
  match r with
  | 0x000 => BitVec.ofNat 64 (core / 208 * 2 ^ 22 + core % 208 / 4 * 2 ^ 16 + core % 4 * 2 ^ 14 + core)
  | 0x001 => BitVec.ofNat 64 (core / 208 + if core / 208 = 0 then 4 else 0)
  | 0x002 => s.pkgId
  | 0x003 => BitVec.ofNat 64 s.podSeq
  | 0x010 => (s.die (core / 208)).faultq
  | 0x011 => shelfStat (s.core core)
  | 0x012 => wsRefresh s (core / 208)
  | 0x013 => s.preemptCtl
  | 0x014 => s.placeWeights
  | 0x015 => s.linkStat
  | 0x100 => (s.core core).perfIssue
  | 0x101 => (s.core core).perfStallSp
  | 0x102 => (s.core core).perfStallMem
  | 0x103 => (s.core core).perfForm
  | _ => 0

/-- The bits of a system register that a write changes: all but those that are RO (R7, R69, R304, R375). -/
def sysMask (r : Nat) : Word :=
  match r with
  | 0x010 => 0x00000FFFFFFFFFC0
  | 0x013 => 0x00003FFFF000FF00
  | 0x014 => 0xFFFFFFF0FFFF0003
  | 0x100 | 0x101 | 0x102 | 0x103 => 0xFFFFFFFFFFFFFFFF
  | _ => 0

/-- EN of PREEMPT_CTL asked for a change: the event the package sends (R304). -/
def enEvent (s : State) (r : Nat) (v : Word) : List Event :=
  if r = 0x013 ∧ v.getLsbD 0 ≠ s.preemptCtl.getLsbD 0 then [.preemptcfg { seq := 0, origin := s.pkg, job := 0 } s.pkg (v.getLsbD 0)] else []

end Sys2Proof.Rules

/-- R178, R179, R39: BRA, JMP and BRX, their target a clause header a thread may go to (R395), leave the lane READY at the target, or at
the fall-through header where BRA's predicate is false; nothing else changes. R180: a call stores the address of the next clause header at private offset P − 8·(d + 1) and goes to its target with d + 1; RET
reads the slot at P − 8·d and goes there with d − 1. -/
def Obligations.TransferCallAndReturnResult : Prop :=
  (∀ (s : State) (b : Block) (g : Group) (m : Member) (th : Thread) (i : Instr) (f : Group → Thread → Option Word),
    transfers i = some f → IssuingAlone s b g m th i → Last g th (Instr.len i) →
    (∀ w, f g th = some w → targetFault s b (!th.priv) w = (s, none)) →
    ∃ t, exec i s = .next t ∧ LanesDid s t b g fun _ x x' => Goes (((f g th).map fun w => w.extractLsb' 0 57).getD g.fall) id x x') ∧
  ((∀ (s : State) (b : Block) (g : Group) (m : Member) (th : Thread) (i : Instr) (f : Group → Thread → Word) (pa : Nat) (e : Word),
    calls i = some f → IssuingAlone s b g m th i → Last g th (Instr.len i) → th.callDepth < min 255 (privSize s b th / 8) →
    Reaches s b th (pushAcc s b th g.fall) pa e → targetFault s b (!th.priv) (f g th) = (s, none) →
    let va := privBase s b th + (privSize s b th - 8 * (th.callDepth + 1))
    ∃ t, exec i s = .next t ∧ t.mem = s.mem ∧ t.pend = s.pend ∧
      t.writes = s.writes ++ [{ id := s.nextId, who := me b th, job := s.jobOf b.grid, place := .pa pa, va := va % 2 ^ 64,
                                bytes := leBytes g.fall.toNat 8, set := false, at_ := s.now, token := 0 }] ∧
      OneLane s t b g fun _ x x' =>
        Goes ((f g th).extractLsb' 0 57) (fun y => { y with stores := y.stores + 1, callDepth := y.callDepth + 1 }) x x') ∧
  (∀ (s : State) (b : Block) (g : Group) (m : Member) (th : Thread) (pa : Nat) (e : Word),
    IssuingAlone s b g m th .ret → Last g th 1 → th.callDepth ≠ 0 → Drained s b th → Reaches s b th (popAcc s b th) pa e →
    targetFault s b (!th.priv) (BitVec.ofNat 64 (s.mem.num pa 8)) = (s, none) →
    (popAcc s b th).ea = BitVec.ofNat 64 (privBase s b th + (privSize s b th - 8 * th.callDepth)) ∧
    ∃ t, exec .ret s = .next t ∧ t.mem = s.mem ∧ t.pend = s.pend ∧ t.writes = s.writes ∧
      OneLane s t b g fun _ x x' =>
        Goes (BitVec.ofNat 57 (s.mem.num pa 8)) (fun y => { y with callDepth := y.callDepth - 1 }) x x'))

/-- R43, R181: MPUSH pushes next clause header + 4 · offset, MPOP discards the top entry; nothing else changes. At depth 8 and at depth 0
they are faults instead and the stack stays. R44, R175, R182, R183: NOP changes nothing, CLRF clears the flags its mask names, YIELD restarts the age mark and holds the lane for 32
cycles from the end of its clause, EXIT ends the active threads, each alone. -/
def Obligations.MeetingStackAndThreadEndResult : Prop :=
  ((∀ (s : State) (b : Block) (g : Group) (m : Member) (th : Thread) (x : Word32), IssuingAlone s b g m th (.mpush x) →
    th.meet.length < 8 →
    ∃ t, exec (.mpush x) s = .next t ∧ LanesDid s t b g fun _ y y' =>
      y'.content = ({ y with meet := BitVec.ofInt 57 (g.fall.toNat + 4 * x.toInt) :: y.meet } : Thread).content) ∧
  (∀ (s : State) (b : Block) (g : Group) (m : Member) (th : Thread), IssuingAlone s b g m th .mpop → th.meet ≠ [] →
    ∃ t, exec .mpop s = .next t ∧ LanesDid s t b g fun _ y y' => y'.content = ({ y with meet := y.meet.tail } : Thread).content) ∧
  (∀ (s : State) (b : Block) (g : Group) (m : Member) (th : Thread) (i : Instr) (t : State), IssuingAlone s b g m th i →
    ((∃ x, i = .mpush x) ∧ 8 ≤ th.meet.length ∨ i = .mpop ∧ th.meet = []) → exec i s = .next t →
    ∃ x', t.thread? (me b th) = some x' ∧ x'.meet = th.meet ∧ x'.regs = th.regs)) ∧
  ((∀ (s : State) (b : Block) (g : Group), Issuing s b g .nop →
    ∃ t, exec .nop s = .next t ∧ LanesDid s t b g fun _ x x' => x'.content = x.content) ∧
  (∀ (s : State) (b : Block) (g : Group) (k : BitVec 6), Issuing s b g (.clrf k) →
    ∃ t, exec (.clrf k) s = .next t ∧ LanesDid s t b g fun _ x x' =>
      ({ x' with tstat := x.tstat } : Thread).content = x.content ∧ ∀ j < 6, x'.tstat.getLsbD j = (x.tstat.getLsbD j && !k.getLsbD j)) ∧
  (∀ (s : State) (b : Block) (g : Group), Issuing s b g .yield →
    ∃ t, exec .yield s = .next t ∧ LanesDid s t b g fun _ x x' => x'.content = x.content ∧
      (x'.yieldAfter = true ∨ (x'.status = .yielded ∧ x'.ageMark = s.now ∧ x'.until_ = s.now + 32))) ∧
  (∀ (s : State) (b : Block) (g : Group), Issuing s b g .exit → (∀ x ∈ s.bars, x.grid ≠ b.grid) →
    ∃ t, exec .exit s = .next t ∧ t.mem = s.mem ∧ t.pend = s.pend ∧
      OneLane s t b g (fun _ x x' => x'.status = .exited ∧ x'.content = ({ x with bara := [] } : Thread).content) ∧
      ((gridPeers s b.grid).isEmpty = true → LanesDid s t b g fun _ x x' =>
        x'.status = .exited ∧ x'.content = ({ x with bara := [] } : Thread).content)))

/-- R372 to R374, R285: TRAP n of a user thread whose class has a handler is taken at the end of its clause: the record (CODE 0x0D00, DETAIL
n, PC the thread's next clause) stands in the thread's frame, and the thread is privileged at the handler's address. ERET goes on at the
frame's PC in the frame's mode. -/
def Obligations.TrapAndReturnResult : Prop :=
  (∀ (s : State) (b : Block) (g : Group) (m : Member) (th : Thread) (n : BitVec 9) (v pa : Nat),
    IssuingAlone s b g m th (.trap n) → Last g th 1 → (∀ h ∈ b.groups, h.gid ≠ g.gid → h.member? th.tid = none) → th.priv = false → v ≠ 0 →
    hwRead s (s.jobOf b.grid) (vectorOf s (dieOf b.core) + 8 * 13) 8 = some v →
    hwPa s (s.jobOf b.grid) (vectorOf s (dieOf b.core) + 0x10000 + 64 * (2048 * b.core + 32 * slotOf b th.tid + th.tid % 32)) = some pa →
    ∃ t, exec (.trap n) s = .next t ∧ t.pend = s.pend ∧ t.writes = s.writes ∧
      t.mem = s.mem.write pa (recBytes s
        { threadRec s b g.hdr g.idx th.tid 0x0D00 0 (BitVec.ofNat 64 n.toNat) 1 with pc := g.fall.zeroExtend 64 } 1 false) ∧
      OneLane s t b g fun _ x x' => Goes (BitVec.ofNat 57 v) (fun y => { y with priv := true, bar := none }) x x') ∧
  (∀ (s : State) (b : Block) (g : Group) (m : Member) (th : Thread) (pa : Nat),
    IssuingAlone s b g m th .eret → th.status = .issuing → th.yieldAfter = false →
    hwPa s (s.jobOf b.grid) (vectorOf s (dieOf b.core) + 0x10000 + 64 * (2048 * b.core + 32 * slotOf b th.tid + th.tid % 32)) = some pa →
    s.mem.bad pa 4 = false → s.mem.bad (pa + 16) 8 = false →
    let priv : Bool := s.mem.num (pa + 2) 2 / 8 % 2 = 1
    targetFault s b (!priv) (BitVec.ofNat 64 (s.mem.num (pa + 16) 8)) = (s, none) →
    ∃ t, exec .eret s = .next t ∧ LanesDid s t b g fun _ x x' =>
      Goes (BitVec.ofNat 57 (s.mem.num (pa + 16) 8)) (fun y => { y with priv := priv }) x x')

/-- R285, R432: BKPT n writes one record with CODE 0x0D01 and DETAIL n and parks the thread, HALT shelves it, until a RELEASE; no
memory, no register and no other lane changes. -/
def Obligations.BreakpointAndHaltResult : Prop :=
  (∀ (s : State) (b : Block) (g : Group) (m : Member) (th : Thread) (n : BitVec 9), IssuingAlone s b g m th (.bkpt n) →
    ∃ t r, exec (.bkpt n) s = .next t ∧ t.mem = s.mem ∧ t.pend = s.pend ∧
      (t.die (dieOf b.core)).holding = (s.die (dieOf b.core)).holding ++ [r] ∧
      r.code = 0x0D01 ∧ r.detail = BitVec.ofNat 64 n.toNat ∧ r.token = 0 ∧ r.flags % 2 = 1 ∧ r.tid = th.tid ∧ r.idx = g.idx ∧
      OneLane s t b g fun _ x x' => x'.status = .parked ∧
        x'.content = ({ x with kept := .parked, parked := [(stopTok, againAcc)] } : Thread).content) ∧
  (∀ (s : State) (b : Block) (g : Group) (m : Member) (th : Thread), IssuingAlone s b g m th .halt →
    ∃ t, exec .halt s = .next t ∧ t.mem = s.mem ∧ t.pend = s.pend ∧ t.dies = s.dies ∧
      OneLane s t b g fun _ x x' => x'.status = .shelved ∧
        x'.content = ({ x with kept := .shelved, parked := [(stopTok, againAcc)] } : Thread).content)

/-- R7, R157, R285, R304: MFS writes the register's value to vd; MTS changes the writable bits of the register, no other register, no
thread and no memory; a new EN of PREEMPT_CTL is asked of the pod by an event. -/
def Obligations.SystemRegisterResult : Prop :=
  (∀ (s : State) (b : Block) (g : Group) (d : Reg) (r : BitVec 9), Issuing s b g (.mfs d r) →
    ∃ t, exec (.mfs d r) s = .next t ∧ LanesDid s t b g fun _ x x' => SetsReg d (sysReg s b.core r.toNat) x x') ∧
  (∀ (s : State) (b : Block) (g : Group) (m : Member) (th : Thread) (r : BitVec 9) (a : Reg), IssuingAlone s b g m th (.mts r a) →
    ∃ t, exec (.mts r a) s = .next t ∧ t.mem = s.mem ∧ t.outEvents = s.outEvents ++ enEvent s r.toNat (th.reg a) ∧
      (∀ q, sysReg t b.core q = if q = r.toNat
        then (th.reg a &&& sysMask q) ||| (sysReg s b.core q &&& ~~~sysMask q) else sysReg s b.core q) ∧
      OneLane s t b g fun _ x x' => x'.content = x.content) ∧
  (∀ (s : State) (v : Word), ∃ t, exec (.preemptCtlWrite v) s = .next t ∧ t.mem = s.mem ∧ t.blocks = s.blocks ∧
      t.outEvents = s.outEvents ++ enEvent s 0x013 v ∧
      ∀ c q, sysReg t c q = if q = 0x013 then (v &&& sysMask q) ||| (sysReg s c q &&& ~~~sysMask q) else sysReg s c q)

namespace Sys2Proof.Rules

/- Synchronization. -/

/-- The word of an address is an object apart (`Plain`), and no order of the access asks the pod for a ticket or awaits another's turn (R112). -/
structure Free (s : State) (b : Block) (th : Thread) (ea : Word) (pa : Nat) (od : Order) (sc : Scope) : Prop where
  drained : Drained s b th
  plain   : Plain s (s.jobOf b.grid) ea.toNat pa 8
  ticket  : ¬(od = .sc ∧ sc = .pod)
  turn    : od = .sc → ∀ x ∈ s.scOut, x.1 = false → s.waitsOn x.2.2 = false

/-- The signal writes: operation, order, scope, access (R232). -/
def signals : Instr → Option (SigOp × Order × Scope × Access)
  | .sigdecShort d b o => some (.dec, .rel, .pod, ⟨.sig .dec .rel .pod, fun th => ea_ th b (8 * o.toInt), d, 7, 0⟩)
  | .sigdec d b o od sc => some (.dec, od, sc, ⟨.sig .dec od sc, fun th => ea_ th b o.toInt, d, 7, 0⟩)
  | .siginc d b o od sc => some (.inc, od, sc, ⟨.sig .inc od sc, fun th => ea_ th b o.toInt, d, 7, 0⟩)
  | .sigset d b o od sc => some (.set, od, sc, ⟨.sig .set od sc, fun th => ea_ th b o.toInt, d, 7, 0⟩)
  | _ => none

/-- The word after a signal write: COUNT in bits 59:0 wraps, the bits above it are kept; SIGSET clears them (R232). -/
def signalNext (o : SigOp) (old : Nat) (x : Word) : Nat :=
  match o with
  | .dec => old / 2 ^ 60 * 2 ^ 60 + (old % 2 ^ 60 + 2 ^ 60 - x.toNat % 2 ^ 32) % 2 ^ 60
  | .inc => old / 2 ^ 60 * 2 ^ 60 + (old % 2 ^ 60 + x.toNat % 2 ^ 32) % 2 ^ 60
  | .set => x.toNat % 2 ^ 60

/-- The barrier instructions that arrive and wait: kind and instance (R234). -/
def barriers : Instr → Option (BarKind × BitVec 4)
  | .bar n => some (.block, n)
  | .gbar n => some (.gang, n)
  | .grbar n => some (.grid, n)
  | _ => none

/-- A thread that the instance counts, other than (bidx, tid), has not arrived (R44). -/
def missing (s : State) (k : BarKind) (b : Block) (n tid : Nat) : Prop :=
  ∃ c ∈ barBlocks s k b.grid (barIdx k b), ∃ x ∈ c.threads, x.status ≠ .exited ∧
    (c.bidx, x.tid) ∉ (s.inst k b.grid (barIdx k b) n).arrivals ∧ (c.bidx, x.tid) ≠ (b.bidx, tid)

/-- The block after the thread's arrival at an instance: of a block barrier, its bindings take note of it (R109). -/
def arrivedAt (k : BarKind) (b : Block) (tid n gen : Nat) : Block :=
  { b with binds := if k = .block then b.binds.map (Bind.arrived tid n gen) else b.binds }

/-- The lane may arrive: its accesses are performed, the instance is one it may use and has not counted it yet (R235). -/
structure MayArrive (s : State) (b : Block) (th : Thread) (k : BarKind) (n : Nat) : Prop where
  drained : Drained s b th
  grid    : k = .grid → (s.launchOf b.grid).cores_ = true
  fresh   : (b.bidx, th.tid) ∉ (s.inst k b.grid (barIdx k b) n).arrivals

end Sys2Proof.Rules

/-- R110, R111, R229: with the lane's stores performed FENCE changes nothing; ACQ delivers the object's 64 bits; REL writes vd to the
object. Nothing else changes. -/
def Obligations.FenceAcquireReleaseResult : Prop :=
  (∀ (s : State) (b : Block) (g : Group) (m : Member) (th : Thread) (o : FenceO) (sc : Scope), IssuingAlone s b g m th (.fence o sc) →
    Drained s b th →
    ∃ t, exec (.fence o sc) s = .next t ∧ t.mem = s.mem ∧ t.writes = s.writes ∧ t.pend = s.pend ∧
      OneLane s t b g fun _ x x' => x'.content = x.content) ∧
  (∀ (s : State) (b : Block) (g : Group) (m : Member) (th : Thread) (d r : Reg) (o : BitVec 26) (k : BitVec 3) (l : BitVec 4) (sc : Scope)
      (pa : Nat) (e : Word),
    IssuingAlone s b g m th (.acq d r o k l sc) → Drained s b th → Reaches s b th (mkAcc (.acq sc) th (ea_ th r o.toInt) d k l) pa e →
    ∃ t, exec (.acq d r o k l sc) s = .next t ∧ t.mem = s.mem ∧ t.writes = s.writes ∧
      Delivers s t b g th d k (BitVec.ofNat 64 (s.mem.num pa 8)) 0) ∧
  (∀ (s : State) (b : Block) (g : Group) (m : Member) (th : Thread) (d r : Reg) (o : BitVec 26) (sc : Scope) (pa : Nat) (e : Word),
    IssuingAlone s b g m th (.rel d r o sc) → Free s b th (ea_ th r o.toInt) pa .rel sc →
    Reaches s b th (mkAcc (.rel sc) th (ea_ th r o.toInt) d 7 0) pa e →
    ∃ t, exec (.rel d r o sc) s = .next t ∧ t.mem = s.mem.write pa (leBytes (th.reg d).toNat 8) ∧ t.writes = s.writes ∧ t.pend = s.pend ∧
      OneLane s t b g fun _ x x' => x'.content = x.content)

/-- R109, R230: RBIND adds a range of whole 128-byte lines that meets none the block holds for the thread, up to sixteen, in effect for this thread
at once; a range held already for the same object changes nothing. RUNBIND ends for the thread, once its REL and ACQ are over, every binding of
the object that was in effect for it. No memory and no thread changes. -/
def Obligations.BindingResult : Prop :=
  (∀ (s : State) (b : Block) (g : Group) (m : Member) (th : Thread) (d r : Reg) (o : BitVec 26),
    IssuingAlone s b g m th (.rbind d r o) → accFaults s b (!th.priv) (mkAcc .rbind th (ea_ th r o.toInt) d 7 0) = (s, []) →
    (th.reg d).toNat % 128 = 0 → (th.reg (d + 1)).toNat % 128 = 0 → (th.reg (d + 1)).toNat ≠ 0 →
    let x : Bind := { base := (th.reg d).toNat, len := (th.reg (d + 1)).toNat, obj := (ea_ th r o.toInt).toNat, tid := th.tid, all := false
                      via := [], off := [], offVia := [] }
    let held := b.binds.filter fun y => !y.off.contains th.tid
    let same (y : Bind) : Bool := x.base == y.base && x.len == y.len && x.obj == y.obj
    (held.any same = true ∨ held.length < 16 ∧ ∀ y ∈ held, y.base + y.len ≤ x.base ∨ x.base + x.len ≤ y.base) →
    ∃ t, exec (.rbind d r o) s = .next t ∧
      LanesDid s t { b with binds := if held.any same then b.binds
                                     else (b.binds.filter fun y => !(same y && y.off.contains th.tid)) ++ [x] } g
        fun _ y y' => y'.content = y.content) ∧
  (∀ (s : State) (b : Block) (g : Group) (m : Member) (th : Thread) (r : Reg) (o : BitVec 26),
    IssuingAlone s b g m th (.runbind r o) → accFaults s b (!th.priv) (mkAcc .runbind th (ea_ th r o.toInt) 0 7 0) = (s, []) →
    Drained s b th →
    ∃ t, exec (.runbind r o) s = .next t ∧
      LanesDid s t { b with binds := b.binds.map fun y =>
          if y.obj = (ea_ th r o.toInt).toNat ∧ y.isFor th.tid then { y with off := y.off ++ [th.tid] } else y } g
        fun _ y y' => y'.content = y.content)

/-- R224, R228: AFLUSH raises the lane's flush count and waits for that batch, DIGRD waits for the lane's own .ord operations; in a grid
without the ordered flag AFLUSH has no effect and DIGRD writes zero to both registers. -/
def Obligations.FlushAndDigestResult : Prop :=
  (∀ (s : State) (b : Block) (g : Group) (m : Member) (th : Thread) (k : BitVec 3) (l : BitVec 4), IssuingAlone s b g m th (.aflush k l) →
    s.ordered b.grid = false →
    ∃ t, exec (.aflush k l) s = .next t ∧ LanesDid s t b g fun _ x x' => x'.content = x.content) ∧
  (∀ (s : State) (b : Block) (g : Group) (m : Member) (th : Thread) (k : BitVec 3) (l : BitVec 4), IssuingAlone s b g m th (.aflush k l) →
    s.ordered b.grid = true →
    ∃ t p, exec (.aflush k l) s = .next t ∧ t.mem = s.mem ∧ t.pend = s.pend ++ [p] ∧ p.who = me b th ∧ p.tok = k.toNat ∧
      p.kind = .flush (th.flushes + 1) ∧
      OneLane s t b g fun _ x x' => x'.content = ({ raise k x with flushes := x.flushes + 1 } : Thread).content) ∧
  (∀ (s : State) (b : Block) (g : Group) (m : Member) (th : Thread) (d : Reg) (k : BitVec 3) (l : BitVec 4),
    IssuingAlone s b g m th (.digrd d k l) → s.ordered b.grid = false → (∀ p ∈ s.pend, p.kind ≠ .digest) →
    ∃ t, exec (.digrd d k l) s = .next t ∧ LanesDid s t b g fun _ x x' => x'.content = ((x.setReg d 0).setReg (d + 1) 0).content) ∧
  (∀ (s : State) (b : Block) (g : Group) (m : Member) (th : Thread) (d : Reg) (k : BitVec 3) (l : BitVec 4) (gr : Grid),
    IssuingAlone s b g m th (.digrd d k l) → th.status = .issuing → s.ordered b.grid = true → (∀ p ∈ s.pend, p.kind ≠ .digest) →
    s.grid? b.grid = some gr → (∀ j, ∀ x ∈ (s.die j).tickets, x.who ≠ me b th) →
    ∃ t, exec (.digrd d k l) s = .next t ∧ t.mem = s.mem ∧
      OneLane s t b g fun _ x x' => x'.content = ((x.setReg d gr.h0).setReg (d + 1) gr.h1).content)

/-- R231 to R233: a signal write replaces the object's word (one of order .sc and pod scope first asks for its ticket, R112); a SIGWAIT whose condition holds delivers the word, another waits, in SIGNAL
where tok = 7; SIGARM of a threshold that COUNT has not reached enters one armed entry and writes nothing. -/
def Obligations.SignalResult : Prop :=
  (∀ (s : State) (b : Block) (g : Group) (m : Member) (th : Thread) (i : Instr) (o : SigOp) (od : Order) (sc : Scope) (a : Access) (pa : Nat)
      (e : Word),
    signals i = some (o, od, sc, a) → IssuingAlone s b g m th i → Free s b th (a.ea th) pa od sc → Reaches s b th (a.of th) pa e →
    ∃ t, exec i s = .next t ∧ t.mem = s.mem.write pa (leBytes (signalNext o (s.mem.num pa 8) (th.reg a.d)) 8) ∧ t.writes = s.writes ∧
      t.pend = s.pend ∧ OneLane s t b g fun _ x x' => x'.content = x.content) ∧
  (∀ (s : State) (b : Block) (g : Group) (m : Member) (th : Thread) (i : Instr) (o : SigOp) (a : Access),
    signals i = some (o, .sc, .pod, a) → IssuingAlone s b g m th i → Drained s b th → accFaults s b (!th.priv) (a.of th) = (s, []) →
    ∃ t p, exec i s = .next t ∧ t.mem = s.mem ∧ t.pend = s.pend ++ [p] ∧ p.kind = .scTicket ∧ p.acc = a.of th ∧ p.who = me b th ∧
      t.outEvents = s.outEvents ++ [.ticket { seq := 0, origin := s.pkg, job := s.jobOf b.grid }] ∧
      OneLane s t b g fun _ x x' => x'.content = ({ x with stores := x.stores + 1 } : Thread).content) ∧
  (∀ (s : State) (b : Block) (g : Group) (m : Member) (th : Thread) (d r : Reg) (o : BitVec 26) (k : BitVec 3) (l : BitVec 4) (od : Order)
      (sc : Scope) (pa : Nat) (e : Word),
    IssuingAlone s b g m th (.sigwait d r o k l od sc) → Free s b th (ea_ th r o.toInt) pa od sc →
    Reaches s b th (mkAcc (.sigwait od sc) th (ea_ th r o.toInt) d k l) pa e →
    let w := s.mem.num pa 8
    ∃ t, exec (.sigwait d r o k l od sc) s = .next t ∧ t.mem = s.mem ∧ t.writes = s.writes ∧
      (s_ 60 (w % 2 ^ 60) ≤ s_ 60 ((th.reg d).toNat % 2 ^ 60) ∨ w / 2 ^ 63 % 2 = 1 → Delivers s t b g th d k (BitVec.ofNat 64 w) 0) ∧
      (¬(s_ 60 (w % 2 ^ 60) ≤ s_ 60 ((th.reg d).toNat % 2 ^ 60) ∨ w / 2 ^ 63 % 2 = 1) →
        (∃ p, t.pend = s.pend ++ [p] ∧ p.who = me b th ∧ p.tok = k.toNat ∧ p.acc.d = d ∧
          p.kind = .signal pa od sc (s_ 60 ((th.reg d).toNat % 2 ^ 60))) ∧
        OneLane s t b g fun _ x x' => x'.content = (if k = 7 then x else x.setTok k.toNat (x.tok k.toNat + 1)).content ∧
          (k = 7 → x'.status = .signal))) ∧
  (∀ (s : State) (b : Block) (g : Group) (m : Member) (th : Thread) (d r : Reg) (o : BitVec 26) (od : Order) (sc : Scope) (pa : Nat) (e : Word),
    IssuingAlone s b g m th (.sigarm d r o od sc) → Free s b th (ea_ th r o.toInt) pa od sc →
    Reaches s b th (mkAcc (.sigarm od sc) th (ea_ th r o.toInt) d 7 0) pa e → (s.die (homeDie pa)).arms.length < 4096 →
    s_ 60 ((th.reg d).toNat % 2 ^ 60) < s_ 60 (s.mem.num pa 8 % 2 ^ 60) →
    let w := (th.reg (d + 1)).toNat
    (w / 2 ^ 57 = 0 ∧ w % 8 = 0 ∨ w / 2 ^ 57 = 16 ∧ w % 64 = 0) →
    ∃ t, exec (.sigarm d r o od sc) s = .next t ∧ t.mem = s.mem ∧ t.pend = s.pend ∧
      (t.die (homeDie pa)).arms = (s.die (homeDie pa)).arms ++
        [{ obj := pa, job := s.jobOf b.grid, user := !th.priv, t := s_ 60 ((th.reg d).toNat % 2 ^ 60), kind := w / 2 ^ 61, addr := w % 2 ^ 57 }] ∧
      OneLane s t b g fun _ x x' => x'.content = x.content)

/-- R44, R234, R235: a thread that arrives while another is missing is counted and waits in BARRIER; the last arrival (the stores of the arrived performed; at a grid
barrier, of a grid on this package alone that is not ordered) starts the next generation with no arrival, and no thread waits on the old one. R234: BARA counts the thread, remembers the generation and goes on; BARW goes on where that generation is over, and waits otherwise. -/
def Obligations.BarrierAndSplitBarrierResult : Prop :=
  ((∀ (s : State) (b : Block) (g : Group) (m : Member) (th : Thread) (i : Instr) (k : BarKind) (n : BitVec 4),
    barriers i = some (k, n) → IssuingAlone s b g m th i → MayArrive s b th k n.toNat → missing s k b n.toNat th.tid →
    let x := s.inst k b.grid (barIdx k b) n.toNat
    ∃ t, exec i s = .next t ∧ t.mem = s.mem ∧ t.pend = s.pend ∧
      t.inst k b.grid (barIdx k b) n.toNat = { x with arrivals := x.arrivals ++ [(b.bidx, th.tid)], mark := s.nextId } ∧
      OneLane s t (arrivedAt k b th.tid n.toNat x.gen) g fun _ y y' => y'.status = .barrier ∧ y'.content = ({ y with bar := some (k, n.toNat, x.gen) } : Thread).content) ∧
  (∀ (s : State) (b : Block) (g : Group) (m : Member) (th : Thread) (i : Instr) (k : BarKind) (n : BitVec 4),
    barriers i = some (k, n) → (k = .grid → s.ordered b.grid = false ∧ (gridPeers s b.grid).isEmpty = true ∧
      ∀ gr, s.grid? b.grid = some gr → gr.todo = []) →
    IssuingAlone s b g m th i → MayArrive s b th k n.toNat → ¬missing s k b n.toNat th.tid →
    let x := s.inst k b.grid (barIdx k b) n.toNat
    (∀ a ∈ x.arrivals, storesBefore s { grid := b.grid, bidx := a.1, tid := a.2 } s.nextId = false) →
    ∃ t, exec i s = .next t ∧ t.mem = s.mem ∧ t.pend = s.pend ∧
      t.inst k b.grid (barIdx k b) n.toNat = { x with gen := x.gen + 1, arrivals := [], full := false, mark := s.nextId } ∧
      ∀ c ∈ t.blocks, c.grid = b.grid → barIdx k c = barIdx k b → ∀ y ∈ c.threads, y.bar ≠ some (k, n.toNat, x.gen))) ∧
  ((∀ (s : State) (b : Block) (g : Group) (m : Member) (th : Thread) (n : BitVec 4), IssuingAlone s b g m th (.bara n) →
    MayArrive s b th .block n.toNat → missing s .block b n.toNat th.tid →
    let x := s.inst .block b.grid b.bidx n.toNat
    ∃ t, exec (.bara n) s = .next t ∧ t.mem = s.mem ∧ t.pend = s.pend ∧
      t.inst .block b.grid b.bidx n.toNat = { x with arrivals := x.arrivals ++ [(b.bidx, th.tid)], mark := s.nextId } ∧
      OneLane s t (arrivedAt .block b th.tid n.toNat x.gen) g fun _ y y' =>
        y'.content = ({ y with bara := (y.bara.filter fun z => z.1 != n.toNat) ++ [(n.toNat, x.gen)] } : Thread).content) ∧
  (∀ (s : State) (b : Block) (g : Group) (m : Member) (th : Thread) (n : BitVec 4) (gen : Nat), IssuingAlone s b g m th (.barw n) →
    th.bara.find? (fun x => x.1 == n.toNat) = some (n.toNat, gen) →
    ∃ t, exec (.barw n) s = .next t ∧ LanesDid s t b g fun _ y y' =>
      if gen < (s.inst .block b.grid b.bidx n.toNat).gen
      then y'.content = ({ y with bara := y.bara.filter fun z => z.1 != n.toNat } : Thread).content
      else y'.status = .barrier ∧ y'.content = ({ y with bar := some (.block, n.toNat, gen) } : Thread).content))

namespace Sys2Proof.Rules

/- Matrix and engine instructions. -/

/-- The one active lane is all its group, and the one live thread of its home troop: an instruction issued once per group is executed (R42, R237,
R261). -/
structure Whole (s : State) (b : Block) (g : Group) (m : Member) (th : Thread) (i : Instr) : Prop extends IssuingAlone s b g m th i where
  whole : ∀ x ∈ g.members, x.active = true
  troop : ∀ x ∈ b.threads, x.tid / 32 = th.tid / 32 → x.status ≠ .exited → x.tid = th.tid
  runs  : th.status = .issuing

/-- The operation stands under its token: none where tok = 7 (R137, R237); a matrix instruction ends the troop's MFENCE (R258). -/
def Posted (s t : State) (b : Block) (g : Group) (th : Thread) (i : Instr) (k : BitVec 3) (kind : PendKind) : Prop :=
  OneLane s t b g (fun _ x x' => x'.content =
    ({ raise k x with mfence := if Instr.isMatrix i then false else x.mfence } : Thread).content) ∧
  if k = 7 then t.pend = s.pend else ∃ p, t.pend = s.pend ++ [p] ∧ p.who = me b th ∧ p.tok = k.toNat ∧ p.kind = kind

/-- The n bytes at va, read at acceptance without a fault from this package, are bs (R391, R410). -/
def RecordIs (s : State) (b : Block) (g : Group) (th : Thread) (va n : Nat) (bs : List Byte) : Prop :=
  va + n ≤ 2 ^ 57 ∧ ∃ gs, engGrans (byOf s b th va) (acceptOp g) true (granRange va n) s = (s, .ok gs) ∧ gBytes gs va n = bs

/-- K-step of two descriptors (R245). -/
def kOf (a b : List Word) : Nat := (kStep (dFmt a) (dFmt b)).getD 48

/-- Passes of an operation over an inner length from k0, n asked for, 0 for all (R254). -/
def passesOf (n inner k0 k : Nat) : Nat := if n = 0 then (inner - k0 + k - 1) / k else n

/-- Inner length of a convolution's A operand (R246, R254). -/
def convInner (d : List Word) : Nat := rf d 24 1 * rf d 25 1 * rf d 16 4

/-- The instructions that enter the reservation table: tile, token, and what the entry holds (R238, R250 to R256, R259). -/
def matrixEntry : Instr → Option (BitVec 3 × BitVec 3 × (Block → Thread → MEntry → Prop))
  | .mzero t k _ => some (t, k, fun _ _ e => e.kind = .mzero)
  | .mzeroExt t k _ => some (t, k, fun _ _ e => e.kind = .mzero)
  | .manchor reg t x i k _ => some (t, k, fun _ th e => e.kind = .manchor (if reg then s_ 16 ((th.reg x).toNat % 2 ^ 16) else i.toInt))
  | .mma t da db x y z k _ => some (t, k, fun b th e => e.kind = .mma ∧ e.da = slotRec b da ∧ e.db = slotRec b db ∧
      e.x = (th.reg x).toNat ∧ e.y = (th.reg y).toNat ∧ e.z = (th.reg z).toNat ∧ e.passes = 1)
  | .mmak t da db x y z n k _ => some (t, k, fun b th e => e.kind = .mma ∧ e.da = slotRec b da ∧ e.db = slotRec b db ∧
      e.x = (th.reg x).toNat ∧ e.y = (th.reg y).toNat ∧ e.z = (th.reg z).toNat ∧
      e.passes = passesOf n.toNat (min (rf e.da 16 4) (rf e.db 16 4)) e.z (kOf e.da e.db))
  | .mconv t da db x y z n k _ => some (t, k, fun b th e => e.kind = .mconv ∧ e.da = slotRec b da ∧ e.db = slotRec b db ∧
      e.x = (th.reg x).toNat ∧ e.y = (th.reg y).toNat ∧ e.z = (th.reg z).toNat ∧
      e.passes = passesOf n.toNat (min (convInner e.da) (rf e.db 16 4)) e.z (kOf e.da e.db))
  | .mwalk o t da db dO c k _ => some (t, k, fun b _ e => e.kind = .mwalk o c.toNat ∧ e.da = slotRec b da ∧ e.db = slotRec b db ∧
      e.dO = slotRec b dO)
  | .mdrain rs z t dO x y k _ => some (t, k, fun b th e => e.kind = .mdrain rs z ∧ e.dO = slotRec b dO ∧ e.x = (th.reg x).toNat ∧
      e.y = (th.reg y).toNat)
  | .mrow i32 t x y k _ => some (t, k, fun _ th e => e.kind = .mrow i32 ∧ e.dreg = x ∧ e.y = (th.reg y).toNat % 64)
  | .mstat clr t x k _ => some (t, k, fun _ _ e => e.kind = .mstat clr ∧ e.dreg = x)
  | _ => none

/-- The descriptors and offsets are ones the instruction accepts (R245, R246, R253 to R255, R259, R392). -/
def matrixAccepts (s : State) (b : Block) (th : Thread) : Instr → Prop
  | .mma _ da db _ _ z _ _ => pairBad b false da db (th.reg z).toNat true = none
  | .mmak _ da db _ _ z _ _ _ => pairBad b false da db (th.reg z).toNat true = none
  | .mconv _ da db _ _ z _ _ _ => pairBad b true da db (th.reg z).toNat true = none
  | .mwalk o _ da db dO c _ _ => pairBad b false da db 0 false = none ∧ rf (slotRec b dO) 21 1 = 1 ∧
      dFmt (slotRec b dO) = (match o with
        | .a96 => 10 | .i32 => 9 | .max => 8 | .min => 8) ∧
      walkChunks (slotRec b da) (slotRec b db) c.toNat (kOf (slotRec b da) (slotRec b db)) ≤ 4096 ∧
      ((s.launchOf b.grid).pfast = true → c.toNat ≤ 16)
  | .mdrain _ _ _ dO _ _ _ _ => rf (slotRec b dO) 21 1 = 1 ∧ (dFmt (slotRec b dO) = 0 ∨ 6 ≤ dFmt (slotRec b dO) ∧ dFmt (slotRec b dO) ≤ 10)
  | _ => True

/-- What an entry's grant reads, and the tile it leaves, whatever the tables hold. -/
structure Ready (s : State) (e : MEntry) (gs : List (Nat × List Byte × Byte)) (tl : Tile) : Prop where
  reads : ∀ cs w, entryReads { s with clusters := cs } { e with since := w } = ({ s with clusters := cs }, .ok gs)
  tile  : ∀ cs w, grantTile { s with clusters := cs } { e with since := w } gs = tl

/-- The one entry of cluster c. -/
structure OneEntry (s : State) (c : Nat) (e : MEntry) : Prop where
  core  : e.core / 4 = c
  table : tget [] s.clusters c = [e]

/-- The tile of an entry in a state. -/
def TileIs (s : State) (e : MEntry) (tl : Tile) : Prop := ∃ b, s.block? e.grid e.bidx = some b ∧ b.tiles[e.tile]? = some tl

/-- A finite contribution's value at an anchor: sign(m) · floor(|m · 2^x| / 2^anchor) (R89). -/
def truncTo (anchor : Int) (neg : Bool) (m : Nat) (x : Int) : Int :=
  (if neg then -1 else 1) * (if anchor ≤ x then (m : Int) * (2 ^ (x - anchor).toNat : Nat) else (m : Int) / (2 ^ (anchor - x).toNat : Nat))

end Sys2Proof.Rules

/-- R238, R250 to R256, R259: a matrix operation that is accepted enters the cluster's reservation table behind the others, with its operands
captured, and raises its token; memory and every tile are as before. -/
def Obligations.MatrixEntryPosted : Prop :=
  ∀ (s : State) (b : Block) (g : Group) (m : Member) (th : Thread) (i : Instr) (tl k : BitVec 3) (f : Block → Thread → MEntry → Prop),
    matrixEntry i = some (tl, k, f) → Whole s b g m th i → matrixAccepts s b th i → (s.table b.core).length < 32 →
    (∀ e ∈ s.aside, ¬(e.grid = b.grid ∧ e.bidx = b.bidx)) →
    ∃ t e, exec i s = .next t ∧ t.mem = s.mem ∧ t.table b.core = s.table b.core ++ [e] ∧ e.id = s.nextId ∧ e.tile = tl.toNat ∧
      e.grid = b.grid ∧ e.bidx = b.bidx ∧ e.core = b.core ∧ f b th e ∧ Posted s t b g th i k (.engine e.id)

/-- R243, R246, R247, R257, R258, R260: MDESC and MSHAPE load a record without a rejected field into a slot; MWAIT waits for the entries on its
tile, MFENCE holds the troop's later matrix instructions, CBLOAD begins a rebuild; no memory changes. -/
def Obligations.MatrixSetupResult : Prop :=
  (∀ (s : State) (b : Block) (g : Group) (m : Member) (th : Thread) (i : Instr) (da : BitVec 4) (x : Reg) (k : BitVec 3) (l : BitVec 4)
      (bs : List Byte),
    (i = .mdesc da x k l ∧ mdescBad bs = none ∨ i = .mshape da x k l ∧ mshapeBad bs = none) → Whole s b g m th i →
    RecordIs s b g th (th.reg x).toNat 64 bs →
    ∃ t, exec i s = .next t ∧ t.mem = s.mem ∧
      Posted s t { b with descs := b.descs.set da.toNat (some (recWords bs ++ [th.reg x])) } g th i k (.ready [])) ∧
  (∀ (s : State) (b : Block) (g : Group) (m : Member) (th : Thread) (tl k : BitVec 3) (l : BitVec 4), Whole s b g m th (.mwait tl k l) →
    (∀ p ∈ s.pend, ∀ ids, p.kind ≠ .mwait ids) →
    let ids := (s.entries.filter fun e => e.grid = b.grid ∧ e.bidx = b.bidx ∧ e.tile = tl.toNat).map fun e => e.id
    ∃ t, exec (.mwait tl k l) s = .next t ∧ t.mem = s.mem ∧
      (ids ≠ [] → Posted s t b g th (.mwait tl k l) k (.mwait ids)) ∧
      (ids = [] → OneLane s t b g fun _ x x' => x'.content = ({ x with mfence := false } : Thread).content)) ∧
  (∀ (s : State) (b : Block) (g : Group) (m : Member) (th : Thread), Whole s b g m th .mfence →
    ∃ t, exec .mfence s = .next t ∧ LanesDid s t b g fun _ x x' => x'.content = ({ x with mfence := true } : Thread).content) ∧
  (∀ (s : State) (b : Block) (g : Group) (m : Member) (th : Thread) (n : BitVec 3) (x : Reg) (k : BitVec 3) (l : BitVec 4),
    Whole s b g m th (.cbload n x k l) →
    ∃ t r, exec (.cbload n x k l) s = .next t ∧ t.mem = s.mem ∧ t.rebuilds = s.rebuilds ++ [r] ∧ r.op = s.nextId ∧ r.die = dieOf b.core ∧
      r.slot = n.toNat ∧ r.va = (th.reg x).toNat ∧ r.token = none ∧ Posted s t b g th (.cbload n x k l) k (.engine s.nextId))

/-- R239, R249: an idle engine grants the one entry of its cluster, whose operands are there: its tile shows PROG 0, and what the grant will leave is
fixed. An entry eligible for 256 cycles without a grant is starving. R240, R251 to R256: what the end of a grant leaves. MZERO and MANCHOR leave their
tile and are done; a pass leaves its tile and the count of passes, and its operation is done after the last; a drain has read its tile; MROW and
MSTAT write their register. -/
def Obligations.MatrixGrantsRunAndEnd : Prop :=
  ((∀ (s : State) (c : Nat) (e : MEntry) (gs : List (Nat × List Byte × Byte)) (tl : Tile), OneEntry s c e → e.phase = 0 → e.passes ≠ 0 →
    Ready s e gs tl →
    ∃ t e', exec (.matrixGrant c) s = .next t ∧ t.mem = s.mem ∧ t.blocks = (setProg s e 0).blocks ∧ t.pend = s.pend ∧ OneEntry t c e' ∧
      e'.phase = 1 ∧ e'.next = some tl ∧ e'.starving = false ∧ e'.born = s.now ∧ e'.id = e.id ∧ e'.kind = e.kind ∧ e'.prog = e.prog) ∧
  (∀ (s : State) (c since : Nat) (e : MEntry), OneEntry s c e → e.phase = 0 → e.since = some since → since + 256 ≤ s.now →
    ∃ t, exec (.matrixEntryStarving c e.id) s = .next t ∧ OneEntry t c { e with starving := true } ∧
      t = { s with clusters := t.clusters })) ∧
  ((∀ (s : State) (c : Nat) (e : MEntry) (old tl : Tile), OneEntry s c e → e.phase = 1 → e.next = some tl → TileIs s e old → s.aside = [] →
    blockRuns s e.grid e.bidx = true →
    ∃ t, exec (.matrixGrantComplete c) s = .next t ∧ t.mem = s.mem ∧
      (e.kind = .mzero ∨ (∃ a, e.kind = .manchor a) →
        TileIs t e { tl with prog := 0 } ∧ tget [] t.clusters c = [] ∧ ∀ p ∈ t.pend, p.kind ≠ .engine e.id) ∧
      (e.kind = .mma ∨ e.kind = .mconv → TileIs t e { tl with prog := 0 } ∧
        (e.passes ≤ e.prog + 1 → tget [] t.clusters c = [] ∧ ∀ p ∈ t.pend, p.kind ≠ .engine e.id) ∧
        (e.prog + 1 < e.passes → t.pend = s.pend ∧ OneEntry t c { e with phase := 0, prog := e.prog + 1, next := none })) ∧
      (∀ rs z, e.kind = .mdrain rs z → TileIs t e { tl with prog := 0 } ∧ t.pend = s.pend ∧
        OneEntry t c { e with phase := 2, next := none, out := (drainTile old e.dO rs e.x e.y).1 })) ∧
  (∀ (s : State) (c : Nat) (e : MEntry) (old tl : Tile) (p : Pend) (th : Thread) (lane : Nat) (i32 clr : Bool), OneEntry s c e → e.phase = 1 →
    e.next = some tl → TileIs s e old → s.aside = [] → s.pend = [p] → p.kind = .engine e.id → p.tok < 7 → s.thread? p.who = some th →
    th.status ≠ .exited → th.status ≠ .shelved → e.who = [(p.who.tid, lane)] → e.kind = .mrow i32 ∨ e.kind = .mstat clr →
    ∃ t th' v, exec (.matrixGrantComplete c) s = .next t ∧ t.mem = s.mem ∧ t.pend = [] ∧ tget [] t.clusters c = [] ∧
      t.thread? p.who = some th' ∧ th'.content = ((th.setReg e.dreg v).setTok p.tok (th.tok p.tok - 1)).content ∧
      (e.kind = .mrow i32 → v = mrowWord old i32 e.y lane) ∧
      (e.kind = .mstat clr → v.toNat = wrap 16 old.anchor * 2 ^ 48 + old.prog % 2 ^ 14 * 2 ^ 32 + (if old.mism then 8 else 0)
        + (if old.dsat then 4 else 0) + (if old.dof then 2 else 0) + (if old.aov then 1 else 0))))

/-- R89 to R91: after a pass in which no order of the additions can saturate, an element is its old integer plus the exact sum of its
contributions, its special state joined with theirs, and no overflow is flagged by it; MZERO's tile is all zeros with its anchor kept. -/
def Obligations.MatrixPassSum : Prop :=
  (∀ (tl : Tile) (free pos : Nat) (rows cols : List (List (FVal × Int))), pos < 4096 →
    let ps := (rows.getD (pos / 64) []).zip (cols.getD (pos % 64) [])
    let cs := ps.map fun p => productOf tl.anchor p.1 p.2
    (tl.at_ pos).1 + ((cs.map fun c => max 0 c.1).sum) < 2 ^ 95 → -(2 ^ 95) ≤ (tl.at_ pos).1 + ((cs.map fun c => min 0 c.1).sum) →
    (tl.pass free rows cols).at_ pos =
      ((tl.at_ pos).1 + (cs.map fun c => c.1).sum, (cs.map fun c => c.2).foldl spJoin (tl.at_ pos).2)) ∧
  (∀ (anchor : Int) (n₁ n₂ : Bool) (m₁ m₂ : Nat) (x₁ x₂ y₁ y₂ : Int),
    productOf anchor (.fin n₁ m₁ x₁, y₁) (.fin n₂ m₂ x₂, y₂) = (truncTo anchor (n₁ != n₂) (m₁ * m₂) (x₁ + x₂ + y₁ + y₂), 0)) ∧
  (∀ (tl : Tile) (pos : Nat), tl.zero.at_ pos = (0, 0) ∧ tl.zero.anchor = tl.anchor ∧ tl.zero.aov = false ∧ tl.zero.mism = false)

/-- R117, R255, R259, R260: a drain's run performed at this package is in memory and the operation is done; a walk's chunk is combined and the
next begins, or the walk is done; a rebuild gives its slot the sixteen entries read, little-endian. -/
def Obligations.MatrixWritesComplete : Prop :=
  (∀ (s : State) (c : Nat) (e : MEntry) (rs z : Bool) (va : Nat) (bs : List Byte) (pa : Nat) (pte : Word), OneEntry s c e → e.phase = 2 →
    e.kind = .mdrain rs z → e.out = [(va, bs)] → engLoc s e.by_ va true = (s, .mem pa pte) → Plain s e.by_.job va pa bs.length →
    engOut s e.id = false → s.aside = [] →
    ∃ t, exec (.drainWritesComplete c e.id) s = .next t ∧ t.mem = s.mem.write pa bs ∧ tget [] t.clusters c = [] ∧
      ∀ p ∈ t.pend, p.kind ≠ .engine e.id) ∧
  (∀ (s s' : State) (cl k : Nat) (e : MEntry) (o : WalkOp) (c : Nat) (tl tl' : Tile), OneEntry s cl e → e.phase = 2 → e.kind = .mwalk o c →
    TileIs s e tl → e.chunk ∉ e.chunks → combineAll e o tl.anchor ((walkElems e tl).drop e.part) s tl e.part = (s', tl', k, .done) →
    OneEntry s' cl e → engOut s' e.id = false → s'.aside = [] → blockRuns s' e.grid e.bidx = true →
    ∃ t, exec (.mwalkCombine cl e.id) s = .next t ∧ t.mem = s'.mem ∧
      (e.chunks.length + 1 < walkChunks e.da e.db c (entryK e) → ∃ e', OneEntry t cl e' ∧ e'.chunks = e.chunks ++ [e.chunk] ∧
        e'.chunk = e.chunk + 1 ∧ e'.phase = 0 ∧ e'.prog = 0 ∧ e'.part = 0) ∧
      (walkChunks e.da e.db c (entryK e) ≤ e.chunks.length + 1 → tget [] t.clusters cl = [] ∧ ∀ p ∈ t.pend, p.kind ≠ .engine e.id)) ∧
  (∀ (s : State) (d : Nat) (r : Rebuild) (gs : List (Nat × List Byte × Byte)),
    s.rebuilds.find? (fun x => x.die == d && x.token.isNone) = some r → r.va % 32 = 0 → r.slot < (s.die d).codebooks.length →
    engGrans r.by_ r.op true (granRange r.va 32) s = (s, .ok gs) →
    ∃ t book, exec (.codebookRebuild d) s = .next t ∧ t.mem = s.mem ∧ (t.die d).codebooks[r.slot]? = some book ∧ book.length = 16 ∧
      (∀ c < 16, (book.getD c 0).toNat = (gByte gs (r.va + 2 * c)).toNat + 256 * (gByte gs (r.va + 2 * c + 1)).toNat) ∧
      (∀ x ∈ t.rebuilds, x.op ≠ r.op) ∧ ∀ p ∈ t.pend, p.kind ≠ .engine r.op)

namespace Sys2Proof.Rules

/- Engines, submissions, the supervisor. -/

/-- A result stands outstanding under the instruction's token; with tok = 7 the lane's next instruction waits for it (R137). -/
def Waits (s t : State) (b : Block) (g : Group) (th : Thread) (k : BitVec 3) (kind : PendKind) : Prop :=
  OneLane s t b g (fun _ x x' => x'.content = (raise k x).content) ∧
  ∃ p, t.pend = s.pend ++ [p] ∧ p.who = me b th ∧ p.tok = k.toNat ∧ p.kind = kind

/-- The lane's stores are performed, nothing of it is on the way to another package, and no granule is kept for the group's acceptance. -/
structure Clean (s : State) (b : Block) (g : Group) (th : Thread) : Prop where
  drained : Drained s b th
  got     : dropGot s (acceptOp g) = s

/-- The engine's write of some bytes is made at this package and changes memory alone, to m. -/
def Puts (s : State) (e : EngBy) (op va : Nat) (bs : List Byte) (m : Memory) : Prop := engPuts e op [(va, bs, 0)] s = ({ s with mem := m }, [], .done)

/-- A copy as its acceptance makes it from the record's bytes, in state RUNNING with its record's write made (R264, R266); with that write still
to be made. -/
def runningCopy (s : State) (b : Block) (th : Thread) (va : Nat) (bs : List Byte) : Copy :=
  { op := s.nextId, by_ := { byOf s b th va with store := 2 }, die := dieOf b.core, dst := leNat (bs.take 8), src := leNat ((bs.drop 8).take 8),
    rowlen := leNat ((bs.drop 16).take 4), rows := leNat ((bs.drop 20).take 4), dstr := leNat ((bs.drop 24).take 4),
    sstr := leNat ((bs.drop 28).take 4), mode := leNat ((bs.drop 32).take 1), signal := leNat ((bs.drop 40).take 8), prow := 0, poff := 0, invblk := 0,
    phase := 0, token := 0, out := [], ahead := 0, stops := [], goes := [], stage := 0, tail := [], ends := none }
def begunCopy (c : Copy) : Copy :=
  { c with stage := 1, tail := [(c.by_.recVa + 48, List.replicate 8 0 ++ [1] ++ List.replicate 7 0, 0)] }

/-- The state after the instruction has been issued for operation s.nextId, with these copies. -/
def issuedWith (s : State) (b : Block) (g : Group) (i : Instr) (k : BitVec 3) (l : BitVec 4) (cs : List Copy) : State :=
  engIssue { s with nextId := s.nextId + 1, copies := cs } b g i k l (.engine s.nextId)

/-- A copy at a chunk boundary that neither ends nor suspends, with no write of its record under way (R266). -/
structure Runs (s : State) (c : Copy) : Prop where
  found : s.copies.find? (fun x => x.op == c.op) = some c
  phase : c.phase = 0
  stage : c.stage = 0
  out   : c.out = []
  ends  : c.ends = none
  stops : c.stops = []

/-- The state in which a transfer that was accepted begins: it stands among the transfers, its token raised (R137, R269). -/
def withXfer (s : State) (b : Block) (g : Group) (th : Thread) (k : BitVec 3) (l : BitVec 4) (x : Xfer) : State :=
  if k = 7 then { s with nextId := s.nextId + 1, xfers := s.xfers ++ [x] }
  else (addPlain { s with nextId := s.nextId + 1, xfers := s.xfers ++ [x] } b g th 0 k l (.engine x.op)).1

/-- The transfer of an accepted PUT, GET or PUTF (R269, R271). -/
def xferOf (s : State) (b : Block) (th : Thread) (kind dst src n recVa : Nat) : Xfer :=
  { op := s.nextId, kind := kind, by_ := { byOf s b th recVa with score := b.core }, dst := dst, src := src, left := n, ver := 0, want := 0,
    sig := 0, stage := 0, status := 0, token := none, total := n }

/-- The submission a lane makes, outstanding under its token (R283). -/
def submission (s : State) (b : Block) (th : Thread) (kind va : Nat) : Sub :=
  { kind := kind, va := va, job := s.jobOf b.grid, user := !th.priv, unit := 0, pend := s.nextId, token := 0, sent := false, host := false
    l := default, handle := none }
def submitting (s : State) (b : Block) (g : Group) (th : Thread) (y : Reg) (k : BitVec 3) : State :=
  addPend s (plainPend s b g th y k (.engine (2 ^ 50 + s.nextId)))

/-- Nothing but parked threads waits for anything. -/
structure Still (s : State) : Prop where
  pend  : s.pend = []
  sigs  : s.sigHeld = []
  subs  : s.subs = []
  pkts  : s.remHeld = []
  copies : s.copies = []
  xfers : s.xfers = []
  colls : s.colls = []
  units : s.units = []
  bars  : ∀ x ∈ s.bars, x.arrivals = []
  looks : ∀ b ∈ s.blocks, ∀ th ∈ b.threads, ∀ p ∈ th.parked, p.1 ≠ lookTok

/-- LAUNCH, PHASE and GRAPHRUN: kind, record, status register, token, lookahead (R283). -/
def submissions : Instr → Option (Nat × Reg × Reg × BitVec 3 × BitVec 4)
  | .launch x y k l => some (0, x, y, k, l)
  | .phase x y k l => some (1, x, y, k, l)
  | .graphrun x y k l => some (2, x, y, k, l)
  | _ => none

end Sys2Proof.Rules

/-- R264 to R267: CPY of a record in state 0, 3 or 4 begins a copy and writes STATE 1 and a progress of 0 to the record; CPYS of a running copy
asks it to stop, CPYR takes up a suspended one with the record's fields and writes STATE 1, CPYQ reads the live progress; each says what it does
where no engine holds the copy, or holds it in another state. -/
def Obligations.CopyInstructionResult : Prop :=
  (∀ (s : State) (b : Block) (g : Group) (m : Member) (th : Thread) (x : Reg) (k : BitVec 3) (l : BitVec 4) (bs : List Byte) (st : Nat)
      (mem : Memory),
    Whole s b g m th (.cpy x k l) → Clean s b g th → (th.reg x).toNat % 64 = 0 → RecordIs s b g th (th.reg x).toNat 48 bs →
    copyBad bs = none → stateStep s g { byOf s b th (th.reg x).toNat with store := 2 } bs = (s, .ok st) → (st = 0 ∨ st = 3 ∨ st = 4) →
    let c := runningCopy s b th (th.reg x).toNat bs
    (∀ y ∈ s.copies, y.op ≠ c.op) → engOut s c.op = false →
    Puts (issuedWith s b g (.cpy x k l) k l (s.copies ++ [begunCopy c])) c.by_ c.op ((th.reg x).toNat + 48)
      (List.replicate 8 0 ++ [1] ++ List.replicate 7 0) mem →
    ∃ t, exec (.cpy x k l) s = .next t ∧ t.mem = mem ∧ t.copies = s.copies ++ [c] ∧
      Posted s t b g th (.cpy x k l) k (.engine c.op)) ∧
  (∀ (s : State) (b : Block) (g : Group) (m : Member) (th : Thread) (x : Reg) (k : BitVec 3) (l : BitVec 4), Whole s b g m th (.cpys x k l) →
    Drained s b th → (th.reg x).toNat % 64 = 0 →
    ((∀ c, copyAt s (s.jobOf b.grid) (th.reg x).toNat = some c → c.phase = 1 ∨ c.stage = 3) →
      ∃ t, exec (.cpys x k l) s = .next t ∧ t.mem = s.mem ∧ t.copies = s.copies ∧ Posted s t b g th (.cpys x k l) k (.ready [])) ∧
    (∀ c, copyAt s (s.jobOf b.grid) (th.reg x).toNat = some c → c.phase ≠ 1 → c.stage ≠ 3 → ∃ t, exec (.cpys x k l) s = .next t ∧ t.mem = s.mem ∧
      t.copies = replaceFirst (fun y => y.op == c.op) (fun y => { y with stops := y.stops ++ [s.nextId] }) s.copies ∧
      Posted s t b g th (.cpys x k l) k (.engine s.nextId))) ∧
  (∀ (s : State) (b : Block) (g : Group) (m : Member) (th : Thread) (x : Reg) (k : BitVec 3) (l : BitVec 4), Whole s b g m th (.cpyr x k l) →
    Clean s b g th → (th.reg x).toNat % 64 = 0 →
    ((∀ c, copyAt s (s.jobOf b.grid) (th.reg x).toNat = some c → c.phase ≠ 1) →
      ∃ t, exec (.cpyr x k l) s = .next t ∧ t.mem = s.mem ∧ t.copies = s.copies ∧ Posted s t b g th (.cpyr x k l) k (.ready [])) ∧
    (∀ c bs mem, copyAt s (s.jobOf b.grid) (th.reg x).toNat = some c → c.phase = 1 → s.copies.find? (fun y => y.op == c.op) = some c →
      RecordIs s b g th (th.reg x).toNat 48 bs → copyBad bs = none → engOut s c.op = false → (∀ p ∈ s.pend, p.kind ≠ .engine s.nextId) →
      let u := issuedWith s b g (.cpyr x k l) k l (replaceFirst (fun y => y.op == c.op) (fun y =>
        { copyOf bs y with phase := 0, stage := 1, goes := [s.nextId], tail := [((th.reg x).toNat + 56, [1], 0)] }) s.copies)
      Puts u c.by_ c.op ((th.reg x).toNat + 56) [1] mem →
      ∃ t, exec (.cpyr x k l) s = .next t ∧ t.mem = mem ∧ t.pend = s.pend ∧
        t.copies = replaceFirst (fun y => y.op == c.op) (fun y => { copyOf bs y with phase := 0, stage := 0, goes := [], tail := [] }) s.copies ∧
        OneLane s t b g fun _ y y' => y'.content = y.content)) ∧
  (∀ (s : State) (b : Block) (g : Group) (m : Member) (th : Thread) (x y z : Reg) (k : BitVec 3) (l : BitVec 4),
    Whole s b g m th (.cpyq x y z k l) → Clean s b g th → (th.reg x).toNat % 64 = 0 →
    (∀ c, copyAt s (s.jobOf b.grid) (th.reg x).toNat = some c →
      let e := c.ends.getD (if c.phase = 1 then 2 else 1, 0)
      ∃ t, exec (.cpyq x y z k l) s = .next t ∧ t.mem = s.mem ∧ t.copies = s.copies ∧
      Posted s t b g th (.cpyq x y z k l) k (.ready [(y, BitVec.ofNat 64 (c.prow % 2 ^ 32 + c.poff % 2 ^ 32 * 2 ^ 32)),
        (z, BitVec.ofNat 64 (e.1 % 256 + e.2 % 256 * 2 ^ 8 + c.invblk % 2 ^ 16 * 2 ^ 16))])) ∧
    (∀ bs, copyAt s (s.jobOf b.grid) (th.reg x).toNat = none → RecordIs s b g th ((th.reg x).toNat + 48) 16 bs →
      ∃ t, exec (.cpyq x y z k l) s = .next t ∧ t.mem = s.mem ∧ t.copies = s.copies ∧
        Posted s t b g th (.cpyq x y z k l) k (.ready [(y, BitVec.ofNat 64 (leNat (bs.take 8))),
          (z, BitVec.ofNat 64 (leNat ((bs.drop 8).take 8)))])))

/-- R76, R231, R266: a chunk of a running copy that is read and written at this package moves its progress on by the chunk, to the next row at
the row's end; a copy past its last row writes STATE 3 and its progress, and is done. -/
def Obligations.CopyChunkResult : Prop :=
  (∀ (s : State) (c : Copy) (items : List (Nat × List Byte × Byte)) (n inv : Nat) (mem : Memory), Runs s c → c.prow < c.rows →
    copyRead s c = (s, .ok (items, n, inv)) → items ≠ [] →
    let c1 : Copy := { c with out := items, ahead := n, invblk := min 65535 (c.invblk + inv) }
    let s1 : State := { s with copies := replaceFirst (fun x => x.op == c.op) (fun _ => c1) s.copies }
    engPuts c.by_ c.op items s1 = ({ s1 with mem := mem }, [], .done) → (c.prow + 1 < c.rows ∨ c.poff + n < c.rowlen) →
    ∃ t c', exec (.copyChunk c.op) s = .next t ∧ t.mem = mem ∧ t.pend = s.pend ∧ t.copies.find? (fun x => x.op == c.op) = some c' ∧
      c'.out = [] ∧ c'.invblk = c1.invblk ∧
      (c'.prow, c'.poff) = if c.rowlen ≤ c.poff + n then (c.prow + 1, 0) else (c.prow, c.poff + n)) ∧
  (∀ (s : State) (c : Copy) (mem : Memory), Runs s c → c.rows ≤ c.prow → c.signal = 0 → engOut s c.op = false →
    Puts (copyEnd s c 3 0) c.by_ c.op (c.by_.recVa + 48) (copyTail c 3 0) mem →
    ∃ t, exec (.copyChunk c.op) s = .next t ∧ t.mem = mem ∧ (∀ x ∈ t.copies, x.op ≠ c.op) ∧ ∀ p ∈ t.pend, p.kind ≠ .engine c.op)

/-- R269 to R271: PUT and GET of a length and ranges that R391 accepts, GET.ver of a record it accepts and PUTF of an aligned address begin
their transfer, and the group goes on; a piece that is read and written at this package moves the transfer on by it, PUTF's flag is
stored, and a transfer with nothing left lowers its token. -/
def Obligations.OneSidedResult : Prop :=
  (∀ (s : State) (b : Block) (g : Group) (m : Member) (th : Thread) (i : Instr) (x y z : Reg) (k : BitVec 3) (l : BitVec 4) (kind : Nat),
    (i = .put x y z k l ∧ kind = 0 ∨ i = .get x y z k l ∧ kind = 1) → Whole s b g m th i → Clean s b g th →
    0 < (th.reg z).toNat → (th.reg z).toNat < 2 ^ 32 → crosses56 (th.reg x).toNat (th.reg z).toNat = false →
    crosses56 (th.reg y).toNat (th.reg z).toNat = false →
    let f := xferOf s b th kind (th.reg x).toNat (th.reg y).toNat (th.reg z).toNat 0
    ∃ ws, exec i s = .next (advanceIn (runXfer (f.left + 8) (withXfer s b g th k l f) f) b.grid b.bidx g.gid (Instr.len i) ws)) ∧
  (∀ (s : State) (b : Block) (g : Group) (m : Member) (th : Thread) (x y z : Reg) (k : BitVec 3) (l : BitVec 4) (bs : List Byte),
    Whole s b g m th (.getVer x y z k l) → Clean s b g th → (th.reg z).toNat % 32 = 0 → RecordIs s b g th (th.reg z).toNat 32 bs →
    let n := leNat (bs.take 4)
    n ≠ 0 → crosses56 (th.reg x).toNat n = false → crosses56 (th.reg y).toNat n = false →
    let f : Xfer := { xferOf s b th 2 (th.reg x).toNat (th.reg y).toNat n (th.reg z).toNat with
      ver := leNat ((bs.drop 8).take 8) + 8, want := BitVec.ofNat 64 (leNat ((bs.drop 16).take 8)), sig := leNat ((bs.drop 24).take 8) }
    ∃ ws, exec (.getVer x y z k l) s =
      .next (advanceIn (runXfer (f.left + 8) (withXfer s b g th k l f) f) b.grid b.bidx g.gid (Instr.len (.getVer x y z k l)) ws)) ∧
  (∀ (s : State) (b : Block) (g : Group) (m : Member) (th : Thread) (x y : Reg) (k : BitVec 3) (l : BitVec 4),
    Whole s b g m th (.putf x y k l) → Clean s b g th → (th.reg x).toNat % 8 = 0 →
    let f : Xfer := { xferOf s b th 3 (th.reg x).toNat 0 0 (th.reg x).toNat with want := th.reg y }
    ∃ ws, exec (.putf x y k l) s =
      .next (advanceIn (runXfer 8 (withXfer s b g th k l f) f) b.grid b.bidx g.gid (Instr.len (.putf x y k l)) ws)) ∧
  (∀ (s : State) (x : Xfer) (fuel : Nat) (gs : List (Nat × List Byte × Byte)) (is : List (Nat × List Byte × Byte)) (mem : Memory),
    x.token = none → x.kind ≤ 1 → x.left ≠ 0 → inWindow x.remoteVa = false →
    let n := min x.left (128 - x.dst % 128)
    engGrans x.by_ x.op (x.dst % 8 != x.src % 8) (granRange x.src n) s = (s, .ok gs) → plainItems x.dst x.src n gs = .ok is →
    engPuts x.by_ x.op is s = ({ s with mem := mem }, [], .done) →
    let x' : Xfer := { x with dst := x.dst + n, src := x.src + n, left := x.left - n }
    let xs := replaceFirst (fun y => y.op == x.op) (fun y => { y with dst := x.dst + n, src := x.src + n, left := x.left - n }) s.xfers
    runXfer (fuel + 1) s x = runXfer fuel (dropGot { s with mem := mem, xfers := xs } x.op) x') ∧
  (∀ (s : State) (x : Xfer) (fuel : Nat), x.token = none → x.kind ≤ 1 → x.left = 0 → engOut s x.op = false →
    let t := runXfer (fuel + 1) s x
    t.mem = s.mem ∧ (∀ y ∈ t.xfers, y.op ≠ x.op) ∧ ∀ p ∈ t.pend, p.kind ≠ .engine x.op) ∧
  (∀ (s : State) (x : Xfer) (fuel : Nat) (pa : Nat) (pte : Word) (mem : Memory), x.token = none → x.kind = 3 → x.stage = 0 →
    putBefore s x = false → engLoc s x.by_ x.dst true = (s, .mem pa pte) → Puts s x.by_ x.op x.dst (leBytes x.want.toNat 8) mem →
    let t := runXfer (fuel + 1) s x
    t.mem = mem ∧ (∀ y ∈ t.xfers, y.op ≠ x.op) ∧ ∀ p ∈ t.pend, p.kind ≠ .engine x.op)

/-- R272, R317, R319: WCFLUSH sends every line that holds a store of the lane and keeps the others; FENCEACK sends them too, and completes at once
where no store, PUT or PUTF of the thread toward another package is outstanding; otherwise it waits for the acknowledgements of everything its core
has issued. -/
def Obligations.FlushAndAckResult : Prop :=
  (∀ (s : State) (b : Block) (g : Group) (m : Member) (th : Thread) (k : BitVec 3) (l : BitVec 4), IssuingAlone s b g m th (.wcflush k l) →
    ∃ t, exec (.wcflush k l) s = .next t ∧ t.mem = s.mem ∧
      (t.core b.core).wc = (s.core b.core).wc.filter (fun x => !(x.whos.any fun w => w.2 == me b th)) ∧
      (k = 7 → t.pend = s.pend ∧ OneLane s t b g fun _ x x' => x'.content = x.content) ∧
      (k ≠ 7 → Waits s t b g th k (.ready []))) ∧
  (∀ (s : State) (b : Block) (g : Group) (m : Member) (th : Thread) (k : BitVec 3) (l : BitVec 4), IssuingAlone s b g m th (.fenceack k l) →
    (∀ p ∈ s.pend, ∀ iss, p.kind ≠ .fenceack iss) →
    let u := sendOwn s b.core (me b th)
    ∃ t, exec (.fenceack k l) s = .next t ∧ t.mem = s.mem ∧ t.cores = u.cores ∧
      (xferBefore u (me b th) u.nextId = false ∧ linesBefore u (me b th) u.nextId = false ∧ movingBefore u (me b th) u.nextId = false →
        Waits s t b g th k (.ready [])) ∧
      (xferBefore u (me b th) u.nextId = true ∨ linesBefore u (me b th) u.nextId = true ∨ movingBefore u (me b th) u.nextId = true →
        Waits s t b g th k (.fenceack (u.core b.core).iss)))

/-- R283: LAUNCH, PHASE and GRAPHRUN submit their record once and deliver the submission's status, each; a launch record that is valid enters its
class queue with status 0, an invalid one writes a record of code 0x0730 and gives 1, a full queue gives 2. R331: the host's submissions are made in the same way, and their status is returned to the host. -/
def Obligations.SubmissionResult : Prop :=
  (∀ (s s' : State) (b : Block) (g : Group) (m : Member) (th : Thread) (i : Instr) (kind n : Nat) (x y : Reg) (k : BitVec 3) (l : BitVec 4),
    submissions i = some (kind, x, y, k, l) → IssuingAlone s b g m th i → Drained s b th → (∀ p ∈ s.pend, p.id ≠ s.nextId) →
    let u := submitting s b g th y k
    submit u (submission s b th kind (th.reg x).toNat) = (s', .status n) → s'.blocks = u.blocks → s'.pend = u.pend →
    ∃ t, exec i s = .next t ∧ Waits s t b g th k (.ready [(y, BitVec.ofNat 64 n)]) ∧
      t = { s' with blocks := t.blocks, pend := t.pend, issuing := none }) ∧
  (∀ (s u : State) (x : Sub) (l : Launch), x.kind = 0 → launchAt s x.va x.job x.user = (u, .ok (some l)) → l.cls < 4 →
    (∀ c < 4, (u.queues.getD c []).length + (if c = l.cls then 1 else 0) ≤ 256) →
    ∃ t r, submit s x = (t, .status 0) ∧ t = { u with queues := t.queues } ∧ r.l = l ∧ r.va = x.va ∧ r.job = x.job ∧ r.user = x.user ∧
      ∀ c < 4, t.queues.getD c [] = u.queues.getD c [] ++ if c = l.cls then [r] else []) ∧
  (∀ (s u : State) (x : Sub) (l : Launch), x.kind = 0 → launchAt s x.va x.job x.user = (u, .ok (some l)) → l.cls < 4 →
    256 ≤ (u.queues.getD l.cls []).length → submit s x = (u, .status 2)) ∧
  (∀ (s u : State) (x : Sub), x.kind = 0 → launchAt s x.va x.job x.user = (u, .ok none) →
    submit s x = (queueRec u 0 (unitRec u 0x0730 (BitVec.ofNat 64 x.va) 0xFFFF 0 x.job), .status 1)) ∧
  (∀ (s s' : State) (kind : SubKind) (job n : Nat) (va : Va),
    submit s { kind := match kind with
                 | .launch => 0
                 | .phase => 1
                 | .graph => 2
               va := va.toNat, job := job, user := true, unit := 0, pend := 0, token := 0, sent := false, host := true, l := default, handle := none }
      = (s', .status n) → exec (.hostSubmission kind job va) s = .next { s' with outHost := s'.outHost ++ [(job, va.toNat, n)] })

/-- R281, R282, R284, R285, R293: SNAP asks the pod for the job's next epoch, or delivers 0 where one is open; SNAPSTAT delivers the job's state
word, SNAPWAIT once it satisfies the wait; CANCEL and JOBCTL send their event and wait for it. -/
def Obligations.PodRequestResult : Prop :=
  (∀ (s : State) (b : Block) (g : Group) (m : Member) (th : Thread) (x y : Reg) (k : BitVec 3) (l : BitVec 4),
    IssuingAlone s b g m th (.snap x y k l) → (∀ w ∈ s.writes, w.who ≠ me b th) →
    let w := s.jobWord (s.jobOf b.grid) 3
    ∃ t, exec (.snap x y k l) s = .next t ∧ t.mem = s.mem ∧
      (w.toNat / 4 % 4 = 1 → t.outEvents = s.outEvents ∧ Waits s t b g th k (.ready [(x, 0)])) ∧
      (w.toNat / 4 % 4 ≠ 1 → Waits s t b g th k (.engine snapOp) ∧
        t.outEvents = s.outEvents ++ [.snapopen { seq := 0, origin := s.pkg, job := s.jobOf b.grid } (BitVec.ofNat 57 (th.reg y).toNat)
          (w.toNat / 2 ^ 16 + 1)])) ∧
  (∀ (s : State) (b : Block) (g : Group) (m : Member) (th : Thread) (x : Reg) (k : BitVec 3) (l : BitVec 4),
    IssuingAlone s b g m th (.snapstat x k l) →
    ∃ t, exec (.snapstat x k l) s = .next t ∧ t.mem = s.mem ∧
      Waits s t b g th k (.ready [(x, s.jobWord (s.jobOf b.grid) 3 ||| (if s.colour then 1 else 0))])) ∧
  (∀ (s : State) (b : Block) (g : Group) (m : Member) (th : Thread) (x : Reg) (k : BitVec 3) (l : BitVec 4),
    IssuingAlone s b g m th (.snapwait x k l) → th.status = .issuing → (∀ p ∈ s.pend, p.kind ≠ .engine snapwaitOp) →
    let w := s.jobWord (s.jobOf b.grid) 3 ||| (if s.colour then 1 else 0)
    let ended := (th.reg x).toNat < w.toNat / 2 ^ 16 ∨ ((th.reg x).toNat = w.toNat / 2 ^ 16 ∧ w.toNat / 4 % 4 ≠ 1)
    ∃ t, exec (.snapwait x k l) s = .next t ∧ t.mem = s.mem ∧
      (ended → OneLane s t b g fun _ y y' => y'.content = (y.setReg x w).content) ∧
      (¬ended → Waits s t b g th k (.engine snapwaitOp))) ∧
  (∀ (s : State) (b : Block) (g : Group) (m : Member) (th : Thread) (lv : Level) (x : Reg) (k : BitVec 3) (l : BitVec 4),
    IssuingAlone s b g m th (.cancel lv x k l) →
    (th.priv = true ∨ unitJobs s (th.reg x).toNat lv = [] ∨ s.jobOf b.grid ∈ unitJobs s (th.reg x).toNat lv) →
    ∃ t, exec (.cancel lv x k l) s = .next t ∧ t.mem = s.mem ∧ (k ≠ 7 → Waits s t b g th k (.engine (2 ^ 51))) ∧
      (k = 7 → t.pend = s.pend ∧ OneLane s t b g fun _ y y' => y'.content = y.content) ∧
      t.outEvents = s.outEvents ++ [.cancel { seq := 0, origin := s.pkg, job := s.jobOf b.grid } (BitVec.ofNat 57 (th.reg x).toNat) lv]) ∧
  (∀ (s : State) (b : Block) (g : Group) (m : Member) (th : Thread) (x : Reg) (close : Bool) (v pa : Nat),
    IssuingAlone s b g m th (.jobctl x close) → hwPa s 0 ((th.reg x).toNat % 2 ^ 57) = some pa → s.mem.bad pa 2 = false →
    v = s.mem.num pa 2 % 2 ^ 12 →
    ∃ t, exec (.jobctl x close) s = .next t ∧ t.mem = s.mem ∧ Waits s t b g th 7 (.engine jobOp) ∧
      t.outEvents = s.outEvents ++ [.job { seq := 0, origin := s.pkg, job := v } (BitVec.ofNat 57 (th.reg x).toNat) close])

/-- R62, R285, R286, R296, R349: SHOOT within the package asks the dies it names and waits; PREEMPT sends the event for every grid of the
counter; LDRAW reads data, seal or status without a seal check (what the inner code corrects and finds is a free value, log 10); ROLLBACK waits for its manifest's check; no memory changes but where LDRAW finds a granule that cannot be corrected. R62, R379, R404, R432: REPLAY closes the entry it names and threads parked at the fetch of a clause are READY again; a die's acknowledgement
removes the page's translations, and the last one ends the SHOOT; a RELEASE lets a stopped thread go on with its next instruction. -/
def Obligations.SupervisorAndReplayResult : Prop :=
  ((∀ (s : State) (b : Block) (g : Group) (m : Member) (th : Thread) (a : Reg) (sc : BitVec 2), IssuingAlone s b g m th (.shoot a sc) → sc ≠ 3 →
    ∃ t, exec (.shoot a sc) s = .next t ∧ t.mem = s.mem ∧ Waits s t b g th 7 (.engine s.nextId) ∧
      t.shoots = s.shoots ++ [{ id := s.nextId, page := (th.reg a).toNat % 2 ^ 57 / 2 ^ 16, core := if sc = 0 then some b.core else none,
                                dies := if sc = 2 then [0, 1, 2, 3] else [dieOf b.core], pkgs := [] }]) ∧
  (∀ (s : State) (b : Block) (g : Group) (m : Member) (th : Thread) (a : Reg) (resume : Bool) (cs : List (PodGrid × Nat)),
    IssuingAlone s b g m th (.preempt a resume) → podCompls s (s.jobOf b.grid) = (s, cs, false) →
    ∃ t, exec (.preempt a resume) s = .next t ∧ t.mem = s.mem ∧ t.pend = s.pend ∧
      t.outEvents = s.outEvents ++ ((cs.filter fun c => c.2 == (th.reg a).toNat).map fun c =>
        let hd : EvHdr := { seq := 0, origin := s.pkg, job := c.1.job }
        if resume then Event.unblock hd c.1.handle else Event.block hd c.1.handle) ∧
      OneLane s t b g fun _ x x' => x'.content = x.content) ∧
  (∀ (s : State) (b : Block) (g : Group) (m : Member) (th : Thread) (d a : Reg) (sl : BitVec 2), IssuingAlone s b g m th (.ldraw d a sl) →
    let pa := (th.reg a).toNat % 2 ^ 39
    populated pa = true → pa % 8 = 0 →
    ∃ t v, exec (.ldraw d a sl) s = .next t ∧ t.pend = s.pend ∧ OneLane s t b g (fun _ x x' => SetsReg d v x x') ∧
      (sl.toNat ≤ 1 → LanesDid s t b g fun _ x x' => SetsReg d v x x') ∧
      (sl = 0 → v.toNat = s.mem.num pa 8) ∧ (sl = 1 → v.toNat = (s.mem.sealOf (pa / 8)).toNat) ∧
      (1 < sl.toNat →
        let r := innerDraw s pa
        v.getLsbD 0 = (r.1 != 0) ∧ v.getLsbD 1 = r.2.2 ∧ v.getLsbD 2 = (s.mem.poison.contains (pa / 8) || r.2.2) ∧ v.getLsbD 3 = r.2.1 ∧
        v.toNat / 16 % 16 = r.1 ∧ (r.2.2 = false → t.mem = s.mem))) ∧
  (∀ (s : State) (b : Block) (g : Group) (m : Member) (th : Thread) (a : Reg), IssuingAlone s b g m th (.rollback a) →
    let u := (addNamed s b g th 0 7 0 (.engine rollPend) (BitVec.ofNat 64 ((th.reg a).toNat % 2 ^ 57)) 0).1
    exec (.rollback a) s = .next (advanceIn (rollbacksAgain u) b.grid b.bidx g.gid 1 [{ id := s.nextId, left := 0 }]) ∧
      (rollbacksAgain u = u → Waits s (advanceIn (rollbacksAgain u) b.grid b.bidx g.gid 1 [{ id := s.nextId, left := 0 }]) b g th 7
        (.engine rollPend))) ∧
  (∀ (s u v : State) (p : Pend) (h : List Byte), s.pend = [p] → p.kind = .engine rollPend → p.acc.x = 0 →
    chainOk s (s.jobOf p.who.grid) (lastEpoch s (s.jobOf p.who.grid)) 65536 p.acc.ea.toNat = (u, .ok true) →
    rollRead u (s.jobOf p.who.grid) p.acc.ea.toNat 64 = (v, .ok h) →
    (rollbacksAgain s).outEvents = v.outEvents ++ [.snapcommit { seq := 0, origin := v.pkg, job := s.jobOf p.who.grid }
      (leNat ((h.drop 8).take 8)) (leNat ((h.drop 16).take 8)) (BitVec.ofNat 57 p.acc.ea.toNat) 1])) ∧
  ((∀ (s : State) (b : Block) (g : Group) (m : Member) (th : Thread) (a : Reg) (d : Nat) (w : WaitEntry),
    IssuingAlone s b g m th (.replay a true) →
    openEntries s (fun d w => w.tok d == (th.reg a).toNat % 2 ^ 32) = [(d, w)] →
    (∀ c ∈ s.blocks, c.place = 0 ∧ ∀ h ∈ c.groups, h.parked = false ∧ h.held = []) → Still s →
    ∃ u, exec (.replay a true) s = .next (advanceIn (carryOn u) b.grid b.bidx g.gid 1 []) ∧
      (u.die d).waits = (s.die d).waits.filter (fun x => x.index != w.index) ∧ u.mem = s.mem ∧
      ∀ c, s.block? c.grid c.bidx = some c → ∀ x ∈ c.threads, x.parked ≠ [] → (∀ p ∈ x.parked, p.1 = w.tok d) → (∀ h ∈ c.groups, h.member? x.tid = none) →
        ∃ c' ∈ u.blocks, c'.grid = c.grid ∧ c'.bidx = c.bidx ∧ { x with status := .ready, parked := [], readySince := s.now } ∈ c'.threads) ∧
  (∀ (s : State) (x : Shoot) (d : Nat), s.shoots = [x] → x.dies = [d] → x.pkgs = [] → d < 4 →
    ∃ t, exec (.shootdownAck d x.id) s = .next t ∧ t.mem = s.mem ∧ t.shoots = [] ∧ (∀ p ∈ t.pend, p.kind ≠ .engine x.id) ∧
      ∀ e ∈ (t.die d).tlb, e.page ≠ x.page ∧ (pteSize e.pte = true → e.page / 32 ≠ x.page / 32)) ∧
  (∀ (s : State) (b : Block) (g : Group) (m : Member) (th : Thread) (a : Word), s.blocks = [b] → b.place = 0 → b.core = a.toNat % 2 ^ 10 →
    a.getLsbD 21 = true → b.groups = [g] → g.parked = true → g.held = [] → g.members = [m] → m.active = true → b.threads = [th] → m.tid = th.tid →
    th.parked = [(stopTok, againAcc)] → g.windows = [] → g.idx ≤ g.cnt →
    ∃ u b' x' g', exec (.release a s.pkg) s = .next (carryOn u) ∧ u.mem = s.mem ∧ u.pend = s.pend ∧ u.blocks = [b'] ∧ b'.threads = [x'] ∧
      x'.status = .issuing ∧ x'.parked = [] ∧ x'.regs = th.regs ∧ b'.groups = [g'] ∧ g'.parked = false ∧ g'.idx = g.idx ∧ g'.members = [m]) ∧
  (∀ (s : State) (a : Word) (target : Nat), target ≠ s.pkg →
    ∃ t f, exec (.release a target) s = .next t ∧ t = { s with outMgmt := s.outMgmt ++ [f] } ∧ f.mtype = 7 ∧ f.a = a ∧
      f.b = BitVec.ofNat 32 target))

namespace Sys2Proof.Rules

/- Collectives and populations. -/

/-- The collective an engine takes: descriptor bytes d captured, the ranks' packages, a permute's targets (R273, R320). -/
def theColl (s : State) (b : Block) (th : Thread) (kind va : Nat) (d : List Byte) (ranks aux : List Nat) : Coll :=
  newColl s (byOf s b th va) kind d ranks aux

/-- The descriptor at va, its rank list and, for a permute, its targets are readable and break no rule of R320, R321 and R328; no collective
of its ID is live on this rank, and it is not a bound one (R273, R391, R392). -/
structure Collects (s : State) (b : Block) (g : Group) (th : Thread) (kind va : Nat) (d : List Byte) (ranks aux : List Nat) : Prop where
  place : va % 128 = 0
  desc  : RecordIs s b g th va 128 d
  op    : (leNat ((d.drop 8).take 1) = 6 ↔ kind = 2)
  sound : collBad d = none
  list  : ∃ rb, RecordIs s b g th (leNat ((d.drop 16).take 8)) (2 * leNat ((d.drop 12).take 2)) rb ∧ ranks = halves rb
  perm  : leNat ((d.drop 8).take 1) = 4 →
    ∃ ab, RecordIs s b g th (leNat ((d.drop 80).take 8)) (2 * leNat ((d.drop 12).take 2)) ab ∧ aux = halves ab
  plain : leNat ((d.drop 8).take 1) ≠ 4 → aux = []
  lists : listsBad s (theColl s b th kind va d ranks aux) = none
  idle  : collOf s (s.jobOf b.grid) (leNat (d.take 8)) = none
  free  : bitOf (leNat ((d.drop 11).take 1)) 1 = false

/-- The collective's own notice is out where it sends one, and every rank it awaits has sent its notice, or is rank r (R324). -/
structure Heard (c : Coll) (r : Nat) : Prop where
  own  : (c.notifies = true ∨ c.kind = 2) → ∃ n ∈ c.notices, n.1 = c.me
  rest : ∀ q ∈ c.awaits, q = r ∨ ∃ n ∈ c.notices, n.1 = q

/-- The RESAMPLE of a thread, as its arrival keeps it (R275). -/
def sampleOf (g : Group) (th : Thread) (x y z : Reg) (u : Option Reg) (k : BitVec 3) : Sample :=
  { d := x, k := k.toNat, w := (th.reg y).toNat % 2 ^ 32, n := (th.reg z).toNat, u := u.map fun r => (th.reg r).toNat % 2 ^ 53, hdr := g.hdr, idx := g.idx }

/-- RESAMPLE and RESAMPLE.u: destination, weight, N, U, token (R275). -/
def resamples : Instr → Option (Reg × Reg × Reg × Option Reg × BitVec 3)
  | .resample x y z k => some (x, y, z, none, k)
  | .resampleU x y z u k => some (x, y, z, some u, k)
  | _ => none

/-- The state right after the thread's arrival: its token is raised (R137, R275). -/
def arrived (s : State) (b : Block) (g : Group) (th : Thread) (i : Instr) (sm : Sample) : State :=
  advanceIn (s.updThread (me b th) fun (t : Thread) =>
    { t.setTok sm.k (t.tok sm.k + 1) with status := .barrier, readySince := s.now, sample := some sm }) b.grid b.bidx g.gid (Instr.len i) []

/-- The exchange of a grid on one package with its plan and images ready: the images are written, and the threads depart once they are in their
slots (R278). -/
def exchGoes (s : State) (grid : Nat) (plan : List Child) (ks : List (Child × List Word × Word)) : State :=
  let w := exchWrite (setExch (dropPriv s) { exchOf s grid with
    plan := planWords (.ok plan), imaged := true, images := ks.map fun k => (k.1.slot, k.2.2 :: k.2.1) }) grid
  if imagesPut w grid then exchDepart w grid else w

/-- A thread after its population's exchange as copy 0, of output rank r in generation gen, its RESAMPLE's token lowered (R275, R277, R278). -/
def departed (gen r : Nat) (sm : Sample) (th : Thread) : Thread :=
  ({ th.setTok sm.k (th.tok sm.k - 1) with kept := if th.kept = .barrier then .issuing else th.kept, lid := lidOf gen r, parent := th.lid, sample := none } : Thread).setReg sm.d 0

end Sys2Proof.Rules

/-- R273, R274, R320, R322, R329: COLL, COLL.ver and RESHARD capture a descriptor that breaks no rule, enter the engine as the next collective
of their ID with their token raised, and run on as far as they can. R274, R322 to R324: a chunk whose contributions are all there, sealed soundly, is reduced over the ranks in ascending order and written;
a collective that has every notice completes without a further change; a RESHARD that does moves its job's layout epoch on by one. -/
def Obligations.CollectiveIssueAndChunkResult : Prop :=
  ((∀ (s : State) (b : Block) (g : Group) (m : Member) (th : Thread) (i : Instr) (x : Reg) (k : BitVec 3) (l : BitVec 4) (kind : Nat)
      (d : List Byte) (ranks aux : List Nat),
    (i = .coll x k l ∧ kind = 0 ∨ i = .collVer x k l ∧ kind = 1) → Whole s b g m th i → Clean s b g th →
    Collects s b g th kind (th.reg x).toNat d ranks aux →
    exec i s = .next (startColl s b g i k l (theColl s b th kind (th.reg x).toNat d ranks aux))) ∧
  (∀ (s : State) (b : Block) (g : Group) (m : Member) (th : Thread) (x y : Reg) (k : BitVec 3) (l : BitVec 4) (d mb : List Byte)
      (ranks : List Nat), Whole s b g m th (.reshard x y k l) → Clean s b g th → Collects s b g th 2 (th.reg x).toNat d ranks [] →
    let n := leNat ((d.drop 78).take 2)
    let ms := (List.range n).map (moveAt mb)
    RecordIs s b g th (leNat ((d.drop 80).take 8)) (32 * n) mb →
    (∀ j < n, (moveAt mb j).1 < leNat ((d.drop 12).take 2) ∧ (moveAt mb j).2.1 < leNat ((d.drop 12).take 2) ∧ zeros mb (32 * j + 4) 4 = true) →
    (th.reg y).toNat = s.epoch (s.jobOf b.grid) + 1 → movesClash ms = false →
    exec (.reshard x y k l) s =
      .next (startColl s b g (.reshard x y k l) k l { theColl s b th 2 (th.reg x).toNat d ranks [] with moves := ms })) ∧
  (∀ (s : State) (b : Block) (g : Group) (m : Member) (th : Thread) (i : Instr) (k : BitVec 3) (l : BitVec 4) (c : Coll), Whole s b g m th i →
    ∃ u ws, startColl s b g i k l c = advanceIn (collRun (collFuel c) (collEarly u c) c.op) b.grid b.bidx g.gid (Instr.len i) ws ∧
      u.colls = s.colls ++ [c] ∧ u.mem = s.mem ∧ collNo u c.job c.idn = c.no ∧
      (k = 7 → u.pend = s.pend) ∧ (k ≠ 7 → ∃ p, u.pend = s.pend ++ [p] ∧ p.who = me b th ∧ p.tok = k.toNat ∧ p.kind = .engine c.op))) ∧
  ((∀ (s : State) (c : Coll) (j : Nat) (mem : Memory), s.coll? c.op = some c → collRun (collFuel c) s c.op = s → c.kind ≠ 2 → c.phase = 2 →
    c.token = none → c.out = [] → c.sfmt ≠ 4 → j < c.nchunk → j ∉ c.chunks → headsThere c = true →
    let lo := j * c.csize
    let hi := min c.dstLen (lo + c.csize)
    (∀ n ∈ collNeeds c lo hi, lacks c n = false) → badPiece c (collNeeds c lo hi) = none →
    let w := chunkWrites s c [] lo hi
    let out := joinItems ((w.1.flatMap fun x => lineChunks (c.dst + x.1) (x.2.length + 1) x.2).map fun x => (x.1, x.2, 0))
    let c1 : Coll := { c with out := out, outOf := j, status := if w.2 then firstBad c.status 3 else c.status }
    let s1 : State := { s with free := s.free + 2 ^ 18, colls := replaceFirst (fun x => x.op == c.op) (fun _ => c1) s.colls }
    engPuts c.by_ c.op out s1 = ({ s1 with mem := mem }, [], .done) →
    ∃ u c', exec (.collChunkReduce c.die c.op j) s = .next (collRun (collFuel c1) u c.op) ∧ u.mem = mem ∧ u.coll? c.op = some c' ∧
      c'.chunks = c.chunks ++ [j] ∧ c'.out = [] ∧ c'.status = c1.status) ∧
  (∀ (free pos ty op x : Nat) (xs : List Nat), ty < 7 →
    reduceEl free pos ty op (x :: xs) = some (xs.foldl (fun a y => (redComb (collTy ty) (collRed op) a y).1) x)) ∧
  (∀ (s : State) (c : Coll) (r : Nat) (fault : Bool), s.coll? c.op = some c → c.token = none → c.phase = 4 → c.kind ≠ 2 → c.dtype ≠ 7 →
    Heard c r → leNat ((c.d.drop 56).take 8) = 0 → leNat ((c.d.drop 64).take 8) = 0 →
    ∃ t, exec (.collCheckNotice c.die c.op r fault) s = .next t ∧ t.mem = s.mem ∧ t.colls = s.colls.filter (fun x => x.op != c.op) ∧
      ∀ p ∈ t.pend, p.kind ≠ .engine c.op) ∧
  (∀ (s : State) (c : Coll), s.colls = [c] → c.token = none → c.phase = 4 → c.kind = 2 → c.status = 0 → Heard c c.me →
    (∀ n ∈ c.notices, n.2 = 0) → leNat ((c.d.drop 56).take 8) = 0 → leNat ((c.d.drop 64).take 8) = 0 →
    ∃ t, exec (.reshardComplete c.die c.op) s = .next t ∧ t.mem = s.mem ∧ t.colls = [] ∧ t.epoch c.job = s.epoch c.job + 1 ∧
      ∀ p ∈ t.pend, p.kind ≠ .engine c.op))

/-- R275, R277, R278, R279: POPSEED sets the grid's seed; a thread at RESAMPLE waits with its weight, N and U, its token raised, until every live
thread of the grid is there; then the images of the plan's children are made, no thread departing before they are, and a parent keeps its slot as
copy 0 with its new identity. CLONE_IMAGE_COPY goes on with an exchange that waited. -/
def Obligations.PopulationResult : Prop :=
  (∀ (s : State) (b : Block) (g : Group) (m : Member) (th : Thread) (x : Reg) (k : BitVec 3) (l : BitVec 4), Whole s b g m th (.popseed x k l) →
    ∃ t, exec (.popseed x k l) s = .next t ∧ t.mem = s.mem ∧
      (∀ y, s.grid? b.grid = some y → ∃ y', t.grid? b.grid = some y' ∧ { y' with told := y.told } = { y with seed := th.reg x }) ∧
      ((gridPeers s b.grid).isEmpty = true →
        t.grids = replaceFirst (fun y => y.handle == b.grid) (fun y => { y with seed := th.reg x }) s.grids) ∧
      Posted s t b g th (.popseed x k l) k (.ready [])) ∧
  (∀ (s : State) (b c : Block) (g : Group) (m : Member) (th o : Thread) (i : Instr) (x y z : Reg) (u : Option Reg) (k : BitVec 3),
    resamples i = some (x, y, z, u, k) → Whole s b g m th i → Clean s b g th → (s.launchOf b.grid).pop = true → th.stores = 0 →
    (∀ n ∈ th.toks, n = 0) → gridPkgs s b.grid = [s.pkg] → (exchOf s b.grid).plan = [] →
    c ∈ s.blocks → c.grid = b.grid → o ∈ c.threads → o.status ≠ .exited → o.sample = none → c.bidx ≠ b.bidx →
    ∃ t, exec i s = .next t ∧ t.mem = s.mem ∧ t.pend = s.pend ∧
      OneLane s t b g fun _ v v' => v'.status = .barrier ∧
        v'.content = ({ raise k v with sample := some (sampleOf g v x y z u k) } : Thread).content) ∧
  (∀ (s u v : State) (b : Block) (g : Group) (m : Member) (th : Thread) (i : Instr) (x y z : Reg) (r : Option Reg) (k : BitVec 3) (gr : Grid)
      (plan : List Child) (ks : List (Child × List Word × Word)),
    resamples i = some (x, y, z, r, k) → Whole s b g m th i → Clean s b g th → (s.launchOf b.grid).pop = true → th.stores = 0 →
    (∀ n ∈ th.toks, n = 0) → u = arrived s b g th i (sampleOf g th x y z r k) → u.grid? b.grid = some gr → gr.l.pop = true → gr.decided = false →
    gridPkgs u b.grid = [u.pkg] → (exchOf u b.grid).plan = [] → allSampled u b.grid = true → (∃ a ∈ localArrs u b.grid, a.free = false) →
    popPlan (localArrs u b.grid) gr.seed gr.gen gr.l.popcap = .ok plan →
    gatherKids b.grid (plan.filter fun c => c.copy != 0) u = (v, some ks) →
    exec i s = .next (exchGoes v b.grid plan ks)) ∧
  (∀ (s : State) (b : Block) (th : Thread) (sm : Sample) (c : Child) (gen : Nat), s.blocks = [b] → b.threads = [th] → th.sample = some sm →
    th.trapAfter = none → c.copy = 0 → c.ppkg = s.pkg → c.pslot = slotIndex b th →
    ∃ b' th', (popDepart s b.grid gen [c] []).blocks = [b'] ∧ b'.threads = [th'] ∧ th'.content = (departed gen c.rank sm th).content) ∧
  (∀ (s : State) (grid : Nat), exec (.cloneImageCopy grid) s = .next (resampleTry s grid))

namespace Sys2Proof.Rules

/-- The weight an FP32 code stands for; −0 is 0 (R275). -/
def weightOf (w : Nat) : Rat :=
  match ffS.val w with
  | .fin _ m e => (m : Rat) * (2 : Rat) ^ e
  | _ => 0

/-- Every weight is one a RESAMPLE takes: finite, not negative, and some weight is not zero (R275). -/
def Weights (ws : List Nat) : Prop :=
  (∀ w ∈ ws, ∃ neg m e, ffS.val w = .fin neg m e ∧ (neg = true → m = 0)) ∧ ∃ w ∈ ws, 0 < weightOf w

/-- f of R276. -/
def popF (n u total v : Nat) : Nat := (v * n * 2 ^ 53 + u * total) / (total * 2 ^ 53)

end Sys2Proof.Rules

/-- R276: with the anchor A = floor(log2(max w)) − 72 the units are floor(w / 2^A), a weight below 2^A contributing 0; with P[i] the sum
of the units 0 to i and W the sum of all, the counts are f(P[i]) − f(P[i − 1]), and they sum to N; the counts stand in ascending LID order, and
a plain RESAMPLE draws U = m64(seed XOR GEN) >> 11. -/
def Obligations.PopulationCounts : Prop :=
  (∀ ws : List Nat, Weights ws → ∃ a : Int, (∃ w ∈ ws, (2 : Rat) ^ (a + 72) ≤ weightOf w) ∧ (∀ w ∈ ws, weightOf w < (2 : Rat) ^ (a + 73)) ∧
    (popUnits ws).length = ws.length ∧
    ∀ i (h : i < ws.length), ((popUnits ws).getD i 0 : Int) = (weightOf ws[i] / (2 : Rat) ^ a).floor ∧ (popUnits ws).getD i 0 < 2 ^ 73) ∧
  (∀ (ws : List Nat) (n u : Nat), u < 2 ^ 53 → 0 < (popUnits ws).sum →
    let p (i : Nat) : Nat := ((popUnits ws).take i).sum
    let w := (popUnits ws).sum
    (popCounts ws n u).length = ws.length ∧ (popCounts ws n u).sum = n ∧
    ∀ i < ws.length, ((popCounts ws n u).getD i 0 : Int) = (popF n u w (p (i + 1)) : Int) - popF n u w (p i)) ∧
  (∀ (arrs live : List Arr) (seed : Word) (gen cap : Nat), live = sortBy (fun a b => a.lid ≤ b.lid) (arrs.filter fun a => !a.free) →
    (∀ i j, i < j → j < live.length → (live.getD i default).lid ≤ (live.getD j default).lid) ∧
    (popFault live gen cap = none →
      let u := (live.headD default).u.getD ((m64 (seed ^^^ BitVec.ofNat 64 gen)).toNat / 2 ^ 11)
      let cs := popCounts (live.map fun a => a.w) (live.headD default).n u
      popPlan arrs seed gen cap = .ok (placeChildren
        (((live.zip cs).flatMap fun x => (List.range x.2).map fun i => (x.1, i)).zipIdx.map fun k => (k.2, k.1.1, k.1.2))
        (arrs.filter (fun a => a.free) ++ (live.zip cs).filterMap fun x => if x.2 = 0 then some x.1 else none))))

namespace Sys2Proof.Rules

/- Happenings of the package. -/

/-- No result is outstanding and no entry is armed: no write of memory completes one (R113, R233). -/
structure Calm (s : State) : Prop where
  pend : s.pend = []
  arms : ∀ d, (s.die d).arms = []

/-- The only block on the core, its one group on the partition at an instruction it may issue, no thread at a clause boundary (R37, R302). -/
structure Runs1 (s : State) (core part : Nat) (b : Block) (g : Group) : Prop where
  onlyBlock : s.blocks = [b]
  onCore : b.core = core
  inPlace : b.place = 0
  onlyGroup : b.groups = [g]
  onPart : g.part = part
  inClause : clauseOver s b g = false
  elsewhere : ∀ th ∈ b.threads, atBoundary part th = false ∧ (th.tid / 32 % 4 = part → th.status ≠ .meeting)

/-- A block whose threads have all exited and of which nothing is on the way: it may retire now (R46). -/
structure Retires (s : State) (grid bidx : Nat) (b : Block) : Prop where
  block   : s.block? grid bidx = some b
  place   : b.place = 0
  exited  : ∀ th ∈ b.threads, th.status = .exited
  drained : ∀ th ∈ b.threads, flushThread s b.core (me b th) = s
  plain   : (s.launchOf grid).pop = false ∧ s.ordered grid = false
  idle    : blockBusy s b = false ∧ blockStaged s b = false

end Sys2Proof.Rules

/-- R37, R74, R302, R397, R415: an issue cycle gives the slot to the group that may issue and counts it, and changes no memory; a thread READY
for 256 cycles starves; a YIELD ends after its 32 cycles; a formation deadlock raises SYNC cause 0x09; a full-empty load that has waited
2^24 cycles is withdrawn; a load of the weight store has its value once its bank group's refresh window is over. -/
def Obligations.IssueAndTimerResult : Prop :=
  (∀ (s : State) (core part dt : Nat), (∀ b ∈ s.blocks, b.runs core = false) →
    exec (.issueCycle core part dt) s = .next { passTime s dt with issuing := none }) ∧
  (∀ (s : State) (core part dt : Nat) (b : Block) (g : Group), Runs1 (passTime s dt) core part b g →
    issuable { passTime s dt with issuing := none } b g = true →
    ∃ t, exec (.issueCycle core part dt) s = .next t ∧ t.now = s.now + dt ∧ t.mem = s.mem ∧ t.blocks = s.blocks ∧
      t.issuing = some { grid := b.grid, bidx := b.bidx, gid := g.gid } ∧ (t.core core).perfIssue = (s.core core).perfIssue + 1) ∧
  (∀ (s : State) (core bidx grid tid : Nat) (b : Block) (th : Thread), s.block? grid bidx = some b → b.core = core → b.thread? tid = some th →
    th.status = .ready → th.readySince + 256 ≤ s.now →
    ∃ t, exec (.starvation core bidx grid tid) s = .next t ∧ t = { s with blocks := t.blocks } ∧
      t.thread? { grid := grid, bidx := bidx, tid := tid } = some { th with starving := true }) ∧
  (∀ (s : State) (core bidx grid tid : Nat) (b : Block) (th : Thread), s.block? grid bidx = some b → b.core = core → b.thread? tid = some th →
    th.status = .yielded → th.until_ ≤ s.now →
    ∃ t, exec (.yieldExpiry core bidx grid tid) s = .next t ∧ t = { s with blocks := t.blocks } ∧
      t.thread? { grid := grid, bidx := bidx, tid := tid } = some { th with status := .ready, readySince := s.now }) ∧
  (∀ (s : State) (bidx grid : Nat) (b : Block), s.block? grid bidx = some b → b.place = 0 →
    let live := b.threads.filter Thread.live
    live ≠ [] → (∀ th ∈ live, blockWait th = true ∧ th.readySince + 4096 ≤ s.now) →
    exec (.formationDeadlock bidx grid) s = .next (raiseEach b 0x0809
      (BitVec.ofNat 64 (distinctPcs (live.map fun th => { th with pc := (waitPoint b th).1 })).length) live.length live s false)) ∧
  (∀ (s : State) (p : Pend) (off n : Nat) (clr : Bool) (b : Block) (th : Thread), s.pend.find? (fun q => q.id == p.id) = some p →
    p.kind = .fullEmpty off n clr → s.block? p.who.grid p.who.bidx = some b → b.thread? p.who.tid = some th →
    (p.aged < 2 ^ 24 → exec (.fullEmptyTimeLimit p.id) s = .next s) ∧
    (2 ^ 24 ≤ p.aged → ∃ t, exec (.fullEmptyTimeLimit p.id) s = .next t ∧ ∀ q ∈ t.pend, q.id ≠ p.id)) ∧
  (∀ (s : State) (die dt : Nat),
    let t := { s with now := s.now + dt }
    ((∀ g < 8, wsClock t die ≠ 4000 * g ∧ wsClock t die ≠ 4000 * g + 960) → exec (.wsRefreshWindow die dt) s = .next s) ∧
    (∀ g < 8, wsClock t die = 4000 * g ∨ wsClock t die = 4000 * g + 960 →
      (Quiet s → (∀ p ∈ s.pend, ∀ off n, p.kind ≠ .refresh off n) → exec (.wsRefreshWindow die dt) s = .next t) ∧
      ∀ (p : Pend) (b : Block) (th : Thread) (n : Nat), s.pend = [p] → s.sigHeld = [] → s.scOut = [] → (∀ x ∈ s.bars, x.arrivals = []) →
        p.acc.op = .ldws n → p.tok < 7 → p.kind = .refresh (p.acc.ea.toNat % 2 ^ 57) n →
        s.block? p.who.grid p.who.bidx = some b → b.place = 0 → dieOf b.core = die → s.thread? p.who = some th → th.status = .issuing →
        wsBusy t die (p.acc.ea.toNat % 2 ^ 57 / 2 ^ 16 % 8) = false →
        (let u := { t with pend := [{ p with kind := .held }] }; accFaults u b (!th.priv) p.acc = (u, [])) →
        ∃ u, exec (.wsRefreshWindow die dt) s = .next u ∧ u.mem = s.mem ∧ u.pend = [] ∧ u.thread? p.who =
          some ((th.setReg p.acc.d (BitVec.ofNat 64 ((s.die die).ws.num (p.acc.ea.toNat % 2 ^ 57) n))).setTok p.tok (th.tok p.tok - 1))))

/-- R46, R50, R224, R225, R297, R317: a block with nothing on the way retires; a grid that is over is completed, its counter and its unit
follow; a ready batch is applied; the next ticket whose turn it is is released; a line 2 µs old is sent; a queued record leaves its queue once its
waits are met and no record tested before it leaves. -/
def Obligations.RetireAndDispatchResult : Prop :=
  (∀ (s : State) (grid bidx : Nat) (b : Block), Retires s grid bidx b →
    ∃ u, exec (.blockRetire bidx grid) s =
        .next (dispatchAll (resumeAll (haltEnds (barriersAgain (segReady u grid bidx) grid) grid))) ∧ u.mem = s.mem ∧
      (∀ x ∈ u.blocks, ¬(x.grid = grid ∧ x.bidx = bidx)) ∧ (∀ p ∈ u.pend, ¬(p.who.grid = grid ∧ p.who.bidx = bidx)) ∧
      ∀ g, s.grid? grid = some g → u.grid? grid = some { g with retired := g.retired ++ [bidx] }) ∧
  (∀ (s : State) (grid : Nat) (g : Grid), s.grid? grid = some g →
    (gridOver s g = false → exec (.gridCompletion grid) s = .next s) ∧
    (gridOver s g = true → g.local_ = true → g.l.ord = false → exec (.gridCompletion grid) s = .next (dispatchAll (sendFinishes (unitMember
      (signalDone { s with grids := s.grids.filter fun x => x.handle != grid } g.l.job g.user g.l.compl 0) g.unit g.l.compl)))) ∧
    (gridOver s g = true → g.local_ = false → g.l.ord = false → exec (.gridCompletion grid) s = .next (dispatchAll (sendFinishes
      ((if g.l.span then s else originDecides s grid 0).updGrid grid fun x => { x with decided := true, flushTok := some finishTok }))))) ∧
  (∀ (s : State) (grid k bidx : Nat) (g : Grid), s.grid? grid = some g → readyBatch s g = some (k, bidx) →
    exec (.stagedBatchApply grid) s = .next (goOn (barriersAgain (applyBatch s grid k bidx).1 grid))) ∧
  (∀ (s : State) (die : Nat) (g : Grid) (t : Ticket), s.grids = [g] → g.ordTok = none → gridTicket s g.handle = some (die, t) →
    ticketTurn s t = true → exec (.ordTicketRelease die) s = .next (goOn (barriersAgain (releaseTicket s die t) g.handle))) ∧
  (∀ (s : State) (core line : Nat) (l : WcLine), (s.core core).wc[line]? = some l → s.withdrawn = false →
    (s.now < l.born + 1600 → exec (.wcLineTimeout core line) s = .next s) ∧
    (l.born + 1600 ≤ s.now → ∃ t p, exec (.wcLineTimeout core line) s = .next t ∧ t.mem = s.mem ∧ t.blocks = s.blocks ∧
      t.outPackets = (if linkRoom s (pathOf s) then s.outPackets ++ [p] else s.outPackets) ∧
      (∃ k ∈ t.retained, k.p = p ∧ k.sent = linkRoom s (pathOf s)) ∧ p.typ = 1 ∧ p.dst = l.peer ∧ t.inFlight = s.inFlight ++ [(l.peer, p.seq, l)] ∧
      (t.core core).wc = (s.core core).wc.filter (fun x => x != l))) ∧
  (∀ (s : State) (cls pos : Nat) (x : Sub), (s.queues.getD cls [])[pos]? = some x → recordFirst s cls pos = true →
    exec (.dispatchRecord cls pos) s = .next s) ∧
  (∀ (s : State) (cls pos : Nat) (x : Sub), (s.queues.getD cls [])[pos]? = some x → x.token = 0 → recordFirst s cls pos = false →
    (∀ u, testRecord s x = (u, .not) → exec (.dispatchRecord cls pos) s = .next u) ∧
    (∀ u, testRecord s x = (u, .met) →
      exec (.dispatchRecord cls pos) s = .next (leaveQueue (updQueue u cls pos fun _ => none) x)) ∧
    (∀ u st, testRecord s x = (u, .err st) →
      exec (.dispatchRecord cls pos) s = .next (decideRecord (updQueue u cls pos fun _ => none) x st)))

/-- R305, R308, R339, R343, R345, R417: a core that was told to halts its blocks of the grid; a core 100 µs late is reported once and the
package is quiet from then on; contexts are saved and moved; a COW page in the slice is COPIED and leaves the list; contexts pass to the
slice; a package that is done with its part raises BALCOUNT. -/
def Obligations.PreemptAndSnapshotResult : Prop :=
  (∀ (s : State) (core grid : Nat), exec (.coreHalt core grid) s = .next (carryOn (coreHalt core grid s))) ∧
  (∀ (s : State) (core grid t0 : Nat) (g : Grid) (b : Block), s.grid? grid = some g → g.halting = some t0 → exchOpen s grid = false →
    s.blocks = [b] → b.grid = grid → b.core = core → b.place = 0 → s.writes = [] → (s.core core).wc = [] → s.copies = [] →
    s.table core = [] →
    (coreHalt core grid s).blocks = [{ b with place := 1, threads := b.threads.map shelveThread }] ∧ (coreHalt core grid s).mem = s.mem) ∧
  (∀ (s : State) (core t0 : Nat) (b : Block) (g : Grid), s.quiet = false → b ∈ s.blocks → b.core = core → b.place = 0 → s.grid? b.grid = some g →
    g.halting = some t0 → t0 + 81200 ≤ s.now → exchOpen s b.grid = false →
    exec (.haltTimeout core) s = .next (queueRec { s with quiet := true } (dieOf core)
      { unitRec s 0x0A08 0 (BitVec.ofNat 64 s.pkg) 0 0 with core := core, rung := 4 })) ∧
  (∀ (s : State) (core grid : Nat) (b : Block), s.blocks = [b] → b.grid = grid → b.core = core → b.place = 1 → cutting s (s.jobOf grid) = false →
    let es := heldFor (!shelfTaken s core grid) (s.core core) grid b.bidx (footK (s.launchOf grid))
    carveOver s es = false →
    ∃ u, exec (.contextSaveComplete core grid) s = .next (dispatchAll (resumeAll (haltEnds u grid))) ∧
      u = { s with blocks := u.blocks, cores := u.cores, mem := u.mem, free := u.free } ∧
      u.blocks = [{ b with place := if es.all fun e => e.2.2.2.isSome then 3 else 2 }] ∧
      (u.core core).held = (s.core core).held ++ es ∧ (u.core core).busy = false) ∧
  (∀ (k : Core) (shelf : Bool) (grid bidx n : Nat), 0 < n →
    (shelf = true → shelfK k + n ≤ 256 → heldFor shelf k grid bidx n = [(grid, bidx, n, none)]) ∧
    (shelf = false → heldFor shelf k grid bidx n = [(grid, bidx, n, some (carveFree k n))])) ∧
  (∀ (s : State) (bidx grid n : Nat) (b : Block) (g : Grid), s.block? grid bidx = some b → s.grid? grid = some g → 2 ≤ b.place → g.decided = false →
    (s.core b.core).held.filter (fun h => h.1 == grid && h.2.1 == bidx && h.2.2.2.isNone) = [(grid, bidx, n, none)] →
    let o := carveFree (s.core b.core) n
    o + n ≤ carveRoom s →
    ∃ u, exec (.contextMove bidx grid b.core true) s = .next (dispatchAll u) ∧
      u = { s with blocks := u.blocks, cores := u.cores, mem := u.mem, free := u.free } ∧
      u.block? grid bidx = some { b with place := if b.place = 2 then 3 else b.place } ∧
      (u.core b.core).held = replaceFirst (fun h => h == (grid, bidx, n, none)) (fun _ => (grid, bidx, n, some o)) (s.core b.core).held ∧
      ∀ a, a < carvePa s b.core o ∨ carvePa s b.core o + 1024 * n ≤ a → u.mem.num a 1 = s.mem.num a 1) ∧
  (∀ (s : State) (job page : Nat), exec (.preservationCopy job page) s = .next (carryOn (preservationCopy job page s)) ∧
    ∀ (sn : Snap) (a : Nat) (e : Word) (s1 : State), s.snap = some sn → sn.job = job → sn.phase = 1 → page ∈ sn.pages →
      (jobLeaves s job).find? (fun x => x.1 == page) = some (page, a, e) →
      putPart s 0 (page * 2 ^ 16) (2 ^ 16) ((List.range (pageLen e / 8)).map fun i =>
        (s.mem.read (ptePa e (page * 2 ^ 16) + 8 * i) 8, s.mem.err (ptePa e (page * 2 ^ 16) / 8 + i))) = (s1, true) →
      ∃ u, preservationCopy job page s = wakeAll u ∧ u.mem = (setLeaves s1 job fun p x => if p == page then some (pteSet x 21 20 2) else none).mem ∧
        ∀ y, u.snap = some y → page ∉ y.pages) ∧
  (∀ (s : State) (job core : Nat), exec (.snapshotContextTransfer job core) s = .next (carryOn (snapshotContextTransfer job core s)) ∧
    ∀ sn, s.snap = some sn → sn.job = job → sn.phase = 0 → snapshotContextTransfer job core s = cutStep s) ∧
  (∀ (s : State) (job : Nat) (sn : Snap), s.snap = some sn →
    (sn.job ≠ job ∨ sn.phase ≠ 1 ∨ sn.pages ≠ [] ∨ (∃ c ∈ sn.ctxs, c.moved = false) ∨ balanced s sn = false →
      exec (.snapshotDone job) s = .next s) ∧
    (∀ (pos : Nat) (s2 s3 : State) (loc : Nat), sn.job = job → sn.phase = 1 → sn.pages = [] → sn.ctxs = [] → sn.grids = [] → sn.subs = [] → sn.units = [] →
      sn.log = [] → balanced s sn = true →
      (jobPkgs s job).head? ≠ some s.pkg → (jobPkgs s job).findIdx (fun p => p == s.pkg) = pos →
      sliceTake s sn (sn.parts.flatMap partBytes).length 8 = (s2, some loc) →
      slicePut job sn.epoch ((sn.parts.flatMap partBytes).length + 1) loc (soundGrans (sn.parts.flatMap partBytes)) s2 = (s2, none) →
      slicePut job sn.epoch 3 (sn.partsVa + 16 * pos) (soundGrans (leBytes loc 8 ++ leBytes sn.parts.length 8)) s2 = (s3, none) →
      exec (.snapshotDone job) s =
        .next (raiseBal { s3 with snap := s3.snap.map fun (x : Snap) => { x with phase := 2 } } { sn with phase := 2 })))

/-- R59, R68, R70, R376, R412, R413: a walk caches the leaf entry it finds; a counting window clears its counts; a finished move leaves the
list; a fault record is written at slot HEAD and HEAD rises; a scrub pass is counted and an uncorrectable granule is poisoned. R447, R448,
R451 to R454: power-on ends READY with the record's package number, or stops; power loss keeps the flash; a report answers the nonce; readings
above 40 ps leave the margins; the field records are written with one more write counted. -/
def Obligations.UpkeepAndLifetimeResult : Prop :=
  (∀ (s : State) (die job : Nat) (va : Va) (r a : Nat) (e : Word), (s.die die).tlb.find? (fun t => t.job == job && t.page == va.toNat / 2 ^ 16) = none →
    jobRoot s job = some r → walk s.mem r va.toNat = .ok (a, e) → pteP e = true → s.aliases = [] →
    exec (.pageWalk die job va) s =
      .next (s.updDie die fun d => { d with tlb := d.tlb ++ [{ job := job, page := va.toNat / 2 ^ 16, pte := e }] })) ∧
  (∀ (s : State) (die : Nat),
    (s.now < (s.die die).heatAt + 2 ^ 20 → exec (.heatWindow die) s = .next s) ∧
    ((s.die die).heatAt + 2 ^ 20 ≤ s.now → ∃ t, exec (.heatWindow die) s = .next t ∧ (t.die die).heatAt = s.now ∧
      ∀ h ∈ (t.die die).heat, h.home = 0 ∧ h.wr = 0 ∧ h.reqs = [])) ∧
  (∀ (s : State) (die page : Nat) (m : Move), moveDone s die page false = some m → m.failed = false →
    (directoryOf s m.job (page * 2 ^ 16) = s.pkg ∨ directoryOf s m.job (page * 2 ^ 16) = m.dst) →
    let s1 := { s with moves := s.moves.filter fun x => x != m }
    let s2 := shootHere (setLeaf s1 m.job page fun e => pteSet (pteSet e 63 52 m.dst) 23 22 2) m.job page
    directoryOf s2 m.job (page * 2 ^ 16) = directoryOf s m.job (page * 2 ^ 16) →
    exec (.pageMigrationComplete die page) s = .next (carryOn s2)) ∧
  (∀ (s : State) (die page : Nat) (m : Move), moveDone s die page true = some m → m.failed = false →
    exec (.pageReplicationComplete die page) s = .next (carryOn { s with moves := s.moves.filter fun x => x != m })) ∧
  (∀ (s : State) (die : Nat) (r : FRec) (rest : List FRec), Calm s → (s.die die).holding = r :: rest →
    let q := (s.die die).faultq.toNat
    let base := faultqBase s die
    let e := 2 ^ (bits q 43 40 + 6)
    let head := s.mem.num base 8
    bitOf q 39 = true → populated base = true → 0x10000 ≤ base → head - s.mem.num (base + 8) 8 < e →
    ∃ u r' n, exec (.faultQueueWrite die) s = .next (carryOn (signalDoneAt u die 0 false (u.mem.num (base + 16) 8) 0)) ∧
      (u.die die).holding = rest ∧ u.mem.num base 8 = (head + 1) % 2 ^ 64 ∧ r'.code = r.code ∧ r'.addr = r.addr ∧ r'.pc = r.pc ∧
      u.mem = (s.mem.write (base + 64 * (1 + head % e)) (recBytes s r' n (s.die die).lost)).write base (leBytes (head + 1) 8)) ∧
  (∀ (s : State) (die : Nat), (s.die die).holding = [] ∨ bitOf (s.die die).faultq.toNat 39 = false → exec (.faultQueueWrite die) s = .next s) ∧
  (∀ (s : State) (f : ScrubFindings), f.stack < 8 →
    (f.ce = [] → f.ue = [] → ∃ t, exec (.scrubPass f) s = .next t ∧ t.mem = s.mem ∧ tget 0 t.scrubs f.stack = tget 0 s.scrubs f.stack + 1) ∧
    (∀ pa d, f.ce = [] → f.ue = [(pa, d)] → pa / 2 ^ 36 = f.stack → pa % 8 = 0 → populated pa = true →
      (s.die (homeDie pa)).holding.length < 64 →
      ∃ t, exec (.scrubPass f) s = .next t ∧ t.mem.read pa 8 = leBytes d.toNat 8 ∧ t.mem.err (pa / 8) = 1 ∧ pa / 8 ∈ t.mem.poison)) ∧
  (∀ (s : State) (f : BootFindings), s.pkgId.getLsbD 12 = false →
    (f.fwSigOk = false → exec (.powerOn f) s = .next (bootFail s f 1 1 0)) ∧
    (∀ r, f.fwSigOk = true → chooseSlot s f = some r → recordOk r = true → f.keyOk = true → at_ r 20 8 ≤ f.fwVer → f.d2dOk = true →
      f.stacksOk = true → f.edramOk = true →
      ∃ t, exec (.powerOn f) s = .next t ∧ t.powered = true ∧ t.pkgId = BitVec.ofNat 64 (at_ r 16 2 + 2 ^ 12) ∧ t.blocks = [] ∧ t.words = [] ∧
        t.flash = s.flash ∧ (s.podPkgs ≠ [] → t.withdrawn = true) ∧ t.linkStat = bootLinks r f)) ∧
  (∀ (s : State), ∃ t, exec (.powerLoss false) s = .next t ∧ t.powered = false ∧ t.mem = State.reset.mem ∧ t.blocks = [] ∧ t.flash = s.flash) ∧
  (∀ (s : State), ∃ t, exec (.powerLoss true) s = .next t ∧ t.powered = false ∧ ∀ i, i ≠ (s.field.wcount + 1) % 2 → t.flash[i]? = s.flash[i]?) ∧
  (∀ (s : State), s.attest = none → s.mem.num 0x800 8 = 1 →
    exec .attestationRequest s = .next { s with attest := some (s.mem.read 0x840 48) }) ∧
  (∀ (s : State) (nonce : List Byte), Calm s → s.attest = some nonce →
    ∃ t, exec .attestationReportDone s = .next t ∧ t.attest = none ∧ t.mem.num 0x800 8 = 2) ∧
  (∀ (s : State) (r : Readings), Calm s → (∀ d < 4, 40 ≤ r.slack.getD d 0) →
    ∃ t, exec (.marginMonitor r) s = .next t ∧ t.offsets = s.offsets ∧ t.field = s.field ∧ ∀ d < 4, t.mem.num (8 + 8 * d) 8 = r.slack.getD d 0 % 2 ^ 64) ∧
  (∀ (s : State) (hours : Nat), Calm s → s.field.wcount < 2 ^ 64 - 1 → s.flash.length = 2 →
    ∃ t, exec (.fieldRecordWrite hours) s = .next t ∧ t.field.wcount = s.field.wcount + 1 ∧ t.field.hours = min (2 ^ 64 - 1) hours ∧
      t.field.classes = s.field.classes ∧ t.flash[(s.field.wcount + 1) % 2]? = some (some t.field) ∧
      t.flash[s.field.wcount % 2]? = s.flash[s.field.wcount % 2]?)

namespace Sys2Proof.Rules

/-- The packet a packet happening brings: its TYPE, for FLAG the pennant, for BURGEE and LOG virtual channel 3 (R315, R318, R342, R343). -/
def packetOf : Instr → Option Packet
  | .writePacket p => some { p with typ := 1 }
  | .vwritePacket p => some { p with typ := 2 }
  | .readPacket p => some { p with typ := 3 }
  | .vreadPacket p => some { p with typ := 4 }
  | .dataPacket p => some { p with typ := 5 }
  | .flagPacket p => some { p with typ := 6, pen := true }
  | .ackPacket p => some { p with typ := 7 }
  | .atomPacket p => some { p with typ := 8 }
  | .atomrPacket p => some { p with typ := 9 }
  | .chunkPacket p => some { p with typ := 10 }
  | .swredPacket p => some { p with typ := 11 }
  | .burgeePacket p => some { p with typ := 12, vc := 3 }
  | .logPacket p => some { p with typ := 13, vc := 3 }
  | .reservedPacketType p => some p
  | _ => none

/-- The packet is the next of its stream, of this package, with no other held, in a colour that may be delivered (R318, R341). -/
structure Next (s : State) (p : Packet) : Prop where
  here : p.dst = s.pkg ∧ p.src ≠ s.pkg
  vc   : p.vc < 2 ∨ p.vc = 3
  next : p.seq = tget 0 s.seqIn (8 * p.src + p.vc) % 2 ^ 32
  free : colourHeld s p = false
  only : s.ingress = []
  up   : s.withdrawn = false

end Sys2Proof.Rules

/-- R76, R315, R318, R341, R342, R433: a packet is delivered in the order of its stream, a duplicate is answered again; a delivered request
joins the requests, an answer goes to its request, a BURGEE's count is kept, a reserved packet is dropped with an answer that says so; a
WRITE of a whole granule puts it into memory and is acknowledged, a READ is answered with the granule; an acknowledged store is no longer
outstanding; a packet unanswered for 100 µs is sent again; a request is kept until it is answered, and waits to be sent while its die's
link controller holds 16,384 that are not. -/
def Obligations.PacketResult : Prop :=
  (∀ (s : State) (i : Instr) (p : Packet), packetOf i = some p → exec i s = .next (recvPacket s p)) ∧
  (∀ (s : State) (p : Packet), Next s p → recvPacket s p =
    carryOn (deliver { s with ingress := [p], linkHeard := tset s.linkHeard p.path s.now } p)) ∧
  (∀ (s : State) (p a : Packet), p.dst = s.pkg → p.src ≠ s.pkg → p.vc = 0 → s.withdrawn = false →
    2 ^ 31 ≤ (p.seq + 2 ^ 32 - tget 0 s.seqIn (8 * p.src) % 2 ^ 32) % 2 ^ 32 →
    s.answers.find? (fun x => x.1 == p.src && x.2.1 == p.seq && p.vc == 0) = some (p.src, p.seq, a) →
    recvPacket s p = { s with outPackets := s.outPackets ++ [a] }) ∧
  (∀ (s : State) (p : Packet), p.typ ∈ [1, 2, 3, 4, 6, 8, 10, 11, 13] → p.ctlResvd = 0 → p.src ≠ s.pkg →
    (deliver s p).inbox = s.inbox ++ [p] ∧ (deliver s p).mem = s.mem ∧
    tget 0 (deliver s p).seqIn (8 * p.src + p.vc) = tget 0 s.seqIn (8 * p.src + p.vc) + 1) ∧
  (∀ (s : State) (p : Packet), (p.typ = 0 ∨ 14 ≤ p.typ ∨ p.ctlResvd ≠ 0) → s.withdrawn = false →
    ∃ a, (deliver s p).outPackets = s.outPackets ++ [a] ∧ a.typ = 7 ∧ a.dst = p.src ∧ bitOf (tfield a 5 1) 0 = true) ∧
  (∀ (s : State) (p : Packet) (sn : Snap), p.typ = 12 → p.vc = 3 → p.ctlResvd = 0 → p.src ≠ s.pkg → s.snap = some sn → sn.job = p.job →
    sn.epoch % 2 ^ 32 = tfield p 0 4 →
    (deliver s p).snap = some { sn with bal := sn.bal ++ [(p.src, tfield p 4 8)] } ∧ (deliver s p).inbox = s.inbox) ∧
  (∀ (s u : State) (p : Packet) (va pa : Nat) (e : Word), p.typ = 1 → tfield p 31 1 = 0 → p.n = 1 → p.masks = [0xFF] → pa % 8 = 0 →
    p.seals = [seal8 (leBytes (p.data.getD 0 0).toNat 8) (va / 8 * 8)] → reqLocs s p = (u, [(0, va, .here pa e, false)]) →
    Plain u p.job va pa 8 → wEn u.placeWeights = false → u.withdrawn = false →
    ∃ t a, performReq s p = some t ∧ t.mem = u.mem.writeGranule (pa / 8) (leBytes (p.data.getD 0 0).toNat 8) 0 ∧
      t.outPackets = u.outPackets ++ [a] ∧ a.typ = 7 ∧ a.dst = p.src ∧ tfield a 5 1 = 0) ∧
  (∀ (s u : State) (p : Packet) (va pa : Nat) (e : Word), p.typ = 3 → reqLocs s p = (u, [(0, va, .here pa e, false)]) →
    wEn u.placeWeights = false → u.withdrawn = false →
    ∃ t a, performReq s p = some t ∧ t.mem = u.mem ∧ t.outPackets = u.outPackets ++ [a] ∧ a.typ = 5 ∧ a.dst = p.src ∧
      a.data = [BitVec.ofNat 64 (leNat (u.mem.read (pa / 8 * 8) 8))]) ∧
  (∀ (s : State) (a : Packet) (k : Kept), keptFor s a = some k → k.p.host = false → s.fwds = [] → a.typ = 7 → tfield a 5 1 = 0 →
    tfield a 31 1 = 0 → s.pend = [] → s.engAsks = [] → s.shoots = [] →
    (∀ g ∈ s.grids, g.flushSent = none) → (∀ d, (s.die d).tickets = []) →
    (recvAnswer s a).mem = s.mem ∧ (recvAnswer s a).retained = (sendWaiting { s with retained := s.retained.filter fun x => x != k }).retained ∧
      ((∃ f ∈ s.inFlight, f.1 = k.p.dst ∧ f.2.1 = k.p.seq) →
        (recvAnswer s a).inFlight = s.inFlight.filter fun g => !(g.1 == k.p.dst && g.2.1 == k.p.seq))) ∧
  (∀ (s : State) (idx : Nat) (k : Kept), s.retained[idx]? = some k →
    (s.now < k.at_ + 80000 ∨ k.sent = false → exec (.ackTimeoutResend idx) s = .next s) ∧
    (k.at_ + 80000 ≤ s.now → k.sent = true → s.withdrawn = false → ∃ t, exec (.ackTimeoutResend idx) s = .next t ∧ t.outPackets = s.outPackets ++ [k.p] ∧
      t.blocks = s.blocks ∧ t.pend = s.pend)) ∧
  (∀ (s : State) (p : Packet), p.vc = 0 → s.withdrawn = false →
    ∃ q, (sendPacket s p).2 = q ∧ (sendPacket s p).1.retained = s.retained ++
        [{ p := q, link := pathOf s, at_ := s.now, sent := linkRoom s (pathOf s) }] ∧
      (sendPacket s p).1.outPackets = if linkRoom s (pathOf s) then s.outPackets ++ [q] else s.outPackets) ∧
  (∀ (s : State) (k : Kept), (s.retained.filter fun x => !x.sent) = [k] → s.withdrawn = false →
    (linkRoom s k.p.path = false → sendWaiting s = s) ∧
    (linkRoom s k.p.path = true → (sendWaiting s).outPackets = s.outPackets ++ [{ k.p with col := s.colour, lvl := freeLevel s s.ringOf }] ∧
      (sendWaiting s).mem = s.mem))

/-- R313, R331, R417, R419, R420, R422, R427 to R431, R448: a heartbeat names the highest SEQ and may open a gap; a link without a flit for
a microsecond sends one; a link is SILENT after 5 µs, UP or in the end DEAD by its training, and trains again when told; a death notice is sent on once, and a package all of whose links are
dead is LOST by an event; a gap asks the leaf switch after 2 µs, the leaf group after 100 µs, and ends in withdrawal after 1 ms; events, images
and notes that are asked for are sent; the host's requests are events where it is granted the job; a pod forms with an empty replica. -/
def Obligations.LinkAndManagementResult : Prop :=
  (∀ (s : State) (link seq : Nat), s.rejoin = none → s.gap = none →
    (s.withdrawn = true → exec (.heartbeat link seq) s = .next { s with linkHeard := tset s.linkHeard link s.now }) ∧
    (s.withdrawn = false → seq ≤ s.podSeq → s.evKnown ≤ s.podSeq → exec (.heartbeat link seq) s =
      .next { s with linkHeard := tset s.linkHeard link s.now, evKnown := max s.evKnown seq }) ∧
    (s.withdrawn = false → s.podSeq < seq → s.evBuf = [] → exec (.heartbeat link seq) s =
      .next { s with linkHeard := tset s.linkHeard link s.now, evKnown := max s.evKnown seq, gap := some (s.now, 0) })) ∧
  (∀ (s : State) (link : Nat), link < 16 → linkState s link = 2 → tget 0 s.linkSent link + 800 ≤ s.now →
    exec (.heartbeatTick link) s = .next { s with
      linkSent := tset s.linkSent link s.now
      outMgmt := s.outMgmt ++ [{ mtype := 1, origin := s.pkg, link := link, a := BitVec.ofNat 64 (knownSeq s), b := 0, data := [] }] }) ∧
  (∀ (s : State) (pkg link : Nat), link < 16 → (pkg, link) ∉ s.deaths →
    (pkg = s.pkg → s.retained = [] → ∃ t, exec (.death pkg link) s = .next t ∧ linkState t link = 4 ∧ (pkg, link) ∈ t.deaths ∧ t.mem = s.mem) ∧
    (pkg ≠ s.pkg → (∃ j < 16, j ≠ link ∧ (pkg, j) ∉ s.deaths) → exec (.death pkg link) s = .next { s with
      deaths := s.deaths ++ [(pkg, link)]
      outMgmt := s.outMgmt ++ [{ mtype := 2, origin := s.pkg, link := link, a := BitVec.ofNat 64 (pkg + link * 2 ^ 16), b := 0, data := [] }] }) ∧
    (pkg ≠ s.pkg → s.withdrawn = false → (∀ j < 16, j ≠ link → (pkg, j) ∈ s.deaths) → ∃ t, exec (.death pkg link) s = .next t ∧
      Event.loss { seq := 0, origin := s.pkg, job := 0 } pkg 1 ∈ t.outEvents)) ∧
  (∀ (s : State) (link : Nat), link < 16 → linkState s link = 2 → tget 0 s.linkHeard link + 4000 ≤ s.now → s.retained = [] →
    ∃ t, exec (.linkSilent link) s = .next t ∧ linkState t link = 3 ∧ tget 0 t.linkFails link = 0) ∧
  (∀ (s : State) (link : Nat), link < 16 → (linkState s link = 3 ∨ linkState s link = 1) → s.retained = [] →
    (∃ t, exec (.linkTrainingAttempt link true) s = .next t ∧ linkState t link = 2) ∧
    (tget 0 s.linkFails link < 2 → ∃ t, exec (.linkTrainingAttempt link false) s = .next t ∧ linkState t link = linkState s link ∧
      tget 0 t.linkFails link = tget 0 s.linkFails link + 1) ∧
    (2 ≤ tget 0 s.linkFails link → ∃ t, exec (.linkTrainingAttempt link false) s = .next t ∧ linkState t link = 4)) ∧
  (∀ (s : State) (link : Nat), link < 16 → linkState s link = 4 →
    ∃ t, exec (.managementLinkRetrain link) s = .next t ∧ linkState t link = 1 ∧ (s.pkg, link) ∉ t.deaths ∧ t.mem = s.mem) ∧
  (∀ (s : State) (t0 : Nat), s.gap = some (t0, 0) →
    (t0 + 1600 ≤ s.now → exec .gapLeafRetx s = .next (askRun { s with gap := some (t0, 1) } none)) ∧
    (t0 + 80000 ≤ s.now → exec .gapGroupRetx s =
      .next ((leafGroup s).foldl (fun s p => askRun s (some p)) { s with gap := some (t0, 2) })) ∧
    (t0 + 800000 ≤ s.now → s.withdrawn = false → ∃ t, exec .gapTimeout s = .next t ∧ t.withdrawn = true ∧ t.blocks = [] ∧ t.pend = [] ∧ t.gap = none)) ∧
  (∀ (s : State) (origin first count target : Nat),
    (target = s.pkg → exec (.hretx origin first count target) s = .next { s with
      outRetx := s.outRetx ++ ((s.evTail.filter fun e => first ≤ e.seq && e.seq < first + count).reverse.map fun e => (origin, e)) }) ∧
    (target ≠ s.pkg → ∃ f, exec (.hretx origin first count target) s = .next { s with outMgmt := s.outMgmt ++ [f] } ∧ f.mtype = 3 ∧
      f.origin = origin ∧ f.a = BitVec.ofNat 64 first)) ∧
  (∀ (s : State), exec .halyardFailover s = .next s) ∧
  (∀ (s : State), (s.withdrawn = false → s.pkg ∉ s.fenced → exec .managementReset s = .next s) ∧
    (s.withdrawn = true ∨ s.pkg ∈ s.fenced → ∃ t, exec .managementReset s = .next t ∧ t.withdrawn = true ∧ t.blocks = [] ∧ t.grids = [] ∧
      t.queues = [[], [], [], []] ∧ t.mem = s.mem ∧ t.words = s.words ∧ t.rejoin.isSome = true)) ∧
  (∀ (s : State) (origin f target : Nat),
    (target ≠ s.pkg → ∃ m, exec (.ireq origin f target) s = .next { s with outMgmt := s.outMgmt ++ [m] } ∧ m.mtype = 4 ∧ m.origin = origin) ∧
    (target = s.pkg → s.withdrawn = true → exec (.ireq origin f target) s = .next s) ∧
    (target = s.pkg → s.withdrawn = false → f ≤ s.podSeq + 1 → exec (.ireq origin f target) s = .next { s with
      outMgmt := s.outMgmt ++ ((List.range imageChunks).map fun c => imageFlit s origin s.podSeq c ((List.range 6).map fun i => s.word (6 * c + i)))
        ++ [imageFlit s origin s.podSeq imageChunks [podDigest s seed0, podDigest s seed1, 0, 0, 0, 0]] })) ∧
  (∀ (s : State) (origin k chunk target : Nat) (data : List (BitVec 64)),
    (target ≠ s.pkg → ∃ m, exec (.image origin k chunk target data) s = .next { s with outMgmt := s.outMgmt ++ [m] } ∧ m.mtype = 5 ∧ m.data = data) ∧
    (∀ r : Rejoin, target = s.pkg → s.rejoin = some r → r.phase = 0 → r.asked = some origin → r.chunks.length < imageChunks →
      exec (.image origin k chunk target data) s = .next { s with
        rejoin := some { r with k := k, chunks := r.chunks.filter (fun c => c.1 != chunk) ++ [(chunk, data)] } })) ∧
  (∀ (s : State) (m : Mgmt),
    (m.mtype = 0 ∨ 8 ≤ m.mtype → exec (.note m) s = .next (linkRec s 0x0B04 m.link m.origin m.mtype)) ∧
    (0 < m.mtype → m.mtype < 8 → ∃ l, exec (.note m) s = .next { s with outMgmt := s.outMgmt ++ [{ m with link := l }] })) ∧
  (∀ (s : State) (pkgs : List Nat), s.pkgId.getLsbD 12 = true → s.pkg ∈ pkgs → s.pkg < 4096 → (s.podPkgs = [] ∨ s.hold = true ∨ s.withdrawn = true) →
    ∃ t, exec (.podFormation pkgs) s = .next t ∧ t.podSeq = 0 ∧ t.words = [] ∧ t.blocks = [] ∧ t.fenced = [] ∧ t.lost = [] ∧ t.hold = false ∧
      t.withdrawn = false ∧ t.mem = s.mem ∧ ∀ p, p ∈ t.podPkgs ↔ p ∈ pkgs ∧ p < 4096) ∧
  (∀ (s : State) (job kind : Nat) (va : Va) (lv : Level) (close : Bool),
    (hostGranted s job = false → exec (.hostControlRequest job kind va lv close) s = .next (linkRec s 0x0B05 (at_ s.config 19 1 % 16) s.pkg 0)) ∧
    (hostGranted s job = true → kind = 0 → exec (.hostControlRequest job kind va lv close) s = .next { s with
      outEvents := s.outEvents ++ [.cancel { seq := 0, origin := s.pkg, job := job } va lv] }) ∧
    (hostGranted s job = true → kind ≠ 0 → exec (.hostControlRequest job kind va lv close) s = .next { s with
      outEvents := s.outEvents ++ [.job { seq := 0, origin := s.pkg, job := job } va close] }))

namespace Sys2Proof.Rules

/-- The event an event happening brings (R288). -/
def eventOf : Instr → Option Event
  | .submitEvent h va c f => some (.submit h va c f)
  | .admitEvent h g => some (.admission h g)
  | .finishEvent h g p => some (.finish h g p)
  | .blockEvent h g => some (.block h g)
  | .unblockEvent h g => some (.unblock h g)
  | .cancelEvent h va lv => some (.cancel h va lv)
  | .faultEvent h c g k r a b q => some (.fault h c g k r a b q)
  | .lossEvent h p r => some (.loss h p r)
  | .joinEvent h p l h0 h1 => some (.join h p l h0 h1)
  | .fenceEvent h p r c => some (.fence h p r c)
  | .digestEvent h c h0 h1 => some (.digest h c h0 h1)
  | .rebalanceEvent h g k n sp dp c r sl => some (.rebalance h g k n sp dp c r sl)
  | .snapcommitEvent h e c m k => some (.snapcommit h e c m k)
  | .snapopenEvent h va e => some (.snapopen h va e)
  | .ticketEvent h => some (.ticket h)
  | .jobEvent h va c => some (.job h va c)
  | .preemptcfgEvent h p en => some (.preemptcfg h p en)
  | .reservedEventType h t => some (.reserved h t)
  | _ => none

end Sys2Proof.Rules

/-- R287, R288, R294, R419, R427: an event waits for those before it, a duplicate is discarded, the next one is applied; in a hold only
the events of R427 act. -/
def Obligations.EventReceipt : Prop :=
  (∀ (s : State) (i : Instr) (e : Event), eventOf i = some e → exec i s = .next (recvEvent s e)) ∧
  (∀ (s : State) (e : Event), s.rejoin = none →
    (s.withdrawn = true → recvEvent s e = s) ∧
    (s.withdrawn = false → e.seq ≤ s.podSeq → recvEvent s e = { s with evKnown := max s.evKnown e.seq }) ∧
    (s.withdrawn = false → s.podSeq + 1 < e.seq → s.evBuf = [] → s.gap = none →
      recvEvent s e = { s with evKnown := max s.evKnown e.seq, evBuf := [e], gap := some (s.now, 0) }) ∧
    (s.withdrawn = false → e.seq = s.podSeq + 1 → s.evBuf = [] → mayApply s = true →
      let u := applyEvent { s with evKnown := max s.evKnown e.seq, evBuf := [e] } e
      u.evBuf = [] → u.rejoin = none → u.podSeq = e.seq →
      recvEvent s e = if u.withdrawn then noteGap s.podSeq u else carryOn (noteGap s.podSeq u))) ∧
  (∀ (s : State) (e : Event), s.hold = true → e.inHold = false → e.seq % 64 ≠ 0 → s.hook = none → s.withdrawn = false → s.tailFor = [] →
    applyEvent s e = releaseHeld (enact { s with
      podSeq := e.seq, evTail := (e :: s.evTail).take 65536, evBuf := s.evBuf.filter fun x => x.seq != e.seq }))

/-- R289, R291 to R293, R295, R296, R304, R337, R346, R423, R424, R429, R436: what an event does. SUBMIT takes the lowest free row and
the ring's tail; ADMIT places the grid on free cores of packages it may take; FINISH frees its package's rows; BLOCK and UNBLOCK set and clear the
grid's bit; CANCEL decides the units; FAULT marks the grid; FENCE and LOSS act by a majority of the live packages; JOIN brings a package back; a digest waits
for a majority; SNAPOPEN and SNAPCOMMIT move the epoch; JOB opens and closes a row; PREEMPTCFG writes the package's bit; a TICKET of another
package changes nothing; a reserved type is recorded. -/
def Obligations.EventEffects : Prop :=
  (∀ (s : State) (h : EvHdr) (va : Va) (c g : Nat) (f : Byte),
    let cls := f.toNat / 8 % 4
    h.origin ≠ s.pkg → ringTail s cls - ringHead s cls < 16384 → g < 65536 → rowState s g = 0 → (∀ x < g, rowState s x ≠ 0) →
    ∃ t p, effect s (.submit h va c f) = t ∧ t.mem = s.mem ∧
      t.word (0x10000 + 2 * g) = BitVec.ofNat 64 (va.toNat / 64 + cls * 2 ^ 51 + 2 ^ 53) ∧ t.word (0x10001 + 2 * g) = 0 ∧
      t.word (ringWord cls (ringTail s cls)) = BitVec.ofNat 64 g ∧ t.word (0x54001 + 2 * cls) = BitVec.ofNat 64 (ringTail s cls + 1) ∧
      t.podGrids = s.podGrids ++ [p] ∧ p.handle = g ∧ p.origin = h.origin ∧ p.va = va.toNat ∧ p.job = h.job ∧ p.c = c ∧ p.admission = none) ∧
  (∀ (s : State) (seq : Nat) (g : PodGrid) (cs : List (Nat × Nat)),
    placeCores s (mayTake s g) (bitOf g.flags 4) (max 1 g.c) = some cs → placeGrid s seq g = enactPlace s g.handle cs) ∧
  (∀ (s : State) (pkgs : List Nat) (whole : Bool) (c : Nat) (cs : List (Nat × Nat)), placeCores s pkgs whole c = some cs →
    cs.length = c ∧ ∀ x ∈ cs, coreFree s x.1 x.2 = true ∧ x.1 ∈ pkgs) ∧
  (∀ (s : State) (h : EvHdr) (g : Nat) (p : PodGrid), s.pod? g = some p → p.admission = none → rowState s g = 1 →
    let u := placeGrid (updPod (setWord s (0x10001 + 2 * g) (pteSet (s.word (0x10001 + 2 * g)) 63 28 (h.seq % 2 ^ 36))) g
      fun _ => { p with admission := some h.seq }) h.seq { p with admission := some h.seq }
    effect s (.admission h g) = if rowState u g = 1 then ringFirst u (gridCls u g) g else u) ∧
  (∀ (s : State) (g : PodGrid), bitOf g.flags 1 = true →
    (mayTake s g).Pairwise (· < ·) ∧ ∀ p, p ∈ mayTake s g ↔ p ∈ jobPkgs s g.job) ∧
  (∀ (s : State) (h : EvHdr) (g pkg : Nat) (p : PodGrid), s.pod? g = some p → effect s (.finish h g pkg) =
    considerWaiting (finishIfOver (updPod (countPkgs (setRows s g 0 fun w => rowPkg w == pkg) g) g fun p => { p with done := markSet p.done pkg true }) g) h.seq) ∧
  (∀ (s : State) (h : EvHdr) (g : Nat),
    (rowState s g = 0 ∨ rowState s g = 3 ∨ (∃ x ∈ rowsOf s g, preemptOn s (rowPkg x.2) = false) → effect s (.block h g) = s) ∧
    (rowState s g ≠ 0 → rowState s g ≠ 3 → (∀ x ∈ rowsOf s g, preemptOn s (rowPkg x.2) = true) →
      gridBlocked (effect s (.block h g)) g = true ∧ rowState (effect s (.block h g)) g = if rowState s g = 2 then 3 else rowState s g) ∧
    (gridBlocked s g = false → effect s (.unblock h g) = s) ∧
    (gridBlocked s g = true → effect s (.unblock h g) = considerWaiting (setBlocked s g false) h.seq)) ∧
  (∀ (s : State) (h : EvHdr) (va : Va) (lv : Level), h.origin ≠ s.pkg →
    effect s (.cancel h va lv) = considerWaiting (cancelUnits s h.job va.toNat lv) h.seq) ∧
  (∀ (s : State) (h : EvHdr) (code g core rung bidx seq : Nat) (addr : Word), ∀ p ∈ (effect s (.fault h code g core rung addr bidx seq)).podGrids,
    p.handle = g → p.fault = true) ∧
  (∀ (s : State) (h : EvHdr) (p reason ckpt : Nat), p ∉ s.fenced → (p, h.origin) ∉ s.fenceVotes →
    let s1 := { s with fenceVotes := s.fenceVotes ++ [(p, h.origin)] }
    (2 * voters s s1.fenceVotes p ≤ (livePkgs s).length → effect s (.fence h p reason ckpt) = s1) ∧
    ((livePkgs s).length < 2 * voters s s1.fenceVotes p → p ∈ (effect s (.fence h p reason ckpt)).fenced)) ∧
  (∀ (s : State) (h : EvHdr) (p reason : Nat), p ∉ s.lost → (p, h.origin) ∉ s.lossVotes →
    let s1 := { s with lossVotes := s.lossVotes ++ [(p, h.origin)] }
    effect s (.loss h p reason) = if (livePkgs s).length < 2 * voters s s1.lossVotes p then lossNow s1 h.seq p else s1) ∧
  (∀ (s : State) (h : EvHdr) (p last : Nat) (h0 h1 : Word),
    (p ∉ s.fenced → effect s (.join h p last h0 h1) = s) ∧
    (p ∈ s.fenced → p + 4096 ∉ s.fenceSent → last < h.seq → p ∉ (effect s (.join h p last h0 h1)).fenced ∧
      p ∉ (effect s (.join h p last h0 h1)).lost ∧ (p = s.pkg → (effect s (.join h p last h0 h1)).withdrawn = false))) ∧
  (∀ (s : State) (h : EvHdr) (c : Nat) (h0 h1 : Word), h.origin ∈ s.fenced ∨ (∃ d ∈ s.digests, d.1 = c ∧ d.2.1 = h.origin) →
    effect s (.digest h c h0 h1) = s) ∧
  (∀ (s : State) (h : EvHdr) (c : Nat) (h0 h1 : Word), h.origin ∉ s.fenced → s.digests = [] → s.majority = [] → 2 ≤ (livePkgs s).length →
    (∃ p ∈ livePkgs s, p ≠ h.origin) → effect s (.digest h c h0 h1) = { s with digests := [(c, h.origin, h0, h1)] }) ∧
  (∀ (s : State) (h : EvHdr) (g kind gen sp dp n r sl : Nat), kind ≠ 2 → effect s (.rebalance h g kind gen sp dp n r sl) = s) ∧
  (∀ (s : State) (h : EvHdr) (e cut : Nat) (m : Va), s.snap = none → s.pend = [] → s.snapWait = [] → (s.jobWord h.job 3).toNat / 4 % 4 = 1 →
    (s.jobWord h.job 3).toNat / 2 ^ 16 = e →
    effect s (.snapcommit h e cut m 0) = setWord s (0x50003 + 4 * h.job) (mkSnap e 0) ∧
    (effect s (.snapcommit h e cut m 2)).jobWord h.job 3 = mkSnap e 2) ∧
  (∀ (s : State) (h : EvHdr) (va : Va) (e : Nat), h.origin ≠ s.pkg → s.snapWait = [] →
    (s.jobWord h.job 0 = 0 ∨ (s.jobWord h.job 3).toNat / 4 % 4 = 1 → effect s (.snapopen h va e) = s) ∧
    (s.jobWord h.job 0 ≠ 0 → (s.jobWord h.job 3).toNat / 4 % 4 ≠ 1 → snapBusy s h.job = false → s.pkg ∉ jobPkgs s h.job →
      (effect s (.snapopen h va e)).jobWord h.job 3 = mkSnap ((s.jobWord h.job 3).toNat / 2 ^ 16 + 1) 1)) ∧
  (∀ (s : State) (h : EvHdr), h.origin ≠ s.pkg → effect s (.ticket h) = s) ∧
  (∀ (s : State) (h : EvHdr) (va : Va) (pa : Nat), h.origin ≠ s.pkg → 0 < h.job → h.job < 4096 →
    (s.jobWord h.job 0 = 0 → hwPaRoot s s.job0Root va.toNat = some pa →
      let t := effect s (.job h va false)
      t.jobWord h.job 0 = va.zeroExtend 64 ∧ t.jobWord h.job 1 = BitVec.ofNat 64 (s.mem.num (pa + 24) 8) ∧ t.jobWord h.job 2 = 0 ∧
        t.jobWord h.job 3 = 0 ∧ t.mem = s.mem) ∧
    (s.jobWord h.job 0 ≠ 0 → (∀ p ∈ s.podGrids, p.job ≠ h.job) → ∀ w < 4, (effect s (.job h va true)).jobWord h.job w = 0)) ∧
  (∀ (s : State) (h : EvHdr) (pkg : Nat) (en : Bool), s.podGrids = [] → preemptOn (effect s (.preemptcfg h pkg en)) pkg = en ∧
    (pkg = s.pkg → (effect s (.preemptcfg h pkg en)).preemptCtl.getLsbD 0 = en)) ∧
  (∀ (s : State) (h : EvHdr) (typ : Nat), effect s (.reserved h typ) = schedRec s 0x0A02 2 h.origin 0 0 0)

/- Encodings, steps and whole-machine rules. -/

namespace Sys2Proof.Rules

/-- The instructions that user mode may not issue, and the cause of each (R387). -/
def userCause : Instr → Option Nat
  | .eret | .mts _ _ | .halt | .replay _ _ | .shoot _ _ | .preempt _ _ | .rollback _ | .ldraw _ _ _ | .jobctl _ _ => some 0x0201
  | .mfs _ r => if 0x100 ≤ r.toNat then none else some 0x0202
  | _ => none

end Sys2Proof.Rules

/-- Words the manual writes out, and words written from its encoding tables, decode to the instruction they stand for (R130 to R136, R143 to
R157, R167, R185, R379). -/
def Obligations.DecodeWords : Prop :=
  decode [0x08304233#32] = .ok (.adds .w 3 1 2 1, 1) ∧
  decode [0x20304200#32] = .ok (.fadd .s 3 1 2 0, 1) ∧
  decode [0x1E10420E#32] = .ok (.cmp .w .ltu 1 1 2, 1) ∧
  decode [0x3820000C#32] = .ok (.ldiS 2 12, 1) ∧
  decode [0x88008000#32] = .ok (.mft 1 0, 1) ∧
  decode [0x88600000#32, 6] = .ok (.mpush 6, 2) ∧
  decode [0x82400004#32] = .ok (.bra 9 4, 1) ∧
  decode [0x81C00002#32] = .ok (.bra 7 2, 1) ∧
  decode [0xF8C00600#32] = .ok (.replay 3 false, 1) ∧
  decode [0xF8C00601#32] = .ok (.replay 3 true, 1) ∧
  decode [0x6C000002#32] = .ok (.bar 2, 1) ∧
  decode [0xF8000005#32] = .ok (.trap 5, 1) ∧
  decode [0x00000000#32] = .error .illegalMajor ∧
  decode [0xFFFFFFFF#32] = .error .illegalMajor ∧
  decode [] = .error .wordMissing

/-- R130 to R136, R143 to R157: for every instruction the encoding admits, whatever follows it, decoding its words gives it back with every
operand, and as many words as it has. -/
def Obligations.DecodeEncode : Prop :=
  ∀ (i : Instr) (rest : List Word32), i.wellFormed = true → i.isInstruction = true →
    decode (encode i ++ rest) = .ok (i, (encode i).length)

/-- R141, R302, R384: a step of a package with power runs the instruction that the words at the issuing group's place in its clause
decode to; with no group issuing it takes the next happening, or the issue cycle of the partition whose turn it is. The words of a clause are
read from memory at its header, little-endian. -/
def Obligations.StepRunsDecoded : Prop :=
  (∀ (s : State) (b : Block) (g : Group) (i : Instr) (n : Nat), s.powered = true → s.cur? = some (b, g) →
    decode (g.words.drop (g.idx - 1)) = .ok (i, n) → step s = exec i s) ∧
  (∀ (s : State) (nbits w : Nat) (i : Instr) (n : Nat), decode (rowWords nbits w) = .ok (i, n) →
    step (s.withFetchWord nbits w) = exec i (s.withFetchWord nbits w)) ∧
  (∀ (s : State) (i : Instr) (r : List Instr), s.powered = true → s.issuing = none → s.agenda = i :: r → i.isInstruction = false →
    step s = exec i { s with agenda := r }) ∧
  (∀ (s : State), s.powered = true → s.issuing = none → s.agenda = [] →
    step s = exec (.issueCycle (s.turn / 4 % 832) (s.turn % 4) (if s.turn % 3328 = 0 then 1 else 0)) { s with turn := (s.turn + 1) % 3328 }) ∧
  (∀ (s t : State) (b : Block) (va pa : Nat) (user : Bool) (e : Word), va / 2 ^ 48 % 2 ^ 9 ≠ 0x0FF →
    translateCode s (dieOf b.core) (s.jobOf b.grid) b.extents va user = (t, .here pa e) → t.mem.badAt pa 4 = none →
    fetchWord s b va user = (t, some (.ok (BitVec.ofNat 32 (leNat (t.mem.read pa 4))))))

/-- No instruction and no happening stops the package: a step of a package with power always answers a next state, and each meaning
does; without power, every step but POWER_ON is the fault noPower (R447, the model's choice of log 2). -/
def Obligations.EveryStepAnswers : Prop :=
  (∀ (i : Instr) (s : State), ∃ t, exec i s = .next t) ∧
  (∀ s : State, s.powered = true → ∃ t, step s = .next t) ∧
  (∀ s : State, s.powered = false → (∀ f r, s.agenda ≠ .powerOn f :: r) → step s = .fault .noPower)

/-- Every step keeps memory in its canonical form: addresses rising, no byte listed that equals what an unlisted one reads as, the error
syndromes and the poisoned granules likewise (the model's form, log 2). -/
def Obligations.StepKeepsMemoryCanonical : Prop :=
  ∀ s t : State, s.mem.wf = true → step s = .next t → t.mem.wf = true

/-- The state after reset: memory canonical with nothing listed, and the reset values the manual gives: PKG_ID 0 (R15), PLACE_WEIGHTS
(R69), POD_SEQ 0 (R290), PREEMPT_CTL with EN and CMIB 0 (R304), LINK_STAT 0 (R313). -/
def Obligations.ResetState : Prop :=
  State.reset.mem.wf = true ∧ State.reset.mem.cells = [] ∧ State.reset.pkgId = 0 ∧ State.reset.podSeq = 0 ∧ State.reset.linkStat = 0 ∧
  State.reset.placeWeights.toNat = 4 * 2 ^ 56 + 4 * 2 ^ 48 + 1 * 2 ^ 40 + 4 * 2 ^ 36 + 0x100 * 2 ^ 16 ∧
  State.reset.preemptCtl.getLsbD 0 = false ∧ State.reset.preemptCtl.toNat / 2 ^ 8 % 2 ^ 8 = 0 ∧ State.reset.blocks = [] ∧
  State.reset.grids = []

/-- R199: SHFL's encoding, LANE (major 0x0F) fn 1; each active lane l takes e = vb[5:0] of lane l and writes vd ← va of lane e where e < 32
and lane e is active, and 0 otherwise. -/
def Obligations.ShuffleRule : Prop :=
  (∀ (d a c : Reg) (rest : List Word32),
    decode (BitVec.ofNat 32 (0x0F * 2 ^ 26 + d.toNat * 2 ^ 20 + a.toNat * 2 ^ 14 + c.toNat * 2 ^ 8 + 1) :: rest) = .ok (.shfl d a c, 1)) ∧
  (∀ (s : State) (b : Block) (g : Group) (d a c : Reg), Issuing s b g (.shfl d a c) →
    ∃ t, exec (.shfl d a c) s = .next t ∧ LanesDid s t b g fun m th th' =>
      let e := (th.reg c).toNat % 64
      SetsReg d (if e < 32 then ((laneThread b g e).map fun x => x.reg a).getD 0 else 0) th th')

/-- R15: CORE_ID, DIE_ID and PKG_ID hold what their layouts say, PKG_ID 0 at reset and VALID with the package's number once the configuration
record has set it; MFS reads them, in user mode it is the fault 0x0202; an MTS of one of
them is ignored. -/
def Obligations.IdentityRegisters : Prop :=
  (∀ (s : State) (die cluster pos : Nat), die < 4 → cluster < 52 → pos < 4 →
    let core := 208 * die + 4 * cluster + pos
    (sysReg s core 0).toNat = die * 2 ^ 22 + cluster * 2 ^ 16 + pos * 2 ^ 14 + core ∧
    (sysReg s core 1).toNat = (if die = 0 then 4 else 0) + die ∧ sysReg s core 2 = s.pkgId) ∧
  State.reset.pkgId = 0 ∧
  (∀ (s : State) (f : BootFindings) (r : List Byte), s.pkgId.getLsbD 12 = false → f.fwSigOk = true → chooseSlot s f = some r → recordOk r = true →
    f.keyOk = true → at_ r 20 8 ≤ f.fwVer → f.d2dOk = true → f.stacksOk = true → f.edramOk = true →
    ∃ t n, exec (.powerOn f) s = .next t ∧ n < 4096 ∧ ∀ core, (sysReg t core 2).toNat = n + 2 ^ 12) ∧
  (∀ (s : State) (b : Block) (g : Group) (d : Reg) (r : BitVec 9), r.toNat < 3 → Issuing s b g (.mfs d r) →
    ∃ t, exec (.mfs d r) s = .next t ∧ LanesDid s t b g fun _ x x' => SetsReg d (sysReg s b.core r.toNat) x x') ∧
  (∀ (s : State) (b : Block) (g : Group) (th : Thread) (d : Reg) (r : BitVec 9), s.cur? = some (b, g) → th ∈ groupThreads b g → th.priv = false →
    entryDecode s b g (.mfs d r) = none → r.toNat < 3 → entryFault s b g (.mfs d r) = some 0x0202) ∧
  (∀ (s : State) (b : Block) (g : Group) (r : BitVec 9) (a : Reg), r.toNat < 3 → Issuing s b g (.mts r a) →
    ∃ t, exec (.mts r a) s = .next t ∧ LanesDid s t b g fun _ x x' => x'.content = x.content)

/-- R384, R387: an instruction that breaks a clause-entry condition raises that fault for the whole group and has no effect of its own; a
group with a user-mode member breaks privilege with each instruction R387 names, with its cause, and a privileged group never does. -/
def Obligations.PrivilegeRule : Prop :=
  (∀ (s : State) (b : Block) (g : Group) (i : Instr) (code : Nat), i.isInstruction = true → s.cur? = some (b, g) →
    entryFault s b g i = some code →
    exec i s = .next (groupFault s b g code g.idx (((encode i).headD 0).zeroExtend 64)).idle) ∧
  (∀ (s : State) (b : Block) (g : Group) (i : Instr) (th : Thread) (c : Nat), th ∈ groupThreads b g → th.priv = false → userCause i = some c →
    entryDecode s b g i = none → entryFault s b g i = some c) ∧
  (∀ (s : State) (b : Block) (g : Group) (i : Instr) (th : Thread) (x y : Reg) (k : BitVec 3) (l : BitVec 4), th ∈ groupThreads b g →
    th.priv = false → i = .snap x y k l → entryDecode s b g i = none → (s.launchOf b.grid).compl ≠ (s.jobWord (s.jobOf b.grid) 1).toNat →
    entryFault s b g i = some 0x0203) ∧
  (∀ (s : State) (b : Block) (g : Group) (i : Instr), (∀ th ∈ groupThreads b g, th.priv = true) → entryPriv s b g i = none)

/-- R429: a JOIN(p) acts only where p is FENCED, no JOIN(p) has been applied since the fence, and its last-applied SEQ is below its own: then
every FENCED row of p is deleted and no other word changes, and p is live, counted from the next checkpoint. Any other JOIN changes nothing but that, p being FENCED, one
has now been applied since the fence, so that the next one changes nothing at all; an effective FENCE starts this over. -/
def Obligations.JoinRule : Prop :=
  (∀ (s : State) (h : EvHdr) (p last : Nat) (h0 h1 : Word), p ∈ s.fenced → p + 4096 ∉ s.fenceSent → last < h.seq →
    let t := effect s (.join h p last h0 h1)
    p ∉ t.fenced ∧ p ∉ t.lost ∧ (p ∈ s.podPkgs → p ∈ livePkgs t) ∧ (∀ q, q ≠ p → (q ∈ livePkgs t ↔ q ∈ livePkgs s)) ∧
      tget 0 t.joined p = h.seq ∧ (∀ x ∈ leaseRows t, ¬(rowPkg x.2 = p ∧ rowSt x.2 = 3)) ∧
      (∀ i, t.word i = s.word i ∨ (i < 0x10000 ∧ t.word i = 0 ∧ ∃ w, (i, w) ∈ s.words ∧ rowPkg w = p ∧ rowSt w = 3))) ∧
  (∀ (s : State) (h : EvHdr) (p last : Nat) (h0 h1 : Word), (p ∉ s.fenced ∨ p + 4096 ∈ s.fenceSent) → effect s (.join h p last h0 h1) = s) ∧
  (∀ (s : State) (h : EvHdr) (p last : Nat) (h0 h1 : Word), p ∈ s.fenced → p + 4096 ∉ s.fenceSent → h.seq ≤ last →
    effect s (.join h p last h0 h1) = { s with fenceSent := s.fenceSent ++ [p + 4096] }) ∧
  (∀ (s : State) (p c : Nat) (tell : Bool), p + 4096 ∉ (fenceNow s p c tell).fenceSent ∧ p ∈ (fenceNow s p c tell).fenced)
end

