-- ==== Sys2Proof/Laws/Bits.lean ====
section
/-! SUPPORT. Packed elements: an element of a packed register is the element put there (R165). -/

namespace Sys2Proof.Machine

open Sys2Proof

theorem packN_lt (w : Nat) (f : Nat → Nat) : ∀ n, packN w f n < 2 ^ (w * n)
  | 0 => by simp [packN]
  | n + 1 => by
    have h := packN_lt w f n
    have hf : f n % 2 ^ w < 2 ^ w := Nat.mod_lt _ (by positivity)
    simp only [packN, Nat.shiftLeft_eq]
    have : f n % 2 ^ w * 2 ^ (w * n) + 2 ^ (w * n) ≤ 2 ^ w * 2 ^ (w * n) := by
      calc f n % 2 ^ w * 2 ^ (w * n) + 2 ^ (w * n) = (f n % 2 ^ w + 1) * 2 ^ (w * n) := by ring
        _ ≤ 2 ^ w * 2 ^ (w * n) := Nat.mul_le_mul_right _ hf
    rw [show 2 ^ (w * (n + 1)) = 2 ^ w * 2 ^ (w * n) by rw [← pow_add]; congr 1; ring]
    omega

/-- Element i of a packed number. -/
theorem packN_elt (w : Nat) (f : Nat → Nat) : ∀ n i, i < n → packN w f n / 2 ^ (w * i) % 2 ^ w = f i % 2 ^ w
  | 0, _, h => absurd h (by omega)
  | n + 1, i, h => by
    simp only [packN, Nat.shiftLeft_eq]
    rcases Nat.lt_or_ge i n with hi | hi
    · rw [← packN_elt w f n i hi]
      have e : f n % 2 ^ w * 2 ^ (w * n) = 2 ^ (w * i) * (2 ^ w * (f n % 2 ^ w * 2 ^ (w * (n - i - 1)))) := by
        rw [← mul_assoc, ← pow_add]
        have : 2 ^ (w * n) = 2 ^ (w * i + w) * 2 ^ (w * (n - i - 1)) := by
          rw [← pow_add]
          congr 1
          obtain ⟨k, rfl⟩ : ∃ k, n = i + 1 + k := ⟨n - i - 1, by omega⟩
          rw [show i + 1 + k - i - 1 = k by omega]
          ring
        rw [this]
        ring
      rw [e, Nat.add_mul_div_left _ _ (by positivity), Nat.add_mul_mod_self_left]
    · have : i = n := by omega
      subst this
      rw [Nat.add_mul_div_right _ _ (by positivity), Nat.div_eq_of_lt (packN_lt w f i)]
      simp

/-- Element i of a packed register, for every width that divides 64. -/
theorem elt_pack (w : Nat) (f : Nat → Nat) (i : Nat) (hw : w * (64 / w) = 64) (hi : i < 64 / w) :
    elt w (pack w f) i = f i % 2 ^ w := by
  have h := packN_lt w f (64 / w)
  rw [hw] at h
  simp only [elt, pack, BitVec.toNat_ofNat, Nat.shiftRight_eq_div_pow]
  rw [Nat.mod_eq_of_lt h]
  exact packN_elt w f (64 / w) i hi

theorem intBits_mul (w : IntW) : intBits w * (64 / intBits w) = 64 := by cases w <;> rfl
theorem fpBits_mul (t : FpW) : fpBits t * (64 / fpBits t) = 64 := by cases t <;> rfl

theorem wrap_lt (w : Nat) (x : Int) : wrap w x < 2 ^ w := by
  have h : (0 : Int) < ((2 ^ w : Nat) : Int) := by positivity
  have h1 := Int.emod_nonneg x (ne_of_gt h)
  have h2 := Int.emod_lt_of_pos x h
  unfold wrap
  omega

@[simp] theorem wrap_mod (w : Nat) (x : Int) : wrap w x % 2 ^ w = wrap w x := Nat.mod_eq_of_lt (wrap_lt w x)

end Sys2Proof.Machine
end

