-- ==== Sys2Proof/Laws/State.lean ====
section
/-! SUPPORT. What each named update of the state and of a thread leaves alone: one lemma per field per update, true by definition. -/

namespace Sys2Proof.Machine

open Sys2Proof

/- State.updBlock: blocks alone changes. -/

@[simp] theorem State.updBlock_powered (s : State) (g b : Nat) (f : Block → Block) : (s.updBlock g b f).powered = s.powered := rfl
@[simp] theorem State.updBlock_now (s : State) (g b : Nat) (f : Block → Block) : (s.updBlock g b f).now = s.now := rfl
@[simp] theorem State.updBlock_pkgId (s : State) (g b : Nat) (f : Block → Block) : (s.updBlock g b f).pkgId = s.pkgId := rfl
@[simp] theorem State.updBlock_placeWeights (s : State) (g b : Nat) (f : Block → Block) : (s.updBlock g b f).placeWeights = s.placeWeights := rfl
@[simp] theorem State.updBlock_preemptCtl (s : State) (g b : Nat) (f : Block → Block) : (s.updBlock g b f).preemptCtl = s.preemptCtl := rfl
@[simp] theorem State.updBlock_mem (s : State) (g b : Nat) (f : Block → Block) : (s.updBlock g b f).mem = s.mem := rfl
@[simp] theorem State.updBlock_cores (s : State) (g b : Nat) (f : Block → Block) : (s.updBlock g b f).cores = s.cores := rfl
@[simp] theorem State.updBlock_dies (s : State) (g b : Nat) (f : Block → Block) : (s.updBlock g b f).dies = s.dies := rfl
@[simp] theorem State.updBlock_grids (s : State) (g b : Nat) (f : Block → Block) : (s.updBlock g b f).grids = s.grids := rfl
@[simp] theorem State.updBlock_bars (s : State) (g b : Nat) (f : Block → Block) : (s.updBlock g b f).bars = s.bars := rfl
@[simp] theorem State.updBlock_pend (s : State) (g b : Nat) (f : Block → Block) : (s.updBlock g b f).pend = s.pend := rfl
@[simp] theorem State.updBlock_writes (s : State) (g b : Nat) (f : Block → Block) : (s.updBlock g b f).writes = s.writes := rfl
@[simp] theorem State.updBlock_scNext (s : State) (g b : Nat) (f : Block → Block) : (s.updBlock g b f).scNext = s.scNext := rfl
@[simp] theorem State.updBlock_scOut (s : State) (g b : Nat) (f : Block → Block) : (s.updBlock g b f).scOut = s.scOut := rfl
@[simp] theorem State.updBlock_job0Root (s : State) (g b : Nat) (f : Block → Block) : (s.updBlock g b f).job0Root = s.job0Root := rfl
@[simp] theorem State.updBlock_ringPa (s : State) (g b : Nat) (f : Block → Block) : (s.updBlock g b f).ringPa = s.ringPa := rfl
@[simp] theorem State.updBlock_ringLen (s : State) (g b : Nat) (f : Block → Block) : (s.updBlock g b f).ringLen = s.ringLen := rfl
@[simp] theorem State.updBlock_podSeq (s : State) (g b : Nat) (f : Block → Block) : (s.updBlock g b f).podSeq = s.podSeq := rfl
@[simp] theorem State.updBlock_words (s : State) (g b : Nat) (f : Block → Block) : (s.updBlock g b f).words = s.words := rfl
@[simp] theorem State.updBlock_podPkgs (s : State) (g b : Nat) (f : Block → Block) : (s.updBlock g b f).podPkgs = s.podPkgs := rfl
@[simp] theorem State.updBlock_podGrids (s : State) (g b : Nat) (f : Block → Block) : (s.updBlock g b f).podGrids = s.podGrids := rfl
@[simp] theorem State.updBlock_evBuf (s : State) (g b : Nat) (f : Block → Block) : (s.updBlock g b f).evBuf = s.evBuf := rfl
@[simp] theorem State.updBlock_evTail (s : State) (g b : Nat) (f : Block → Block) : (s.updBlock g b f).evTail = s.evTail := rfl
@[simp] theorem State.updBlock_evKnown (s : State) (g b : Nat) (f : Block → Block) : (s.updBlock g b f).evKnown = s.evKnown := rfl
@[simp] theorem State.updBlock_gap (s : State) (g b : Nat) (f : Block → Block) : (s.updBlock g b f).gap = s.gap := rfl
@[simp] theorem State.updBlock_fenced (s : State) (g b : Nat) (f : Block → Block) : (s.updBlock g b f).fenced = s.fenced := rfl
@[simp] theorem State.updBlock_lost (s : State) (g b : Nat) (f : Block → Block) : (s.updBlock g b f).lost = s.lost := rfl
@[simp] theorem State.updBlock_fenceVotes (s : State) (g b : Nat) (f : Block → Block) : (s.updBlock g b f).fenceVotes = s.fenceVotes := rfl
@[simp] theorem State.updBlock_lossVotes (s : State) (g b : Nat) (f : Block → Block) : (s.updBlock g b f).lossVotes = s.lossVotes := rfl
@[simp] theorem State.updBlock_digests (s : State) (g b : Nat) (f : Block → Block) : (s.updBlock g b f).digests = s.digests := rfl
@[simp] theorem State.updBlock_majority (s : State) (g b : Nat) (f : Block → Block) : (s.updBlock g b f).majority = s.majority := rfl
@[simp] theorem State.updBlock_fenceSent (s : State) (g b : Nat) (f : Block → Block) : (s.updBlock g b f).fenceSent = s.fenceSent := rfl
@[simp] theorem State.updBlock_fenceCkpt (s : State) (g b : Nat) (f : Block → Block) : (s.updBlock g b f).fenceCkpt = s.fenceCkpt := rfl
@[simp] theorem State.updBlock_joined (s : State) (g b : Nat) (f : Block → Block) : (s.updBlock g b f).joined = s.joined := rfl
@[simp] theorem State.updBlock_hold (s : State) (g b : Nat) (f : Block → Block) : (s.updBlock g b f).hold = s.hold := rfl
@[simp] theorem State.updBlock_withdrawn (s : State) (g b : Nat) (f : Block → Block) : (s.updBlock g b f).withdrawn = s.withdrawn := rfl
@[simp] theorem State.updBlock_rejoin (s : State) (g b : Nat) (f : Block → Block) : (s.updBlock g b f).rejoin = s.rejoin := rfl
@[simp] theorem State.updBlock_aliases (s : State) (g b : Nat) (f : Block → Block) : (s.updBlock g b f).aliases = s.aliases := rfl
@[simp] theorem State.updBlock_hook (s : State) (g b : Nat) (f : Block → Block) : (s.updBlock g b f).hook = s.hook := rfl
@[simp] theorem State.updBlock_snap (s : State) (g b : Nat) (f : Block → Block) : (s.updBlock g b f).snap = s.snap := rfl
@[simp] theorem State.updBlock_snapWait (s : State) (g b : Nat) (f : Block → Block) : (s.updBlock g b f).snapWait = s.snapWait := rfl
@[simp] theorem State.updBlock_rolls (s : State) (g b : Nat) (f : Block → Block) : (s.updBlock g b f).rolls = s.rolls := rfl
@[simp] theorem State.updBlock_saves (s : State) (g b : Nat) (f : Block → Block) : (s.updBlock g b f).saves = s.saves := rfl
@[simp] theorem State.updBlock_lines (s : State) (g b : Nat) (f : Block → Block) : (s.updBlock g b f).lines = s.lines := rfl
@[simp] theorem State.updBlock_lineAsks (s : State) (g b : Nat) (f : Block → Block) : (s.updBlock g b f).lineAsks = s.lineAsks := rfl
@[simp] theorem State.updBlock_queues (s : State) (g b : Nat) (f : Block → Block) : (s.updBlock g b f).queues = s.queues := rfl
@[simp] theorem State.updBlock_subs (s : State) (g b : Nat) (f : Block → Block) : (s.updBlock g b f).subs = s.subs := rfl
@[simp] theorem State.updBlock_units (s : State) (g b : Nat) (f : Block → Block) : (s.updBlock g b f).units = s.units := rfl
@[simp] theorem State.updBlock_clusters (s : State) (g b : Nat) (f : Block → Block) : (s.updBlock g b f).clusters = s.clusters := rfl
@[simp] theorem State.updBlock_aside (s : State) (g b : Nat) (f : Block → Block) : (s.updBlock g b f).aside = s.aside := rfl
@[simp] theorem State.updBlock_rebuilds (s : State) (g b : Nat) (f : Block → Block) : (s.updBlock g b f).rebuilds = s.rebuilds := rfl
@[simp] theorem State.updBlock_engAsks (s : State) (g b : Nat) (f : Block → Block) : (s.updBlock g b f).engAsks = s.engAsks := rfl
@[simp] theorem State.updBlock_engGot (s : State) (g b : Nat) (f : Block → Block) : (s.updBlock g b f).engGot = s.engGot := rfl
@[simp] theorem State.updBlock_opWrites (s : State) (g b : Nat) (f : Block → Block) : (s.updBlock g b f).opWrites = s.opWrites := rfl
@[simp] theorem State.updBlock_copies (s : State) (g b : Nat) (f : Block → Block) : (s.updBlock g b f).copies = s.copies := rfl
@[simp] theorem State.updBlock_xfers (s : State) (g b : Nat) (f : Block → Block) : (s.updBlock g b f).xfers = s.xfers := rfl
@[simp] theorem State.updBlock_colls (s : State) (g b : Nat) (f : Block → Block) : (s.updBlock g b f).colls = s.colls := rfl
@[simp] theorem State.updBlock_collNos (s : State) (g b : Nat) (f : Block → Block) : (s.updBlock g b f).collNos = s.collNos := rfl
@[simp] theorem State.updBlock_earlyChunks (s : State) (g b : Nat) (f : Block → Block) : (s.updBlock g b f).earlyChunks = s.earlyChunks := rfl
@[simp] theorem State.updBlock_epochs (s : State) (g b : Nat) (f : Block → Block) : (s.updBlock g b f).epochs = s.epochs := rfl
@[simp] theorem State.updBlock_exchs (s : State) (g b : Nat) (f : Block → Block) : (s.updBlock g b f).exchs = s.exchs := rfl
@[simp] theorem State.updBlock_seqOut (s : State) (g b : Nat) (f : Block → Block) : (s.updBlock g b f).seqOut = s.seqOut := rfl
@[simp] theorem State.updBlock_retained (s : State) (g b : Nat) (f : Block → Block) : (s.updBlock g b f).retained = s.retained := rfl
@[simp] theorem State.updBlock_seqIn (s : State) (g b : Nat) (f : Block → Block) : (s.updBlock g b f).seqIn = s.seqIn := rfl
@[simp] theorem State.updBlock_ingress (s : State) (g b : Nat) (f : Block → Block) : (s.updBlock g b f).ingress = s.ingress := rfl
@[simp] theorem State.updBlock_inbox (s : State) (g b : Nat) (f : Block → Block) : (s.updBlock g b f).inbox = s.inbox := rfl
@[simp] theorem State.updBlock_answers (s : State) (g b : Nat) (f : Block → Block) : (s.updBlock g b f).answers = s.answers := rfl
@[simp] theorem State.updBlock_fwds (s : State) (g b : Nat) (f : Block → Block) : (s.updBlock g b f).fwds = s.fwds := rfl
@[simp] theorem State.updBlock_withheld (s : State) (g b : Nat) (f : Block → Block) : (s.updBlock g b f).withheld = s.withheld := rfl
@[simp] theorem State.updBlock_remWaits (s : State) (g b : Nat) (f : Block → Block) : (s.updBlock g b f).remWaits = s.remWaits := rfl
@[simp] theorem State.updBlock_pkgCol (s : State) (g b : Nat) (f : Block → Block) : (s.updBlock g b f).pkgCol = s.pkgCol := rfl
@[simp] theorem State.updBlock_lvls (s : State) (g b : Nat) (f : Block → Block) : (s.updBlock g b f).lvls = s.lvls := rfl
@[simp] theorem State.updBlock_colIn (s : State) (g b : Nat) (f : Block → Block) : (s.updBlock g b f).colIn = s.colIn := rfl
@[simp] theorem State.updBlock_moves (s : State) (g b : Nat) (f : Block → Block) : (s.updBlock g b f).moves = s.moves := rfl
@[simp] theorem State.updBlock_incoming (s : State) (g b : Nat) (f : Block → Block) : (s.updBlock g b f).incoming = s.incoming := rfl
@[simp] theorem State.updBlock_shoots (s : State) (g b : Nat) (f : Block → Block) : (s.updBlock g b f).shoots = s.shoots := rfl
@[simp] theorem State.updBlock_inFlight (s : State) (g b : Nat) (f : Block → Block) : (s.updBlock g b f).inFlight = s.inFlight := rfl
@[simp] theorem State.updBlock_sigHeld (s : State) (g b : Nat) (f : Block → Block) : (s.updBlock g b f).sigHeld = s.sigHeld := rfl
@[simp] theorem State.updBlock_remHeld (s : State) (g b : Nat) (f : Block → Block) : (s.updBlock g b f).remHeld = s.remHeld := rfl
@[simp] theorem State.updBlock_colour (s : State) (g b : Nat) (f : Block → Block) : (s.updBlock g b f).colour = s.colour := rfl
@[simp] theorem State.updBlock_linkStat (s : State) (g b : Nat) (f : Block → Block) : (s.updBlock g b f).linkStat = s.linkStat := rfl
@[simp] theorem State.updBlock_linkHeard (s : State) (g b : Nat) (f : Block → Block) : (s.updBlock g b f).linkHeard = s.linkHeard := rfl
@[simp] theorem State.updBlock_linkSent (s : State) (g b : Nat) (f : Block → Block) : (s.updBlock g b f).linkSent = s.linkSent := rfl
@[simp] theorem State.updBlock_linkTrain (s : State) (g b : Nat) (f : Block → Block) : (s.updBlock g b f).linkTrain = s.linkTrain := rfl
@[simp] theorem State.updBlock_linkFails (s : State) (g b : Nat) (f : Block → Block) : (s.updBlock g b f).linkFails = s.linkFails := rfl
@[simp] theorem State.updBlock_deaths (s : State) (g b : Nat) (f : Block → Block) : (s.updBlock g b f).deaths = s.deaths := rfl
@[simp] theorem State.updBlock_linkRecs (s : State) (g b : Nat) (f : Block → Block) : (s.updBlock g b f).linkRecs = s.linkRecs := rfl
@[simp] theorem State.updBlock_config (s : State) (g b : Nat) (f : Block → Block) : (s.updBlock g b f).config = s.config := rfl
@[simp] theorem State.updBlock_cfgSlots (s : State) (g b : Nat) (f : Block → Block) : (s.updBlock g b f).cfgSlots = s.cfgSlots := rfl
@[simp] theorem State.updBlock_fwVer (s : State) (g b : Nat) (f : Block → Block) : (s.updBlock g b f).fwVer = s.fwVer := rfl
@[simp] theorem State.updBlock_field (s : State) (g b : Nat) (f : Block → Block) : (s.updBlock g b f).field = s.field := rfl
@[simp] theorem State.updBlock_flash (s : State) (g b : Nat) (f : Block → Block) : (s.updBlock g b f).flash = s.flash := rfl
@[simp] theorem State.updBlock_offsets (s : State) (g b : Nat) (f : Block → Block) : (s.updBlock g b f).offsets = s.offsets := rfl
@[simp] theorem State.updBlock_attest (s : State) (g b : Nat) (f : Block → Block) : (s.updBlock g b f).attest = s.attest := rfl
@[simp] theorem State.updBlock_scrubs (s : State) (g b : Nat) (f : Block → Block) : (s.updBlock g b f).scrubs = s.scrubs := rfl
@[simp] theorem State.updBlock_rowCe (s : State) (g b : Nat) (f : Block → Block) : (s.updBlock g b f).rowCe = s.rowCe := rfl
@[simp] theorem State.updBlock_quiet (s : State) (g b : Nat) (f : Block → Block) : (s.updBlock g b f).quiet = s.quiet := rfl
@[simp] theorem State.updBlock_sentTo (s : State) (g b : Nat) (f : Block → Block) : (s.updBlock g b f).sentTo = s.sentTo := rfl
@[simp] theorem State.updBlock_recvFrom (s : State) (g b : Nat) (f : Block → Block) : (s.updBlock g b f).recvFrom = s.recvFrom := rfl
@[simp] theorem State.updBlock_outPackets (s : State) (g b : Nat) (f : Block → Block) : (s.updBlock g b f).outPackets = s.outPackets := rfl
@[simp] theorem State.updBlock_outEvents (s : State) (g b : Nat) (f : Block → Block) : (s.updBlock g b f).outEvents = s.outEvents := rfl
@[simp] theorem State.updBlock_outMgmt (s : State) (g b : Nat) (f : Block → Block) : (s.updBlock g b f).outMgmt = s.outMgmt := rfl
@[simp] theorem State.updBlock_outHost (s : State) (g b : Nat) (f : Block → Block) : (s.updBlock g b f).outHost = s.outHost := rfl
@[simp] theorem State.updBlock_outRetx (s : State) (g b : Nat) (f : Block → Block) : (s.updBlock g b f).outRetx = s.outRetx := rfl
@[simp] theorem State.updBlock_tailFor (s : State) (g b : Nat) (f : Block → Block) : (s.updBlock g b f).tailFor = s.tailFor := rfl
@[simp] theorem State.updBlock_agenda (s : State) (g b : Nat) (f : Block → Block) : (s.updBlock g b f).agenda = s.agenda := rfl
@[simp] theorem State.updBlock_issuing (s : State) (g b : Nat) (f : Block → Block) : (s.updBlock g b f).issuing = s.issuing := rfl
@[simp] theorem State.updBlock_turn (s : State) (g b : Nat) (f : Block → Block) : (s.updBlock g b f).turn = s.turn := rfl
@[simp] theorem State.updBlock_free (s : State) (g b : Nat) (f : Block → Block) : (s.updBlock g b f).free = s.free := rfl
@[simp] theorem State.updBlock_nextId (s : State) (g b : Nat) (f : Block → Block) : (s.updBlock g b f).nextId = s.nextId := rfl

/- State.setCore: cores alone changes. -/

@[simp] theorem State.setCore_powered (s : State) (i : Nat) (c : Core) : (s.setCore i c).powered = s.powered := rfl
@[simp] theorem State.setCore_now (s : State) (i : Nat) (c : Core) : (s.setCore i c).now = s.now := rfl
@[simp] theorem State.setCore_pkgId (s : State) (i : Nat) (c : Core) : (s.setCore i c).pkgId = s.pkgId := rfl
@[simp] theorem State.setCore_placeWeights (s : State) (i : Nat) (c : Core) : (s.setCore i c).placeWeights = s.placeWeights := rfl
@[simp] theorem State.setCore_preemptCtl (s : State) (i : Nat) (c : Core) : (s.setCore i c).preemptCtl = s.preemptCtl := rfl
@[simp] theorem State.setCore_mem (s : State) (i : Nat) (c : Core) : (s.setCore i c).mem = s.mem := rfl
@[simp] theorem State.setCore_dies (s : State) (i : Nat) (c : Core) : (s.setCore i c).dies = s.dies := rfl
@[simp] theorem State.setCore_blocks (s : State) (i : Nat) (c : Core) : (s.setCore i c).blocks = s.blocks := rfl
@[simp] theorem State.setCore_grids (s : State) (i : Nat) (c : Core) : (s.setCore i c).grids = s.grids := rfl
@[simp] theorem State.setCore_bars (s : State) (i : Nat) (c : Core) : (s.setCore i c).bars = s.bars := rfl
@[simp] theorem State.setCore_pend (s : State) (i : Nat) (c : Core) : (s.setCore i c).pend = s.pend := rfl
@[simp] theorem State.setCore_writes (s : State) (i : Nat) (c : Core) : (s.setCore i c).writes = s.writes := rfl
@[simp] theorem State.setCore_scNext (s : State) (i : Nat) (c : Core) : (s.setCore i c).scNext = s.scNext := rfl
@[simp] theorem State.setCore_scOut (s : State) (i : Nat) (c : Core) : (s.setCore i c).scOut = s.scOut := rfl
@[simp] theorem State.setCore_job0Root (s : State) (i : Nat) (c : Core) : (s.setCore i c).job0Root = s.job0Root := rfl
@[simp] theorem State.setCore_ringPa (s : State) (i : Nat) (c : Core) : (s.setCore i c).ringPa = s.ringPa := rfl
@[simp] theorem State.setCore_ringLen (s : State) (i : Nat) (c : Core) : (s.setCore i c).ringLen = s.ringLen := rfl
@[simp] theorem State.setCore_podSeq (s : State) (i : Nat) (c : Core) : (s.setCore i c).podSeq = s.podSeq := rfl
@[simp] theorem State.setCore_words (s : State) (i : Nat) (c : Core) : (s.setCore i c).words = s.words := rfl
@[simp] theorem State.setCore_podPkgs (s : State) (i : Nat) (c : Core) : (s.setCore i c).podPkgs = s.podPkgs := rfl
@[simp] theorem State.setCore_podGrids (s : State) (i : Nat) (c : Core) : (s.setCore i c).podGrids = s.podGrids := rfl
@[simp] theorem State.setCore_evBuf (s : State) (i : Nat) (c : Core) : (s.setCore i c).evBuf = s.evBuf := rfl
@[simp] theorem State.setCore_evTail (s : State) (i : Nat) (c : Core) : (s.setCore i c).evTail = s.evTail := rfl
@[simp] theorem State.setCore_evKnown (s : State) (i : Nat) (c : Core) : (s.setCore i c).evKnown = s.evKnown := rfl
@[simp] theorem State.setCore_gap (s : State) (i : Nat) (c : Core) : (s.setCore i c).gap = s.gap := rfl
@[simp] theorem State.setCore_fenced (s : State) (i : Nat) (c : Core) : (s.setCore i c).fenced = s.fenced := rfl
@[simp] theorem State.setCore_lost (s : State) (i : Nat) (c : Core) : (s.setCore i c).lost = s.lost := rfl
@[simp] theorem State.setCore_fenceVotes (s : State) (i : Nat) (c : Core) : (s.setCore i c).fenceVotes = s.fenceVotes := rfl
@[simp] theorem State.setCore_lossVotes (s : State) (i : Nat) (c : Core) : (s.setCore i c).lossVotes = s.lossVotes := rfl
@[simp] theorem State.setCore_digests (s : State) (i : Nat) (c : Core) : (s.setCore i c).digests = s.digests := rfl
@[simp] theorem State.setCore_majority (s : State) (i : Nat) (c : Core) : (s.setCore i c).majority = s.majority := rfl
@[simp] theorem State.setCore_fenceSent (s : State) (i : Nat) (c : Core) : (s.setCore i c).fenceSent = s.fenceSent := rfl
@[simp] theorem State.setCore_fenceCkpt (s : State) (i : Nat) (c : Core) : (s.setCore i c).fenceCkpt = s.fenceCkpt := rfl
@[simp] theorem State.setCore_joined (s : State) (i : Nat) (c : Core) : (s.setCore i c).joined = s.joined := rfl
@[simp] theorem State.setCore_hold (s : State) (i : Nat) (c : Core) : (s.setCore i c).hold = s.hold := rfl
@[simp] theorem State.setCore_withdrawn (s : State) (i : Nat) (c : Core) : (s.setCore i c).withdrawn = s.withdrawn := rfl
@[simp] theorem State.setCore_rejoin (s : State) (i : Nat) (c : Core) : (s.setCore i c).rejoin = s.rejoin := rfl
@[simp] theorem State.setCore_aliases (s : State) (i : Nat) (c : Core) : (s.setCore i c).aliases = s.aliases := rfl
@[simp] theorem State.setCore_hook (s : State) (i : Nat) (c : Core) : (s.setCore i c).hook = s.hook := rfl
@[simp] theorem State.setCore_snap (s : State) (i : Nat) (c : Core) : (s.setCore i c).snap = s.snap := rfl
@[simp] theorem State.setCore_snapWait (s : State) (i : Nat) (c : Core) : (s.setCore i c).snapWait = s.snapWait := rfl
@[simp] theorem State.setCore_rolls (s : State) (i : Nat) (c : Core) : (s.setCore i c).rolls = s.rolls := rfl
@[simp] theorem State.setCore_saves (s : State) (i : Nat) (c : Core) : (s.setCore i c).saves = s.saves := rfl
@[simp] theorem State.setCore_lines (s : State) (i : Nat) (c : Core) : (s.setCore i c).lines = s.lines := rfl
@[simp] theorem State.setCore_lineAsks (s : State) (i : Nat) (c : Core) : (s.setCore i c).lineAsks = s.lineAsks := rfl
@[simp] theorem State.setCore_queues (s : State) (i : Nat) (c : Core) : (s.setCore i c).queues = s.queues := rfl
@[simp] theorem State.setCore_subs (s : State) (i : Nat) (c : Core) : (s.setCore i c).subs = s.subs := rfl
@[simp] theorem State.setCore_units (s : State) (i : Nat) (c : Core) : (s.setCore i c).units = s.units := rfl
@[simp] theorem State.setCore_clusters (s : State) (i : Nat) (c : Core) : (s.setCore i c).clusters = s.clusters := rfl
@[simp] theorem State.setCore_aside (s : State) (i : Nat) (c : Core) : (s.setCore i c).aside = s.aside := rfl
@[simp] theorem State.setCore_rebuilds (s : State) (i : Nat) (c : Core) : (s.setCore i c).rebuilds = s.rebuilds := rfl
@[simp] theorem State.setCore_engAsks (s : State) (i : Nat) (c : Core) : (s.setCore i c).engAsks = s.engAsks := rfl
@[simp] theorem State.setCore_engGot (s : State) (i : Nat) (c : Core) : (s.setCore i c).engGot = s.engGot := rfl
@[simp] theorem State.setCore_opWrites (s : State) (i : Nat) (c : Core) : (s.setCore i c).opWrites = s.opWrites := rfl
@[simp] theorem State.setCore_copies (s : State) (i : Nat) (c : Core) : (s.setCore i c).copies = s.copies := rfl
@[simp] theorem State.setCore_xfers (s : State) (i : Nat) (c : Core) : (s.setCore i c).xfers = s.xfers := rfl
@[simp] theorem State.setCore_colls (s : State) (i : Nat) (c : Core) : (s.setCore i c).colls = s.colls := rfl
@[simp] theorem State.setCore_collNos (s : State) (i : Nat) (c : Core) : (s.setCore i c).collNos = s.collNos := rfl
@[simp] theorem State.setCore_earlyChunks (s : State) (i : Nat) (c : Core) : (s.setCore i c).earlyChunks = s.earlyChunks := rfl
@[simp] theorem State.setCore_epochs (s : State) (i : Nat) (c : Core) : (s.setCore i c).epochs = s.epochs := rfl
@[simp] theorem State.setCore_exchs (s : State) (i : Nat) (c : Core) : (s.setCore i c).exchs = s.exchs := rfl
@[simp] theorem State.setCore_seqOut (s : State) (i : Nat) (c : Core) : (s.setCore i c).seqOut = s.seqOut := rfl
@[simp] theorem State.setCore_retained (s : State) (i : Nat) (c : Core) : (s.setCore i c).retained = s.retained := rfl
@[simp] theorem State.setCore_seqIn (s : State) (i : Nat) (c : Core) : (s.setCore i c).seqIn = s.seqIn := rfl
@[simp] theorem State.setCore_ingress (s : State) (i : Nat) (c : Core) : (s.setCore i c).ingress = s.ingress := rfl
@[simp] theorem State.setCore_inbox (s : State) (i : Nat) (c : Core) : (s.setCore i c).inbox = s.inbox := rfl
@[simp] theorem State.setCore_answers (s : State) (i : Nat) (c : Core) : (s.setCore i c).answers = s.answers := rfl
@[simp] theorem State.setCore_fwds (s : State) (i : Nat) (c : Core) : (s.setCore i c).fwds = s.fwds := rfl
@[simp] theorem State.setCore_withheld (s : State) (i : Nat) (c : Core) : (s.setCore i c).withheld = s.withheld := rfl
@[simp] theorem State.setCore_remWaits (s : State) (i : Nat) (c : Core) : (s.setCore i c).remWaits = s.remWaits := rfl
@[simp] theorem State.setCore_pkgCol (s : State) (i : Nat) (c : Core) : (s.setCore i c).pkgCol = s.pkgCol := rfl
@[simp] theorem State.setCore_lvls (s : State) (i : Nat) (c : Core) : (s.setCore i c).lvls = s.lvls := rfl
@[simp] theorem State.setCore_colIn (s : State) (i : Nat) (c : Core) : (s.setCore i c).colIn = s.colIn := rfl
@[simp] theorem State.setCore_moves (s : State) (i : Nat) (c : Core) : (s.setCore i c).moves = s.moves := rfl
@[simp] theorem State.setCore_incoming (s : State) (i : Nat) (c : Core) : (s.setCore i c).incoming = s.incoming := rfl
@[simp] theorem State.setCore_shoots (s : State) (i : Nat) (c : Core) : (s.setCore i c).shoots = s.shoots := rfl
@[simp] theorem State.setCore_inFlight (s : State) (i : Nat) (c : Core) : (s.setCore i c).inFlight = s.inFlight := rfl
@[simp] theorem State.setCore_sigHeld (s : State) (i : Nat) (c : Core) : (s.setCore i c).sigHeld = s.sigHeld := rfl
@[simp] theorem State.setCore_remHeld (s : State) (i : Nat) (c : Core) : (s.setCore i c).remHeld = s.remHeld := rfl
@[simp] theorem State.setCore_colour (s : State) (i : Nat) (c : Core) : (s.setCore i c).colour = s.colour := rfl
@[simp] theorem State.setCore_linkStat (s : State) (i : Nat) (c : Core) : (s.setCore i c).linkStat = s.linkStat := rfl
@[simp] theorem State.setCore_linkHeard (s : State) (i : Nat) (c : Core) : (s.setCore i c).linkHeard = s.linkHeard := rfl
@[simp] theorem State.setCore_linkSent (s : State) (i : Nat) (c : Core) : (s.setCore i c).linkSent = s.linkSent := rfl
@[simp] theorem State.setCore_linkTrain (s : State) (i : Nat) (c : Core) : (s.setCore i c).linkTrain = s.linkTrain := rfl
@[simp] theorem State.setCore_linkFails (s : State) (i : Nat) (c : Core) : (s.setCore i c).linkFails = s.linkFails := rfl
@[simp] theorem State.setCore_deaths (s : State) (i : Nat) (c : Core) : (s.setCore i c).deaths = s.deaths := rfl
@[simp] theorem State.setCore_linkRecs (s : State) (i : Nat) (c : Core) : (s.setCore i c).linkRecs = s.linkRecs := rfl
@[simp] theorem State.setCore_config (s : State) (i : Nat) (c : Core) : (s.setCore i c).config = s.config := rfl
@[simp] theorem State.setCore_cfgSlots (s : State) (i : Nat) (c : Core) : (s.setCore i c).cfgSlots = s.cfgSlots := rfl
@[simp] theorem State.setCore_fwVer (s : State) (i : Nat) (c : Core) : (s.setCore i c).fwVer = s.fwVer := rfl
@[simp] theorem State.setCore_field (s : State) (i : Nat) (c : Core) : (s.setCore i c).field = s.field := rfl
@[simp] theorem State.setCore_flash (s : State) (i : Nat) (c : Core) : (s.setCore i c).flash = s.flash := rfl
@[simp] theorem State.setCore_offsets (s : State) (i : Nat) (c : Core) : (s.setCore i c).offsets = s.offsets := rfl
@[simp] theorem State.setCore_attest (s : State) (i : Nat) (c : Core) : (s.setCore i c).attest = s.attest := rfl
@[simp] theorem State.setCore_scrubs (s : State) (i : Nat) (c : Core) : (s.setCore i c).scrubs = s.scrubs := rfl
@[simp] theorem State.setCore_rowCe (s : State) (i : Nat) (c : Core) : (s.setCore i c).rowCe = s.rowCe := rfl
@[simp] theorem State.setCore_quiet (s : State) (i : Nat) (c : Core) : (s.setCore i c).quiet = s.quiet := rfl
@[simp] theorem State.setCore_sentTo (s : State) (i : Nat) (c : Core) : (s.setCore i c).sentTo = s.sentTo := rfl
@[simp] theorem State.setCore_recvFrom (s : State) (i : Nat) (c : Core) : (s.setCore i c).recvFrom = s.recvFrom := rfl
@[simp] theorem State.setCore_outPackets (s : State) (i : Nat) (c : Core) : (s.setCore i c).outPackets = s.outPackets := rfl
@[simp] theorem State.setCore_outEvents (s : State) (i : Nat) (c : Core) : (s.setCore i c).outEvents = s.outEvents := rfl
@[simp] theorem State.setCore_outMgmt (s : State) (i : Nat) (c : Core) : (s.setCore i c).outMgmt = s.outMgmt := rfl
@[simp] theorem State.setCore_outHost (s : State) (i : Nat) (c : Core) : (s.setCore i c).outHost = s.outHost := rfl
@[simp] theorem State.setCore_outRetx (s : State) (i : Nat) (c : Core) : (s.setCore i c).outRetx = s.outRetx := rfl
@[simp] theorem State.setCore_tailFor (s : State) (i : Nat) (c : Core) : (s.setCore i c).tailFor = s.tailFor := rfl
@[simp] theorem State.setCore_agenda (s : State) (i : Nat) (c : Core) : (s.setCore i c).agenda = s.agenda := rfl
@[simp] theorem State.setCore_issuing (s : State) (i : Nat) (c : Core) : (s.setCore i c).issuing = s.issuing := rfl
@[simp] theorem State.setCore_turn (s : State) (i : Nat) (c : Core) : (s.setCore i c).turn = s.turn := rfl
@[simp] theorem State.setCore_free (s : State) (i : Nat) (c : Core) : (s.setCore i c).free = s.free := rfl
@[simp] theorem State.setCore_nextId (s : State) (i : Nat) (c : Core) : (s.setCore i c).nextId = s.nextId := rfl

/- State.updCore: cores alone changes. -/

@[simp] theorem State.updCore_powered (s : State) (i : Nat) (f : Core → Core) : (s.updCore i f).powered = s.powered := rfl
@[simp] theorem State.updCore_now (s : State) (i : Nat) (f : Core → Core) : (s.updCore i f).now = s.now := rfl
@[simp] theorem State.updCore_pkgId (s : State) (i : Nat) (f : Core → Core) : (s.updCore i f).pkgId = s.pkgId := rfl
@[simp] theorem State.updCore_placeWeights (s : State) (i : Nat) (f : Core → Core) : (s.updCore i f).placeWeights = s.placeWeights := rfl
@[simp] theorem State.updCore_preemptCtl (s : State) (i : Nat) (f : Core → Core) : (s.updCore i f).preemptCtl = s.preemptCtl := rfl
@[simp] theorem State.updCore_mem (s : State) (i : Nat) (f : Core → Core) : (s.updCore i f).mem = s.mem := rfl
@[simp] theorem State.updCore_dies (s : State) (i : Nat) (f : Core → Core) : (s.updCore i f).dies = s.dies := rfl
@[simp] theorem State.updCore_blocks (s : State) (i : Nat) (f : Core → Core) : (s.updCore i f).blocks = s.blocks := rfl
@[simp] theorem State.updCore_grids (s : State) (i : Nat) (f : Core → Core) : (s.updCore i f).grids = s.grids := rfl
@[simp] theorem State.updCore_bars (s : State) (i : Nat) (f : Core → Core) : (s.updCore i f).bars = s.bars := rfl
@[simp] theorem State.updCore_pend (s : State) (i : Nat) (f : Core → Core) : (s.updCore i f).pend = s.pend := rfl
@[simp] theorem State.updCore_writes (s : State) (i : Nat) (f : Core → Core) : (s.updCore i f).writes = s.writes := rfl
@[simp] theorem State.updCore_scNext (s : State) (i : Nat) (f : Core → Core) : (s.updCore i f).scNext = s.scNext := rfl
@[simp] theorem State.updCore_scOut (s : State) (i : Nat) (f : Core → Core) : (s.updCore i f).scOut = s.scOut := rfl
@[simp] theorem State.updCore_job0Root (s : State) (i : Nat) (f : Core → Core) : (s.updCore i f).job0Root = s.job0Root := rfl
@[simp] theorem State.updCore_ringPa (s : State) (i : Nat) (f : Core → Core) : (s.updCore i f).ringPa = s.ringPa := rfl
@[simp] theorem State.updCore_ringLen (s : State) (i : Nat) (f : Core → Core) : (s.updCore i f).ringLen = s.ringLen := rfl
@[simp] theorem State.updCore_podSeq (s : State) (i : Nat) (f : Core → Core) : (s.updCore i f).podSeq = s.podSeq := rfl
@[simp] theorem State.updCore_words (s : State) (i : Nat) (f : Core → Core) : (s.updCore i f).words = s.words := rfl
@[simp] theorem State.updCore_podPkgs (s : State) (i : Nat) (f : Core → Core) : (s.updCore i f).podPkgs = s.podPkgs := rfl
@[simp] theorem State.updCore_podGrids (s : State) (i : Nat) (f : Core → Core) : (s.updCore i f).podGrids = s.podGrids := rfl
@[simp] theorem State.updCore_evBuf (s : State) (i : Nat) (f : Core → Core) : (s.updCore i f).evBuf = s.evBuf := rfl
@[simp] theorem State.updCore_evTail (s : State) (i : Nat) (f : Core → Core) : (s.updCore i f).evTail = s.evTail := rfl
@[simp] theorem State.updCore_evKnown (s : State) (i : Nat) (f : Core → Core) : (s.updCore i f).evKnown = s.evKnown := rfl
@[simp] theorem State.updCore_gap (s : State) (i : Nat) (f : Core → Core) : (s.updCore i f).gap = s.gap := rfl
@[simp] theorem State.updCore_fenced (s : State) (i : Nat) (f : Core → Core) : (s.updCore i f).fenced = s.fenced := rfl
@[simp] theorem State.updCore_lost (s : State) (i : Nat) (f : Core → Core) : (s.updCore i f).lost = s.lost := rfl
@[simp] theorem State.updCore_fenceVotes (s : State) (i : Nat) (f : Core → Core) : (s.updCore i f).fenceVotes = s.fenceVotes := rfl
@[simp] theorem State.updCore_lossVotes (s : State) (i : Nat) (f : Core → Core) : (s.updCore i f).lossVotes = s.lossVotes := rfl
@[simp] theorem State.updCore_digests (s : State) (i : Nat) (f : Core → Core) : (s.updCore i f).digests = s.digests := rfl
@[simp] theorem State.updCore_majority (s : State) (i : Nat) (f : Core → Core) : (s.updCore i f).majority = s.majority := rfl
@[simp] theorem State.updCore_fenceSent (s : State) (i : Nat) (f : Core → Core) : (s.updCore i f).fenceSent = s.fenceSent := rfl
@[simp] theorem State.updCore_fenceCkpt (s : State) (i : Nat) (f : Core → Core) : (s.updCore i f).fenceCkpt = s.fenceCkpt := rfl
@[simp] theorem State.updCore_joined (s : State) (i : Nat) (f : Core → Core) : (s.updCore i f).joined = s.joined := rfl
@[simp] theorem State.updCore_hold (s : State) (i : Nat) (f : Core → Core) : (s.updCore i f).hold = s.hold := rfl
@[simp] theorem State.updCore_withdrawn (s : State) (i : Nat) (f : Core → Core) : (s.updCore i f).withdrawn = s.withdrawn := rfl
@[simp] theorem State.updCore_rejoin (s : State) (i : Nat) (f : Core → Core) : (s.updCore i f).rejoin = s.rejoin := rfl
@[simp] theorem State.updCore_aliases (s : State) (i : Nat) (f : Core → Core) : (s.updCore i f).aliases = s.aliases := rfl
@[simp] theorem State.updCore_hook (s : State) (i : Nat) (f : Core → Core) : (s.updCore i f).hook = s.hook := rfl
@[simp] theorem State.updCore_snap (s : State) (i : Nat) (f : Core → Core) : (s.updCore i f).snap = s.snap := rfl
@[simp] theorem State.updCore_snapWait (s : State) (i : Nat) (f : Core → Core) : (s.updCore i f).snapWait = s.snapWait := rfl
@[simp] theorem State.updCore_rolls (s : State) (i : Nat) (f : Core → Core) : (s.updCore i f).rolls = s.rolls := rfl
@[simp] theorem State.updCore_saves (s : State) (i : Nat) (f : Core → Core) : (s.updCore i f).saves = s.saves := rfl
@[simp] theorem State.updCore_lines (s : State) (i : Nat) (f : Core → Core) : (s.updCore i f).lines = s.lines := rfl
@[simp] theorem State.updCore_lineAsks (s : State) (i : Nat) (f : Core → Core) : (s.updCore i f).lineAsks = s.lineAsks := rfl
@[simp] theorem State.updCore_queues (s : State) (i : Nat) (f : Core → Core) : (s.updCore i f).queues = s.queues := rfl
@[simp] theorem State.updCore_subs (s : State) (i : Nat) (f : Core → Core) : (s.updCore i f).subs = s.subs := rfl
@[simp] theorem State.updCore_units (s : State) (i : Nat) (f : Core → Core) : (s.updCore i f).units = s.units := rfl
@[simp] theorem State.updCore_clusters (s : State) (i : Nat) (f : Core → Core) : (s.updCore i f).clusters = s.clusters := rfl
@[simp] theorem State.updCore_aside (s : State) (i : Nat) (f : Core → Core) : (s.updCore i f).aside = s.aside := rfl
@[simp] theorem State.updCore_rebuilds (s : State) (i : Nat) (f : Core → Core) : (s.updCore i f).rebuilds = s.rebuilds := rfl
@[simp] theorem State.updCore_engAsks (s : State) (i : Nat) (f : Core → Core) : (s.updCore i f).engAsks = s.engAsks := rfl
@[simp] theorem State.updCore_engGot (s : State) (i : Nat) (f : Core → Core) : (s.updCore i f).engGot = s.engGot := rfl
@[simp] theorem State.updCore_opWrites (s : State) (i : Nat) (f : Core → Core) : (s.updCore i f).opWrites = s.opWrites := rfl
@[simp] theorem State.updCore_copies (s : State) (i : Nat) (f : Core → Core) : (s.updCore i f).copies = s.copies := rfl
@[simp] theorem State.updCore_xfers (s : State) (i : Nat) (f : Core → Core) : (s.updCore i f).xfers = s.xfers := rfl
@[simp] theorem State.updCore_colls (s : State) (i : Nat) (f : Core → Core) : (s.updCore i f).colls = s.colls := rfl
@[simp] theorem State.updCore_collNos (s : State) (i : Nat) (f : Core → Core) : (s.updCore i f).collNos = s.collNos := rfl
@[simp] theorem State.updCore_earlyChunks (s : State) (i : Nat) (f : Core → Core) : (s.updCore i f).earlyChunks = s.earlyChunks := rfl
@[simp] theorem State.updCore_epochs (s : State) (i : Nat) (f : Core → Core) : (s.updCore i f).epochs = s.epochs := rfl
@[simp] theorem State.updCore_exchs (s : State) (i : Nat) (f : Core → Core) : (s.updCore i f).exchs = s.exchs := rfl
@[simp] theorem State.updCore_seqOut (s : State) (i : Nat) (f : Core → Core) : (s.updCore i f).seqOut = s.seqOut := rfl
@[simp] theorem State.updCore_retained (s : State) (i : Nat) (f : Core → Core) : (s.updCore i f).retained = s.retained := rfl
@[simp] theorem State.updCore_seqIn (s : State) (i : Nat) (f : Core → Core) : (s.updCore i f).seqIn = s.seqIn := rfl
@[simp] theorem State.updCore_ingress (s : State) (i : Nat) (f : Core → Core) : (s.updCore i f).ingress = s.ingress := rfl
@[simp] theorem State.updCore_inbox (s : State) (i : Nat) (f : Core → Core) : (s.updCore i f).inbox = s.inbox := rfl
@[simp] theorem State.updCore_answers (s : State) (i : Nat) (f : Core → Core) : (s.updCore i f).answers = s.answers := rfl
@[simp] theorem State.updCore_fwds (s : State) (i : Nat) (f : Core → Core) : (s.updCore i f).fwds = s.fwds := rfl
@[simp] theorem State.updCore_withheld (s : State) (i : Nat) (f : Core → Core) : (s.updCore i f).withheld = s.withheld := rfl
@[simp] theorem State.updCore_remWaits (s : State) (i : Nat) (f : Core → Core) : (s.updCore i f).remWaits = s.remWaits := rfl
@[simp] theorem State.updCore_pkgCol (s : State) (i : Nat) (f : Core → Core) : (s.updCore i f).pkgCol = s.pkgCol := rfl
@[simp] theorem State.updCore_lvls (s : State) (i : Nat) (f : Core → Core) : (s.updCore i f).lvls = s.lvls := rfl
@[simp] theorem State.updCore_colIn (s : State) (i : Nat) (f : Core → Core) : (s.updCore i f).colIn = s.colIn := rfl
@[simp] theorem State.updCore_moves (s : State) (i : Nat) (f : Core → Core) : (s.updCore i f).moves = s.moves := rfl
@[simp] theorem State.updCore_incoming (s : State) (i : Nat) (f : Core → Core) : (s.updCore i f).incoming = s.incoming := rfl
@[simp] theorem State.updCore_shoots (s : State) (i : Nat) (f : Core → Core) : (s.updCore i f).shoots = s.shoots := rfl
@[simp] theorem State.updCore_inFlight (s : State) (i : Nat) (f : Core → Core) : (s.updCore i f).inFlight = s.inFlight := rfl
@[simp] theorem State.updCore_sigHeld (s : State) (i : Nat) (f : Core → Core) : (s.updCore i f).sigHeld = s.sigHeld := rfl
@[simp] theorem State.updCore_remHeld (s : State) (i : Nat) (f : Core → Core) : (s.updCore i f).remHeld = s.remHeld := rfl
@[simp] theorem State.updCore_colour (s : State) (i : Nat) (f : Core → Core) : (s.updCore i f).colour = s.colour := rfl
@[simp] theorem State.updCore_linkStat (s : State) (i : Nat) (f : Core → Core) : (s.updCore i f).linkStat = s.linkStat := rfl
@[simp] theorem State.updCore_linkHeard (s : State) (i : Nat) (f : Core → Core) : (s.updCore i f).linkHeard = s.linkHeard := rfl
@[simp] theorem State.updCore_linkSent (s : State) (i : Nat) (f : Core → Core) : (s.updCore i f).linkSent = s.linkSent := rfl
@[simp] theorem State.updCore_linkTrain (s : State) (i : Nat) (f : Core → Core) : (s.updCore i f).linkTrain = s.linkTrain := rfl
@[simp] theorem State.updCore_linkFails (s : State) (i : Nat) (f : Core → Core) : (s.updCore i f).linkFails = s.linkFails := rfl
@[simp] theorem State.updCore_deaths (s : State) (i : Nat) (f : Core → Core) : (s.updCore i f).deaths = s.deaths := rfl
@[simp] theorem State.updCore_linkRecs (s : State) (i : Nat) (f : Core → Core) : (s.updCore i f).linkRecs = s.linkRecs := rfl
@[simp] theorem State.updCore_config (s : State) (i : Nat) (f : Core → Core) : (s.updCore i f).config = s.config := rfl
@[simp] theorem State.updCore_cfgSlots (s : State) (i : Nat) (f : Core → Core) : (s.updCore i f).cfgSlots = s.cfgSlots := rfl
@[simp] theorem State.updCore_fwVer (s : State) (i : Nat) (f : Core → Core) : (s.updCore i f).fwVer = s.fwVer := rfl
@[simp] theorem State.updCore_field (s : State) (i : Nat) (f : Core → Core) : (s.updCore i f).field = s.field := rfl
@[simp] theorem State.updCore_flash (s : State) (i : Nat) (f : Core → Core) : (s.updCore i f).flash = s.flash := rfl
@[simp] theorem State.updCore_offsets (s : State) (i : Nat) (f : Core → Core) : (s.updCore i f).offsets = s.offsets := rfl
@[simp] theorem State.updCore_attest (s : State) (i : Nat) (f : Core → Core) : (s.updCore i f).attest = s.attest := rfl
@[simp] theorem State.updCore_scrubs (s : State) (i : Nat) (f : Core → Core) : (s.updCore i f).scrubs = s.scrubs := rfl
@[simp] theorem State.updCore_rowCe (s : State) (i : Nat) (f : Core → Core) : (s.updCore i f).rowCe = s.rowCe := rfl
@[simp] theorem State.updCore_quiet (s : State) (i : Nat) (f : Core → Core) : (s.updCore i f).quiet = s.quiet := rfl
@[simp] theorem State.updCore_sentTo (s : State) (i : Nat) (f : Core → Core) : (s.updCore i f).sentTo = s.sentTo := rfl
@[simp] theorem State.updCore_recvFrom (s : State) (i : Nat) (f : Core → Core) : (s.updCore i f).recvFrom = s.recvFrom := rfl
@[simp] theorem State.updCore_outPackets (s : State) (i : Nat) (f : Core → Core) : (s.updCore i f).outPackets = s.outPackets := rfl
@[simp] theorem State.updCore_outEvents (s : State) (i : Nat) (f : Core → Core) : (s.updCore i f).outEvents = s.outEvents := rfl
@[simp] theorem State.updCore_outMgmt (s : State) (i : Nat) (f : Core → Core) : (s.updCore i f).outMgmt = s.outMgmt := rfl
@[simp] theorem State.updCore_outHost (s : State) (i : Nat) (f : Core → Core) : (s.updCore i f).outHost = s.outHost := rfl
@[simp] theorem State.updCore_outRetx (s : State) (i : Nat) (f : Core → Core) : (s.updCore i f).outRetx = s.outRetx := rfl
@[simp] theorem State.updCore_tailFor (s : State) (i : Nat) (f : Core → Core) : (s.updCore i f).tailFor = s.tailFor := rfl
@[simp] theorem State.updCore_agenda (s : State) (i : Nat) (f : Core → Core) : (s.updCore i f).agenda = s.agenda := rfl
@[simp] theorem State.updCore_issuing (s : State) (i : Nat) (f : Core → Core) : (s.updCore i f).issuing = s.issuing := rfl
@[simp] theorem State.updCore_turn (s : State) (i : Nat) (f : Core → Core) : (s.updCore i f).turn = s.turn := rfl
@[simp] theorem State.updCore_free (s : State) (i : Nat) (f : Core → Core) : (s.updCore i f).free = s.free := rfl
@[simp] theorem State.updCore_nextId (s : State) (i : Nat) (f : Core → Core) : (s.updCore i f).nextId = s.nextId := rfl

/- State.setDie: dies alone changes. -/

@[simp] theorem State.setDie_powered (s : State) (i : Nat) (d : Die) : (s.setDie i d).powered = s.powered := rfl
@[simp] theorem State.setDie_now (s : State) (i : Nat) (d : Die) : (s.setDie i d).now = s.now := rfl
@[simp] theorem State.setDie_pkgId (s : State) (i : Nat) (d : Die) : (s.setDie i d).pkgId = s.pkgId := rfl
@[simp] theorem State.setDie_placeWeights (s : State) (i : Nat) (d : Die) : (s.setDie i d).placeWeights = s.placeWeights := rfl
@[simp] theorem State.setDie_preemptCtl (s : State) (i : Nat) (d : Die) : (s.setDie i d).preemptCtl = s.preemptCtl := rfl
@[simp] theorem State.setDie_mem (s : State) (i : Nat) (d : Die) : (s.setDie i d).mem = s.mem := rfl
@[simp] theorem State.setDie_cores (s : State) (i : Nat) (d : Die) : (s.setDie i d).cores = s.cores := rfl
@[simp] theorem State.setDie_blocks (s : State) (i : Nat) (d : Die) : (s.setDie i d).blocks = s.blocks := rfl
@[simp] theorem State.setDie_grids (s : State) (i : Nat) (d : Die) : (s.setDie i d).grids = s.grids := rfl
@[simp] theorem State.setDie_bars (s : State) (i : Nat) (d : Die) : (s.setDie i d).bars = s.bars := rfl
@[simp] theorem State.setDie_pend (s : State) (i : Nat) (d : Die) : (s.setDie i d).pend = s.pend := rfl
@[simp] theorem State.setDie_writes (s : State) (i : Nat) (d : Die) : (s.setDie i d).writes = s.writes := rfl
@[simp] theorem State.setDie_scNext (s : State) (i : Nat) (d : Die) : (s.setDie i d).scNext = s.scNext := rfl
@[simp] theorem State.setDie_scOut (s : State) (i : Nat) (d : Die) : (s.setDie i d).scOut = s.scOut := rfl
@[simp] theorem State.setDie_job0Root (s : State) (i : Nat) (d : Die) : (s.setDie i d).job0Root = s.job0Root := rfl
@[simp] theorem State.setDie_ringPa (s : State) (i : Nat) (d : Die) : (s.setDie i d).ringPa = s.ringPa := rfl
@[simp] theorem State.setDie_ringLen (s : State) (i : Nat) (d : Die) : (s.setDie i d).ringLen = s.ringLen := rfl
@[simp] theorem State.setDie_podSeq (s : State) (i : Nat) (d : Die) : (s.setDie i d).podSeq = s.podSeq := rfl
@[simp] theorem State.setDie_words (s : State) (i : Nat) (d : Die) : (s.setDie i d).words = s.words := rfl
@[simp] theorem State.setDie_podPkgs (s : State) (i : Nat) (d : Die) : (s.setDie i d).podPkgs = s.podPkgs := rfl
@[simp] theorem State.setDie_podGrids (s : State) (i : Nat) (d : Die) : (s.setDie i d).podGrids = s.podGrids := rfl
@[simp] theorem State.setDie_evBuf (s : State) (i : Nat) (d : Die) : (s.setDie i d).evBuf = s.evBuf := rfl
@[simp] theorem State.setDie_evTail (s : State) (i : Nat) (d : Die) : (s.setDie i d).evTail = s.evTail := rfl
@[simp] theorem State.setDie_evKnown (s : State) (i : Nat) (d : Die) : (s.setDie i d).evKnown = s.evKnown := rfl
@[simp] theorem State.setDie_gap (s : State) (i : Nat) (d : Die) : (s.setDie i d).gap = s.gap := rfl
@[simp] theorem State.setDie_fenced (s : State) (i : Nat) (d : Die) : (s.setDie i d).fenced = s.fenced := rfl
@[simp] theorem State.setDie_lost (s : State) (i : Nat) (d : Die) : (s.setDie i d).lost = s.lost := rfl
@[simp] theorem State.setDie_fenceVotes (s : State) (i : Nat) (d : Die) : (s.setDie i d).fenceVotes = s.fenceVotes := rfl
@[simp] theorem State.setDie_lossVotes (s : State) (i : Nat) (d : Die) : (s.setDie i d).lossVotes = s.lossVotes := rfl
@[simp] theorem State.setDie_digests (s : State) (i : Nat) (d : Die) : (s.setDie i d).digests = s.digests := rfl
@[simp] theorem State.setDie_majority (s : State) (i : Nat) (d : Die) : (s.setDie i d).majority = s.majority := rfl
@[simp] theorem State.setDie_fenceSent (s : State) (i : Nat) (d : Die) : (s.setDie i d).fenceSent = s.fenceSent := rfl
@[simp] theorem State.setDie_fenceCkpt (s : State) (i : Nat) (d : Die) : (s.setDie i d).fenceCkpt = s.fenceCkpt := rfl
@[simp] theorem State.setDie_joined (s : State) (i : Nat) (d : Die) : (s.setDie i d).joined = s.joined := rfl
@[simp] theorem State.setDie_hold (s : State) (i : Nat) (d : Die) : (s.setDie i d).hold = s.hold := rfl
@[simp] theorem State.setDie_withdrawn (s : State) (i : Nat) (d : Die) : (s.setDie i d).withdrawn = s.withdrawn := rfl
@[simp] theorem State.setDie_rejoin (s : State) (i : Nat) (d : Die) : (s.setDie i d).rejoin = s.rejoin := rfl
@[simp] theorem State.setDie_aliases (s : State) (i : Nat) (d : Die) : (s.setDie i d).aliases = s.aliases := rfl
@[simp] theorem State.setDie_hook (s : State) (i : Nat) (d : Die) : (s.setDie i d).hook = s.hook := rfl
@[simp] theorem State.setDie_snap (s : State) (i : Nat) (d : Die) : (s.setDie i d).snap = s.snap := rfl
@[simp] theorem State.setDie_snapWait (s : State) (i : Nat) (d : Die) : (s.setDie i d).snapWait = s.snapWait := rfl
@[simp] theorem State.setDie_rolls (s : State) (i : Nat) (d : Die) : (s.setDie i d).rolls = s.rolls := rfl
@[simp] theorem State.setDie_saves (s : State) (i : Nat) (d : Die) : (s.setDie i d).saves = s.saves := rfl
@[simp] theorem State.setDie_lines (s : State) (i : Nat) (d : Die) : (s.setDie i d).lines = s.lines := rfl
@[simp] theorem State.setDie_lineAsks (s : State) (i : Nat) (d : Die) : (s.setDie i d).lineAsks = s.lineAsks := rfl
@[simp] theorem State.setDie_queues (s : State) (i : Nat) (d : Die) : (s.setDie i d).queues = s.queues := rfl
@[simp] theorem State.setDie_subs (s : State) (i : Nat) (d : Die) : (s.setDie i d).subs = s.subs := rfl
@[simp] theorem State.setDie_units (s : State) (i : Nat) (d : Die) : (s.setDie i d).units = s.units := rfl
@[simp] theorem State.setDie_clusters (s : State) (i : Nat) (d : Die) : (s.setDie i d).clusters = s.clusters := rfl
@[simp] theorem State.setDie_aside (s : State) (i : Nat) (d : Die) : (s.setDie i d).aside = s.aside := rfl
@[simp] theorem State.setDie_rebuilds (s : State) (i : Nat) (d : Die) : (s.setDie i d).rebuilds = s.rebuilds := rfl
@[simp] theorem State.setDie_engAsks (s : State) (i : Nat) (d : Die) : (s.setDie i d).engAsks = s.engAsks := rfl
@[simp] theorem State.setDie_engGot (s : State) (i : Nat) (d : Die) : (s.setDie i d).engGot = s.engGot := rfl
@[simp] theorem State.setDie_opWrites (s : State) (i : Nat) (d : Die) : (s.setDie i d).opWrites = s.opWrites := rfl
@[simp] theorem State.setDie_copies (s : State) (i : Nat) (d : Die) : (s.setDie i d).copies = s.copies := rfl
@[simp] theorem State.setDie_xfers (s : State) (i : Nat) (d : Die) : (s.setDie i d).xfers = s.xfers := rfl
@[simp] theorem State.setDie_colls (s : State) (i : Nat) (d : Die) : (s.setDie i d).colls = s.colls := rfl
@[simp] theorem State.setDie_collNos (s : State) (i : Nat) (d : Die) : (s.setDie i d).collNos = s.collNos := rfl
@[simp] theorem State.setDie_earlyChunks (s : State) (i : Nat) (d : Die) : (s.setDie i d).earlyChunks = s.earlyChunks := rfl
@[simp] theorem State.setDie_epochs (s : State) (i : Nat) (d : Die) : (s.setDie i d).epochs = s.epochs := rfl
@[simp] theorem State.setDie_exchs (s : State) (i : Nat) (d : Die) : (s.setDie i d).exchs = s.exchs := rfl
@[simp] theorem State.setDie_seqOut (s : State) (i : Nat) (d : Die) : (s.setDie i d).seqOut = s.seqOut := rfl
@[simp] theorem State.setDie_retained (s : State) (i : Nat) (d : Die) : (s.setDie i d).retained = s.retained := rfl
@[simp] theorem State.setDie_seqIn (s : State) (i : Nat) (d : Die) : (s.setDie i d).seqIn = s.seqIn := rfl
@[simp] theorem State.setDie_ingress (s : State) (i : Nat) (d : Die) : (s.setDie i d).ingress = s.ingress := rfl
@[simp] theorem State.setDie_inbox (s : State) (i : Nat) (d : Die) : (s.setDie i d).inbox = s.inbox := rfl
@[simp] theorem State.setDie_answers (s : State) (i : Nat) (d : Die) : (s.setDie i d).answers = s.answers := rfl
@[simp] theorem State.setDie_fwds (s : State) (i : Nat) (d : Die) : (s.setDie i d).fwds = s.fwds := rfl
@[simp] theorem State.setDie_withheld (s : State) (i : Nat) (d : Die) : (s.setDie i d).withheld = s.withheld := rfl
@[simp] theorem State.setDie_remWaits (s : State) (i : Nat) (d : Die) : (s.setDie i d).remWaits = s.remWaits := rfl
@[simp] theorem State.setDie_pkgCol (s : State) (i : Nat) (d : Die) : (s.setDie i d).pkgCol = s.pkgCol := rfl
@[simp] theorem State.setDie_lvls (s : State) (i : Nat) (d : Die) : (s.setDie i d).lvls = s.lvls := rfl
@[simp] theorem State.setDie_colIn (s : State) (i : Nat) (d : Die) : (s.setDie i d).colIn = s.colIn := rfl
@[simp] theorem State.setDie_moves (s : State) (i : Nat) (d : Die) : (s.setDie i d).moves = s.moves := rfl
@[simp] theorem State.setDie_incoming (s : State) (i : Nat) (d : Die) : (s.setDie i d).incoming = s.incoming := rfl
@[simp] theorem State.setDie_shoots (s : State) (i : Nat) (d : Die) : (s.setDie i d).shoots = s.shoots := rfl
@[simp] theorem State.setDie_inFlight (s : State) (i : Nat) (d : Die) : (s.setDie i d).inFlight = s.inFlight := rfl
@[simp] theorem State.setDie_sigHeld (s : State) (i : Nat) (d : Die) : (s.setDie i d).sigHeld = s.sigHeld := rfl
@[simp] theorem State.setDie_remHeld (s : State) (i : Nat) (d : Die) : (s.setDie i d).remHeld = s.remHeld := rfl
@[simp] theorem State.setDie_colour (s : State) (i : Nat) (d : Die) : (s.setDie i d).colour = s.colour := rfl
@[simp] theorem State.setDie_linkStat (s : State) (i : Nat) (d : Die) : (s.setDie i d).linkStat = s.linkStat := rfl
@[simp] theorem State.setDie_linkHeard (s : State) (i : Nat) (d : Die) : (s.setDie i d).linkHeard = s.linkHeard := rfl
@[simp] theorem State.setDie_linkSent (s : State) (i : Nat) (d : Die) : (s.setDie i d).linkSent = s.linkSent := rfl
@[simp] theorem State.setDie_linkTrain (s : State) (i : Nat) (d : Die) : (s.setDie i d).linkTrain = s.linkTrain := rfl
@[simp] theorem State.setDie_linkFails (s : State) (i : Nat) (d : Die) : (s.setDie i d).linkFails = s.linkFails := rfl
@[simp] theorem State.setDie_deaths (s : State) (i : Nat) (d : Die) : (s.setDie i d).deaths = s.deaths := rfl
@[simp] theorem State.setDie_linkRecs (s : State) (i : Nat) (d : Die) : (s.setDie i d).linkRecs = s.linkRecs := rfl
@[simp] theorem State.setDie_config (s : State) (i : Nat) (d : Die) : (s.setDie i d).config = s.config := rfl
@[simp] theorem State.setDie_cfgSlots (s : State) (i : Nat) (d : Die) : (s.setDie i d).cfgSlots = s.cfgSlots := rfl
@[simp] theorem State.setDie_fwVer (s : State) (i : Nat) (d : Die) : (s.setDie i d).fwVer = s.fwVer := rfl
@[simp] theorem State.setDie_field (s : State) (i : Nat) (d : Die) : (s.setDie i d).field = s.field := rfl
@[simp] theorem State.setDie_flash (s : State) (i : Nat) (d : Die) : (s.setDie i d).flash = s.flash := rfl
@[simp] theorem State.setDie_offsets (s : State) (i : Nat) (d : Die) : (s.setDie i d).offsets = s.offsets := rfl
@[simp] theorem State.setDie_attest (s : State) (i : Nat) (d : Die) : (s.setDie i d).attest = s.attest := rfl
@[simp] theorem State.setDie_scrubs (s : State) (i : Nat) (d : Die) : (s.setDie i d).scrubs = s.scrubs := rfl
@[simp] theorem State.setDie_rowCe (s : State) (i : Nat) (d : Die) : (s.setDie i d).rowCe = s.rowCe := rfl
@[simp] theorem State.setDie_quiet (s : State) (i : Nat) (d : Die) : (s.setDie i d).quiet = s.quiet := rfl
@[simp] theorem State.setDie_sentTo (s : State) (i : Nat) (d : Die) : (s.setDie i d).sentTo = s.sentTo := rfl
@[simp] theorem State.setDie_recvFrom (s : State) (i : Nat) (d : Die) : (s.setDie i d).recvFrom = s.recvFrom := rfl
@[simp] theorem State.setDie_outPackets (s : State) (i : Nat) (d : Die) : (s.setDie i d).outPackets = s.outPackets := rfl
@[simp] theorem State.setDie_outEvents (s : State) (i : Nat) (d : Die) : (s.setDie i d).outEvents = s.outEvents := rfl
@[simp] theorem State.setDie_outMgmt (s : State) (i : Nat) (d : Die) : (s.setDie i d).outMgmt = s.outMgmt := rfl
@[simp] theorem State.setDie_outHost (s : State) (i : Nat) (d : Die) : (s.setDie i d).outHost = s.outHost := rfl
@[simp] theorem State.setDie_outRetx (s : State) (i : Nat) (d : Die) : (s.setDie i d).outRetx = s.outRetx := rfl
@[simp] theorem State.setDie_tailFor (s : State) (i : Nat) (d : Die) : (s.setDie i d).tailFor = s.tailFor := rfl
@[simp] theorem State.setDie_agenda (s : State) (i : Nat) (d : Die) : (s.setDie i d).agenda = s.agenda := rfl
@[simp] theorem State.setDie_issuing (s : State) (i : Nat) (d : Die) : (s.setDie i d).issuing = s.issuing := rfl
@[simp] theorem State.setDie_turn (s : State) (i : Nat) (d : Die) : (s.setDie i d).turn = s.turn := rfl
@[simp] theorem State.setDie_free (s : State) (i : Nat) (d : Die) : (s.setDie i d).free = s.free := rfl
@[simp] theorem State.setDie_nextId (s : State) (i : Nat) (d : Die) : (s.setDie i d).nextId = s.nextId := rfl

/- State.updDie: dies alone changes. -/

@[simp] theorem State.updDie_powered (s : State) (i : Nat) (f : Die → Die) : (s.updDie i f).powered = s.powered := rfl
@[simp] theorem State.updDie_now (s : State) (i : Nat) (f : Die → Die) : (s.updDie i f).now = s.now := rfl
@[simp] theorem State.updDie_pkgId (s : State) (i : Nat) (f : Die → Die) : (s.updDie i f).pkgId = s.pkgId := rfl
@[simp] theorem State.updDie_placeWeights (s : State) (i : Nat) (f : Die → Die) : (s.updDie i f).placeWeights = s.placeWeights := rfl
@[simp] theorem State.updDie_preemptCtl (s : State) (i : Nat) (f : Die → Die) : (s.updDie i f).preemptCtl = s.preemptCtl := rfl
@[simp] theorem State.updDie_mem (s : State) (i : Nat) (f : Die → Die) : (s.updDie i f).mem = s.mem := rfl
@[simp] theorem State.updDie_cores (s : State) (i : Nat) (f : Die → Die) : (s.updDie i f).cores = s.cores := rfl
@[simp] theorem State.updDie_blocks (s : State) (i : Nat) (f : Die → Die) : (s.updDie i f).blocks = s.blocks := rfl
@[simp] theorem State.updDie_grids (s : State) (i : Nat) (f : Die → Die) : (s.updDie i f).grids = s.grids := rfl
@[simp] theorem State.updDie_bars (s : State) (i : Nat) (f : Die → Die) : (s.updDie i f).bars = s.bars := rfl
@[simp] theorem State.updDie_pend (s : State) (i : Nat) (f : Die → Die) : (s.updDie i f).pend = s.pend := rfl
@[simp] theorem State.updDie_writes (s : State) (i : Nat) (f : Die → Die) : (s.updDie i f).writes = s.writes := rfl
@[simp] theorem State.updDie_scNext (s : State) (i : Nat) (f : Die → Die) : (s.updDie i f).scNext = s.scNext := rfl
@[simp] theorem State.updDie_scOut (s : State) (i : Nat) (f : Die → Die) : (s.updDie i f).scOut = s.scOut := rfl
@[simp] theorem State.updDie_job0Root (s : State) (i : Nat) (f : Die → Die) : (s.updDie i f).job0Root = s.job0Root := rfl
@[simp] theorem State.updDie_ringPa (s : State) (i : Nat) (f : Die → Die) : (s.updDie i f).ringPa = s.ringPa := rfl
@[simp] theorem State.updDie_ringLen (s : State) (i : Nat) (f : Die → Die) : (s.updDie i f).ringLen = s.ringLen := rfl
@[simp] theorem State.updDie_podSeq (s : State) (i : Nat) (f : Die → Die) : (s.updDie i f).podSeq = s.podSeq := rfl
@[simp] theorem State.updDie_words (s : State) (i : Nat) (f : Die → Die) : (s.updDie i f).words = s.words := rfl
@[simp] theorem State.updDie_podPkgs (s : State) (i : Nat) (f : Die → Die) : (s.updDie i f).podPkgs = s.podPkgs := rfl
@[simp] theorem State.updDie_podGrids (s : State) (i : Nat) (f : Die → Die) : (s.updDie i f).podGrids = s.podGrids := rfl
@[simp] theorem State.updDie_evBuf (s : State) (i : Nat) (f : Die → Die) : (s.updDie i f).evBuf = s.evBuf := rfl
@[simp] theorem State.updDie_evTail (s : State) (i : Nat) (f : Die → Die) : (s.updDie i f).evTail = s.evTail := rfl
@[simp] theorem State.updDie_evKnown (s : State) (i : Nat) (f : Die → Die) : (s.updDie i f).evKnown = s.evKnown := rfl
@[simp] theorem State.updDie_gap (s : State) (i : Nat) (f : Die → Die) : (s.updDie i f).gap = s.gap := rfl
@[simp] theorem State.updDie_fenced (s : State) (i : Nat) (f : Die → Die) : (s.updDie i f).fenced = s.fenced := rfl
@[simp] theorem State.updDie_lost (s : State) (i : Nat) (f : Die → Die) : (s.updDie i f).lost = s.lost := rfl
@[simp] theorem State.updDie_fenceVotes (s : State) (i : Nat) (f : Die → Die) : (s.updDie i f).fenceVotes = s.fenceVotes := rfl
@[simp] theorem State.updDie_lossVotes (s : State) (i : Nat) (f : Die → Die) : (s.updDie i f).lossVotes = s.lossVotes := rfl
@[simp] theorem State.updDie_digests (s : State) (i : Nat) (f : Die → Die) : (s.updDie i f).digests = s.digests := rfl
@[simp] theorem State.updDie_majority (s : State) (i : Nat) (f : Die → Die) : (s.updDie i f).majority = s.majority := rfl
@[simp] theorem State.updDie_fenceSent (s : State) (i : Nat) (f : Die → Die) : (s.updDie i f).fenceSent = s.fenceSent := rfl
@[simp] theorem State.updDie_fenceCkpt (s : State) (i : Nat) (f : Die → Die) : (s.updDie i f).fenceCkpt = s.fenceCkpt := rfl
@[simp] theorem State.updDie_joined (s : State) (i : Nat) (f : Die → Die) : (s.updDie i f).joined = s.joined := rfl
@[simp] theorem State.updDie_hold (s : State) (i : Nat) (f : Die → Die) : (s.updDie i f).hold = s.hold := rfl
@[simp] theorem State.updDie_withdrawn (s : State) (i : Nat) (f : Die → Die) : (s.updDie i f).withdrawn = s.withdrawn := rfl
@[simp] theorem State.updDie_rejoin (s : State) (i : Nat) (f : Die → Die) : (s.updDie i f).rejoin = s.rejoin := rfl
@[simp] theorem State.updDie_aliases (s : State) (i : Nat) (f : Die → Die) : (s.updDie i f).aliases = s.aliases := rfl
@[simp] theorem State.updDie_hook (s : State) (i : Nat) (f : Die → Die) : (s.updDie i f).hook = s.hook := rfl
@[simp] theorem State.updDie_snap (s : State) (i : Nat) (f : Die → Die) : (s.updDie i f).snap = s.snap := rfl
@[simp] theorem State.updDie_snapWait (s : State) (i : Nat) (f : Die → Die) : (s.updDie i f).snapWait = s.snapWait := rfl
@[simp] theorem State.updDie_rolls (s : State) (i : Nat) (f : Die → Die) : (s.updDie i f).rolls = s.rolls := rfl
@[simp] theorem State.updDie_saves (s : State) (i : Nat) (f : Die → Die) : (s.updDie i f).saves = s.saves := rfl
@[simp] theorem State.updDie_lines (s : State) (i : Nat) (f : Die → Die) : (s.updDie i f).lines = s.lines := rfl
@[simp] theorem State.updDie_lineAsks (s : State) (i : Nat) (f : Die → Die) : (s.updDie i f).lineAsks = s.lineAsks := rfl
@[simp] theorem State.updDie_queues (s : State) (i : Nat) (f : Die → Die) : (s.updDie i f).queues = s.queues := rfl
@[simp] theorem State.updDie_subs (s : State) (i : Nat) (f : Die → Die) : (s.updDie i f).subs = s.subs := rfl
@[simp] theorem State.updDie_units (s : State) (i : Nat) (f : Die → Die) : (s.updDie i f).units = s.units := rfl
@[simp] theorem State.updDie_clusters (s : State) (i : Nat) (f : Die → Die) : (s.updDie i f).clusters = s.clusters := rfl
@[simp] theorem State.updDie_aside (s : State) (i : Nat) (f : Die → Die) : (s.updDie i f).aside = s.aside := rfl
@[simp] theorem State.updDie_rebuilds (s : State) (i : Nat) (f : Die → Die) : (s.updDie i f).rebuilds = s.rebuilds := rfl
@[simp] theorem State.updDie_engAsks (s : State) (i : Nat) (f : Die → Die) : (s.updDie i f).engAsks = s.engAsks := rfl
@[simp] theorem State.updDie_engGot (s : State) (i : Nat) (f : Die → Die) : (s.updDie i f).engGot = s.engGot := rfl
@[simp] theorem State.updDie_opWrites (s : State) (i : Nat) (f : Die → Die) : (s.updDie i f).opWrites = s.opWrites := rfl
@[simp] theorem State.updDie_copies (s : State) (i : Nat) (f : Die → Die) : (s.updDie i f).copies = s.copies := rfl
@[simp] theorem State.updDie_xfers (s : State) (i : Nat) (f : Die → Die) : (s.updDie i f).xfers = s.xfers := rfl
@[simp] theorem State.updDie_colls (s : State) (i : Nat) (f : Die → Die) : (s.updDie i f).colls = s.colls := rfl
@[simp] theorem State.updDie_collNos (s : State) (i : Nat) (f : Die → Die) : (s.updDie i f).collNos = s.collNos := rfl
@[simp] theorem State.updDie_earlyChunks (s : State) (i : Nat) (f : Die → Die) : (s.updDie i f).earlyChunks = s.earlyChunks := rfl
@[simp] theorem State.updDie_epochs (s : State) (i : Nat) (f : Die → Die) : (s.updDie i f).epochs = s.epochs := rfl
@[simp] theorem State.updDie_exchs (s : State) (i : Nat) (f : Die → Die) : (s.updDie i f).exchs = s.exchs := rfl
@[simp] theorem State.updDie_seqOut (s : State) (i : Nat) (f : Die → Die) : (s.updDie i f).seqOut = s.seqOut := rfl
@[simp] theorem State.updDie_retained (s : State) (i : Nat) (f : Die → Die) : (s.updDie i f).retained = s.retained := rfl
@[simp] theorem State.updDie_seqIn (s : State) (i : Nat) (f : Die → Die) : (s.updDie i f).seqIn = s.seqIn := rfl
@[simp] theorem State.updDie_ingress (s : State) (i : Nat) (f : Die → Die) : (s.updDie i f).ingress = s.ingress := rfl
@[simp] theorem State.updDie_inbox (s : State) (i : Nat) (f : Die → Die) : (s.updDie i f).inbox = s.inbox := rfl
@[simp] theorem State.updDie_answers (s : State) (i : Nat) (f : Die → Die) : (s.updDie i f).answers = s.answers := rfl
@[simp] theorem State.updDie_fwds (s : State) (i : Nat) (f : Die → Die) : (s.updDie i f).fwds = s.fwds := rfl
@[simp] theorem State.updDie_withheld (s : State) (i : Nat) (f : Die → Die) : (s.updDie i f).withheld = s.withheld := rfl
@[simp] theorem State.updDie_remWaits (s : State) (i : Nat) (f : Die → Die) : (s.updDie i f).remWaits = s.remWaits := rfl
@[simp] theorem State.updDie_pkgCol (s : State) (i : Nat) (f : Die → Die) : (s.updDie i f).pkgCol = s.pkgCol := rfl
@[simp] theorem State.updDie_lvls (s : State) (i : Nat) (f : Die → Die) : (s.updDie i f).lvls = s.lvls := rfl
@[simp] theorem State.updDie_colIn (s : State) (i : Nat) (f : Die → Die) : (s.updDie i f).colIn = s.colIn := rfl
@[simp] theorem State.updDie_moves (s : State) (i : Nat) (f : Die → Die) : (s.updDie i f).moves = s.moves := rfl
@[simp] theorem State.updDie_incoming (s : State) (i : Nat) (f : Die → Die) : (s.updDie i f).incoming = s.incoming := rfl
@[simp] theorem State.updDie_shoots (s : State) (i : Nat) (f : Die → Die) : (s.updDie i f).shoots = s.shoots := rfl
@[simp] theorem State.updDie_inFlight (s : State) (i : Nat) (f : Die → Die) : (s.updDie i f).inFlight = s.inFlight := rfl
@[simp] theorem State.updDie_sigHeld (s : State) (i : Nat) (f : Die → Die) : (s.updDie i f).sigHeld = s.sigHeld := rfl
@[simp] theorem State.updDie_remHeld (s : State) (i : Nat) (f : Die → Die) : (s.updDie i f).remHeld = s.remHeld := rfl
@[simp] theorem State.updDie_colour (s : State) (i : Nat) (f : Die → Die) : (s.updDie i f).colour = s.colour := rfl
@[simp] theorem State.updDie_linkStat (s : State) (i : Nat) (f : Die → Die) : (s.updDie i f).linkStat = s.linkStat := rfl
@[simp] theorem State.updDie_linkHeard (s : State) (i : Nat) (f : Die → Die) : (s.updDie i f).linkHeard = s.linkHeard := rfl
@[simp] theorem State.updDie_linkSent (s : State) (i : Nat) (f : Die → Die) : (s.updDie i f).linkSent = s.linkSent := rfl
@[simp] theorem State.updDie_linkTrain (s : State) (i : Nat) (f : Die → Die) : (s.updDie i f).linkTrain = s.linkTrain := rfl
@[simp] theorem State.updDie_linkFails (s : State) (i : Nat) (f : Die → Die) : (s.updDie i f).linkFails = s.linkFails := rfl
@[simp] theorem State.updDie_deaths (s : State) (i : Nat) (f : Die → Die) : (s.updDie i f).deaths = s.deaths := rfl
@[simp] theorem State.updDie_linkRecs (s : State) (i : Nat) (f : Die → Die) : (s.updDie i f).linkRecs = s.linkRecs := rfl
@[simp] theorem State.updDie_config (s : State) (i : Nat) (f : Die → Die) : (s.updDie i f).config = s.config := rfl
@[simp] theorem State.updDie_cfgSlots (s : State) (i : Nat) (f : Die → Die) : (s.updDie i f).cfgSlots = s.cfgSlots := rfl
@[simp] theorem State.updDie_fwVer (s : State) (i : Nat) (f : Die → Die) : (s.updDie i f).fwVer = s.fwVer := rfl
@[simp] theorem State.updDie_field (s : State) (i : Nat) (f : Die → Die) : (s.updDie i f).field = s.field := rfl
@[simp] theorem State.updDie_flash (s : State) (i : Nat) (f : Die → Die) : (s.updDie i f).flash = s.flash := rfl
@[simp] theorem State.updDie_offsets (s : State) (i : Nat) (f : Die → Die) : (s.updDie i f).offsets = s.offsets := rfl
@[simp] theorem State.updDie_attest (s : State) (i : Nat) (f : Die → Die) : (s.updDie i f).attest = s.attest := rfl
@[simp] theorem State.updDie_scrubs (s : State) (i : Nat) (f : Die → Die) : (s.updDie i f).scrubs = s.scrubs := rfl
@[simp] theorem State.updDie_rowCe (s : State) (i : Nat) (f : Die → Die) : (s.updDie i f).rowCe = s.rowCe := rfl
@[simp] theorem State.updDie_quiet (s : State) (i : Nat) (f : Die → Die) : (s.updDie i f).quiet = s.quiet := rfl
@[simp] theorem State.updDie_sentTo (s : State) (i : Nat) (f : Die → Die) : (s.updDie i f).sentTo = s.sentTo := rfl
@[simp] theorem State.updDie_recvFrom (s : State) (i : Nat) (f : Die → Die) : (s.updDie i f).recvFrom = s.recvFrom := rfl
@[simp] theorem State.updDie_outPackets (s : State) (i : Nat) (f : Die → Die) : (s.updDie i f).outPackets = s.outPackets := rfl
@[simp] theorem State.updDie_outEvents (s : State) (i : Nat) (f : Die → Die) : (s.updDie i f).outEvents = s.outEvents := rfl
@[simp] theorem State.updDie_outMgmt (s : State) (i : Nat) (f : Die → Die) : (s.updDie i f).outMgmt = s.outMgmt := rfl
@[simp] theorem State.updDie_outHost (s : State) (i : Nat) (f : Die → Die) : (s.updDie i f).outHost = s.outHost := rfl
@[simp] theorem State.updDie_outRetx (s : State) (i : Nat) (f : Die → Die) : (s.updDie i f).outRetx = s.outRetx := rfl
@[simp] theorem State.updDie_tailFor (s : State) (i : Nat) (f : Die → Die) : (s.updDie i f).tailFor = s.tailFor := rfl
@[simp] theorem State.updDie_agenda (s : State) (i : Nat) (f : Die → Die) : (s.updDie i f).agenda = s.agenda := rfl
@[simp] theorem State.updDie_issuing (s : State) (i : Nat) (f : Die → Die) : (s.updDie i f).issuing = s.issuing := rfl
@[simp] theorem State.updDie_turn (s : State) (i : Nat) (f : Die → Die) : (s.updDie i f).turn = s.turn := rfl
@[simp] theorem State.updDie_free (s : State) (i : Nat) (f : Die → Die) : (s.updDie i f).free = s.free := rfl
@[simp] theorem State.updDie_nextId (s : State) (i : Nat) (f : Die → Die) : (s.updDie i f).nextId = s.nextId := rfl

/- State.updGrid: grids alone changes. -/

@[simp] theorem State.updGrid_powered (s : State) (h : Nat) (f : Grid → Grid) : (s.updGrid h f).powered = s.powered := rfl
@[simp] theorem State.updGrid_now (s : State) (h : Nat) (f : Grid → Grid) : (s.updGrid h f).now = s.now := rfl
@[simp] theorem State.updGrid_pkgId (s : State) (h : Nat) (f : Grid → Grid) : (s.updGrid h f).pkgId = s.pkgId := rfl
@[simp] theorem State.updGrid_placeWeights (s : State) (h : Nat) (f : Grid → Grid) : (s.updGrid h f).placeWeights = s.placeWeights := rfl
@[simp] theorem State.updGrid_preemptCtl (s : State) (h : Nat) (f : Grid → Grid) : (s.updGrid h f).preemptCtl = s.preemptCtl := rfl
@[simp] theorem State.updGrid_mem (s : State) (h : Nat) (f : Grid → Grid) : (s.updGrid h f).mem = s.mem := rfl
@[simp] theorem State.updGrid_cores (s : State) (h : Nat) (f : Grid → Grid) : (s.updGrid h f).cores = s.cores := rfl
@[simp] theorem State.updGrid_dies (s : State) (h : Nat) (f : Grid → Grid) : (s.updGrid h f).dies = s.dies := rfl
@[simp] theorem State.updGrid_blocks (s : State) (h : Nat) (f : Grid → Grid) : (s.updGrid h f).blocks = s.blocks := rfl
@[simp] theorem State.updGrid_bars (s : State) (h : Nat) (f : Grid → Grid) : (s.updGrid h f).bars = s.bars := rfl
@[simp] theorem State.updGrid_pend (s : State) (h : Nat) (f : Grid → Grid) : (s.updGrid h f).pend = s.pend := rfl
@[simp] theorem State.updGrid_writes (s : State) (h : Nat) (f : Grid → Grid) : (s.updGrid h f).writes = s.writes := rfl
@[simp] theorem State.updGrid_scNext (s : State) (h : Nat) (f : Grid → Grid) : (s.updGrid h f).scNext = s.scNext := rfl
@[simp] theorem State.updGrid_scOut (s : State) (h : Nat) (f : Grid → Grid) : (s.updGrid h f).scOut = s.scOut := rfl
@[simp] theorem State.updGrid_job0Root (s : State) (h : Nat) (f : Grid → Grid) : (s.updGrid h f).job0Root = s.job0Root := rfl
@[simp] theorem State.updGrid_ringPa (s : State) (h : Nat) (f : Grid → Grid) : (s.updGrid h f).ringPa = s.ringPa := rfl
@[simp] theorem State.updGrid_ringLen (s : State) (h : Nat) (f : Grid → Grid) : (s.updGrid h f).ringLen = s.ringLen := rfl
@[simp] theorem State.updGrid_podSeq (s : State) (h : Nat) (f : Grid → Grid) : (s.updGrid h f).podSeq = s.podSeq := rfl
@[simp] theorem State.updGrid_words (s : State) (h : Nat) (f : Grid → Grid) : (s.updGrid h f).words = s.words := rfl
@[simp] theorem State.updGrid_podPkgs (s : State) (h : Nat) (f : Grid → Grid) : (s.updGrid h f).podPkgs = s.podPkgs := rfl
@[simp] theorem State.updGrid_podGrids (s : State) (h : Nat) (f : Grid → Grid) : (s.updGrid h f).podGrids = s.podGrids := rfl
@[simp] theorem State.updGrid_evBuf (s : State) (h : Nat) (f : Grid → Grid) : (s.updGrid h f).evBuf = s.evBuf := rfl
@[simp] theorem State.updGrid_evTail (s : State) (h : Nat) (f : Grid → Grid) : (s.updGrid h f).evTail = s.evTail := rfl
@[simp] theorem State.updGrid_evKnown (s : State) (h : Nat) (f : Grid → Grid) : (s.updGrid h f).evKnown = s.evKnown := rfl
@[simp] theorem State.updGrid_gap (s : State) (h : Nat) (f : Grid → Grid) : (s.updGrid h f).gap = s.gap := rfl
@[simp] theorem State.updGrid_fenced (s : State) (h : Nat) (f : Grid → Grid) : (s.updGrid h f).fenced = s.fenced := rfl
@[simp] theorem State.updGrid_lost (s : State) (h : Nat) (f : Grid → Grid) : (s.updGrid h f).lost = s.lost := rfl
@[simp] theorem State.updGrid_fenceVotes (s : State) (h : Nat) (f : Grid → Grid) : (s.updGrid h f).fenceVotes = s.fenceVotes := rfl
@[simp] theorem State.updGrid_lossVotes (s : State) (h : Nat) (f : Grid → Grid) : (s.updGrid h f).lossVotes = s.lossVotes := rfl
@[simp] theorem State.updGrid_digests (s : State) (h : Nat) (f : Grid → Grid) : (s.updGrid h f).digests = s.digests := rfl
@[simp] theorem State.updGrid_majority (s : State) (h : Nat) (f : Grid → Grid) : (s.updGrid h f).majority = s.majority := rfl
@[simp] theorem State.updGrid_fenceSent (s : State) (h : Nat) (f : Grid → Grid) : (s.updGrid h f).fenceSent = s.fenceSent := rfl
@[simp] theorem State.updGrid_fenceCkpt (s : State) (h : Nat) (f : Grid → Grid) : (s.updGrid h f).fenceCkpt = s.fenceCkpt := rfl
@[simp] theorem State.updGrid_joined (s : State) (h : Nat) (f : Grid → Grid) : (s.updGrid h f).joined = s.joined := rfl
@[simp] theorem State.updGrid_hold (s : State) (h : Nat) (f : Grid → Grid) : (s.updGrid h f).hold = s.hold := rfl
@[simp] theorem State.updGrid_withdrawn (s : State) (h : Nat) (f : Grid → Grid) : (s.updGrid h f).withdrawn = s.withdrawn := rfl
@[simp] theorem State.updGrid_rejoin (s : State) (h : Nat) (f : Grid → Grid) : (s.updGrid h f).rejoin = s.rejoin := rfl
@[simp] theorem State.updGrid_aliases (s : State) (h : Nat) (f : Grid → Grid) : (s.updGrid h f).aliases = s.aliases := rfl
@[simp] theorem State.updGrid_hook (s : State) (h : Nat) (f : Grid → Grid) : (s.updGrid h f).hook = s.hook := rfl
@[simp] theorem State.updGrid_snap (s : State) (h : Nat) (f : Grid → Grid) : (s.updGrid h f).snap = s.snap := rfl
@[simp] theorem State.updGrid_snapWait (s : State) (h : Nat) (f : Grid → Grid) : (s.updGrid h f).snapWait = s.snapWait := rfl
@[simp] theorem State.updGrid_rolls (s : State) (h : Nat) (f : Grid → Grid) : (s.updGrid h f).rolls = s.rolls := rfl
@[simp] theorem State.updGrid_saves (s : State) (h : Nat) (f : Grid → Grid) : (s.updGrid h f).saves = s.saves := rfl
@[simp] theorem State.updGrid_lines (s : State) (h : Nat) (f : Grid → Grid) : (s.updGrid h f).lines = s.lines := rfl
@[simp] theorem State.updGrid_lineAsks (s : State) (h : Nat) (f : Grid → Grid) : (s.updGrid h f).lineAsks = s.lineAsks := rfl
@[simp] theorem State.updGrid_queues (s : State) (h : Nat) (f : Grid → Grid) : (s.updGrid h f).queues = s.queues := rfl
@[simp] theorem State.updGrid_subs (s : State) (h : Nat) (f : Grid → Grid) : (s.updGrid h f).subs = s.subs := rfl
@[simp] theorem State.updGrid_units (s : State) (h : Nat) (f : Grid → Grid) : (s.updGrid h f).units = s.units := rfl
@[simp] theorem State.updGrid_clusters (s : State) (h : Nat) (f : Grid → Grid) : (s.updGrid h f).clusters = s.clusters := rfl
@[simp] theorem State.updGrid_aside (s : State) (h : Nat) (f : Grid → Grid) : (s.updGrid h f).aside = s.aside := rfl
@[simp] theorem State.updGrid_rebuilds (s : State) (h : Nat) (f : Grid → Grid) : (s.updGrid h f).rebuilds = s.rebuilds := rfl
@[simp] theorem State.updGrid_engAsks (s : State) (h : Nat) (f : Grid → Grid) : (s.updGrid h f).engAsks = s.engAsks := rfl
@[simp] theorem State.updGrid_engGot (s : State) (h : Nat) (f : Grid → Grid) : (s.updGrid h f).engGot = s.engGot := rfl
@[simp] theorem State.updGrid_opWrites (s : State) (h : Nat) (f : Grid → Grid) : (s.updGrid h f).opWrites = s.opWrites := rfl
@[simp] theorem State.updGrid_copies (s : State) (h : Nat) (f : Grid → Grid) : (s.updGrid h f).copies = s.copies := rfl
@[simp] theorem State.updGrid_xfers (s : State) (h : Nat) (f : Grid → Grid) : (s.updGrid h f).xfers = s.xfers := rfl
@[simp] theorem State.updGrid_colls (s : State) (h : Nat) (f : Grid → Grid) : (s.updGrid h f).colls = s.colls := rfl
@[simp] theorem State.updGrid_collNos (s : State) (h : Nat) (f : Grid → Grid) : (s.updGrid h f).collNos = s.collNos := rfl
@[simp] theorem State.updGrid_earlyChunks (s : State) (h : Nat) (f : Grid → Grid) : (s.updGrid h f).earlyChunks = s.earlyChunks := rfl
@[simp] theorem State.updGrid_epochs (s : State) (h : Nat) (f : Grid → Grid) : (s.updGrid h f).epochs = s.epochs := rfl
@[simp] theorem State.updGrid_exchs (s : State) (h : Nat) (f : Grid → Grid) : (s.updGrid h f).exchs = s.exchs := rfl
@[simp] theorem State.updGrid_seqOut (s : State) (h : Nat) (f : Grid → Grid) : (s.updGrid h f).seqOut = s.seqOut := rfl
@[simp] theorem State.updGrid_retained (s : State) (h : Nat) (f : Grid → Grid) : (s.updGrid h f).retained = s.retained := rfl
@[simp] theorem State.updGrid_seqIn (s : State) (h : Nat) (f : Grid → Grid) : (s.updGrid h f).seqIn = s.seqIn := rfl
@[simp] theorem State.updGrid_ingress (s : State) (h : Nat) (f : Grid → Grid) : (s.updGrid h f).ingress = s.ingress := rfl
@[simp] theorem State.updGrid_inbox (s : State) (h : Nat) (f : Grid → Grid) : (s.updGrid h f).inbox = s.inbox := rfl
@[simp] theorem State.updGrid_answers (s : State) (h : Nat) (f : Grid → Grid) : (s.updGrid h f).answers = s.answers := rfl
@[simp] theorem State.updGrid_fwds (s : State) (h : Nat) (f : Grid → Grid) : (s.updGrid h f).fwds = s.fwds := rfl
@[simp] theorem State.updGrid_withheld (s : State) (h : Nat) (f : Grid → Grid) : (s.updGrid h f).withheld = s.withheld := rfl
@[simp] theorem State.updGrid_remWaits (s : State) (h : Nat) (f : Grid → Grid) : (s.updGrid h f).remWaits = s.remWaits := rfl
@[simp] theorem State.updGrid_pkgCol (s : State) (h : Nat) (f : Grid → Grid) : (s.updGrid h f).pkgCol = s.pkgCol := rfl
@[simp] theorem State.updGrid_lvls (s : State) (h : Nat) (f : Grid → Grid) : (s.updGrid h f).lvls = s.lvls := rfl
@[simp] theorem State.updGrid_colIn (s : State) (h : Nat) (f : Grid → Grid) : (s.updGrid h f).colIn = s.colIn := rfl
@[simp] theorem State.updGrid_moves (s : State) (h : Nat) (f : Grid → Grid) : (s.updGrid h f).moves = s.moves := rfl
@[simp] theorem State.updGrid_incoming (s : State) (h : Nat) (f : Grid → Grid) : (s.updGrid h f).incoming = s.incoming := rfl
@[simp] theorem State.updGrid_shoots (s : State) (h : Nat) (f : Grid → Grid) : (s.updGrid h f).shoots = s.shoots := rfl
@[simp] theorem State.updGrid_inFlight (s : State) (h : Nat) (f : Grid → Grid) : (s.updGrid h f).inFlight = s.inFlight := rfl
@[simp] theorem State.updGrid_sigHeld (s : State) (h : Nat) (f : Grid → Grid) : (s.updGrid h f).sigHeld = s.sigHeld := rfl
@[simp] theorem State.updGrid_remHeld (s : State) (h : Nat) (f : Grid → Grid) : (s.updGrid h f).remHeld = s.remHeld := rfl
@[simp] theorem State.updGrid_colour (s : State) (h : Nat) (f : Grid → Grid) : (s.updGrid h f).colour = s.colour := rfl
@[simp] theorem State.updGrid_linkStat (s : State) (h : Nat) (f : Grid → Grid) : (s.updGrid h f).linkStat = s.linkStat := rfl
@[simp] theorem State.updGrid_linkHeard (s : State) (h : Nat) (f : Grid → Grid) : (s.updGrid h f).linkHeard = s.linkHeard := rfl
@[simp] theorem State.updGrid_linkSent (s : State) (h : Nat) (f : Grid → Grid) : (s.updGrid h f).linkSent = s.linkSent := rfl
@[simp] theorem State.updGrid_linkTrain (s : State) (h : Nat) (f : Grid → Grid) : (s.updGrid h f).linkTrain = s.linkTrain := rfl
@[simp] theorem State.updGrid_linkFails (s : State) (h : Nat) (f : Grid → Grid) : (s.updGrid h f).linkFails = s.linkFails := rfl
@[simp] theorem State.updGrid_deaths (s : State) (h : Nat) (f : Grid → Grid) : (s.updGrid h f).deaths = s.deaths := rfl
@[simp] theorem State.updGrid_linkRecs (s : State) (h : Nat) (f : Grid → Grid) : (s.updGrid h f).linkRecs = s.linkRecs := rfl
@[simp] theorem State.updGrid_config (s : State) (h : Nat) (f : Grid → Grid) : (s.updGrid h f).config = s.config := rfl
@[simp] theorem State.updGrid_cfgSlots (s : State) (h : Nat) (f : Grid → Grid) : (s.updGrid h f).cfgSlots = s.cfgSlots := rfl
@[simp] theorem State.updGrid_fwVer (s : State) (h : Nat) (f : Grid → Grid) : (s.updGrid h f).fwVer = s.fwVer := rfl
@[simp] theorem State.updGrid_field (s : State) (h : Nat) (f : Grid → Grid) : (s.updGrid h f).field = s.field := rfl
@[simp] theorem State.updGrid_flash (s : State) (h : Nat) (f : Grid → Grid) : (s.updGrid h f).flash = s.flash := rfl
@[simp] theorem State.updGrid_offsets (s : State) (h : Nat) (f : Grid → Grid) : (s.updGrid h f).offsets = s.offsets := rfl
@[simp] theorem State.updGrid_attest (s : State) (h : Nat) (f : Grid → Grid) : (s.updGrid h f).attest = s.attest := rfl
@[simp] theorem State.updGrid_scrubs (s : State) (h : Nat) (f : Grid → Grid) : (s.updGrid h f).scrubs = s.scrubs := rfl
@[simp] theorem State.updGrid_rowCe (s : State) (h : Nat) (f : Grid → Grid) : (s.updGrid h f).rowCe = s.rowCe := rfl
@[simp] theorem State.updGrid_quiet (s : State) (h : Nat) (f : Grid → Grid) : (s.updGrid h f).quiet = s.quiet := rfl
@[simp] theorem State.updGrid_sentTo (s : State) (h : Nat) (f : Grid → Grid) : (s.updGrid h f).sentTo = s.sentTo := rfl
@[simp] theorem State.updGrid_recvFrom (s : State) (h : Nat) (f : Grid → Grid) : (s.updGrid h f).recvFrom = s.recvFrom := rfl
@[simp] theorem State.updGrid_outPackets (s : State) (h : Nat) (f : Grid → Grid) : (s.updGrid h f).outPackets = s.outPackets := rfl
@[simp] theorem State.updGrid_outEvents (s : State) (h : Nat) (f : Grid → Grid) : (s.updGrid h f).outEvents = s.outEvents := rfl
@[simp] theorem State.updGrid_outMgmt (s : State) (h : Nat) (f : Grid → Grid) : (s.updGrid h f).outMgmt = s.outMgmt := rfl
@[simp] theorem State.updGrid_outHost (s : State) (h : Nat) (f : Grid → Grid) : (s.updGrid h f).outHost = s.outHost := rfl
@[simp] theorem State.updGrid_outRetx (s : State) (h : Nat) (f : Grid → Grid) : (s.updGrid h f).outRetx = s.outRetx := rfl
@[simp] theorem State.updGrid_tailFor (s : State) (h : Nat) (f : Grid → Grid) : (s.updGrid h f).tailFor = s.tailFor := rfl
@[simp] theorem State.updGrid_agenda (s : State) (h : Nat) (f : Grid → Grid) : (s.updGrid h f).agenda = s.agenda := rfl
@[simp] theorem State.updGrid_issuing (s : State) (h : Nat) (f : Grid → Grid) : (s.updGrid h f).issuing = s.issuing := rfl
@[simp] theorem State.updGrid_turn (s : State) (h : Nat) (f : Grid → Grid) : (s.updGrid h f).turn = s.turn := rfl
@[simp] theorem State.updGrid_free (s : State) (h : Nat) (f : Grid → Grid) : (s.updGrid h f).free = s.free := rfl
@[simp] theorem State.updGrid_nextId (s : State) (h : Nat) (f : Grid → Grid) : (s.updGrid h f).nextId = s.nextId := rfl

/- State.updThread: blocks alone changes. -/

@[simp] theorem State.updThread_powered (s : State) (r : Tref) (f : Thread → Thread) : (s.updThread r f).powered = s.powered := rfl
@[simp] theorem State.updThread_now (s : State) (r : Tref) (f : Thread → Thread) : (s.updThread r f).now = s.now := rfl
@[simp] theorem State.updThread_pkgId (s : State) (r : Tref) (f : Thread → Thread) : (s.updThread r f).pkgId = s.pkgId := rfl
@[simp] theorem State.updThread_placeWeights (s : State) (r : Tref) (f : Thread → Thread) : (s.updThread r f).placeWeights = s.placeWeights := rfl
@[simp] theorem State.updThread_preemptCtl (s : State) (r : Tref) (f : Thread → Thread) : (s.updThread r f).preemptCtl = s.preemptCtl := rfl
@[simp] theorem State.updThread_mem (s : State) (r : Tref) (f : Thread → Thread) : (s.updThread r f).mem = s.mem := rfl
@[simp] theorem State.updThread_cores (s : State) (r : Tref) (f : Thread → Thread) : (s.updThread r f).cores = s.cores := rfl
@[simp] theorem State.updThread_dies (s : State) (r : Tref) (f : Thread → Thread) : (s.updThread r f).dies = s.dies := rfl
@[simp] theorem State.updThread_grids (s : State) (r : Tref) (f : Thread → Thread) : (s.updThread r f).grids = s.grids := rfl
@[simp] theorem State.updThread_bars (s : State) (r : Tref) (f : Thread → Thread) : (s.updThread r f).bars = s.bars := rfl
@[simp] theorem State.updThread_pend (s : State) (r : Tref) (f : Thread → Thread) : (s.updThread r f).pend = s.pend := rfl
@[simp] theorem State.updThread_writes (s : State) (r : Tref) (f : Thread → Thread) : (s.updThread r f).writes = s.writes := rfl
@[simp] theorem State.updThread_scNext (s : State) (r : Tref) (f : Thread → Thread) : (s.updThread r f).scNext = s.scNext := rfl
@[simp] theorem State.updThread_scOut (s : State) (r : Tref) (f : Thread → Thread) : (s.updThread r f).scOut = s.scOut := rfl
@[simp] theorem State.updThread_job0Root (s : State) (r : Tref) (f : Thread → Thread) : (s.updThread r f).job0Root = s.job0Root := rfl
@[simp] theorem State.updThread_ringPa (s : State) (r : Tref) (f : Thread → Thread) : (s.updThread r f).ringPa = s.ringPa := rfl
@[simp] theorem State.updThread_ringLen (s : State) (r : Tref) (f : Thread → Thread) : (s.updThread r f).ringLen = s.ringLen := rfl
@[simp] theorem State.updThread_podSeq (s : State) (r : Tref) (f : Thread → Thread) : (s.updThread r f).podSeq = s.podSeq := rfl
@[simp] theorem State.updThread_words (s : State) (r : Tref) (f : Thread → Thread) : (s.updThread r f).words = s.words := rfl
@[simp] theorem State.updThread_podPkgs (s : State) (r : Tref) (f : Thread → Thread) : (s.updThread r f).podPkgs = s.podPkgs := rfl
@[simp] theorem State.updThread_podGrids (s : State) (r : Tref) (f : Thread → Thread) : (s.updThread r f).podGrids = s.podGrids := rfl
@[simp] theorem State.updThread_evBuf (s : State) (r : Tref) (f : Thread → Thread) : (s.updThread r f).evBuf = s.evBuf := rfl
@[simp] theorem State.updThread_evTail (s : State) (r : Tref) (f : Thread → Thread) : (s.updThread r f).evTail = s.evTail := rfl
@[simp] theorem State.updThread_evKnown (s : State) (r : Tref) (f : Thread → Thread) : (s.updThread r f).evKnown = s.evKnown := rfl
@[simp] theorem State.updThread_gap (s : State) (r : Tref) (f : Thread → Thread) : (s.updThread r f).gap = s.gap := rfl
@[simp] theorem State.updThread_fenced (s : State) (r : Tref) (f : Thread → Thread) : (s.updThread r f).fenced = s.fenced := rfl
@[simp] theorem State.updThread_lost (s : State) (r : Tref) (f : Thread → Thread) : (s.updThread r f).lost = s.lost := rfl
@[simp] theorem State.updThread_fenceVotes (s : State) (r : Tref) (f : Thread → Thread) : (s.updThread r f).fenceVotes = s.fenceVotes := rfl
@[simp] theorem State.updThread_lossVotes (s : State) (r : Tref) (f : Thread → Thread) : (s.updThread r f).lossVotes = s.lossVotes := rfl
@[simp] theorem State.updThread_digests (s : State) (r : Tref) (f : Thread → Thread) : (s.updThread r f).digests = s.digests := rfl
@[simp] theorem State.updThread_majority (s : State) (r : Tref) (f : Thread → Thread) : (s.updThread r f).majority = s.majority := rfl
@[simp] theorem State.updThread_fenceSent (s : State) (r : Tref) (f : Thread → Thread) : (s.updThread r f).fenceSent = s.fenceSent := rfl
@[simp] theorem State.updThread_fenceCkpt (s : State) (r : Tref) (f : Thread → Thread) : (s.updThread r f).fenceCkpt = s.fenceCkpt := rfl
@[simp] theorem State.updThread_joined (s : State) (r : Tref) (f : Thread → Thread) : (s.updThread r f).joined = s.joined := rfl
@[simp] theorem State.updThread_hold (s : State) (r : Tref) (f : Thread → Thread) : (s.updThread r f).hold = s.hold := rfl
@[simp] theorem State.updThread_withdrawn (s : State) (r : Tref) (f : Thread → Thread) : (s.updThread r f).withdrawn = s.withdrawn := rfl
@[simp] theorem State.updThread_rejoin (s : State) (r : Tref) (f : Thread → Thread) : (s.updThread r f).rejoin = s.rejoin := rfl
@[simp] theorem State.updThread_aliases (s : State) (r : Tref) (f : Thread → Thread) : (s.updThread r f).aliases = s.aliases := rfl
@[simp] theorem State.updThread_hook (s : State) (r : Tref) (f : Thread → Thread) : (s.updThread r f).hook = s.hook := rfl
@[simp] theorem State.updThread_snap (s : State) (r : Tref) (f : Thread → Thread) : (s.updThread r f).snap = s.snap := rfl
@[simp] theorem State.updThread_snapWait (s : State) (r : Tref) (f : Thread → Thread) : (s.updThread r f).snapWait = s.snapWait := rfl
@[simp] theorem State.updThread_rolls (s : State) (r : Tref) (f : Thread → Thread) : (s.updThread r f).rolls = s.rolls := rfl
@[simp] theorem State.updThread_saves (s : State) (r : Tref) (f : Thread → Thread) : (s.updThread r f).saves = s.saves := rfl
@[simp] theorem State.updThread_lines (s : State) (r : Tref) (f : Thread → Thread) : (s.updThread r f).lines = s.lines := rfl
@[simp] theorem State.updThread_lineAsks (s : State) (r : Tref) (f : Thread → Thread) : (s.updThread r f).lineAsks = s.lineAsks := rfl
@[simp] theorem State.updThread_queues (s : State) (r : Tref) (f : Thread → Thread) : (s.updThread r f).queues = s.queues := rfl
@[simp] theorem State.updThread_subs (s : State) (r : Tref) (f : Thread → Thread) : (s.updThread r f).subs = s.subs := rfl
@[simp] theorem State.updThread_units (s : State) (r : Tref) (f : Thread → Thread) : (s.updThread r f).units = s.units := rfl
@[simp] theorem State.updThread_clusters (s : State) (r : Tref) (f : Thread → Thread) : (s.updThread r f).clusters = s.clusters := rfl
@[simp] theorem State.updThread_aside (s : State) (r : Tref) (f : Thread → Thread) : (s.updThread r f).aside = s.aside := rfl
@[simp] theorem State.updThread_rebuilds (s : State) (r : Tref) (f : Thread → Thread) : (s.updThread r f).rebuilds = s.rebuilds := rfl
@[simp] theorem State.updThread_engAsks (s : State) (r : Tref) (f : Thread → Thread) : (s.updThread r f).engAsks = s.engAsks := rfl
@[simp] theorem State.updThread_engGot (s : State) (r : Tref) (f : Thread → Thread) : (s.updThread r f).engGot = s.engGot := rfl
@[simp] theorem State.updThread_opWrites (s : State) (r : Tref) (f : Thread → Thread) : (s.updThread r f).opWrites = s.opWrites := rfl
@[simp] theorem State.updThread_copies (s : State) (r : Tref) (f : Thread → Thread) : (s.updThread r f).copies = s.copies := rfl
@[simp] theorem State.updThread_xfers (s : State) (r : Tref) (f : Thread → Thread) : (s.updThread r f).xfers = s.xfers := rfl
@[simp] theorem State.updThread_colls (s : State) (r : Tref) (f : Thread → Thread) : (s.updThread r f).colls = s.colls := rfl
@[simp] theorem State.updThread_collNos (s : State) (r : Tref) (f : Thread → Thread) : (s.updThread r f).collNos = s.collNos := rfl
@[simp] theorem State.updThread_earlyChunks (s : State) (r : Tref) (f : Thread → Thread) : (s.updThread r f).earlyChunks = s.earlyChunks := rfl
@[simp] theorem State.updThread_epochs (s : State) (r : Tref) (f : Thread → Thread) : (s.updThread r f).epochs = s.epochs := rfl
@[simp] theorem State.updThread_exchs (s : State) (r : Tref) (f : Thread → Thread) : (s.updThread r f).exchs = s.exchs := rfl
@[simp] theorem State.updThread_seqOut (s : State) (r : Tref) (f : Thread → Thread) : (s.updThread r f).seqOut = s.seqOut := rfl
@[simp] theorem State.updThread_retained (s : State) (r : Tref) (f : Thread → Thread) : (s.updThread r f).retained = s.retained := rfl
@[simp] theorem State.updThread_seqIn (s : State) (r : Tref) (f : Thread → Thread) : (s.updThread r f).seqIn = s.seqIn := rfl
@[simp] theorem State.updThread_ingress (s : State) (r : Tref) (f : Thread → Thread) : (s.updThread r f).ingress = s.ingress := rfl
@[simp] theorem State.updThread_inbox (s : State) (r : Tref) (f : Thread → Thread) : (s.updThread r f).inbox = s.inbox := rfl
@[simp] theorem State.updThread_answers (s : State) (r : Tref) (f : Thread → Thread) : (s.updThread r f).answers = s.answers := rfl
@[simp] theorem State.updThread_fwds (s : State) (r : Tref) (f : Thread → Thread) : (s.updThread r f).fwds = s.fwds := rfl
@[simp] theorem State.updThread_withheld (s : State) (r : Tref) (f : Thread → Thread) : (s.updThread r f).withheld = s.withheld := rfl
@[simp] theorem State.updThread_remWaits (s : State) (r : Tref) (f : Thread → Thread) : (s.updThread r f).remWaits = s.remWaits := rfl
@[simp] theorem State.updThread_pkgCol (s : State) (r : Tref) (f : Thread → Thread) : (s.updThread r f).pkgCol = s.pkgCol := rfl
@[simp] theorem State.updThread_lvls (s : State) (r : Tref) (f : Thread → Thread) : (s.updThread r f).lvls = s.lvls := rfl
@[simp] theorem State.updThread_colIn (s : State) (r : Tref) (f : Thread → Thread) : (s.updThread r f).colIn = s.colIn := rfl
@[simp] theorem State.updThread_moves (s : State) (r : Tref) (f : Thread → Thread) : (s.updThread r f).moves = s.moves := rfl
@[simp] theorem State.updThread_incoming (s : State) (r : Tref) (f : Thread → Thread) : (s.updThread r f).incoming = s.incoming := rfl
@[simp] theorem State.updThread_shoots (s : State) (r : Tref) (f : Thread → Thread) : (s.updThread r f).shoots = s.shoots := rfl
@[simp] theorem State.updThread_inFlight (s : State) (r : Tref) (f : Thread → Thread) : (s.updThread r f).inFlight = s.inFlight := rfl
@[simp] theorem State.updThread_sigHeld (s : State) (r : Tref) (f : Thread → Thread) : (s.updThread r f).sigHeld = s.sigHeld := rfl
@[simp] theorem State.updThread_remHeld (s : State) (r : Tref) (f : Thread → Thread) : (s.updThread r f).remHeld = s.remHeld := rfl
@[simp] theorem State.updThread_colour (s : State) (r : Tref) (f : Thread → Thread) : (s.updThread r f).colour = s.colour := rfl
@[simp] theorem State.updThread_linkStat (s : State) (r : Tref) (f : Thread → Thread) : (s.updThread r f).linkStat = s.linkStat := rfl
@[simp] theorem State.updThread_linkHeard (s : State) (r : Tref) (f : Thread → Thread) : (s.updThread r f).linkHeard = s.linkHeard := rfl
@[simp] theorem State.updThread_linkSent (s : State) (r : Tref) (f : Thread → Thread) : (s.updThread r f).linkSent = s.linkSent := rfl
@[simp] theorem State.updThread_linkTrain (s : State) (r : Tref) (f : Thread → Thread) : (s.updThread r f).linkTrain = s.linkTrain := rfl
@[simp] theorem State.updThread_linkFails (s : State) (r : Tref) (f : Thread → Thread) : (s.updThread r f).linkFails = s.linkFails := rfl
@[simp] theorem State.updThread_deaths (s : State) (r : Tref) (f : Thread → Thread) : (s.updThread r f).deaths = s.deaths := rfl
@[simp] theorem State.updThread_linkRecs (s : State) (r : Tref) (f : Thread → Thread) : (s.updThread r f).linkRecs = s.linkRecs := rfl
@[simp] theorem State.updThread_config (s : State) (r : Tref) (f : Thread → Thread) : (s.updThread r f).config = s.config := rfl
@[simp] theorem State.updThread_cfgSlots (s : State) (r : Tref) (f : Thread → Thread) : (s.updThread r f).cfgSlots = s.cfgSlots := rfl
@[simp] theorem State.updThread_fwVer (s : State) (r : Tref) (f : Thread → Thread) : (s.updThread r f).fwVer = s.fwVer := rfl
@[simp] theorem State.updThread_field (s : State) (r : Tref) (f : Thread → Thread) : (s.updThread r f).field = s.field := rfl
@[simp] theorem State.updThread_flash (s : State) (r : Tref) (f : Thread → Thread) : (s.updThread r f).flash = s.flash := rfl
@[simp] theorem State.updThread_offsets (s : State) (r : Tref) (f : Thread → Thread) : (s.updThread r f).offsets = s.offsets := rfl
@[simp] theorem State.updThread_attest (s : State) (r : Tref) (f : Thread → Thread) : (s.updThread r f).attest = s.attest := rfl
@[simp] theorem State.updThread_scrubs (s : State) (r : Tref) (f : Thread → Thread) : (s.updThread r f).scrubs = s.scrubs := rfl
@[simp] theorem State.updThread_rowCe (s : State) (r : Tref) (f : Thread → Thread) : (s.updThread r f).rowCe = s.rowCe := rfl
@[simp] theorem State.updThread_quiet (s : State) (r : Tref) (f : Thread → Thread) : (s.updThread r f).quiet = s.quiet := rfl
@[simp] theorem State.updThread_sentTo (s : State) (r : Tref) (f : Thread → Thread) : (s.updThread r f).sentTo = s.sentTo := rfl
@[simp] theorem State.updThread_recvFrom (s : State) (r : Tref) (f : Thread → Thread) : (s.updThread r f).recvFrom = s.recvFrom := rfl
@[simp] theorem State.updThread_outPackets (s : State) (r : Tref) (f : Thread → Thread) : (s.updThread r f).outPackets = s.outPackets := rfl
@[simp] theorem State.updThread_outEvents (s : State) (r : Tref) (f : Thread → Thread) : (s.updThread r f).outEvents = s.outEvents := rfl
@[simp] theorem State.updThread_outMgmt (s : State) (r : Tref) (f : Thread → Thread) : (s.updThread r f).outMgmt = s.outMgmt := rfl
@[simp] theorem State.updThread_outHost (s : State) (r : Tref) (f : Thread → Thread) : (s.updThread r f).outHost = s.outHost := rfl
@[simp] theorem State.updThread_outRetx (s : State) (r : Tref) (f : Thread → Thread) : (s.updThread r f).outRetx = s.outRetx := rfl
@[simp] theorem State.updThread_tailFor (s : State) (r : Tref) (f : Thread → Thread) : (s.updThread r f).tailFor = s.tailFor := rfl
@[simp] theorem State.updThread_agenda (s : State) (r : Tref) (f : Thread → Thread) : (s.updThread r f).agenda = s.agenda := rfl
@[simp] theorem State.updThread_issuing (s : State) (r : Tref) (f : Thread → Thread) : (s.updThread r f).issuing = s.issuing := rfl
@[simp] theorem State.updThread_turn (s : State) (r : Tref) (f : Thread → Thread) : (s.updThread r f).turn = s.turn := rfl
@[simp] theorem State.updThread_free (s : State) (r : Tref) (f : Thread → Thread) : (s.updThread r f).free = s.free := rfl
@[simp] theorem State.updThread_nextId (s : State) (r : Tref) (f : Thread → Thread) : (s.updThread r f).nextId = s.nextId := rfl

/- State.idle: issuing alone changes. -/

@[simp] theorem State.idle_powered (s : State) : (s.idle).powered = s.powered := rfl
@[simp] theorem State.idle_now (s : State) : (s.idle).now = s.now := rfl
@[simp] theorem State.idle_pkgId (s : State) : (s.idle).pkgId = s.pkgId := rfl
@[simp] theorem State.idle_placeWeights (s : State) : (s.idle).placeWeights = s.placeWeights := rfl
@[simp] theorem State.idle_preemptCtl (s : State) : (s.idle).preemptCtl = s.preemptCtl := rfl
@[simp] theorem State.idle_mem (s : State) : (s.idle).mem = s.mem := rfl
@[simp] theorem State.idle_cores (s : State) : (s.idle).cores = s.cores := rfl
@[simp] theorem State.idle_dies (s : State) : (s.idle).dies = s.dies := rfl
@[simp] theorem State.idle_blocks (s : State) : (s.idle).blocks = s.blocks := rfl
@[simp] theorem State.idle_grids (s : State) : (s.idle).grids = s.grids := rfl
@[simp] theorem State.idle_bars (s : State) : (s.idle).bars = s.bars := rfl
@[simp] theorem State.idle_pend (s : State) : (s.idle).pend = s.pend := rfl
@[simp] theorem State.idle_writes (s : State) : (s.idle).writes = s.writes := rfl
@[simp] theorem State.idle_scNext (s : State) : (s.idle).scNext = s.scNext := rfl
@[simp] theorem State.idle_scOut (s : State) : (s.idle).scOut = s.scOut := rfl
@[simp] theorem State.idle_job0Root (s : State) : (s.idle).job0Root = s.job0Root := rfl
@[simp] theorem State.idle_ringPa (s : State) : (s.idle).ringPa = s.ringPa := rfl
@[simp] theorem State.idle_ringLen (s : State) : (s.idle).ringLen = s.ringLen := rfl
@[simp] theorem State.idle_podSeq (s : State) : (s.idle).podSeq = s.podSeq := rfl
@[simp] theorem State.idle_words (s : State) : (s.idle).words = s.words := rfl
@[simp] theorem State.idle_podPkgs (s : State) : (s.idle).podPkgs = s.podPkgs := rfl
@[simp] theorem State.idle_podGrids (s : State) : (s.idle).podGrids = s.podGrids := rfl
@[simp] theorem State.idle_evBuf (s : State) : (s.idle).evBuf = s.evBuf := rfl
@[simp] theorem State.idle_evTail (s : State) : (s.idle).evTail = s.evTail := rfl
@[simp] theorem State.idle_evKnown (s : State) : (s.idle).evKnown = s.evKnown := rfl
@[simp] theorem State.idle_gap (s : State) : (s.idle).gap = s.gap := rfl
@[simp] theorem State.idle_fenced (s : State) : (s.idle).fenced = s.fenced := rfl
@[simp] theorem State.idle_lost (s : State) : (s.idle).lost = s.lost := rfl
@[simp] theorem State.idle_fenceVotes (s : State) : (s.idle).fenceVotes = s.fenceVotes := rfl
@[simp] theorem State.idle_lossVotes (s : State) : (s.idle).lossVotes = s.lossVotes := rfl
@[simp] theorem State.idle_digests (s : State) : (s.idle).digests = s.digests := rfl
@[simp] theorem State.idle_majority (s : State) : (s.idle).majority = s.majority := rfl
@[simp] theorem State.idle_fenceSent (s : State) : (s.idle).fenceSent = s.fenceSent := rfl
@[simp] theorem State.idle_fenceCkpt (s : State) : (s.idle).fenceCkpt = s.fenceCkpt := rfl
@[simp] theorem State.idle_joined (s : State) : (s.idle).joined = s.joined := rfl
@[simp] theorem State.idle_hold (s : State) : (s.idle).hold = s.hold := rfl
@[simp] theorem State.idle_withdrawn (s : State) : (s.idle).withdrawn = s.withdrawn := rfl
@[simp] theorem State.idle_rejoin (s : State) : (s.idle).rejoin = s.rejoin := rfl
@[simp] theorem State.idle_aliases (s : State) : (s.idle).aliases = s.aliases := rfl
@[simp] theorem State.idle_hook (s : State) : (s.idle).hook = s.hook := rfl
@[simp] theorem State.idle_snap (s : State) : (s.idle).snap = s.snap := rfl
@[simp] theorem State.idle_snapWait (s : State) : (s.idle).snapWait = s.snapWait := rfl
@[simp] theorem State.idle_rolls (s : State) : (s.idle).rolls = s.rolls := rfl
@[simp] theorem State.idle_saves (s : State) : (s.idle).saves = s.saves := rfl
@[simp] theorem State.idle_lines (s : State) : (s.idle).lines = s.lines := rfl
@[simp] theorem State.idle_lineAsks (s : State) : (s.idle).lineAsks = s.lineAsks := rfl
@[simp] theorem State.idle_queues (s : State) : (s.idle).queues = s.queues := rfl
@[simp] theorem State.idle_subs (s : State) : (s.idle).subs = s.subs := rfl
@[simp] theorem State.idle_units (s : State) : (s.idle).units = s.units := rfl
@[simp] theorem State.idle_clusters (s : State) : (s.idle).clusters = s.clusters := rfl
@[simp] theorem State.idle_aside (s : State) : (s.idle).aside = s.aside := rfl
@[simp] theorem State.idle_rebuilds (s : State) : (s.idle).rebuilds = s.rebuilds := rfl
@[simp] theorem State.idle_engAsks (s : State) : (s.idle).engAsks = s.engAsks := rfl
@[simp] theorem State.idle_engGot (s : State) : (s.idle).engGot = s.engGot := rfl
@[simp] theorem State.idle_opWrites (s : State) : (s.idle).opWrites = s.opWrites := rfl
@[simp] theorem State.idle_copies (s : State) : (s.idle).copies = s.copies := rfl
@[simp] theorem State.idle_xfers (s : State) : (s.idle).xfers = s.xfers := rfl
@[simp] theorem State.idle_colls (s : State) : (s.idle).colls = s.colls := rfl
@[simp] theorem State.idle_collNos (s : State) : (s.idle).collNos = s.collNos := rfl
@[simp] theorem State.idle_earlyChunks (s : State) : (s.idle).earlyChunks = s.earlyChunks := rfl
@[simp] theorem State.idle_epochs (s : State) : (s.idle).epochs = s.epochs := rfl
@[simp] theorem State.idle_exchs (s : State) : (s.idle).exchs = s.exchs := rfl
@[simp] theorem State.idle_seqOut (s : State) : (s.idle).seqOut = s.seqOut := rfl
@[simp] theorem State.idle_retained (s : State) : (s.idle).retained = s.retained := rfl
@[simp] theorem State.idle_seqIn (s : State) : (s.idle).seqIn = s.seqIn := rfl
@[simp] theorem State.idle_ingress (s : State) : (s.idle).ingress = s.ingress := rfl
@[simp] theorem State.idle_inbox (s : State) : (s.idle).inbox = s.inbox := rfl
@[simp] theorem State.idle_answers (s : State) : (s.idle).answers = s.answers := rfl
@[simp] theorem State.idle_fwds (s : State) : (s.idle).fwds = s.fwds := rfl
@[simp] theorem State.idle_withheld (s : State) : (s.idle).withheld = s.withheld := rfl
@[simp] theorem State.idle_remWaits (s : State) : (s.idle).remWaits = s.remWaits := rfl
@[simp] theorem State.idle_pkgCol (s : State) : (s.idle).pkgCol = s.pkgCol := rfl
@[simp] theorem State.idle_lvls (s : State) : (s.idle).lvls = s.lvls := rfl
@[simp] theorem State.idle_colIn (s : State) : (s.idle).colIn = s.colIn := rfl
@[simp] theorem State.idle_moves (s : State) : (s.idle).moves = s.moves := rfl
@[simp] theorem State.idle_incoming (s : State) : (s.idle).incoming = s.incoming := rfl
@[simp] theorem State.idle_shoots (s : State) : (s.idle).shoots = s.shoots := rfl
@[simp] theorem State.idle_inFlight (s : State) : (s.idle).inFlight = s.inFlight := rfl
@[simp] theorem State.idle_sigHeld (s : State) : (s.idle).sigHeld = s.sigHeld := rfl
@[simp] theorem State.idle_remHeld (s : State) : (s.idle).remHeld = s.remHeld := rfl
@[simp] theorem State.idle_colour (s : State) : (s.idle).colour = s.colour := rfl
@[simp] theorem State.idle_linkStat (s : State) : (s.idle).linkStat = s.linkStat := rfl
@[simp] theorem State.idle_linkHeard (s : State) : (s.idle).linkHeard = s.linkHeard := rfl
@[simp] theorem State.idle_linkSent (s : State) : (s.idle).linkSent = s.linkSent := rfl
@[simp] theorem State.idle_linkTrain (s : State) : (s.idle).linkTrain = s.linkTrain := rfl
@[simp] theorem State.idle_linkFails (s : State) : (s.idle).linkFails = s.linkFails := rfl
@[simp] theorem State.idle_deaths (s : State) : (s.idle).deaths = s.deaths := rfl
@[simp] theorem State.idle_linkRecs (s : State) : (s.idle).linkRecs = s.linkRecs := rfl
@[simp] theorem State.idle_config (s : State) : (s.idle).config = s.config := rfl
@[simp] theorem State.idle_cfgSlots (s : State) : (s.idle).cfgSlots = s.cfgSlots := rfl
@[simp] theorem State.idle_fwVer (s : State) : (s.idle).fwVer = s.fwVer := rfl
@[simp] theorem State.idle_field (s : State) : (s.idle).field = s.field := rfl
@[simp] theorem State.idle_flash (s : State) : (s.idle).flash = s.flash := rfl
@[simp] theorem State.idle_offsets (s : State) : (s.idle).offsets = s.offsets := rfl
@[simp] theorem State.idle_attest (s : State) : (s.idle).attest = s.attest := rfl
@[simp] theorem State.idle_scrubs (s : State) : (s.idle).scrubs = s.scrubs := rfl
@[simp] theorem State.idle_rowCe (s : State) : (s.idle).rowCe = s.rowCe := rfl
@[simp] theorem State.idle_quiet (s : State) : (s.idle).quiet = s.quiet := rfl
@[simp] theorem State.idle_sentTo (s : State) : (s.idle).sentTo = s.sentTo := rfl
@[simp] theorem State.idle_recvFrom (s : State) : (s.idle).recvFrom = s.recvFrom := rfl
@[simp] theorem State.idle_outPackets (s : State) : (s.idle).outPackets = s.outPackets := rfl
@[simp] theorem State.idle_outEvents (s : State) : (s.idle).outEvents = s.outEvents := rfl
@[simp] theorem State.idle_outMgmt (s : State) : (s.idle).outMgmt = s.outMgmt := rfl
@[simp] theorem State.idle_outHost (s : State) : (s.idle).outHost = s.outHost := rfl
@[simp] theorem State.idle_outRetx (s : State) : (s.idle).outRetx = s.outRetx := rfl
@[simp] theorem State.idle_tailFor (s : State) : (s.idle).tailFor = s.tailFor := rfl
@[simp] theorem State.idle_agenda (s : State) : (s.idle).agenda = s.agenda := rfl
@[simp] theorem State.idle_turn (s : State) : (s.idle).turn = s.turn := rfl
@[simp] theorem State.idle_free (s : State) : (s.idle).free = s.free := rfl
@[simp] theorem State.idle_nextId (s : State) : (s.idle).nextId = s.nextId := rfl

/- State.fresh: nextId alone changes. -/

@[simp] theorem State.fresh_powered (s : State) : (s.fresh).powered = s.powered := rfl
@[simp] theorem State.fresh_now (s : State) : (s.fresh).now = s.now := rfl
@[simp] theorem State.fresh_pkgId (s : State) : (s.fresh).pkgId = s.pkgId := rfl
@[simp] theorem State.fresh_placeWeights (s : State) : (s.fresh).placeWeights = s.placeWeights := rfl
@[simp] theorem State.fresh_preemptCtl (s : State) : (s.fresh).preemptCtl = s.preemptCtl := rfl
@[simp] theorem State.fresh_mem (s : State) : (s.fresh).mem = s.mem := rfl
@[simp] theorem State.fresh_cores (s : State) : (s.fresh).cores = s.cores := rfl
@[simp] theorem State.fresh_dies (s : State) : (s.fresh).dies = s.dies := rfl
@[simp] theorem State.fresh_blocks (s : State) : (s.fresh).blocks = s.blocks := rfl
@[simp] theorem State.fresh_grids (s : State) : (s.fresh).grids = s.grids := rfl
@[simp] theorem State.fresh_bars (s : State) : (s.fresh).bars = s.bars := rfl
@[simp] theorem State.fresh_pend (s : State) : (s.fresh).pend = s.pend := rfl
@[simp] theorem State.fresh_writes (s : State) : (s.fresh).writes = s.writes := rfl
@[simp] theorem State.fresh_scNext (s : State) : (s.fresh).scNext = s.scNext := rfl
@[simp] theorem State.fresh_scOut (s : State) : (s.fresh).scOut = s.scOut := rfl
@[simp] theorem State.fresh_job0Root (s : State) : (s.fresh).job0Root = s.job0Root := rfl
@[simp] theorem State.fresh_ringPa (s : State) : (s.fresh).ringPa = s.ringPa := rfl
@[simp] theorem State.fresh_ringLen (s : State) : (s.fresh).ringLen = s.ringLen := rfl
@[simp] theorem State.fresh_podSeq (s : State) : (s.fresh).podSeq = s.podSeq := rfl
@[simp] theorem State.fresh_words (s : State) : (s.fresh).words = s.words := rfl
@[simp] theorem State.fresh_podPkgs (s : State) : (s.fresh).podPkgs = s.podPkgs := rfl
@[simp] theorem State.fresh_podGrids (s : State) : (s.fresh).podGrids = s.podGrids := rfl
@[simp] theorem State.fresh_evBuf (s : State) : (s.fresh).evBuf = s.evBuf := rfl
@[simp] theorem State.fresh_evTail (s : State) : (s.fresh).evTail = s.evTail := rfl
@[simp] theorem State.fresh_evKnown (s : State) : (s.fresh).evKnown = s.evKnown := rfl
@[simp] theorem State.fresh_gap (s : State) : (s.fresh).gap = s.gap := rfl
@[simp] theorem State.fresh_fenced (s : State) : (s.fresh).fenced = s.fenced := rfl
@[simp] theorem State.fresh_lost (s : State) : (s.fresh).lost = s.lost := rfl
@[simp] theorem State.fresh_fenceVotes (s : State) : (s.fresh).fenceVotes = s.fenceVotes := rfl
@[simp] theorem State.fresh_lossVotes (s : State) : (s.fresh).lossVotes = s.lossVotes := rfl
@[simp] theorem State.fresh_digests (s : State) : (s.fresh).digests = s.digests := rfl
@[simp] theorem State.fresh_majority (s : State) : (s.fresh).majority = s.majority := rfl
@[simp] theorem State.fresh_fenceSent (s : State) : (s.fresh).fenceSent = s.fenceSent := rfl
@[simp] theorem State.fresh_fenceCkpt (s : State) : (s.fresh).fenceCkpt = s.fenceCkpt := rfl
@[simp] theorem State.fresh_joined (s : State) : (s.fresh).joined = s.joined := rfl
@[simp] theorem State.fresh_hold (s : State) : (s.fresh).hold = s.hold := rfl
@[simp] theorem State.fresh_withdrawn (s : State) : (s.fresh).withdrawn = s.withdrawn := rfl
@[simp] theorem State.fresh_rejoin (s : State) : (s.fresh).rejoin = s.rejoin := rfl
@[simp] theorem State.fresh_aliases (s : State) : (s.fresh).aliases = s.aliases := rfl
@[simp] theorem State.fresh_hook (s : State) : (s.fresh).hook = s.hook := rfl
@[simp] theorem State.fresh_snap (s : State) : (s.fresh).snap = s.snap := rfl
@[simp] theorem State.fresh_snapWait (s : State) : (s.fresh).snapWait = s.snapWait := rfl
@[simp] theorem State.fresh_rolls (s : State) : (s.fresh).rolls = s.rolls := rfl
@[simp] theorem State.fresh_saves (s : State) : (s.fresh).saves = s.saves := rfl
@[simp] theorem State.fresh_lines (s : State) : (s.fresh).lines = s.lines := rfl
@[simp] theorem State.fresh_lineAsks (s : State) : (s.fresh).lineAsks = s.lineAsks := rfl
@[simp] theorem State.fresh_queues (s : State) : (s.fresh).queues = s.queues := rfl
@[simp] theorem State.fresh_subs (s : State) : (s.fresh).subs = s.subs := rfl
@[simp] theorem State.fresh_units (s : State) : (s.fresh).units = s.units := rfl
@[simp] theorem State.fresh_clusters (s : State) : (s.fresh).clusters = s.clusters := rfl
@[simp] theorem State.fresh_aside (s : State) : (s.fresh).aside = s.aside := rfl
@[simp] theorem State.fresh_rebuilds (s : State) : (s.fresh).rebuilds = s.rebuilds := rfl
@[simp] theorem State.fresh_engAsks (s : State) : (s.fresh).engAsks = s.engAsks := rfl
@[simp] theorem State.fresh_engGot (s : State) : (s.fresh).engGot = s.engGot := rfl
@[simp] theorem State.fresh_opWrites (s : State) : (s.fresh).opWrites = s.opWrites := rfl
@[simp] theorem State.fresh_copies (s : State) : (s.fresh).copies = s.copies := rfl
@[simp] theorem State.fresh_xfers (s : State) : (s.fresh).xfers = s.xfers := rfl
@[simp] theorem State.fresh_colls (s : State) : (s.fresh).colls = s.colls := rfl
@[simp] theorem State.fresh_collNos (s : State) : (s.fresh).collNos = s.collNos := rfl
@[simp] theorem State.fresh_earlyChunks (s : State) : (s.fresh).earlyChunks = s.earlyChunks := rfl
@[simp] theorem State.fresh_epochs (s : State) : (s.fresh).epochs = s.epochs := rfl
@[simp] theorem State.fresh_exchs (s : State) : (s.fresh).exchs = s.exchs := rfl
@[simp] theorem State.fresh_seqOut (s : State) : (s.fresh).seqOut = s.seqOut := rfl
@[simp] theorem State.fresh_retained (s : State) : (s.fresh).retained = s.retained := rfl
@[simp] theorem State.fresh_seqIn (s : State) : (s.fresh).seqIn = s.seqIn := rfl
@[simp] theorem State.fresh_ingress (s : State) : (s.fresh).ingress = s.ingress := rfl
@[simp] theorem State.fresh_inbox (s : State) : (s.fresh).inbox = s.inbox := rfl
@[simp] theorem State.fresh_answers (s : State) : (s.fresh).answers = s.answers := rfl
@[simp] theorem State.fresh_fwds (s : State) : (s.fresh).fwds = s.fwds := rfl
@[simp] theorem State.fresh_withheld (s : State) : (s.fresh).withheld = s.withheld := rfl
@[simp] theorem State.fresh_remWaits (s : State) : (s.fresh).remWaits = s.remWaits := rfl
@[simp] theorem State.fresh_pkgCol (s : State) : (s.fresh).pkgCol = s.pkgCol := rfl
@[simp] theorem State.fresh_lvls (s : State) : (s.fresh).lvls = s.lvls := rfl
@[simp] theorem State.fresh_colIn (s : State) : (s.fresh).colIn = s.colIn := rfl
@[simp] theorem State.fresh_moves (s : State) : (s.fresh).moves = s.moves := rfl
@[simp] theorem State.fresh_incoming (s : State) : (s.fresh).incoming = s.incoming := rfl
@[simp] theorem State.fresh_shoots (s : State) : (s.fresh).shoots = s.shoots := rfl
@[simp] theorem State.fresh_inFlight (s : State) : (s.fresh).inFlight = s.inFlight := rfl
@[simp] theorem State.fresh_sigHeld (s : State) : (s.fresh).sigHeld = s.sigHeld := rfl
@[simp] theorem State.fresh_remHeld (s : State) : (s.fresh).remHeld = s.remHeld := rfl
@[simp] theorem State.fresh_colour (s : State) : (s.fresh).colour = s.colour := rfl
@[simp] theorem State.fresh_linkStat (s : State) : (s.fresh).linkStat = s.linkStat := rfl
@[simp] theorem State.fresh_linkHeard (s : State) : (s.fresh).linkHeard = s.linkHeard := rfl
@[simp] theorem State.fresh_linkSent (s : State) : (s.fresh).linkSent = s.linkSent := rfl
@[simp] theorem State.fresh_linkTrain (s : State) : (s.fresh).linkTrain = s.linkTrain := rfl
@[simp] theorem State.fresh_linkFails (s : State) : (s.fresh).linkFails = s.linkFails := rfl
@[simp] theorem State.fresh_deaths (s : State) : (s.fresh).deaths = s.deaths := rfl
@[simp] theorem State.fresh_linkRecs (s : State) : (s.fresh).linkRecs = s.linkRecs := rfl
@[simp] theorem State.fresh_config (s : State) : (s.fresh).config = s.config := rfl
@[simp] theorem State.fresh_cfgSlots (s : State) : (s.fresh).cfgSlots = s.cfgSlots := rfl
@[simp] theorem State.fresh_fwVer (s : State) : (s.fresh).fwVer = s.fwVer := rfl
@[simp] theorem State.fresh_field (s : State) : (s.fresh).field = s.field := rfl
@[simp] theorem State.fresh_flash (s : State) : (s.fresh).flash = s.flash := rfl
@[simp] theorem State.fresh_offsets (s : State) : (s.fresh).offsets = s.offsets := rfl
@[simp] theorem State.fresh_attest (s : State) : (s.fresh).attest = s.attest := rfl
@[simp] theorem State.fresh_scrubs (s : State) : (s.fresh).scrubs = s.scrubs := rfl
@[simp] theorem State.fresh_rowCe (s : State) : (s.fresh).rowCe = s.rowCe := rfl
@[simp] theorem State.fresh_quiet (s : State) : (s.fresh).quiet = s.quiet := rfl
@[simp] theorem State.fresh_sentTo (s : State) : (s.fresh).sentTo = s.sentTo := rfl
@[simp] theorem State.fresh_recvFrom (s : State) : (s.fresh).recvFrom = s.recvFrom := rfl
@[simp] theorem State.fresh_outPackets (s : State) : (s.fresh).outPackets = s.outPackets := rfl
@[simp] theorem State.fresh_outEvents (s : State) : (s.fresh).outEvents = s.outEvents := rfl
@[simp] theorem State.fresh_outMgmt (s : State) : (s.fresh).outMgmt = s.outMgmt := rfl
@[simp] theorem State.fresh_outHost (s : State) : (s.fresh).outHost = s.outHost := rfl
@[simp] theorem State.fresh_outRetx (s : State) : (s.fresh).outRetx = s.outRetx := rfl
@[simp] theorem State.fresh_tailFor (s : State) : (s.fresh).tailFor = s.tailFor := rfl
@[simp] theorem State.fresh_agenda (s : State) : (s.fresh).agenda = s.agenda := rfl
@[simp] theorem State.fresh_issuing (s : State) : (s.fresh).issuing = s.issuing := rfl
@[simp] theorem State.fresh_turn (s : State) : (s.fresh).turn = s.turn := rfl
@[simp] theorem State.fresh_free (s : State) : (s.fresh).free = s.free := rfl

@[simp] theorem State.updBlock_blocks (s : State) (g b : Nat) (f : Block → Block) :
    (s.updBlock g b f).blocks = replaceFirst (isBlock g b) f s.blocks := rfl
@[simp] theorem State.updGrid_grids (s : State) (h : Nat) (f : Grid → Grid) :
    (s.updGrid h f).grids = replaceFirst (fun x => x.handle == h) f s.grids := rfl
@[simp] theorem State.idle_issuing (s : State) : s.idle.issuing = none := rfl
@[simp] theorem State.fresh_nextId (s : State) : s.fresh.nextId = s.nextId + 1 := rfl

/- Thread.setReg: regs alone changes. -/

@[simp] theorem Thread.setReg_tid (th : Thread) (r : Reg) (v : Word) : (th.setReg r v).tid = th.tid := rfl
@[simp] theorem Thread.setReg_pc (th : Thread) (r : Reg) (v : Word) : (th.setReg r v).pc = th.pc := rfl
@[simp] theorem Thread.setReg_preds (th : Thread) (r : Reg) (v : Word) : (th.setReg r v).preds = th.preds := rfl
@[simp] theorem Thread.setReg_toks (th : Thread) (r : Reg) (v : Word) : (th.setReg r v).toks = th.toks := rfl
@[simp] theorem Thread.setReg_stores (th : Thread) (r : Reg) (v : Word) : (th.setReg r v).stores = th.stores := rfl
@[simp] theorem Thread.setReg_meet (th : Thread) (r : Reg) (v : Word) : (th.setReg r v).meet = th.meet := rfl
@[simp] theorem Thread.setReg_callDepth (th : Thread) (r : Reg) (v : Word) : (th.setReg r v).callDepth = th.callDepth := rfl
@[simp] theorem Thread.setReg_tstat (th : Thread) (r : Reg) (v : Word) : (th.setReg r v).tstat = th.tstat := rfl
@[simp] theorem Thread.setReg_status (th : Thread) (r : Reg) (v : Word) : (th.setReg r v).status = th.status := rfl
@[simp] theorem Thread.setReg_priv (th : Thread) (r : Reg) (v : Word) : (th.setReg r v).priv = th.priv := rfl
@[simp] theorem Thread.setReg_ageMark (th : Thread) (r : Reg) (v : Word) : (th.setReg r v).ageMark = th.ageMark := rfl
@[simp] theorem Thread.setReg_readySince (th : Thread) (r : Reg) (v : Word) : (th.setReg r v).readySince = th.readySince := rfl
@[simp] theorem Thread.setReg_starving (th : Thread) (r : Reg) (v : Word) : (th.setReg r v).starving = th.starving := rfl
@[simp] theorem Thread.setReg_flushes (th : Thread) (r : Reg) (v : Word) : (th.setReg r v).flushes = th.flushes := rfl
@[simp] theorem Thread.setReg_segment (th : Thread) (r : Reg) (v : Word) : (th.setReg r v).segment = th.segment := rfl
@[simp] theorem Thread.setReg_order (th : Thread) (r : Reg) (v : Word) : (th.setReg r v).order = th.order := rfl
@[simp] theorem Thread.setReg_lid (th : Thread) (r : Reg) (v : Word) : (th.setReg r v).lid = th.lid := rfl
@[simp] theorem Thread.setReg_parent (th : Thread) (r : Reg) (v : Word) : (th.setReg r v).parent = th.parent := rfl
@[simp] theorem Thread.setReg_met (th : Thread) (r : Reg) (v : Word) : (th.setReg r v).met = th.met := rfl
@[simp] theorem Thread.setReg_goto (th : Thread) (r : Reg) (v : Word) : (th.setReg r v).goto = th.goto := rfl
@[simp] theorem Thread.setReg_trapAfter (th : Thread) (r : Reg) (v : Word) : (th.setReg r v).trapAfter = th.trapAfter := rfl
@[simp] theorem Thread.setReg_mfence (th : Thread) (r : Reg) (v : Word) : (th.setReg r v).mfence = th.mfence := rfl
@[simp] theorem Thread.setReg_sample (th : Thread) (r : Reg) (v : Word) : (th.setReg r v).sample = th.sample := rfl
@[simp] theorem Thread.setReg_yieldAfter (th : Thread) (r : Reg) (v : Word) : (th.setReg r v).yieldAfter = th.yieldAfter := rfl
@[simp] theorem Thread.setReg_until_ (th : Thread) (r : Reg) (v : Word) : (th.setReg r v).until_ = th.until_ := rfl
@[simp] theorem Thread.setReg_bar (th : Thread) (r : Reg) (v : Word) : (th.setReg r v).bar = th.bar := rfl
@[simp] theorem Thread.setReg_bara (th : Thread) (r : Reg) (v : Word) : (th.setReg r v).bara = th.bara := rfl
@[simp] theorem Thread.setReg_parked (th : Thread) (r : Reg) (v : Word) : (th.setReg r v).parked = th.parked := rfl
@[simp] theorem Thread.setReg_kept (th : Thread) (r : Reg) (v : Word) : (th.setReg r v).kept = th.kept := rfl

/- Thread.setFlags: tstat alone changes. -/

@[simp] theorem Thread.setFlags_tid (th : Thread) (f : BitVec 6) : (th.setFlags f).tid = th.tid := rfl
@[simp] theorem Thread.setFlags_pc (th : Thread) (f : BitVec 6) : (th.setFlags f).pc = th.pc := rfl
@[simp] theorem Thread.setFlags_regs (th : Thread) (f : BitVec 6) : (th.setFlags f).regs = th.regs := rfl
@[simp] theorem Thread.setFlags_preds (th : Thread) (f : BitVec 6) : (th.setFlags f).preds = th.preds := rfl
@[simp] theorem Thread.setFlags_toks (th : Thread) (f : BitVec 6) : (th.setFlags f).toks = th.toks := rfl
@[simp] theorem Thread.setFlags_stores (th : Thread) (f : BitVec 6) : (th.setFlags f).stores = th.stores := rfl
@[simp] theorem Thread.setFlags_meet (th : Thread) (f : BitVec 6) : (th.setFlags f).meet = th.meet := rfl
@[simp] theorem Thread.setFlags_callDepth (th : Thread) (f : BitVec 6) : (th.setFlags f).callDepth = th.callDepth := rfl
@[simp] theorem Thread.setFlags_status (th : Thread) (f : BitVec 6) : (th.setFlags f).status = th.status := rfl
@[simp] theorem Thread.setFlags_priv (th : Thread) (f : BitVec 6) : (th.setFlags f).priv = th.priv := rfl
@[simp] theorem Thread.setFlags_ageMark (th : Thread) (f : BitVec 6) : (th.setFlags f).ageMark = th.ageMark := rfl
@[simp] theorem Thread.setFlags_readySince (th : Thread) (f : BitVec 6) : (th.setFlags f).readySince = th.readySince := rfl
@[simp] theorem Thread.setFlags_starving (th : Thread) (f : BitVec 6) : (th.setFlags f).starving = th.starving := rfl
@[simp] theorem Thread.setFlags_flushes (th : Thread) (f : BitVec 6) : (th.setFlags f).flushes = th.flushes := rfl
@[simp] theorem Thread.setFlags_segment (th : Thread) (f : BitVec 6) : (th.setFlags f).segment = th.segment := rfl
@[simp] theorem Thread.setFlags_order (th : Thread) (f : BitVec 6) : (th.setFlags f).order = th.order := rfl
@[simp] theorem Thread.setFlags_lid (th : Thread) (f : BitVec 6) : (th.setFlags f).lid = th.lid := rfl
@[simp] theorem Thread.setFlags_parent (th : Thread) (f : BitVec 6) : (th.setFlags f).parent = th.parent := rfl
@[simp] theorem Thread.setFlags_met (th : Thread) (f : BitVec 6) : (th.setFlags f).met = th.met := rfl
@[simp] theorem Thread.setFlags_goto (th : Thread) (f : BitVec 6) : (th.setFlags f).goto = th.goto := rfl
@[simp] theorem Thread.setFlags_trapAfter (th : Thread) (f : BitVec 6) : (th.setFlags f).trapAfter = th.trapAfter := rfl
@[simp] theorem Thread.setFlags_mfence (th : Thread) (f : BitVec 6) : (th.setFlags f).mfence = th.mfence := rfl
@[simp] theorem Thread.setFlags_sample (th : Thread) (f : BitVec 6) : (th.setFlags f).sample = th.sample := rfl
@[simp] theorem Thread.setFlags_yieldAfter (th : Thread) (f : BitVec 6) : (th.setFlags f).yieldAfter = th.yieldAfter := rfl
@[simp] theorem Thread.setFlags_until_ (th : Thread) (f : BitVec 6) : (th.setFlags f).until_ = th.until_ := rfl
@[simp] theorem Thread.setFlags_bar (th : Thread) (f : BitVec 6) : (th.setFlags f).bar = th.bar := rfl
@[simp] theorem Thread.setFlags_bara (th : Thread) (f : BitVec 6) : (th.setFlags f).bara = th.bara := rfl
@[simp] theorem Thread.setFlags_parked (th : Thread) (f : BitVec 6) : (th.setFlags f).parked = th.parked := rfl
@[simp] theorem Thread.setFlags_kept (th : Thread) (f : BitVec 6) : (th.setFlags f).kept = th.kept := rfl

/- Thread.setTok: toks alone changes. -/

@[simp] theorem Thread.setTok_tid (th : Thread) (k n : Nat) : (th.setTok k n).tid = th.tid := rfl
@[simp] theorem Thread.setTok_pc (th : Thread) (k n : Nat) : (th.setTok k n).pc = th.pc := rfl
@[simp] theorem Thread.setTok_regs (th : Thread) (k n : Nat) : (th.setTok k n).regs = th.regs := rfl
@[simp] theorem Thread.setTok_preds (th : Thread) (k n : Nat) : (th.setTok k n).preds = th.preds := rfl
@[simp] theorem Thread.setTok_stores (th : Thread) (k n : Nat) : (th.setTok k n).stores = th.stores := rfl
@[simp] theorem Thread.setTok_meet (th : Thread) (k n : Nat) : (th.setTok k n).meet = th.meet := rfl
@[simp] theorem Thread.setTok_callDepth (th : Thread) (k n : Nat) : (th.setTok k n).callDepth = th.callDepth := rfl
@[simp] theorem Thread.setTok_tstat (th : Thread) (k n : Nat) : (th.setTok k n).tstat = th.tstat := rfl
@[simp] theorem Thread.setTok_status (th : Thread) (k n : Nat) : (th.setTok k n).status = th.status := rfl
@[simp] theorem Thread.setTok_priv (th : Thread) (k n : Nat) : (th.setTok k n).priv = th.priv := rfl
@[simp] theorem Thread.setTok_ageMark (th : Thread) (k n : Nat) : (th.setTok k n).ageMark = th.ageMark := rfl
@[simp] theorem Thread.setTok_readySince (th : Thread) (k n : Nat) : (th.setTok k n).readySince = th.readySince := rfl
@[simp] theorem Thread.setTok_starving (th : Thread) (k n : Nat) : (th.setTok k n).starving = th.starving := rfl
@[simp] theorem Thread.setTok_flushes (th : Thread) (k n : Nat) : (th.setTok k n).flushes = th.flushes := rfl
@[simp] theorem Thread.setTok_segment (th : Thread) (k n : Nat) : (th.setTok k n).segment = th.segment := rfl
@[simp] theorem Thread.setTok_order (th : Thread) (k n : Nat) : (th.setTok k n).order = th.order := rfl
@[simp] theorem Thread.setTok_lid (th : Thread) (k n : Nat) : (th.setTok k n).lid = th.lid := rfl
@[simp] theorem Thread.setTok_parent (th : Thread) (k n : Nat) : (th.setTok k n).parent = th.parent := rfl
@[simp] theorem Thread.setTok_met (th : Thread) (k n : Nat) : (th.setTok k n).met = th.met := rfl
@[simp] theorem Thread.setTok_goto (th : Thread) (k n : Nat) : (th.setTok k n).goto = th.goto := rfl
@[simp] theorem Thread.setTok_trapAfter (th : Thread) (k n : Nat) : (th.setTok k n).trapAfter = th.trapAfter := rfl
@[simp] theorem Thread.setTok_mfence (th : Thread) (k n : Nat) : (th.setTok k n).mfence = th.mfence := rfl
@[simp] theorem Thread.setTok_sample (th : Thread) (k n : Nat) : (th.setTok k n).sample = th.sample := rfl
@[simp] theorem Thread.setTok_yieldAfter (th : Thread) (k n : Nat) : (th.setTok k n).yieldAfter = th.yieldAfter := rfl
@[simp] theorem Thread.setTok_until_ (th : Thread) (k n : Nat) : (th.setTok k n).until_ = th.until_ := rfl
@[simp] theorem Thread.setTok_bar (th : Thread) (k n : Nat) : (th.setTok k n).bar = th.bar := rfl
@[simp] theorem Thread.setTok_bara (th : Thread) (k n : Nat) : (th.setTok k n).bara = th.bara := rfl
@[simp] theorem Thread.setTok_parked (th : Thread) (k n : Nat) : (th.setTok k n).parked = th.parked := rfl
@[simp] theorem Thread.setTok_kept (th : Thread) (k n : Nat) : (th.setTok k n).kept = th.kept := rfl

/- Thread.setPred: preds alone changes. -/

@[simp] theorem Thread.setPred_tid (th : Thread) (p : BitVec 3) (v : Bool) : (th.setPred p v).tid = th.tid := by
  unfold Thread.setPred; split <;> rfl
@[simp] theorem Thread.setPred_pc (th : Thread) (p : BitVec 3) (v : Bool) : (th.setPred p v).pc = th.pc := by
  unfold Thread.setPred; split <;> rfl
@[simp] theorem Thread.setPred_regs (th : Thread) (p : BitVec 3) (v : Bool) : (th.setPred p v).regs = th.regs := by
  unfold Thread.setPred; split <;> rfl
@[simp] theorem Thread.setPred_toks (th : Thread) (p : BitVec 3) (v : Bool) : (th.setPred p v).toks = th.toks := by
  unfold Thread.setPred; split <;> rfl
@[simp] theorem Thread.setPred_stores (th : Thread) (p : BitVec 3) (v : Bool) : (th.setPred p v).stores = th.stores := by
  unfold Thread.setPred; split <;> rfl
@[simp] theorem Thread.setPred_meet (th : Thread) (p : BitVec 3) (v : Bool) : (th.setPred p v).meet = th.meet := by
  unfold Thread.setPred; split <;> rfl
@[simp] theorem Thread.setPred_callDepth (th : Thread) (p : BitVec 3) (v : Bool) : (th.setPred p v).callDepth = th.callDepth := by
  unfold Thread.setPred; split <;> rfl
@[simp] theorem Thread.setPred_tstat (th : Thread) (p : BitVec 3) (v : Bool) : (th.setPred p v).tstat = th.tstat := by
  unfold Thread.setPred; split <;> rfl
@[simp] theorem Thread.setPred_status (th : Thread) (p : BitVec 3) (v : Bool) : (th.setPred p v).status = th.status := by
  unfold Thread.setPred; split <;> rfl
@[simp] theorem Thread.setPred_priv (th : Thread) (p : BitVec 3) (v : Bool) : (th.setPred p v).priv = th.priv := by
  unfold Thread.setPred; split <;> rfl
@[simp] theorem Thread.setPred_ageMark (th : Thread) (p : BitVec 3) (v : Bool) : (th.setPred p v).ageMark = th.ageMark := by
  unfold Thread.setPred; split <;> rfl
@[simp] theorem Thread.setPred_readySince (th : Thread) (p : BitVec 3) (v : Bool) : (th.setPred p v).readySince = th.readySince := by
  unfold Thread.setPred; split <;> rfl
@[simp] theorem Thread.setPred_starving (th : Thread) (p : BitVec 3) (v : Bool) : (th.setPred p v).starving = th.starving := by
  unfold Thread.setPred; split <;> rfl
@[simp] theorem Thread.setPred_flushes (th : Thread) (p : BitVec 3) (v : Bool) : (th.setPred p v).flushes = th.flushes := by
  unfold Thread.setPred; split <;> rfl
@[simp] theorem Thread.setPred_segment (th : Thread) (p : BitVec 3) (v : Bool) : (th.setPred p v).segment = th.segment := by
  unfold Thread.setPred; split <;> rfl
@[simp] theorem Thread.setPred_order (th : Thread) (p : BitVec 3) (v : Bool) : (th.setPred p v).order = th.order := by
  unfold Thread.setPred; split <;> rfl
@[simp] theorem Thread.setPred_lid (th : Thread) (p : BitVec 3) (v : Bool) : (th.setPred p v).lid = th.lid := by
  unfold Thread.setPred; split <;> rfl
@[simp] theorem Thread.setPred_parent (th : Thread) (p : BitVec 3) (v : Bool) : (th.setPred p v).parent = th.parent := by
  unfold Thread.setPred; split <;> rfl
@[simp] theorem Thread.setPred_met (th : Thread) (p : BitVec 3) (v : Bool) : (th.setPred p v).met = th.met := by
  unfold Thread.setPred; split <;> rfl
@[simp] theorem Thread.setPred_goto (th : Thread) (p : BitVec 3) (v : Bool) : (th.setPred p v).goto = th.goto := by
  unfold Thread.setPred; split <;> rfl
@[simp] theorem Thread.setPred_trapAfter (th : Thread) (p : BitVec 3) (v : Bool) : (th.setPred p v).trapAfter = th.trapAfter := by
  unfold Thread.setPred; split <;> rfl
@[simp] theorem Thread.setPred_mfence (th : Thread) (p : BitVec 3) (v : Bool) : (th.setPred p v).mfence = th.mfence := by
  unfold Thread.setPred; split <;> rfl
@[simp] theorem Thread.setPred_sample (th : Thread) (p : BitVec 3) (v : Bool) : (th.setPred p v).sample = th.sample := by
  unfold Thread.setPred; split <;> rfl
@[simp] theorem Thread.setPred_yieldAfter (th : Thread) (p : BitVec 3) (v : Bool) : (th.setPred p v).yieldAfter = th.yieldAfter := by
  unfold Thread.setPred; split <;> rfl
@[simp] theorem Thread.setPred_until_ (th : Thread) (p : BitVec 3) (v : Bool) : (th.setPred p v).until_ = th.until_ := by
  unfold Thread.setPred; split <;> rfl
@[simp] theorem Thread.setPred_bar (th : Thread) (p : BitVec 3) (v : Bool) : (th.setPred p v).bar = th.bar := by
  unfold Thread.setPred; split <;> rfl
@[simp] theorem Thread.setPred_bara (th : Thread) (p : BitVec 3) (v : Bool) : (th.setPred p v).bara = th.bara := by
  unfold Thread.setPred; split <;> rfl
@[simp] theorem Thread.setPred_parked (th : Thread) (p : BitVec 3) (v : Bool) : (th.setPred p v).parked = th.parked := by
  unfold Thread.setPred; split <;> rfl
@[simp] theorem Thread.setPred_kept (th : Thread) (p : BitVec 3) (v : Bool) : (th.setPred p v).kept = th.kept := by
  unfold Thread.setPred; split <;> rfl

@[simp] theorem Thread.setReg_regs (th : Thread) (r : Reg) (v : Word) : (th.setReg r v).regs = th.regs.set r.toNat v := rfl
@[simp] theorem Thread.setFlags_tstat (th : Thread) (f : BitVec 6) : (th.setFlags f).tstat = th.tstat ||| f := rfl
@[simp] theorem Thread.setTok_toks (th : Thread) (k n : Nat) : (th.setTok k n).toks = th.toks.set k n := rfl

end Sys2Proof.Machine
end

