-- ==== Sys2Proof/Laws/Ops.lean ====
section
/-! SUPPORT. What the shared operations do, said once: the block of an update, the end of an instruction, an instruction that touches its
lanes alone. -/

namespace Sys2Proof.Machine

open Sys2Proof

/- Lists. -/

theorem find?_replaceFirst {α : Type} (p : α → Bool) (f : α → α) (hf : ∀ x, p x = true → p (f x) = true) :
    ∀ l : List α, (replaceFirst p f l).find? p = (l.find? p).map f
  | [] => rfl
  | x :: r => by
    by_cases h : p x = true
    · simp [replaceFirst, h, hf x h]
    · simp [replaceFirst, h, find?_replaceFirst p f hf r]

theorem find?_replaceFirst_ne {α : Type} (p q : α → Bool) (f : α → α) (hq : ∀ x, p x = true → q x = false ∧ q (f x) = false) :
    ∀ l : List α, (replaceFirst p f l).find? q = l.find? q
  | [] => rfl
  | x :: r => by
    by_cases h : p x = true
    · simp [replaceFirst, h, hq x h]
    · by_cases hx : q x = true <;> simp [replaceFirst, h, hx, find?_replaceFirst_ne p q f hq r]

theorem replaceFirst_replaceFirst {α : Type} (p : α → Bool) (f h : α → α) (hf : ∀ x, p x = true → p (f x) = true) :
    ∀ l : List α, replaceFirst p h (replaceFirst p f l) = replaceFirst p (fun x => h (f x)) l
  | [] => rfl
  | x :: r => by
    by_cases hp : p x = true
    · simp [replaceFirst, hp, hf x hp]
    · simp [replaceFirst, hp, replaceFirst_replaceFirst p f h hf r]

theorem replaceFirst_congr {α : Type} (p : α → Bool) (f h : α → α) : ∀ l : List α, (∀ x, l.find? p = some x → f x = h x) →
    replaceFirst p f l = replaceFirst p h l
  | [], _ => rfl
  | x :: r, hx => by
    by_cases hp : p x = true
    · simp [replaceFirst, hp, hx x (by simp [hp])]
    · simp only [replaceFirst, hp, Bool.false_eq_true, if_false, List.cons.injEq, true_and]
      exact replaceFirst_congr p f h r (fun y hy => hx y (by simp [hp, hy]))

/- Blocks. -/

theorem isBlock_self (b : Block) : isBlock b.grid b.bidx b = true := by simp [isBlock]

theorem isBlock_iff (g n : Nat) (b : Block) : isBlock g n b = true ↔ b.grid = g ∧ b.bidx = n := by simp [isBlock]

/-- The block of a name after an update of it that keeps its name. -/
theorem State.block?_updBlock (s : State) (g n : Nat) (f : Block → Block) (hf : ∀ x, isBlock g n x = true → isBlock g n (f x) = true) :
    (s.updBlock g n f).block? g n = (s.block? g n).map f := find?_replaceFirst _ f hf s.blocks

/-- Another block is as before. -/
theorem State.block?_updBlock_ne (s : State) (g n g' n' : Nat) (f : Block → Block)
    (hf : ∀ x, isBlock g n x = true → isBlock g n (f x) = true) (h : ¬(g = g' ∧ n = n')) :
    (s.updBlock g n f).block? g' n' = s.block? g' n' := by
  refine find?_replaceFirst_ne _ _ f (fun x hx => ?_) s.blocks
  have h1 := (isBlock_iff _ _ _).1 hx
  have h2 := (isBlock_iff _ _ _).1 (hf x hx)
  constructor
  · rw [Bool.eq_false_iff]
    intro h3
    have h3 := (isBlock_iff _ _ _).1 h3
    omega
  · rw [Bool.eq_false_iff]
    intro h3
    have h3 := (isBlock_iff _ _ _).1 h3
    omega

theorem State.block?_name {s : State} {g n : Nat} {b : Block} (h : s.block? g n = some b) : b.grid = g ∧ b.bidx = n :=
  (isBlock_iff _ _ _).1 (List.find?_some h)

/-- The block and group that issue stand in the state. -/
theorem State.cur?_block {s : State} {b : Block} {g : Group} (h : s.cur? = some (b, g)) :
    s.block? b.grid b.bidx = some b ∧ g ∈ b.groups ∧ s.issuing = some { grid := b.grid, bidx := b.bidx, gid := g.gid } := by
  unfold State.cur? at h
  split at h
  · cases h
  · rename_i c hc
    split at h
    · cases h
    · rename_i b' hb
      cases hg : b'.groups.find? fun g => g.gid == c.gid with
      | none => simp [hg] at h
      | some g' =>
        simp only [hg, Option.map_some, Option.some.injEq, Prod.mk.injEq] at h
        obtain ⟨rfl, rfl⟩ := h
        obtain ⟨h1, h2⟩ := State.block?_name hb
        have h3 := List.find?_some hg
        simp only [beq_iff_eq] at h3
        refine ⟨by rw [h1, h2]; exact hb, List.mem_of_find?_eq_some hg, ?_⟩
        rw [hc]
        cases c
        simp_all

/- The end of an instruction. -/

/-- No thread has a TRAP to take: nothing happens at the end of the clause. -/
theorem endTraps_calm (s : State) (g n : Nat) (h : ∀ b, s.block? g n = some b → ∀ th ∈ b.threads, th.trapAfter = none) :
    endTraps s g n = s := by
  unfold endTraps
  split
  · rfl
  · rename_i b hb
    have he : (b.threads.filter fun th => th.trapAfter.isSome && !(b.groups.any fun g => (g.member? th.tid).isSome)) = [] := by
      rw [List.filter_eq_nil_iff]
      intro th hth
      simp [h b hb th hth]
    simp [he]

@[simp] theorem clauseEndThread_tid (s : State) (g : Group) (m : Member) (th : Thread) : (clauseEndThread s g m th).tid = th.tid := by
  unfold clauseEndThread
  dsimp only
  split
  · rfl
  · split <;> rfl

@[simp] theorem clauseEndThread_trap (s : State) (g : Group) (m : Member) (th : Thread) :
    (clauseEndThread s g m th).trapAfter = th.trapAfter := by
  unfold clauseEndThread
  dsimp only
  split
  · rfl
  · split <;> rfl

@[simp] theorem clauseEndThread_content (s : State) (g : Group) (m : Member) (th : Thread) :
    (clauseEndThread s g m th).content = th.content := by
  unfold clauseEndThread Thread.content
  dsimp only
  split
  · rfl
  · split <;> rfl

/-- The thread of a member as an instruction of the group leaves it: at the next word, or at the end of its clause. -/
def movedThread (s : State) (b : Block) (g : Group) (n : Nat) (add : List Window) (th : Thread) : Thread :=
  let g' := stepGroup g n add
  match g.member? th.tid with
  | some m => if clauseOver s b g' then clauseEndThread s g' m th
              else if m.active then { th with pc := g.hdr + BitVec.ofNat 57 (4 * g'.idx) } else th
  | none => th

theorem stepGroup_member (g : Group) (n : Nat) (add : List Window) (t : Nat) : (stepGroup g n add).member? t = g.member? t := rfl

theorem advanceBlock_threads (s : State) (b : Block) (g : Group) (n : Nat) (add : List Window) :
    (advanceBlock s b g n add).threads = b.threads.map (movedThread s b g n add) := by
  unfold advanceBlock movedThread
  dsimp only
  split
  · rename_i h
    refine List.map_congr_left fun th _ => ?_
    first | (rw [stepGroup_member]; done) | (rw [stepGroup_member]; cases g.member? th.tid <;> simp)
  · rename_i h
    refine List.map_congr_left fun th _ => ?_
    cases g.member? th.tid <;> simp

theorem advanceBlock_shell (s : State) (b : Block) (g : Group) (n : Nat) (add : List Window) :
    (advanceBlock s b g n add).shell = b.shell := by
  unfold advanceBlock
  dsimp only
  split <;> rfl

theorem shell_name {b c : Block} (h : b.shell = c.shell) : b.grid = c.grid ∧ b.bidx = c.bidx := by
  have h1 := congrArg Block.grid h
  have h2 := congrArg Block.bidx h
  exact ⟨h1, h2⟩

theorem movedThread_trap (s : State) (b : Block) (g : Group) (n : Nat) (add : List Window) (th : Thread) :
    (movedThread s b g n add th).trapAfter = th.trapAfter := by
  unfold movedThread
  dsimp only
  split
  · split
    · simp
    · split <;> rfl
  · rfl

@[simp] theorem movedThread_content (s : State) (b : Block) (g : Group) (n : Nat) (add : List Window) (th : Thread) :
    (movedThread s b g n add th).content = th.content := by
  unfold movedThread
  dsimp only
  split
  · split
    · simp
    · split <;> rfl
  · rfl

/-- The end of an instruction of a block whose threads have no TRAP to take: the block moves on, the issue slot is free. -/
theorem advance_calm (s : State) (b : Block) (g : Group) (n : Nat) (add : List Window) (h : ∀ th ∈ b.threads, th.trapAfter = none) :
    advance s b g n add = (s.updBlock b.grid b.bidx fun _ => advanceBlock s b g n add).idle := by
  unfold advance
  rw [endTraps_calm]
  intro b' hb th hth
  rw [State.block?_updBlock] at hb
  · cases hx : s.block? b.grid b.bidx with
    | none => simp [hx] at hb
    | some x =>
      simp only [hx, Option.map_some, Option.some.injEq] at hb
      subst hb
      rw [advanceBlock_threads, List.mem_map] at hth
      obtain ⟨t, ht, rfl⟩ := hth
      rw [movedThread_trap]
      exact h t ht
  · intro x _
    obtain ⟨h1, h2⟩ := shell_name (advanceBlock_shell s b g n add)
    rw [isBlock_iff]
    exact ⟨h1, h2⟩

/-- An instruction of a group that issues, its entry conditions met: its effect alone. -/
theorem issue_next {s : State} {b : Block} {g : Group} {i : Instr} (h : Issuing s b g i) (k : Block → Group → State) :
    issue i s k = .next (k b g) := by
  unfold issue
  rw [h.current]
  simp only [h.admitted]

/-- An instruction that changes its active lanes alone: what `LanesDid` says, each lane from the old block. -/
theorem onLanes_did {s : State} {b : Block} {g : Group} {i : Instr} (h : Issuing s b g i)
    (f : Block → Group → Member → Thread → Thread) (htr : ∀ m th, (f b g m th).trapAfter = th.trapAfter) :
    ∃ t, onLanes i s f = .next t ∧ LanesDid s t b g fun m th th' => th'.content = (f b g m th).content := by
  have hc : ∀ th ∈ (mapActive b g (f b g)).threads, th.trapAfter = none := by
    intro th hth
    simp only [mapActive, List.mem_map] at hth
    obtain ⟨t, ht, rfl⟩ := hth
    split
    · split
      · rw [htr]
        exact h.calm t ht
      · exact h.calm t ht
    · exact h.calm t ht
  unfold onLanes
  rw [issue_next h, advance_calm _ _ _ _ _ hc]
  refine ⟨_, rfl, advanceBlock s (mapActive b g (f b g)) g (Instr.len i) [], rfl, ?_, ?_⟩
  · rw [advanceBlock_shell]
    rfl
  · refine ⟨fun th => movedThread s (mapActive b g (f b g)) g (Instr.len i) []
      (match g.member? th.tid with
       | some m => if m.active then f b g m th else th
       | none => th), ?_, ?_⟩
    · rw [advanceBlock_threads]
      simp only [mapActive, List.map_map]
      rfl
    · intro th _
      cases hm : g.member? th.tid with
      | none => simp [movedThread, hm]
      | some m =>
        by_cases ha : m.active <;> simp [ha, hm]

end Sys2Proof.Machine
end

