-- ==== Sys2Proof/Laws/Lanes.lean ====
section
/-! SUPPORT. An instruction whose lanes act one after another, of a group with one active lane: the states it goes through. -/

namespace Sys2Proof.Machine

open Sys2Proof

/-- With one entry that meets p, changing the first such entry changes each. -/
theorem replaceFirst_map {α : Type} (p : α → Bool) (f : α → α) : ∀ l : List α, (l.filter p).length ≤ 1 →
    replaceFirst p f l = l.map fun x => if p x then f x else x
  | [], _ => rfl
  | x :: r, h => by
    by_cases hp : p x = true
    · have hr : r.filter p = [] := by
        simp only [List.filter_cons, hp, if_true, List.length_cons] at h
        exact List.eq_nil_of_length_eq_zero (by omega)
      have : r.map (fun x => if p x then f x else x) = r := by
        conv_rhs => rw [← List.map_id r]
        refine List.map_congr_left fun y hy => ?_
        have := List.filter_eq_nil_iff.1 hr y hy
        simp [this]
      simp [replaceFirst, hp, this]
    · have hr : (r.filter p).length ≤ 1 := by
        simpa [List.filter_cons, hp] using h
      simp [replaceFirst, hp, replaceFirst_map p f r hr]

theorem activeLanes_mem {b : Block} {g : Group} {m : Member} {th : Thread} (h : activeLanes b g = [(m, th)]) :
    th ∈ b.threads ∧ g.member? th.tid = some m ∧ m.active = true := by
  have hm : (m, th) ∈ activeLanes b g := by simp [h]
  unfold activeLanes at hm
  rw [List.mem_filterMap] at hm
  obtain ⟨x, hx, hx'⟩ := hm
  cases hg : g.member? x.tid with
  | none => simp [hg] at hx'
  | some m' =>
    by_cases ha : m'.active = true
    · simp only [hg, ha, if_true, Option.some.injEq, Prod.mk.injEq] at hx'
      obtain ⟨rfl, rfl⟩ := hx'
      exact ⟨hx, hg, ha⟩
    · simp [hg, ha] at hx'

/-- The one active lane's TID names one thread. -/
theorem activeLanes_unique {b : Block} {g : Group} {m : Member} {th : Thread} (h : activeLanes b g = [(m, th)]) :
    (b.threads.filter fun x => x.tid == th.tid).length ≤ 1 := by
  obtain ⟨_, h2, h3⟩ := activeLanes_mem h
  have key : ∀ l : List Thread, (l.filter fun x => x.tid == th.tid).length ≤ (activeLanes { b with threads := l } g).length := by
    intro l
    induction l with
    | nil => simp
    | cons x r ih =>
      unfold activeLanes at ih ⊢
      dsimp only at ih ⊢
      by_cases hx : x.tid = th.tid
      · simpa [hx, h2, h3] using ih
      · simp only [List.filter_cons, beq_iff_eq, hx, if_false, List.filterMap_cons]
        split
        · exact ih
        · simp only [List.length_cons]
          omega
  have h4 := key b.threads
  rw [show activeLanes { b with threads := b.threads } g = [(m, th)] from h] at h4
  simpa using h4

theorem updThread_threads {b : Block} {g : Group} {m : Member} {th : Thread} (h : activeLanes b g = [(m, th)]) (f : Thread → Thread) :
    (b.updThread th.tid f).threads = b.threads.map fun x => if x.tid == th.tid then f x else x :=
  replaceFirst_map _ f b.threads (activeLanes_unique h)

/-- The lane is found by its TID. -/
theorem IssuingAlone.thread {s : State} {b : Block} {g : Group} {m : Member} {th : Thread} {i : Instr} (h : IssuingAlone s b g m th i) :
    b.thread? th.tid = some th := by
  obtain ⟨h1, _, _⟩ := activeLanes_mem h.alone
  have hu := activeLanes_unique h.alone
  unfold Block.thread?
  cases hf : b.threads.find? fun x => x.tid == th.tid with
  | none =>
    have := List.find?_eq_none.1 hf th h1
    simp at this
  | some y =>
    have hy := List.find?_some hf
    have hym := List.mem_of_find?_eq_some hf
    by_contra hne
    have hne : y ≠ th := fun e => hne (by rw [e])
    have h2 : y ∈ b.threads.filter fun x => x.tid == th.tid := List.mem_filter.2 ⟨hym, hy⟩
    have h3 : th ∈ b.threads.filter fun x => x.tid == th.tid := List.mem_filter.2 ⟨h1, by simp⟩
    cases hl : b.threads.filter fun x => x.tid == th.tid with
    | nil => simp [hl] at h2
    | cons a r =>
      rw [hl] at h2 h3 hu
      have hr : r = [] := List.eq_nil_of_length_eq_zero (by simpa using hu)
      subst hr
      simp only [List.mem_singleton] at h2 h3
      exact hne (h2.trans h3.symm)

/-- One active lane that its check lets through: its act, then the next word. -/
theorem runLanesThen_alone {s s1 s2 : State} {b : Block} {g : Group} {m : Member} {th : Thread} {i : Instr} {ws : List Window}
    (h : IssuingAlone s b g m th i) (chk : Block → Group → State → Member → Thread → State × LaneCheck)
    (act : Block → Group → State → Member → Thread → State × List Window) (post : Block → List (Member × Thread) → State → State)
    (hc : chk b g s m th = (s1, .go)) (ha : act b g s1 m th = (s2, ws)) :
    runLanesThen i s chk act post =
      .next (advanceIn (post b [(m, th)] s2) b.grid b.bidx g.gid (Instr.len i) ws) := by
  unfold runLanesThen
  rw [issue_next h.toIssuing, h.alone]
  simp [checkLanes, actLanes, hc, ha, parkLanes, trapLanes]

theorem runLanes_alone {s s1 s2 : State} {b : Block} {g : Group} {m : Member} {th : Thread} {i : Instr} {ws : List Window}
    (h : IssuingAlone s b g m th i) (chk : Block → Group → State → Member → Thread → State × LaneCheck)
    (act : Block → Group → State → Member → Thread → State × List Window)
    (hc : chk b g s m th = (s1, .go)) (ha : act b g s1 m th = (s2, ws)) :
    runLanes i s chk act = .next (advanceIn s2 b.grid b.bidx g.gid (Instr.len i) ws) :=
  runLanesThen_alone h chk act _ hc ha

/-- The end of an instruction whose lane's thread has gone by f in a state whose blocks are otherwise those of s. -/
theorem advanceIn_lane {s s2 : State} {b : Block} {g : Group} {m : Member} {th : Thread} {i : Instr} (h : IssuingAlone s b g m th i)
    (f : Thread → Thread) (hid : ∀ x, (f x).trapAfter = x.trapAfter)
    (hb : s2.blocks = replaceFirst (isBlock b.grid b.bidx) (fun b => b.updThread th.tid f) s.blocks) (n : Nat) (ws : List Window) :
    ∃ b', advanceIn s2 b.grid b.bidx g.gid n ws = (s2.updBlock b.grid b.bidx fun _ => b').idle ∧
      OneLane s (advanceIn s2 b.grid b.bidx g.gid n ws) b g fun _ x x' => x'.content = (f x).content := by
  obtain ⟨hs, hgm, _⟩ := State.cur?_block h.current
  have hname : ∀ x, isBlock b.grid b.bidx x = true → isBlock b.grid b.bidx (x.updThread th.tid f) = true := fun x hx => hx
  have hb2 : s2.block? b.grid b.bidx = some (b.updThread th.tid f) := by
    unfold State.block? at hs ⊢
    rw [hb, find?_replaceFirst _ _ hname, hs]
    rfl
  have hg : (b.updThread th.tid f).groups.find? (fun x => x.gid == g.gid) = some g := by
    have hc := h.current
    unfold State.cur? at hc
    split at hc
    · cases hc
    · rename_i c hc'
      split at hc
      · cases hc
      · rename_i b' hb'
        cases hgx : b'.groups.find? fun g => g.gid == c.gid with
        | none => simp [hgx] at hc
        | some g' =>
          simp only [hgx, Option.map_some, Option.some.injEq, Prod.mk.injEq] at hc
          obtain ⟨rfl, rfl⟩ := hc
          have h3 := List.find?_some hgx
          simp only [beq_iff_eq] at h3
          rw [h3]
          exact hgx
  have hth : (b.updThread th.tid f).threads = b.threads.map fun x => if x.tid == th.tid then f x else x :=
    updThread_threads h.alone f
  have hcalm : ∀ x ∈ (b.updThread th.tid f).threads, x.trapAfter = none := by
    intro x hx
    rw [hth, List.mem_map] at hx
    obtain ⟨y, hy, rfl⟩ := hx
    split
    · rw [hid]
      exact h.calm y hy
    · exact h.calm y hy
  have he : advanceIn s2 b.grid b.bidx g.gid n ws =
      (s2.updBlock b.grid b.bidx fun _ => advanceBlock s2 (b.updThread th.tid f) g n ws).idle := by
    unfold advanceIn
    rw [hb2]
    dsimp only
    rw [hg]
    exact advance_calm s2 (b.updThread th.tid f) g n ws hcalm
  refine ⟨_, he, advanceBlock s2 (b.updThread th.tid f) g n ws, ?_, ?_, ?_, ?_⟩
  · rw [he]
    show replaceFirst _ _ s2.blocks = _
    rw [hb, replaceFirst_replaceFirst _ _ _ hname]
  · rw [he]
    rfl
  · rw [advanceBlock_shell]
    rfl
  · refine ⟨fun x => movedThread s2 (b.updThread th.tid f) g n ws (if x.tid == th.tid then f x else x), ?_, ?_⟩
    · rw [advanceBlock_threads, hth, List.map_map]
      rfl
    · intro x hx
      cases hm : g.member? x.tid with
      | none =>
        have hne : ¬ (x.tid == th.tid) = true := by
          intro e
          simp only [beq_iff_eq] at e
          rw [e, (activeLanes_mem h.alone).2.1] at hm
          cases hm
        simp [hne, movedThread, hm]
      | some m' =>
        dsimp only
        by_cases ha : m'.active = true
        · rw [if_pos ha, movedThread_content]
          have hxa : (m', x) ∈ activeLanes b g := by
            unfold activeLanes
            rw [List.mem_filterMap]
            exact ⟨x, hx, by simp [hm, ha]⟩
          rw [h.alone] at hxa
          simp only [List.mem_singleton, Prod.mk.injEq] at hxa
          simp [hxa.2]
        · rw [if_neg ha, movedThread_content]
          split
          · rename_i e
            simp only [beq_iff_eq] at e
            rw [e, (activeLanes_mem h.alone).2.1] at hm
            simp only [Option.some.injEq] at hm
            subst hm
            exact absurd (activeLanes_mem h.alone).2.2 ha
          · rfl

end Sys2Proof.Machine
end

