-- ==== Sys2Proof/Laws/Memory.lean ====
section
/-! SUPPORT. Memory: a write is read back, leaves every other byte alone, and every operation keeps the canonical form. -/

namespace Sys2Proof.Machine

open Sys2Proof

/- The form of a cell list. -/

theorem cellsOk_mono {lo lo' : Nat} (h : lo' ≤ lo) : ∀ {l : List Host.Cell}, cellsOk lo l = true → cellsOk lo' l = true
  | [], _ => rfl
  | (b, x) :: r, hl => by
    simp only [cellsOk, Bool.and_eq_true, decide_eq_true_eq] at hl ⊢
    exact ⟨⟨le_trans h hl.1.1, hl.1.2⟩, hl.2⟩

theorem cellsOk_set (a : Nat) (v : Byte) : ∀ {lo : Nat} {l : List Host.Cell}, cellsOk lo l = true → lo ≤ a →
    cellsOk lo (cellsSet l a v) = true
  | lo, [], _, ha => by
    unfold cellsSet
    split
    · rfl
    · simp_all [cellsOk]
  | lo, (b, x) :: r, hl, ha => by
    simp only [cellsOk, Bool.and_eq_true, decide_eq_true_eq] at hl
    obtain ⟨⟨hb, hx⟩, hr⟩ := hl
    unfold cellsSet
    split
    · split
      · simp_all [cellsOk]
      · have := cellsOk_mono (Nat.le_refl (b + 1)) hr
        simp_all [cellsOk]
    · split
      · split
        · exact cellsOk_mono (by omega) hr
        · simp_all [cellsOk]
      · have h := cellsOk_set a v (lo := b + 1) hr (by simp_all; omega)
        simp_all [cellsOk]

theorem cellsOk_put : ∀ (bs : List Byte) (a : Nat) {lo : Nat} {l : List Host.Cell}, cellsOk lo l = true → lo ≤ a →
    cellsOk lo (cellsPut l a bs) = true
  | [], _, _, _, h, _ => h
  | b :: r, a, _, _, h, ha => cellsOk_put r (a + 1) (cellsOk_set a b h ha) (by omega)

theorem cellsOk_filter (p : Host.Cell → Bool) : ∀ {lo : Nat} {l : List Host.Cell}, cellsOk lo l = true →
    cellsOk lo (l.filter p) = true
  | _, [], _ => rfl
  | lo, (b, x) :: r, h => by
    simp only [cellsOk, Bool.and_eq_true, decide_eq_true_eq] at h
    have hr := cellsOk_filter p h.2
    simp only [List.filter_cons]
    split
    · simp_all [cellsOk]
    · exact cellsOk_mono (by omega) hr

theorem cellsOk_append : ∀ {lo mid : Nat} {l r : List Host.Cell}, cellsOk lo l = true → (∀ c ∈ l, c.1 < mid) → lo ≤ mid →
    cellsOk mid r = true → cellsOk lo (l ++ r) = true
  | _, _, [], _, _, _, hm, hr => cellsOk_mono hm hr
  | lo, mid, (b, x) :: l, r, hl, hb, _, hr => by
    simp only [cellsOk, Bool.and_eq_true, decide_eq_true_eq] at hl
    have hbm : b < mid := hb (b, x) (by simp)
    have := cellsOk_append (lo := b + 1) hl.2 (fun c hc => hb c (by simp [hc])) hbm hr
    simp only [List.cons_append, cellsOk, Bool.and_eq_true, decide_eq_true_eq]
    exact ⟨hl.1, this⟩

theorem cellsOk_shift (lo hi : Nat) : ∀ {k : Nat} {l : List Host.Cell}, cellsOk k l = true → lo ≤ k →
    cellsOk (hi + (k - lo)) (l.map fun c => (hi + (c.1 - lo), c.2)) = true
  | _, [], _, _ => rfl
  | k, (b, x) :: r, h, hk => by
    simp only [cellsOk, Bool.and_eq_true, decide_eq_true_eq] at h
    have := cellsOk_shift lo hi (k := b + 1) h.2 (by omega)
    simp only [List.map_cons, cellsOk, Bool.and_eq_true, decide_eq_true_eq]
    exact ⟨⟨by omega, h.1.2⟩, cellsOk_mono (by omega) this⟩

theorem cellsOk_lift {n : Nat} : ∀ {lo : Nat} {l : List Host.Cell}, cellsOk lo l = true → (∀ c ∈ l, n ≤ c.1) → cellsOk n l = true
  | _, [], _, _ => rfl
  | lo, (b, x) :: r, h, hn => by
    simp only [cellsOk, Bool.and_eq_true, decide_eq_true_eq] at h ⊢
    exact ⟨⟨hn (b, x) (by simp), h.1.2⟩, h.2⟩

theorem cellsOk_copy (lo hi n : Nat) {l : List Host.Cell} (h : cellsOk 0 l = true) : cellsOk 0 (cellsCopy l lo hi n) = true := by
  have hmid : cellsOk lo (l.filter fun c => lo ≤ c.1 && c.1 < lo + n) = true :=
    cellsOk_lift (cellsOk_filter _ h) (fun c hc => by simp at hc; omega)
  have hs := cellsOk_shift lo hi hmid (Nat.le_refl lo)
  have hend : cellsOk (hi + n) (l.filter fun c => hi + n ≤ c.1) = true :=
    cellsOk_lift (cellsOk_filter _ h) (fun c hc => by simp at hc; omega)
  unfold cellsCopy
  rw [List.append_assoc]
  refine cellsOk_append (mid := hi) (cellsOk_filter _ h) (fun c hc => by simp at hc; omega) (by omega) ?_
  refine cellsOk_append (mid := hi + n) (by simpa using hs) (fun c hc => ?_) (by omega) hend
  simp only [List.mem_map, List.mem_filter, Bool.and_eq_true, decide_eq_true_eq] at hc
  obtain ⟨d, ⟨_, hd⟩, rfl⟩ := hc
  show hi + (d.1 - lo) < hi + n
  omega

/- The form of a list of marks. -/

theorem risingOk_mono {lo lo' : Nat} (h : lo' ≤ lo) : ∀ {l : List Nat}, risingOk lo l = true → risingOk lo' l = true
  | [], _ => rfl
  | b :: r, hl => by
    simp only [risingOk, Bool.and_eq_true, decide_eq_true_eq] at hl ⊢
    exact ⟨le_trans h hl.1, hl.2⟩

theorem risingOk_mark (a : Nat) (v : Bool) : ∀ {lo : Nat} {l : List Nat}, risingOk lo l = true → lo ≤ a →
    risingOk lo (markSet l a v) = true
  | lo, [], _, ha => by
    unfold markSet
    split <;> simp_all [risingOk]
  | lo, b :: r, hl, ha => by
    simp only [risingOk, Bool.and_eq_true, decide_eq_true_eq] at hl
    unfold markSet
    split
    · split <;> simp_all [risingOk]
    · split
      · split
        · simp_all [risingOk]
        · exact risingOk_mono (by omega) hl.2
      · have h := risingOk_mark a v (lo := b + 1) hl.2 (by simp_all; omega)
        simp_all [risingOk]

theorem risingOk_filter (p : Nat → Bool) : ∀ {lo : Nat} {l : List Nat}, risingOk lo l = true → risingOk lo (l.filter p) = true
  | _, [], _ => rfl
  | lo, b :: r, h => by
    simp only [risingOk, Bool.and_eq_true, decide_eq_true_eq] at h
    have hr := risingOk_filter p h.2
    simp only [List.filter_cons]
    split
    · simp_all [risingOk]
    · exact risingOk_mono (by omega) hr

theorem risingOk_append : ∀ {lo mid : Nat} {l r : List Nat}, risingOk lo l = true → (∀ c ∈ l, c < mid) → lo ≤ mid →
    risingOk mid r = true → risingOk lo (l ++ r) = true
  | _, _, [], _, _, _, hm, hr => risingOk_mono hm hr
  | lo, mid, b :: l, r, hl, hb, _, hr => by
    simp only [risingOk, Bool.and_eq_true, decide_eq_true_eq] at hl
    have hbm : b < mid := hb b (by simp)
    have := risingOk_append (lo := b + 1) hl.2 (fun c hc => hb c (by simp [hc])) hbm hr
    simp only [List.cons_append, risingOk, Bool.and_eq_true, decide_eq_true_eq]
    exact ⟨hl.1, this⟩

theorem risingOk_shift (lo hi : Nat) : ∀ {k : Nat} {l : List Nat}, risingOk k l = true → lo ≤ k →
    risingOk (hi + (k - lo)) (l.map fun q => hi + (q - lo)) = true
  | _, [], _, _ => rfl
  | k, b :: r, h, hk => by
    simp only [risingOk, Bool.and_eq_true, decide_eq_true_eq] at h
    have := risingOk_shift lo hi (k := b + 1) h.2 (by omega)
    simp only [List.map_cons, risingOk, Bool.and_eq_true, decide_eq_true_eq]
    exact ⟨by omega, risingOk_mono (by omega) this⟩

theorem risingOk_lift {n : Nat} : ∀ {lo : Nat} {l : List Nat}, risingOk lo l = true → (∀ c ∈ l, n ≤ c) → risingOk n l = true
  | _, [], _, _ => rfl
  | lo, b :: r, h, hn => by
    simp only [risingOk, Bool.and_eq_true, decide_eq_true_eq] at h ⊢
    exact ⟨hn b (by simp), h.2⟩

/- The form of a memory. -/

theorem Memory.wf_iff (m : Memory) : m.wf = true ↔ cellsOk 0 m.cells = true ∧ cellsOk 0 m.errs = true ∧ risingOk 0 m.poison = true := by
  simp [Memory.wf, and_assoc]

theorem Memory.empty_wf : Memory.empty.wf = true := rfl

theorem sealPut_wf (e : Byte) (p : Bool) : ∀ (n : Nat) (m : Memory) (q : Nat), m.wf = true → (sealPut e p n m q).wf = true
  | 0, _, _, h => h
  | n + 1, m, q, h => by
    rw [Memory.wf_iff] at h
    exact sealPut_wf e p n _ _ ((Memory.wf_iff _).2 ⟨h.1, cellsOk_set q e h.2.1 (by omega), risingOk_mark q p h.2.2 (by omega)⟩)

/-- A write keeps the canonical form. -/
theorem Memory.write_wf (m : Memory) (a : Nat) (bs : List Byte) (h : m.wf = true) : (m.write a bs).wf = true := by
  rw [Memory.wf_iff] at h
  exact sealPut_wf _ _ _ _ _ ((Memory.wf_iff _).2 ⟨cellsOk_put bs a h.1 (by omega), h.2⟩)

theorem Memory.writeNum_wf (m : Memory) (a n x : Nat) (h : m.wf = true) : (m.writeNum a n x).wf = true := m.write_wf _ _ h

/-- A granule written with a syndrome keeps the canonical form. -/
theorem Memory.writeGranule_wf (m : Memory) (q : Nat) (bs : List Byte) (e : Byte) (h : m.wf = true) :
    (m.writeGranule q bs e).wf = true := by
  rw [Memory.wf_iff] at h
  exact sealPut_wf _ _ _ _ _ ((Memory.wf_iff _).2 ⟨cellsOk_put bs _ h.1 (by omega), h.2⟩)

/-- Filling a range with zero granules keeps the canonical form. -/
theorem Memory.clear_wf (m : Memory) (lo n : Nat) (h : m.wf = true) : (m.clear lo n).wf = true := by
  rw [Memory.wf_iff] at h
  exact (Memory.wf_iff _).2 ⟨cellsOk_filter _ h.1, cellsOk_filter _ h.2.1, risingOk_filter _ h.2.2⟩

/-- Copying a range with its seals keeps the canonical form. -/
theorem Memory.copyRange_wf (m : Memory) (src dst n : Nat) (h : m.wf = true) : (m.copyRange src dst n).wf = true := by
  rw [Memory.wf_iff] at h
  refine (Memory.wf_iff _).2 ⟨cellsOk_copy _ _ _ h.1, cellsOk_copy _ _ _ h.2.1, ?_⟩
  have hmid : risingOk (src / 8) (m.poison.filter fun q => src / 8 ≤ q && q < src / 8 + n / 8) = true :=
    risingOk_lift (risingOk_filter _ h.2.2) (fun c hc => by simp at hc; omega)
  have hs := risingOk_shift (src / 8) (dst / 8) hmid (Nat.le_refl _)
  have hend : risingOk (dst / 8 + n / 8) (m.poison.filter fun q => dst / 8 + n / 8 ≤ q) = true :=
    risingOk_lift (risingOk_filter _ h.2.2) (fun c hc => by simp at hc; omega)
  show risingOk 0 (_ ++ _ ++ _) = true
  rw [List.append_assoc]
  refine risingOk_append (mid := dst / 8) (risingOk_filter _ h.2.2) (fun c hc => by simp at hc; omega) (by omega) ?_
  refine risingOk_append (mid := dst / 8 + n / 8) (by simpa using hs) (fun c hc => ?_) (by omega) hend
  simp only [List.mem_map, List.mem_filter, Bool.and_eq_true, decide_eq_true_eq] at hc
  obtain ⟨d, ⟨_, hd⟩, rfl⟩ := hc
  omega

/-- A granule marked poisoned keeps the canonical form. -/
theorem Memory.poison_wf (m : Memory) (q : Nat) (v : Bool) (h : m.wf = true) :
    ({ m with poison := markSet m.poison q v } : Memory).wf = true := by
  rw [Memory.wf_iff] at h
  exact (Memory.wf_iff _).2 ⟨h.1, h.2.1, risingOk_mark q v h.2.2 (by omega)⟩

/- Reading after writing. -/

theorem cellsGet_low : ∀ {l : List Host.Cell} {lo a : Nat}, cellsOk lo l = true → a < lo → cellsGet l a = 0
  | [], _, _, _, _ => rfl
  | (b, x) :: r, lo, a, h, ha => by
    simp only [cellsOk, Bool.and_eq_true, decide_eq_true_eq] at h
    have : a < b := by omega
    simp [cellsGet, this]

theorem cellsGet_set (a c : Nat) (v : Byte) : ∀ {lo : Nat} {l : List Host.Cell}, cellsOk lo l = true →
    cellsGet (cellsSet l a v) c = if c = a then v else cellsGet l c
  | _, [], _ => by
    unfold cellsSet
    split
    · simp_all [cellsGet]
    · by_cases hc : c = a
      · simp [cellsGet, hc]
      · by_cases hca : c < a <;> simp [cellsGet, hc, hca]
  | lo, (b, x) :: r, h => by
    simp only [cellsOk, Bool.and_eq_true, decide_eq_true_eq] at h
    have ih := cellsGet_set a c v h.2
    unfold cellsSet
    split
    · rename_i hab
      split
      · rename_i hv
        by_cases hc : c = a
        · subst hc
          simp_all [cellsGet]
        · simp [hc]
      · by_cases hc : c = a
        · subst hc
          simp [cellsGet]
        · by_cases hca : c < a
          · have : c < b := by omega
            simp [cellsGet, hc, hca, this]
          · simp [cellsGet, hc, hca]
    · split
      · rename_i _ hab
        simp only [beq_iff_eq] at hab
        subst hab
        split
        · rename_i hv
          simp only [beq_iff_eq] at hv
          by_cases hc : c = a
          · subst hc
            rw [cellsGet_low h.2 (by omega)]
            simp [hv]
          · by_cases hca : c < a
            · rw [cellsGet_low h.2 (by omega)]
              simp [cellsGet, hc, hca]
            · simp [cellsGet, hc, hca]
        · by_cases hc : c = a
          · subst hc
            simp [cellsGet]
          · simp [cellsGet, hc]
      · rename_i h1 h2
        have hba : b < a := by
          simp only [beq_iff_eq] at h2
          omega
        by_cases hcb : c < b
        · have hc : c ≠ a := by omega
          simp [cellsGet, hcb, hc]
        · by_cases hcb' : c = b
          · subst hcb'
            have hc : c ≠ a := by omega
            simp [cellsGet, hc]
          · simp [cellsGet, hcb, hcb', ih]

theorem cellsGet_put (c : Nat) : ∀ (bs : List Byte) (a : Nat) {l : List Host.Cell}, cellsOk 0 l = true →
    cellsGet (cellsPut l a bs) c = if a ≤ c ∧ c < a + bs.length then bs.getD (c - a) 0 else cellsGet l c
  | [], a, l, _ => by
    simp only [cellsPut, List.length_nil]
    rw [if_neg (by omega)]
  | b :: r, a, l, h => by
    rw [cellsPut, cellsGet_put c r (a + 1) (cellsOk_set a b h (by omega)), cellsGet_set a c b h]
    by_cases hc : c = a
    · subst hc
      have : ¬(c + 1 ≤ c ∧ c < c + 1 + r.length) := by omega
      simp
    · by_cases h1 : a + 1 ≤ c ∧ c < a + 1 + r.length
      · have h2 : a ≤ c ∧ c < a + (b :: r).length := by simp; omega
        have h3 : c - a = (c - (a + 1)) + 1 := by omega
        rw [if_pos h1, if_pos h2, h3]
        simp
      · have h2 : ¬(a ≤ c ∧ c < a + (b :: r).length) := by simp; omega
        rw [if_neg h1, if_neg hc, if_neg h2]

theorem sealPut_cells (e : Byte) (p : Bool) : ∀ (n : Nat) (m : Memory) (q : Nat), (sealPut e p n m q).cells = m.cells
  | 0, _, _ => rfl
  | n + 1, _, _ => sealPut_cells e p n _ _

/-- A byte read after a write: the byte written, or what stood there. -/
theorem Memory.get_write (m : Memory) (a c : Nat) (bs : List Byte) (h : m.wf = true) :
    (m.write a bs).get c = if a ≤ c ∧ c < a + bs.length then bs.getD (c - a) 0 else m.get c := by
  rw [Memory.wf_iff] at h
  unfold Memory.write Memory.get
  rw [sealPut_cells]
  exact cellsGet_put c bs a h.1

theorem Memory.read_length (m : Memory) : ∀ (n a : Nat), (m.read a n).length = n
  | 0, _ => rfl
  | n + 1, a => by simp [Memory.read, Memory.read_length m n (a + 1)]

end Sys2Proof.Machine
end

