-- ==== Sys2Proof/Laws/PerInstr.lean ====
section
/-! SUPPORT. One lemma per instruction and happening for the family Encoding: an instruction has one to three words, a happening none. -/

namespace Sys2Proof.Laws.Encoding

open Sys2Proof

/-- An instruction of the encoding has one to three words; a happening, which no word encodes, has none. -/
def Statement (i : Instr) : Prop :=
  (encode i).length ≤ 3 ∧ (i.isInstruction = true → 1 ≤ (encode i).length) ∧ (i.isInstruction = false → encode i = [])

theorem word (i : Instr) (h : Nat.ble (encode i).length 3 = true) (h1 : (encode i).isEmpty = false) : Statement i := by
  refine ⟨Nat.le_of_ble_eq_true h, fun _ => ?_, fun h2 => ?_⟩
  · cases e : encode i with
    | nil => simp [e] at h1
    | cons => simp
  · simp [Instr.isInstruction, h1] at h2

theorem none_ (i : Instr) (h : encode i = []) : Statement i := by simp [Statement, Instr.isInstruction, h]

theorem add (w : IntW) (d a b : Reg) (l : BitVec 3) : Statement (.add w d a b l) := word _ rfl rfl
theorem sub (w : IntW) (d a b : Reg) (l : BitVec 3) : Statement (.sub w d a b l) := word _ rfl rfl
theorem mul (w : IntW) (d a b : Reg) (l : BitVec 3) : Statement (.mul w d a b l) := word _ rfl rfl
theorem mulh (w : IntW) (d a b : Reg) (l : BitVec 3) : Statement (.mulh w d a b l) := word _ rfl rfl
theorem mulhu (w : IntW) (d a b : Reg) (l : BitVec 3) : Statement (.mulhu w d a b l) := word _ rfl rfl
theorem div (w : IntW) (d a b : Reg) (l : BitVec 3) : Statement (.div w d a b l) := word _ rfl rfl
theorem divu (w : IntW) (d a b : Reg) (l : BitVec 3) : Statement (.divu w d a b l) := word _ rfl rfl
theorem rem (w : IntW) (d a b : Reg) (l : BitVec 3) : Statement (.rem w d a b l) := word _ rfl rfl
theorem remu (w : IntW) (d a b : Reg) (l : BitVec 3) : Statement (.remu w d a b l) := word _ rfl rfl
theorem shl (w : IntW) (d a b : Reg) (l : BitVec 3) : Statement (.shl w d a b l) := word _ rfl rfl
theorem shr (w : IntW) (d a b : Reg) (l : BitVec 3) : Statement (.shr w d a b l) := word _ rfl rfl
theorem sra (w : IntW) (d a b : Reg) (l : BitVec 3) : Statement (.sra w d a b l) := word _ rfl rfl
theorem rol (w : IntW) (d a b : Reg) (l : BitVec 3) : Statement (.rol w d a b l) := word _ rfl rfl
theorem min (w : IntW) (d a b : Reg) (l : BitVec 3) : Statement (.min w d a b l) := word _ rfl rfl
theorem max (w : IntW) (d a b : Reg) (l : BitVec 3) : Statement (.max w d a b l) := word _ rfl rfl
theorem minu (w : IntW) (d a b : Reg) (l : BitVec 3) : Statement (.minu w d a b l) := word _ rfl rfl
theorem maxu (w : IntW) (d a b : Reg) (l : BitVec 3) : Statement (.maxu w d a b l) := word _ rfl rfl
theorem abs (w : IntW) (d a : Reg) : Statement (.abs w d a) := word _ rfl rfl
theorem neg (w : IntW) (d a : Reg) : Statement (.neg w d a) := word _ rfl rfl
theorem adds (w : IntW) (d a b : Reg) (l : BitVec 3) : Statement (.adds w d a b l) := word _ rfl rfl
theorem subs (w : IntW) (d a b : Reg) (l : BitVec 3) : Statement (.subs w d a b l) := word _ rfl rfl
theorem addus (w : IntW) (d a b : Reg) (l : BitVec 3) : Statement (.addus w d a b l) := word _ rfl rfl
theorem subus (w : IntW) (d a b : Reg) (l : BitVec 3) : Statement (.subus w d a b l) := word _ rfl rfl
theorem dot2s (d a b : Reg) (l : BitVec 3) : Statement (.dot2s d a b l) := word _ rfl rfl
theorem dot4s (d a b : Reg) (l : BitVec 3) : Statement (.dot4s d a b l) := word _ rfl rfl
theorem rshr (w : IntW) (d a b : Reg) (l : BitVec 3) : Statement (.rshr w d a b l) := word _ rfl rfl
theorem rshrs (w : IntW) (d a b : Reg) (l : BitVec 3) : Statement (.rshrs w d a b l) := word _ rfl rfl
theorem qmulr (w : IntW) (d a b : Reg) (l : BitVec 3) : Statement (.qmulr w d a b l) := word _ rfl rfl
theorem nrws (w : IntW) (d a b : Reg) (l : BitVec 3) : Statement (.nrws w d a b l) := word _ rfl rfl
theorem lea (d a b : Reg) (l : BitVec 3) : Statement (.lea d a b l) := word _ rfl rfl
theorem addi (d a : Reg) (i : BitVec 11) : Statement (.addi d a i) := word _ rfl rfl
theorem andi (d a : Reg) (i : BitVec 11) : Statement (.andi d a i) := word _ rfl rfl
theorem ori (d a : Reg) (i : BitVec 11) : Statement (.ori d a i) := word _ rfl rfl
theorem xori (d a : Reg) (i : BitVec 11) : Statement (.xori d a i) := word _ rfl rfl
theorem shli (d a : Reg) (i : BitVec 6) : Statement (.shli d a i) := word _ rfl rfl
theorem shri (d a : Reg) (i : BitVec 6) : Statement (.shri d a i) := word _ rfl rfl
theorem srai (d a : Reg) (i : BitVec 6) : Statement (.srai d a i) := word _ rfl rfl
theorem ldiS (d : Reg) (i : BitVec 11) : Statement (.ldiS d i) := word _ rfl rfl
theorem ldiW (d : Reg) (x : Word32) : Statement (.ldiW d x) := word _ rfl rfl
theorem ldiWu (d : Reg) (x : Word32) : Statement (.ldiWu d x) := word _ rfl rfl
theorem ldiHi (d : Reg) (x : Word32) : Statement (.ldiHi d x) := word _ rfl rfl
theorem ldiD (d : Reg) (lo hi : Word32) : Statement (.ldiD d lo hi) := word _ rfl rfl
theorem and (d a b : Reg) (l : BitVec 3) : Statement (.and d a b l) := word _ rfl rfl
theorem or (d a b : Reg) (l : BitVec 3) : Statement (.or d a b l) := word _ rfl rfl
theorem xor (d a b : Reg) (l : BitVec 3) : Statement (.xor d a b l) := word _ rfl rfl
theorem andn (d a b : Reg) (l : BitVec 3) : Statement (.andn d a b l) := word _ rfl rfl
theorem popc (w : IntW) (d a : Reg) : Statement (.popc w d a) := word _ rfl rfl
theorem clz (w : IntW) (d a : Reg) : Statement (.clz w d a) := word _ rfl rfl
theorem ctz (w : IntW) (d a : Reg) : Statement (.ctz w d a) := word _ rfl rfl
theorem brev (w : IntW) (d a : Reg) : Statement (.brev w d a) := word _ rfl rfl
theorem bfx (d a b : Reg) : Statement (.bfx d a b) := word _ rfl rfl
theorem bfxS (d a b : Reg) : Statement (.bfxS d a b) := word _ rfl rfl
theorem bfi (d a b : Reg) : Statement (.bfi d a b) := word _ rfl rfl
theorem cmpm (w : IntW) (c : Cond) (d a b : Reg) (l : BitVec 3) : Statement (.cmpm w c d a b l) := word _ rfl rfl
theorem cmp (w : IntW) (c : Cond) (p : BitVec 3) (a b : Reg) : Statement (.cmp w c p a b) := word _ rfl rfl
theorem bsel (d a b : Reg) (l : BitVec 3) : Statement (.bsel d a b l) := word _ rfl rfl
theorem fadd (t : FpW) (d a b : Reg) (l : BitVec 3) : Statement (.fadd t d a b l) := word _ rfl rfl
theorem fsub (t : FpW) (d a b : Reg) (l : BitVec 3) : Statement (.fsub t d a b l) := word _ rfl rfl
theorem fmul (t : FpW) (d a b : Reg) (l : BitVec 3) : Statement (.fmul t d a b l) := word _ rfl rfl
theorem fmin (t : FpW) (d a b : Reg) (l : BitVec 3) : Statement (.fmin t d a b l) := word _ rfl rfl
theorem fmax (t : FpW) (d a b : Reg) (l : BitVec 3) : Statement (.fmax t d a b l) := word _ rfl rfl
theorem fminn (t : FpW) (d a b : Reg) (l : BitVec 3) : Statement (.fminn t d a b l) := word _ rfl rfl
theorem fmaxn (t : FpW) (d a b : Reg) (l : BitVec 3) : Statement (.fmaxn t d a b l) := word _ rfl rfl
theorem fabs (t : FpW) (d a : Reg) : Statement (.fabs t d a) := word _ rfl rfl
theorem fneg (t : FpW) (d a : Reg) : Statement (.fneg t d a) := word _ rfl rfl
theorem fcmp (t : FpW) (c : FCond) (p : BitVec 3) (a b : Reg) (l : BitVec 3) : Statement (.fcmp t c p a b l) := word _ rfl rfl
theorem fdiv (t : FpW) (d a b : Reg) (l : BitVec 3) : Statement (.fdiv t d a b l) := word _ rfl rfl
theorem fsqrt (t : FpW) (d a : Reg) : Statement (.fsqrt t d a) := word _ rfl rfl
theorem scalex (t : FpW) (d a b : Reg) (l : BitVec 3) : Statement (.scalex t d a b l) := word _ rfl rfl
theorem cvts (t : CvtsT) (d a b : Reg) : Statement (.cvts t d a b) := word _ rfl rfl
theorem fcmpm (t : FpW) (c : FCond) (d a b : Reg) (l : BitVec 3) : Statement (.fcmpm t c d a b l) := word _ rfl rfl
theorem fma (t : FpW) (d a b : Reg) (l : BitVec 3) : Statement (.fma t d a b l) := word _ rfl rfl
theorem fms (t : FpW) (d a b : Reg) (l : BitVec 3) : Statement (.fms t d a b l) := word _ rfl rfl
theorem fnma (t : FpW) (d a b : Reg) (l : BitVec 3) : Statement (.fnma t d a b l) := word _ rfl rfl
theorem frcp (t : FpW) (d a : Reg) : Statement (.frcp t d a) := word _ rfl rfl
theorem frsq (t : FpW) (d a : Reg) : Statement (.frsq t d a) := word _ rfl rfl
theorem fexp2 (t : FpW) (d a : Reg) : Statement (.fexp2 t d a) := word _ rfl rfl
theorem flog2 (t : FpW) (d a : Reg) : Statement (.flog2 t d a) := word _ rfl rfl
theorem fsin (t : FpW) (d a : Reg) : Statement (.fsin t d a) := word _ rfl rfl
theorem fcos (t : FpW) (d a : Reg) : Statement (.fcos t d a) := word _ rfl rfl
theorem cvt (tgt src : Fmt) (d a : Reg) : Statement (.cvt tgt src d a) := word _ rfl rfl
theorem cvtRs (tgt src : Fmt) (d a e : Reg) : Statement (.cvtRs tgt src d a e) := word _ rfl rfl
theorem lpset (n : BitVec 3) (a : Reg) : Statement (.lpset n a) := word _ rfl rfl
theorem shfl (d a b : Reg) : Statement (.shfl d a b) := word _ rfl rfl
theorem slide (up : Bool) (w : IntW) (d a b : Reg) : Statement (.slide up w d a b) := word _ rfl rfl
theorem push (d a b : Reg) (p : BitVec 3) : Statement (.push d a b p) := word _ rfl rfl
theorem bcast (d a : Reg) (n : BitVec 5) : Statement (.bcast d a n) := word _ rfl rfl
theorem vote (m : VoteMode) (d : Reg) (neg : Bool) (p : BitVec 3) : Statement (.vote m d neg p) := word _ rfl rfl
theorem red (t : RedT) (o : RedOp) (d a : Reg) : Statement (.red t o d a) := word _ rfl rfl
theorem scan (t : RedT) (o : RedOp) (d a : Reg) : Statement (.scan t o d a) := word _ rfl rfl
theorem redmaxi (t : MaxT) (d a b : Reg) : Statement (.redmaxi t d a b) := word _ rfl rfl
theorem lddShort (d b : Reg) (o : BitVec 6) (k : BitVec 3) (l : BitVec 4) : Statement (.lddShort d b o k l) := word _ rfl rfl
theorem ldd (d b : Reg) (o : BitVec 26) (k : BitVec 3) (l : BitVec 4) : Statement (.ldd d b o k l) := word _ rfl rfl
theorem ldw (d b : Reg) (o : BitVec 26) (k : BitVec 3) (l : BitVec 4) : Statement (.ldw d b o k l) := word _ rfl rfl
theorem ldwu (d b : Reg) (o : BitVec 26) (k : BitVec 3) (l : BitVec 4) : Statement (.ldwu d b o k l) := word _ rfl rfl
theorem ldh (d b : Reg) (o : BitVec 26) (k : BitVec 3) (l : BitVec 4) : Statement (.ldh d b o k l) := word _ rfl rfl
theorem ldhu (d b : Reg) (o : BitVec 26) (k : BitVec 3) (l : BitVec 4) : Statement (.ldhu d b o k l) := word _ rfl rfl
theorem ldb (d b : Reg) (o : BitVec 26) (k : BitVec 3) (l : BitVec 4) : Statement (.ldb d b o k l) := word _ rfl rfl
theorem ldbu (d b : Reg) (o : BitVec 26) (k : BitVec 3) (l : BitVec 4) : Statement (.ldbu d b o k l) := word _ rfl rfl
theorem stdShort (d b : Reg) (o : BitVec 6) : Statement (.stdShort d b o) := word _ rfl rfl
theorem std (d b : Reg) (o : BitVec 26) (ord : Bool) : Statement (.std d b o ord) := word _ rfl rfl
theorem stw (d b : Reg) (o : BitVec 26) (ord : Bool) : Statement (.stw d b o ord) := word _ rfl rfl
theorem sth (d b : Reg) (o : BitVec 26) (ord : Bool) : Statement (.sth d b o ord) := word _ rfl rfl
theorem stb (d b : Reg) (o : BitVec 26) (ord : Bool) : Statement (.stb d b o ord) := word _ rfl rfl
theorem ldfSShort (d b : Reg) (o : BitVec 6) (k : BitVec 3) (l : BitVec 4) : Statement (.ldfSShort d b o k l) := word _ rfl rfl
theorem ldfS (d b : Reg) (o : BitVec 26) (k : BitVec 3) (l : BitVec 4) : Statement (.ldfS d b o k l) := word _ rfl rfl
theorem ldfBf (d b : Reg) (o : BitVec 26) (k : BitVec 3) (l : BitVec 4) : Statement (.ldfBf d b o k l) := word _ rfl rfl
theorem ldsShort (d b : Reg) (o : BitVec 5) (k : BitVec 3) (l : BitVec 4) : Statement (.ldsShort d b o k l) := word _ rfl rfl
theorem stsShort (d b : Reg) (o : BitVec 5) : Statement (.stsShort d b o) := word _ rfl rfl
theorem lds (w : IntW) (q : FeL) (d b : Reg) (o : BitVec 26) (k : BitVec 3) (l : BitVec 4) : Statement (.lds w q d b o k l) := word _ rfl rfl
theorem sts (w : IntW) (sf : Bool) (d b : Reg) (o : BitVec 26) : Statement (.sts w sf d b o) := word _ rfl rfl
theorem ldwsDShort (d b : Reg) (o : BitVec 6) (k : BitVec 3) (l : BitVec 4) : Statement (.ldwsDShort d b o k l) := word _ rfl rfl
theorem ldwsD (d b : Reg) (o : BitVec 26) (k : BitVec 3) (l : BitVec 4) : Statement (.ldwsD d b o k l) := word _ rfl rfl
theorem ldwsW (d b : Reg) (o : BitVec 26) (k : BitVec 3) (l : BitVec 4) : Statement (.ldwsW d b o k l) := word _ rfl rfl
theorem ldgDShort (d b : Reg) (o : BitVec 5) (k : BitVec 3) (l : BitVec 4) : Statement (.ldgDShort d b o k l) := word _ rfl rfl
theorem stgDShort (d b : Reg) (o : BitVec 5) : Statement (.stgDShort d b o) := word _ rfl rfl
theorem ldgD (d b : Reg) (o : BitVec 26) (k : BitVec 3) (l : BitVec 4) : Statement (.ldgD d b o k l) := word _ rfl rfl
theorem ldgW (d b : Reg) (o : BitVec 26) (k : BitVec 3) (l : BitVec 4) : Statement (.ldgW d b o k l) := word _ rfl rfl
theorem stgD (d b : Reg) (o : BitVec 26) (ord : Bool) : Statement (.stgD d b o ord) := word _ rfl rfl
theorem stgW (d b : Reg) (o : BitVec 26) (ord : Bool) : Statement (.stgW d b o ord) := word _ rfl rfl
theorem prefL1Short (b : Reg) (o : BitVec 6) : Statement (.prefL1Short b o) := word _ rfl rfl
theorem prefL1 (b : Reg) (o : BitVec 26) : Statement (.prefL1 b o) := word _ rfl rfl
theorem prefL2 (b : Reg) (o : BitVec 26) : Statement (.prefL2 b o) := word _ rfl rfl
theorem aaddDShort (d b : Reg) (o : BitVec 6) (k : BitVec 3) (l : BitVec 4) : Statement (.aaddDShort d b o k l) := word _ rfl rfl
theorem aadd (t : AtomTy) (d b : Reg) (o : BitVec 26) (k : BitVec 3) (l : BitVec 4) (od : Order) (sc : Scope) : Statement (.aadd t d b o k l od sc) := word _ rfl rfl
theorem aaddf (d b : Reg) (o : BitVec 26) (k : BitVec 3) (l : BitVec 4) (od : Order) (sc : Scope) : Statement (.aaddf d b o k l od sc) := word _ rfl rfl
theorem amin (t : AtomTy) (d b : Reg) (o : BitVec 26) (k : BitVec 3) (l : BitVec 4) (od : Order) (sc : Scope) : Statement (.amin t d b o k l od sc) := word _ rfl rfl
theorem amax (t : AtomTy) (d b : Reg) (o : BitVec 26) (k : BitVec 3) (l : BitVec 4) (od : Order) (sc : Scope) : Statement (.amax t d b o k l od sc) := word _ rfl rfl
theorem aand (t : AtomTy) (d b : Reg) (o : BitVec 26) (k : BitVec 3) (l : BitVec 4) (od : Order) (sc : Scope) : Statement (.aand t d b o k l od sc) := word _ rfl rfl
theorem aor (t : AtomTy) (d b : Reg) (o : BitVec 26) (k : BitVec 3) (l : BitVec 4) (od : Order) (sc : Scope) : Statement (.aor t d b o k l od sc) := word _ rfl rfl
theorem axor (t : AtomTy) (d b : Reg) (o : BitVec 26) (k : BitVec 3) (l : BitVec 4) (od : Order) (sc : Scope) : Statement (.axor t d b o k l od sc) := word _ rfl rfl
theorem axch (t : AtomTy) (d b : Reg) (o : BitVec 26) (k : BitVec 3) (l : BitVec 4) (od : Order) (sc : Scope) : Statement (.axch t d b o k l od sc) := word _ rfl rfl
theorem acas (t : AtomTy) (d b : Reg) (o : BitVec 26) (k : BitVec 3) (l : BitVec 4) (od : Order) (sc : Scope) : Statement (.acas t d b o k l od sc) := word _ rfl rfl
theorem fence (o : FenceO) (sc : Scope) : Statement (.fence o sc) := word _ rfl rfl
theorem acq (d b : Reg) (o : BitVec 26) (k : BitVec 3) (l : BitVec 4) (sc : Scope) : Statement (.acq d b o k l sc) := word _ rfl rfl
theorem rel (d b : Reg) (o : BitVec 26) (sc : Scope) : Statement (.rel d b o sc) := word _ rfl rfl
theorem rbind (d b : Reg) (o : BitVec 26) : Statement (.rbind d b o) := word _ rfl rfl
theorem runbind (b : Reg) (o : BitVec 26) : Statement (.runbind b o) := word _ rfl rfl
theorem aflush (k : BitVec 3) (l : BitVec 4) : Statement (.aflush k l) := word _ rfl rfl
theorem digrd (d : Reg) (k : BitVec 3) (l : BitVec 4) : Statement (.digrd d k l) := word _ rfl rfl
theorem sigdecShort (d b : Reg) (o : BitVec 6) : Statement (.sigdecShort d b o) := word _ rfl rfl
theorem sigdec (d b : Reg) (o : BitVec 26) (od : Order) (sc : Scope) : Statement (.sigdec d b o od sc) := word _ rfl rfl
theorem siginc (d b : Reg) (o : BitVec 26) (od : Order) (sc : Scope) : Statement (.siginc d b o od sc) := word _ rfl rfl
theorem sigset (d b : Reg) (o : BitVec 26) (od : Order) (sc : Scope) : Statement (.sigset d b o od sc) := word _ rfl rfl
theorem sigwait (d b : Reg) (o : BitVec 26) (k : BitVec 3) (l : BitVec 4) (od : Order) (sc : Scope) : Statement (.sigwait d b o k l od sc) := word _ rfl rfl
theorem sigarm (d b : Reg) (o : BitVec 26) (od : Order) (sc : Scope) : Statement (.sigarm d b o od sc) := word _ rfl rfl
theorem bar (n : BitVec 4) : Statement (.bar n) := word _ rfl rfl
theorem bara (n : BitVec 4) : Statement (.bara n) := word _ rfl rfl
theorem barw (n : BitVec 4) : Statement (.barw n) := word _ rfl rfl
theorem gbar (n : BitVec 4) : Statement (.gbar n) := word _ rfl rfl
theorem grbar (n : BitVec 4) : Statement (.grbar n) := word _ rfl rfl
theorem mzero (t : BitVec 3) (k : BitVec 3) (l : BitVec 4) : Statement (.mzero t k l) := word _ rfl rfl
theorem mzeroExt (t : BitVec 3) (k : BitVec 3) (l : BitVec 4) : Statement (.mzeroExt t k l) := word _ rfl rfl
theorem mma (t : BitVec 3) (da db : BitVec 4) (x y z : Reg) (k : BitVec 3) (l : BitVec 4) : Statement (.mma t da db x y z k l) := word _ rfl rfl
theorem mmak (t : BitVec 3) (da db : BitVec 4) (x y z : Reg) (n : BitVec 14) (k : BitVec 3) (l : BitVec 4) : Statement (.mmak t da db x y z n k l) := word _ rfl rfl
theorem mconv (t : BitVec 3) (da db : BitVec 4) (x y z : Reg) (n : BitVec 14) (k : BitVec 3) (l : BitVec 4) : Statement (.mconv t da db x y z n k l) := word _ rfl rfl
theorem mwalk (op : WalkOp) (t : BitVec 3) (da db dO : BitVec 4) (c : BitVec 10) (k : BitVec 3) (l : BitVec 4) : Statement (.mwalk op t da db dO c k l) := word _ rfl rfl
theorem mdrain (rs z : Bool) (t : BitVec 3) (dO : BitVec 4) (x y : Reg) (k : BitVec 3) (l : BitVec 4) : Statement (.mdrain rs z t dO x y k l) := word _ rfl rfl
theorem mrow (i32 : Bool) (t : BitVec 3) (x y : Reg) (k : BitVec 3) (l : BitVec 4) : Statement (.mrow i32 t x y k l) := word _ rfl rfl
theorem mwait (t : BitVec 3) (k : BitVec 3) (l : BitVec 4) : Statement (.mwait t k l) := word _ rfl rfl
theorem mfence : Statement (.mfence) := word _ rfl rfl
theorem mstat (clr : Bool) (t : BitVec 3) (x : Reg) (k : BitVec 3) (l : BitVec 4) : Statement (.mstat clr t x k l) := word _ rfl rfl
theorem cbload (n : BitVec 3) (x : Reg) (k : BitVec 3) (l : BitVec 4) : Statement (.cbload n x k l) := word _ rfl rfl
theorem mdesc (da : BitVec 4) (x : Reg) (k : BitVec 3) (l : BitVec 4) : Statement (.mdesc da x k l) := word _ rfl rfl
theorem mshape (da : BitVec 4) (x : Reg) (k : BitVec 3) (l : BitVec 4) : Statement (.mshape da x k l) := word _ rfl rfl
theorem manchor (reg : Bool) (t : BitVec 3) (x : Reg) (i : BitVec 14) (k : BitVec 3) (l : BitVec 4) : Statement (.manchor reg t x i k l) := word _ rfl rfl
theorem cpy (x : Reg) (k : BitVec 3) (l : BitVec 4) : Statement (.cpy x k l) := word _ rfl rfl
theorem cpys (x : Reg) (k : BitVec 3) (l : BitVec 4) : Statement (.cpys x k l) := word _ rfl rfl
theorem cpyr (x : Reg) (k : BitVec 3) (l : BitVec 4) : Statement (.cpyr x k l) := word _ rfl rfl
theorem cpyq (x y z : Reg) (k : BitVec 3) (l : BitVec 4) : Statement (.cpyq x y z k l) := word _ rfl rfl
theorem put (x y z : Reg) (k : BitVec 3) (l : BitVec 4) : Statement (.put x y z k l) := word _ rfl rfl
theorem putf (x y : Reg) (k : BitVec 3) (l : BitVec 4) : Statement (.putf x y k l) := word _ rfl rfl
theorem get (x y z : Reg) (k : BitVec 3) (l : BitVec 4) : Statement (.get x y z k l) := word _ rfl rfl
theorem getVer (x y z : Reg) (k : BitVec 3) (l : BitVec 4) : Statement (.getVer x y z k l) := word _ rfl rfl
theorem coll (x : Reg) (k : BitVec 3) (l : BitVec 4) : Statement (.coll x k l) := word _ rfl rfl
theorem collVer (x : Reg) (k : BitVec 3) (l : BitVec 4) : Statement (.collVer x k l) := word _ rfl rfl
theorem reshard (x y : Reg) (k : BitVec 3) (l : BitVec 4) : Statement (.reshard x y k l) := word _ rfl rfl
theorem resample (x y z : Reg) (k : BitVec 3) : Statement (.resample x y z k) := word _ rfl rfl
theorem resampleU (x y z u : Reg) (k : BitVec 3) : Statement (.resampleU x y z u k) := word _ rfl rfl
theorem popseed (x : Reg) (k : BitVec 3) (l : BitVec 4) : Statement (.popseed x k l) := word _ rfl rfl
theorem snap (x y : Reg) (k : BitVec 3) (l : BitVec 4) : Statement (.snap x y k l) := word _ rfl rfl
theorem snapwait (x : Reg) (k : BitVec 3) (l : BitVec 4) : Statement (.snapwait x k l) := word _ rfl rfl
theorem snapstat (x : Reg) (k : BitVec 3) (l : BitVec 4) : Statement (.snapstat x k l) := word _ rfl rfl
theorem launch (x y : Reg) (k : BitVec 3) (l : BitVec 4) : Statement (.launch x y k l) := word _ rfl rfl
theorem cancel (lv : Level) (x : Reg) (k : BitVec 3) (l : BitVec 4) : Statement (.cancel lv x k l) := word _ rfl rfl
theorem phase (x y : Reg) (k : BitVec 3) (l : BitVec 4) : Statement (.phase x y k l) := word _ rfl rfl
theorem graphrun (x y : Reg) (k : BitVec 3) (l : BitVec 4) : Statement (.graphrun x y k l) := word _ rfl rfl
theorem wcflush (k : BitVec 3) (l : BitVec 4) : Statement (.wcflush k l) := word _ rfl rfl
theorem fenceack (k : BitVec 3) (l : BitVec 4) : Statement (.fenceack k l) := word _ rfl rfl
theorem bra (c : BitVec 4) (o : BitVec 22) : Statement (.bra c o) := word _ rfl rfl
theorem jmp (r : Reg) : Statement (.jmp r) := word _ rfl rfl
theorem brx (r : Reg) : Statement (.brx r) := word _ rfl rfl
theorem call (o : BitVec 22) : Statement (.call o) := word _ rfl rfl
theorem callx (r : Reg) : Statement (.callx r) := word _ rfl rfl
theorem ret : Statement (.ret) := word _ rfl rfl
theorem mft (d : Reg) (s : BitVec 9) : Statement (.mft d s) := word _ rfl rfl
theorem movc (d : Reg) (c : BitVec 5) : Statement (.movc d c) := word _ rfl rfl
theorem clrf (m : BitVec 6) : Statement (.clrf m) := word _ rfl rfl
theorem mpush (x : Word32) : Statement (.mpush x) := word _ rfl rfl
theorem mpop : Statement (.mpop) := word _ rfl rfl
theorem exit : Statement (.exit) := word _ rfl rfl
theorem yield : Statement (.yield) := word _ rfl rfl
theorem nop : Statement (.nop) := word _ rfl rfl
theorem pand (d a b : BitVec 3) : Statement (.pand d a b) := word _ rfl rfl
theorem por (d a b : BitVec 3) : Statement (.por d a b) := word _ rfl rfl
theorem pxor (d a b : BitVec 3) : Statement (.pxor d a b) := word _ rfl rfl
theorem pnot (d a : BitVec 3) : Statement (.pnot d a) := word _ rfl rfl
theorem pmov (d a : BitVec 3) : Statement (.pmov d a) := word _ rfl rfl
theorem trap (n : BitVec 9) : Statement (.trap n) := word _ rfl rfl
theorem eret : Statement (.eret) := word _ rfl rfl
theorem mfs (d : Reg) (r : BitVec 9) : Statement (.mfs d r) := word _ rfl rfl
theorem mts (r : BitVec 9) (a : Reg) : Statement (.mts r a) := word _ rfl rfl
theorem bkpt (n : BitVec 9) : Statement (.bkpt n) := word _ rfl rfl
theorem halt : Statement (.halt) := word _ rfl rfl
theorem replay (a : Reg) (tok : Bool) : Statement (.replay a tok) := word _ rfl rfl
theorem shoot (a : Reg) (sc : BitVec 2) : Statement (.shoot a sc) := word _ rfl rfl
theorem preempt (a : Reg) (resume : Bool) : Statement (.preempt a resume) := word _ rfl rfl
theorem rollback (a : Reg) : Statement (.rollback a) := word _ rfl rfl
theorem ldraw (d a : Reg) (s : BitVec 2) : Statement (.ldraw d a s) := word _ rfl rfl
theorem jobctl (a : Reg) (close : Bool) : Statement (.jobctl a close) := word _ rfl rfl
theorem preemptCtlWrite (v : Word) : Statement (.preemptCtlWrite v) := none_ _ rfl
theorem issueCycle (core part dt : Nat) : Statement (.issueCycle core part dt) := none_ _ rfl
theorem starvation (core bidx grid tid : Nat) : Statement (.starvation core bidx grid tid) := none_ _ rfl
theorem yieldExpiry (core bidx grid tid : Nat) : Statement (.yieldExpiry core bidx grid tid) := none_ _ rfl
theorem formationDeadlock (bidx grid : Nat) : Statement (.formationDeadlock bidx grid) := none_ _ rfl
theorem fullEmptyTimeLimit (id : Nat) : Statement (.fullEmptyTimeLimit id) := none_ _ rfl
theorem loadResult (id : Nat) : Statement (.loadResult id) := none_ _ rfl
theorem storePerformed (id : Nat) : Statement (.storePerformed id) := none_ _ rfl
theorem wsRefreshWindow (die : Nat) (dt : Nat) : Statement (.wsRefreshWindow die dt) := none_ _ rfl
theorem blockRetire (bidx grid : Nat) : Statement (.blockRetire bidx grid) := none_ _ rfl
theorem gridCompletion (grid : Nat) : Statement (.gridCompletion grid) := none_ _ rfl
theorem stagedBatchApply (grid : Nat) : Statement (.stagedBatchApply grid) := none_ _ rfl
theorem ordTicketRelease (die : Nat) : Statement (.ordTicketRelease die) := none_ _ rfl
theorem wcLineTimeout (core line : Nat) : Statement (.wcLineTimeout core line) := none_ _ rfl
theorem pageWalk (die job : Nat) (va : Va) : Statement (.pageWalk die job va) := none_ _ rfl
theorem heatWindow (die : Nat) : Statement (.heatWindow die) := none_ _ rfl
theorem pageMigrationComplete (die : Nat) (page : Nat) : Statement (.pageMigrationComplete die page) := none_ _ rfl
theorem pageReplicationComplete (die : Nat) (page : Nat) : Statement (.pageReplicationComplete die page) := none_ _ rfl
theorem shootdownAck (die id : Nat) : Statement (.shootdownAck die id) := none_ _ rfl
theorem writePacket (p : Packet) : Statement (.writePacket p) := none_ _ rfl
theorem vwritePacket (p : Packet) : Statement (.vwritePacket p) := none_ _ rfl
theorem readPacket (p : Packet) : Statement (.readPacket p) := none_ _ rfl
theorem vreadPacket (p : Packet) : Statement (.vreadPacket p) := none_ _ rfl
theorem dataPacket (p : Packet) : Statement (.dataPacket p) := none_ _ rfl
theorem flagPacket (p : Packet) : Statement (.flagPacket p) := none_ _ rfl
theorem ackPacket (p : Packet) : Statement (.ackPacket p) := none_ _ rfl
theorem atomPacket (p : Packet) : Statement (.atomPacket p) := none_ _ rfl
theorem atomrPacket (p : Packet) : Statement (.atomrPacket p) := none_ _ rfl
theorem chunkPacket (p : Packet) : Statement (.chunkPacket p) := none_ _ rfl
theorem swredPacket (p : Packet) : Statement (.swredPacket p) := none_ _ rfl
theorem burgeePacket (p : Packet) : Statement (.burgeePacket p) := none_ _ rfl
theorem logPacket (p : Packet) : Statement (.logPacket p) := none_ _ rfl
theorem ackTimeoutResend (idx : Nat) : Statement (.ackTimeoutResend idx) := none_ _ rfl
theorem hostSubmission (kind : SubKind) (job : Nat) (va : Va) : Statement (.hostSubmission kind job va) := none_ _ rfl
theorem submitEvent (h : EvHdr) (va : Va) (c : Nat) (flags : Byte) : Statement (.submitEvent h va c flags) := none_ _ rfl
theorem admitEvent (h : EvHdr) (grid : Nat) : Statement (.admitEvent h grid) := none_ _ rfl
theorem finishEvent (h : EvHdr) (grid pkg : Nat) : Statement (.finishEvent h grid pkg) := none_ _ rfl
theorem blockEvent (h : EvHdr) (grid : Nat) : Statement (.blockEvent h grid) := none_ _ rfl
theorem unblockEvent (h : EvHdr) (grid : Nat) : Statement (.unblockEvent h grid) := none_ _ rfl
theorem cancelEvent (h : EvHdr) (va : Va) (lv : Level) : Statement (.cancelEvent h va lv) := none_ _ rfl
theorem faultEvent (h : EvHdr) (code grid core rung : Nat) (addr : Word) (bidx seq : Nat) : Statement (.faultEvent h code grid core rung addr bidx seq) := none_ _ rfl
theorem lossEvent (h : EvHdr) (pkg reason : Nat) : Statement (.lossEvent h pkg reason) := none_ _ rfl
theorem joinEvent (h : EvHdr) (pkg last : Nat) (h0 h1 : Word) : Statement (.joinEvent h pkg last h0 h1) := none_ _ rfl
theorem fenceEvent (h : EvHdr) (pkg reason ckpt : Nat) : Statement (.fenceEvent h pkg reason ckpt) := none_ _ rfl
theorem digestEvent (h : EvHdr) (ckpt : Nat) (h0 h1 : Word) : Statement (.digestEvent h ckpt h0 h1) := none_ _ rfl
theorem rebalanceEvent (h : EvHdr) (grid kind gen spkg dpkg nch rank0 slot0 : Nat) : Statement (.rebalanceEvent h grid kind gen spkg dpkg nch rank0 slot0) := none_ _ rfl
theorem snapcommitEvent (h : EvHdr) (epoch cutSeq : Nat) (manif : Va) (kind : Nat) : Statement (.snapcommitEvent h epoch cutSeq manif kind) := none_ _ rfl
theorem snapopenEvent (h : EvHdr) (va : Va) (epoch : Nat) : Statement (.snapopenEvent h va epoch) := none_ _ rfl
theorem ticketEvent (h : EvHdr) : Statement (.ticketEvent h) := none_ _ rfl
theorem jobEvent (h : EvHdr) (va : Va) (close : Bool) : Statement (.jobEvent h va close) := none_ _ rfl
theorem preemptcfgEvent (h : EvHdr) (pkg : Nat) (en : Bool) : Statement (.preemptcfgEvent h pkg en) := none_ _ rfl
theorem heartbeat (link seq : Nat) : Statement (.heartbeat link seq) := none_ _ rfl
theorem heartbeatTick (link : Nat) : Statement (.heartbeatTick link) := none_ _ rfl
theorem death (pkg link : Nat) : Statement (.death pkg link) := none_ _ rfl
theorem hretx (origin first count target : Nat) : Statement (.hretx origin first count target) := none_ _ rfl
theorem ireq (origin f target : Nat) : Statement (.ireq origin f target) := none_ _ rfl
theorem image (origin k chunk target : Nat) (data : List (BitVec 64)) : Statement (.image origin k chunk target data) := none_ _ rfl
theorem note (m : Mgmt) : Statement (.note m) := none_ _ rfl
theorem release (a : Word) (target : Nat) : Statement (.release a target) := none_ _ rfl
theorem linkSilent (link : Nat) : Statement (.linkSilent link) := none_ _ rfl
theorem linkTrainingAttempt (link : Nat) (ok : Bool) : Statement (.linkTrainingAttempt link ok) := none_ _ rfl
theorem gapLeafRetx : Statement (.gapLeafRetx) := none_ _ rfl
theorem gapGroupRetx : Statement (.gapGroupRetx) := none_ _ rfl
theorem gapTimeout : Statement (.gapTimeout) := none_ _ rfl
theorem halyardFailover : Statement (.halyardFailover) := none_ _ rfl
theorem managementReset : Statement (.managementReset) := none_ _ rfl
theorem dispatchRecord (cls pos : Nat) : Statement (.dispatchRecord cls pos) := none_ _ rfl
theorem coreHalt (core grid : Nat) : Statement (.coreHalt core grid) := none_ _ rfl
theorem haltTimeout (core : Nat) : Statement (.haltTimeout core) := none_ _ rfl
theorem contextSaveComplete (core grid : Nat) : Statement (.contextSaveComplete core grid) := none_ _ rfl
theorem contextMove (bidx grid toCore : Nat) (carve : Bool) : Statement (.contextMove bidx grid toCore carve) := none_ _ rfl
theorem copyChunk (id : Nat) : Statement (.copyChunk id) := none_ _ rfl
theorem matrixGrant (cluster : Nat) : Statement (.matrixGrant cluster) := none_ _ rfl
theorem matrixGrantComplete (cluster : Nat) : Statement (.matrixGrantComplete cluster) := none_ _ rfl
theorem matrixEntryStarving (cluster id : Nat) : Statement (.matrixEntryStarving cluster id) := none_ _ rfl
theorem drainWritesComplete (cluster id : Nat) : Statement (.drainWritesComplete cluster id) := none_ _ rfl
theorem mwalkCombine (cluster id : Nat) : Statement (.mwalkCombine cluster id) := none_ _ rfl
theorem codebookRebuild (die : Nat) : Statement (.codebookRebuild die) := none_ _ rfl
theorem collChunkReduce (die id chunk : Nat) : Statement (.collChunkReduce die id chunk) := none_ _ rfl
theorem collCheckNotice (die id rank : Nat) (fault : Bool) : Statement (.collCheckNotice die id rank fault) := none_ _ rfl
theorem reshardComplete (die id : Nat) : Statement (.reshardComplete die id) := none_ _ rfl
theorem cloneImageCopy (grid : Nat) : Statement (.cloneImageCopy grid) := none_ _ rfl
theorem preservationCopy (job page : Nat) : Statement (.preservationCopy job page) := none_ _ rfl
theorem snapshotDone (job : Nat) : Statement (.snapshotDone job) := none_ _ rfl
theorem faultQueueWrite (die : Nat) : Statement (.faultQueueWrite die) := none_ _ rfl
theorem scrubPass (f : ScrubFindings) : Statement (.scrubPass f) := none_ _ rfl
theorem powerOn (f : BootFindings) : Statement (.powerOn f) := none_ _ rfl
theorem marginMonitor (r : Readings) : Statement (.marginMonitor r) := none_ _ rfl
theorem fieldRecordWrite (hours : Nat) : Statement (.fieldRecordWrite hours) := none_ _ rfl
theorem attestationRequest : Statement (.attestationRequest) := none_ _ rfl
theorem podFormation (pkgs : List Nat) : Statement (.podFormation pkgs) := none_ _ rfl
theorem managementLinkRetrain (link : Nat) : Statement (.managementLinkRetrain link) := none_ _ rfl
theorem powerLoss (cutShort : Bool) : Statement (.powerLoss cutShort) := none_ _ rfl
theorem attestationReportDone : Statement (.attestationReportDone) := none_ _ rfl
theorem reservedEventType (h : EvHdr) (typ : Nat) : Statement (.reservedEventType h typ) := none_ _ rfl
theorem reservedPacketType (p : Packet) : Statement (.reservedPacketType p) := none_ _ rfl
theorem snapshotContextTransfer (job core : Nat) : Statement (.snapshotContextTransfer job core) := none_ _ rfl
theorem hostControlRequest (job : Nat) (kind : Nat) (va : Va) (lv : Level) (close : Bool) : Statement (.hostControlRequest job kind va lv close) := none_ _ rfl

end Sys2Proof.Laws.Encoding
end

