-- ==== Sys2Proof/Laws/Send.lean ====
section
/-! SUPPORT. What sending a packet can change, said once: counters, ports and the packets kept for their answer, and nothing else. -/

namespace Sys2Proof.Machine

open Sys2Proof

/-- The state differs in what packets that leave change alone: the port, the counts of R338, the times of the links, and the packets kept. -/
def OnlySent (s t : State) : Prop :=
  ∃ out cnt links ret, t = { s with outPackets := out, sentTo := cnt, linkSent := links, retained := ret }

theorem OnlySent.refl (s : State) : OnlySent s s := ⟨_, _, _, _, rfl⟩

theorem OnlySent.trans {s t u : State} : OnlySent s t → OnlySent t u → OnlySent s u := by
  rintro ⟨_, _, _, _, rfl⟩ ⟨_, _, _, _, rfl⟩
  exact ⟨_, _, _, _, rfl⟩

theorem OnlySent.mem {s t : State} : OnlySent s t → t.mem = s.mem := by
  rintro ⟨_, _, _, _, rfl⟩; rfl

theorem OnlySent.blocks {s t : State} : OnlySent s t → t.blocks = s.blocks := by
  rintro ⟨_, _, _, _, rfl⟩; rfl

theorem leave_onlySent (s : State) (p : Packet) (j : Nat) : OnlySent s (leave s p j) := ⟨_, _, _, _, rfl⟩

theorem leaveKept_onlySent (s : State) (p : Packet) (j : Nat) : OnlySent s (leaveKept s p j) := by
  unfold leaveKept
  by_cases h : linkRoom s p.path = true
  · simp only [h, if_true]; exact (leave_onlySent s p j).trans ⟨_, _, _, _, rfl⟩
  · simp only [h]; exact ⟨_, _, _, _, rfl⟩

theorem leaveLate_onlySent (s : State) (k : Kept) : OnlySent s (leaveLate s k) := ⟨_, _, _, _, rfl⟩

theorem sendWaiting_onlySent (s : State) : OnlySent s (sendWaiting s) := by
  have go : ∀ (ks : List Kept) (t : State), OnlySent t (ks.foldl (fun s k => if linkRoom s k.p.path then leaveLate s k else s) t) := by
    intro ks
    induction ks with
    | nil => exact OnlySent.refl
    | cons k r ih =>
      intro t
      by_cases h : linkRoom t k.p.path = true
      · simp only [List.foldl, h, if_true]; exact (leaveLate_onlySent t k).trans (ih _)
      · simp only [List.foldl, h]; exact ih t
  exact go _ s

/-- Numbering and sending a packet changes SEQ and ISS counters besides. -/
theorem sendPacket_frame (s : State) (p : Packet) :
    ∃ seqs cs, OnlySent { s with seqOut := seqs, cores := cs } (sendPacket s p).1 := by
  have key : ∀ (t u : State), OnlySent t u → ∀ cs, OnlySent { t with cores := cs } { u with cores := cs } := by
    rintro t _ ⟨_, _, _, _, rfl⟩ cs; exact ⟨_, _, _, _, rfl⟩
  have all : ∀ (t u : State) (n : Nat) (f : Core → Core) (b : Bool), OnlySent t u →
      ∃ cs, OnlySent { t with cores := cs } (if b then u.updCore n f else u) := by
    intro t u n f b h
    cases b
    · exact ⟨t.cores, h⟩
    · exact ⟨_, key t u h (u.updCore n f).cores⟩
  unfold sendPacket
  by_cases hv : (p.vc == 0) = true
  · obtain ⟨cs, h⟩ := all _ _ _ _ _ (leaveKept_onlySent _ _ _)
    simp only [hv, if_true] at h ⊢
    exact ⟨_, cs, h⟩
  · obtain ⟨cs, h⟩ := all _ _ _ _ _ (leave_onlySent _ _ _)
    simp only [hv] at h ⊢
    exact ⟨_, cs, h⟩

end Sys2Proof.Machine
end

