-- ==== Sys2Proof/Tests/Slice0.lean ====
section
/-! SUPPORT. Tests: ill-formed terms the checks refuse, words of the manual decoded, single steps against the manual's worked values, and
for each statement a state and operands that meet its hypotheses. -/

set_option Elab.async false
set_option linter.unusedVariables false
set_option linter.unusedSimpArgs false
set_option linter.constructorNameAsVariable false

namespace Sys2Proof.Tests

open Sys2Proof Sys2Proof.Machine Sys2Proof.Rules

/- Ill-formed terms: one for each check of Sys2Proof/WellFormed.lean. -/

theorem test_wf_div : (Instr.div .h 1 2 3 0).wellFormed = false := rfl
theorem test_wf_qmulr : (Instr.qmulr .b 1 2 3 0).wellFormed = false := rfl
theorem test_wf_nrws : (Instr.nrws .b 1 2 3 0).wellFormed = false := rfl
theorem test_wf_cvt : (Instr.cvt .s .s 1 2).wellFormed = false := rfl
theorem test_wf_cvtRs : (Instr.cvtRs .bf .s 1 2 0).wellFormed = false := rfl
theorem test_wf_lpset : (Instr.lpset 0 1).wellFormed = false := rfl
theorem test_wf_vote : (Instr.vote .all 8 false 0).wellFormed = false := rfl
theorem test_wf_red : (Instr.red .s .and 1 2).wellFormed = false ∧ (Instr.scan .h .xor 1 2).wellFormed = false := ⟨rfl, rfl⟩
theorem test_wf_token : (Instr.ldd 1 2 0 7 1).wellFormed = false := rfl
theorem test_wf_token_named : (Instr.mwait 0 7 0).wellFormed = false ∧ (Instr.snap 1 2 7 0).wellFormed = false := ⟨rfl, rfl⟩
theorem test_wf_atom : (Instr.aadd .du 1 2 0 7 0 .none .blk).wellFormed = false := rfl
theorem test_wf_sig : (Instr.sigdec 1 2 0 .ord .blk).wellFormed = false := rfl
theorem test_wf_mwalk : (Instr.mwalk .a96 0 1 2 3 0 7 0).wellFormed = false := rfl
theorem test_wf_manchor : (Instr.manchor true 0 1 5 7 0).wellFormed = false ∧ (Instr.manchor false 0 1 5 7 0).wellFormed = false := ⟨rfl, rfl⟩
theorem test_wf_bra : (Instr.bra 0xF 0).wellFormed = false := rfl
theorem test_wf_mft : (Instr.mft 1 18).wellFormed = false := rfl
theorem test_wf_mfs : (Instr.mfs 1 0x016).wellFormed = false ∧ (Instr.mts 0x004 1).wellFormed = false := ⟨rfl, rfl⟩
theorem test_wf_ldraw : (Instr.ldraw 1 2 3).wellFormed = false := rfl
theorem test_wf_core : (Instr.issueCycle 832 0 1).wellFormed = false ∧ (Instr.issueCycle 0 4 1).wellFormed = false := ⟨rfl, rfl⟩
theorem test_wf_thread : (Instr.starvation 0 0 0 1024).wellFormed = false := rfl
theorem test_wf_die : (Instr.heatWindow 4).wellFormed = false := rfl
theorem test_wf_line : (Instr.wcLineTimeout 0 64).wellFormed = false := rfl
theorem test_wf_packet : (Instr.writePacket { (default : Packet) with dst := 4096 }).wellFormed = false := rfl
theorem test_wf_handle : (Instr.admitEvent default 65536).wellFormed = false ∧ (Instr.finishEvent default 0 4096).wellFormed = false := ⟨rfl, rfl⟩
theorem test_wf_link : (Instr.linkSilent 16).wellFormed = false ∧ (Instr.death 4096 0).wellFormed = false := ⟨rfl, rfl⟩
theorem test_wf_image : (Instr.image 0 0 0 0 []).wellFormed = false := rfl
theorem test_wf_class : (Instr.dispatchRecord 4 0).wellFormed = false := rfl
theorem test_wf_cluster : (Instr.matrixGrant 208).wellFormed = false := rfl
theorem test_wf_stack : (Instr.scrubPass { stack := 8, ce := [], ue := [] }).wellFormed = false := rfl
theorem test_wf_host : (Instr.hostControlRequest 0 2 0 .grid false).wellFormed = false := rfl

/- Words the manual writes out (R126, R167, R182, R185, R189, R191, R193, R200, R206, R211, R216, R223, R234, R252, R272, R285 and the
listings). -/

theorem test_dec_add : decode [0x04200100#32] = .ok (.add .d 2 0 1 0, 1) := rfl
theorem test_dec_adds : decode [0x08304233#32] = .ok (.adds .w 3 1 2 1, 1) := rfl
theorem test_dec_qmulr : decode [0x0C30421B#32] = .ok (.qmulr .h 3 1 2 0, 1) := rfl
theorem test_dec_rshr : decode [0x0C40C519#32] = .ok (.rshr .h 4 3 5 0, 1) := rfl
theorem test_dec_nrws : decode [0x0C61001C#32] = .ok (.nrws .h 6 4 0 0, 1) := rfl
theorem test_dec_addi : decode [0x14618001#32] = .ok (.addi 6 6 1, 1) := rfl
theorem test_dec_xor : decode [0x18608302#32] = .ok (.xor 6 2 3 0, 1) := rfl
theorem test_dec_cmp : decode [0x1E10420E#32] = .ok (.cmp .w .ltu 1 1 2, 1) := rfl
theorem test_dec_fadd : decode [0x20304200#32] = .ok (.fadd .s 3 1 2 0, 1) := rfl
theorem test_dec_fcmp : decode [0x21204209#32] = .ok (.fcmp .s .lt 2 1 2 0, 1) := rfl
theorem test_dec_frsq : decode [0x30718001#32] = .ok (.frsq .s 7 6, 1) := rfl
theorem test_dec_cvt : decode [0x341080A8#32] = .ok (.cvt .bf .s 1 2, 1) := rfl
theorem test_dec_cvtRs : decode [0x341089A8#32] = .ok (.cvtRs .bf .s 1 2 9, 1) := rfl
theorem test_dec_ldi : decode [0x3820000C#32] = .ok (.ldiS 2 12, 1) := rfl
theorem test_dec_slide : decode [0x3C204342#32] = .ok (.slide false .h 2 1 3, 1) := rfl
theorem test_dec_red : decode [0x3C505006#32] = .ok (.red .s .add 5 1, 1) := rfl
theorem test_dec_ldd : decode [0x40510222#32] = .ok (.lddShort 5 4 2 1 1, 1) := rfl
theorem test_dec_sts : decode [0x4C71A4E0#32] = .ok (.stsShort 7 6 4, 1) := rfl
theorem test_dec_sts_sf : decode [0x4C7180E1#32, 0x0002000C] = .ok (.sts .d true 7 6 32, 2) := rfl
theorem test_dec_lds_wfc : decode [0x4C818061#32, 0x00020018] = .ok (.lds .d .wfc 8 6 32 3 0, 2) := rfl
theorem test_dec_ldg : decode [0x54510042#32] = .ok (.ldgDShort 5 4 0 2 1, 1) := rfl
theorem test_dec_aaddf : decode [0x60310041#32, 0x000188A0] = .ok (.aaddf 3 4 24 2 0 .rel .pod, 2) := rfl
theorem test_dec_bar : decode [0x6C000002#32] = .ok (.bar 2, 1) ∧ decode [0x6C002000#32] = .ok (.grbar 0, 1) := ⟨rfl, rfl⟩
theorem test_dec_mma : decode [0x70248C01#32, 0x10518000] = .ok (.mma 1 2 3 4 5 6 0 0, 2) := rfl
theorem test_dec_mmak : decode [0x704004E1#32, 0x0420C002] = .ok (.mmak 0 0 1 1 2 3 2 7 0, 2) := rfl
theorem test_dec_mzero : decode [0x700000E0#32] = .ok (.mzero 0 7 0, 1) ∧ decode [0x710000E0#32] = .ok (.mfence, 1) := ⟨rfl, rfl⟩
theorem test_dec_mdesc : decode [0x74004001#32, 0x2C000000] = .ok (.mdesc 1 11 0 0, 2) := rfl
theorem test_dec_manchor : decode [0x744000E1#32, 0x00003FF6] = .ok (.manchor false 0 0 0x3FF6 7 0, 2) := rfl
theorem test_dec_fenceack : decode [0x98200020#32] = .ok (.fenceack 1 0, 1) ∧ decode [0x980000E0#32] = .ok (.wcflush 7 0, 1) := ⟨rfl, rfl⟩
theorem test_dec_bra : decode [0x82400004#32] = .ok (.bra 9 4, 1) ∧ decode [0x81C00002#32] = .ok (.bra 7 2, 1) := ⟨rfl, rfl⟩
theorem test_dec_mft : decode [0x88008000#32] = .ok (.mft 1 0, 1) := rfl
theorem test_dec_mpush : decode [0x88600000#32, 6] = .ok (.mpush 6, 2) := rfl
theorem test_dec_exit : decode [0x88A00000#32] = .ok (.exit, 1) ∧ decode [0x88C00000#32] = .ok (.yield, 1) := ⟨rfl, rfl⟩
theorem test_dec_mfs : decode [0xF8418100#32] = .ok (.mfs 3 0x100, 1) ∧ decode [0xF8000005#32] = .ok (.trap 5, 1) := ⟨rfl, rfl⟩
theorem test_dec_replay : decode [0xF8C00600#32] = .ok (.replay 3 false, 1) ∧ decode [0xF8C00601#32] = .ok (.replay 3 true, 1) := ⟨rfl, rfl⟩

/- Words written field by field from the formats (R130 to R136) and the maps (R143 to R157). -/

/-- M: op, vd, vb, off6, tok, la, X; extension off20, scope, order, fe, sub. -/
theorem test_dec_ldh : decode [0b010000_000101_000100_000000_001_0010_1#32, 0b00000000000000010000_000_000_000_011#32]
    = .ok (.ldh 5 4 16 1 2, 2) := rfl
theorem test_dec_ldf : decode [0b010010_000101_000100_000010_111_0000_0#32] = .ok (.ldfSShort 5 4 2 7 0, 1) := rfl
theorem test_dec_ldws : decode [0b010100_000101_000100_000010_111_0000_0#32] = .ok (.ldwsDShort 5 4 2 7 0, 1) := rfl
theorem test_dec_std : decode [0b010001_000101_000100_000011_111_0000_0#32] = .ok (.stdShort 5 4 3, 1) := rfl
theorem test_dec_pref : decode [0b010110_000000_000100_000010_111_0000_0#32] = .ok (.prefL1Short 4 2, 1) := rfl
theorem test_dec_fma : decode [0b001011_000011_000001_000010_000_00000#32] = .ok (.fma .s 3 1 2 0, 1) := rfl
/-- S: op, fn, vd, va, imm9. -/
theorem test_dec_mts : decode [0b111110_00011_000000_000101_000010100#32] = .ok (.mts 0x014 5, 1) := rfl
theorem test_dec_movc : decode [0b100010_00001_000011_000000_000000111#32] = .ok (.movc 3 7, 1) := rfl
/-- E: op, fn, ta, da, db, q, tok, la, X; extension vx, vy, vz, imm14. -/
theorem test_dec_cpy : decode [0b011110_00000_000_0000_0000_00_010_0001_1#32, 0b000101_000000_000000_00000000000000#32]
    = .ok (.cpy 5 2 1, 2) := rfl
theorem test_dec_coll : decode [0b011111_00000_000_0000_0000_00_010_0000_1#32, 0b000101_000000_000000_00000000000000#32]
    = .ok (.coll 5 2 0, 2) := rfl
theorem test_dec_resample : decode [0b100011_00000_000_0000_0000_00_001_0000_1#32, 0b000101_000110_000111_00000000000000#32]
    = .ok (.resample 5 6 7 1, 2) := rfl
theorem test_dec_snap : decode [0b100100_00000_000_0000_0000_00_001_0000_1#32, 0b000101_000110_000000_00000000000000#32]
    = .ok (.snap 5 6 1 0, 2) := rfl
theorem test_dec_launch : decode [0b100101_00000_000_0000_0000_00_001_0000_1#32, 0b000101_000110_000000_00000000000000#32]
    = .ok (.launch 5 6 1 0, 2) := rfl
theorem test_dec_fence : decode [0b011001_000000_000000_000000_111_0000_1#32, 0b00000000000000000000_100_011_000_000#32]
    = .ok (.fence .ar .pod, 2) := rfl
theorem test_dec_sigwait : decode [0b011010_000101_000100_000000_111_0000_1#32, 0b00000000000000001000_100_001_000_011#32]
    = .ok (.sigwait 5 4 8 7 0 .acq .pod, 2) := rfl
theorem test_dec_call : decode [0b100001_0010_0000000000000000000101#32] = .ok (.call 5, 1) := rfl

/- Words that are no instructions (R142, R386). -/

theorem test_dec_major : decode [0x00000000#32] = .error .illegalMajor ∧ decode [0x5C000000#32] = .error .reservedMajor := ⟨rfl, rfl⟩
theorem test_dec_minor : decode [0b111110_01100_000000_000000_000000000#32] = .error .reservedMinor := rfl
theorem test_dec_short : decode [0x88600000#32] = .error .wordMissing := rfl

/- Small states: one block of one thread, whose group has won its issue cycle at the instruction. -/

/-- Every page of the lower half of the address space, at frames of the same number plus one, readable and writable by all, plain bytes. -/
def wideExtent : Extent :=
  { v := true, w := true, u := true, fmt := 0, geom := 0, cbslot := 0, pages := 2 ^ 17, pkg := 0, frame := 1, vabase := 0 }

def tThread (rs : List (Nat × Word)) : Thread := { probeThread with regs := rs.foldl (fun l x => l.set x.1 x.2) probeThread.regs }
def tBlock (i : Instr) (rs : List (Nat × Word)) : Block :=
  { probeBlock (encode i) with threads := [tThread rs], extents := [wideExtent] }
def tGroup (i : Instr) : Group := probeGroup (encode i)
def tMember : Member := { tid := 0, lane := 0, active := true }
def tState (i : Instr) (rs : List (Nat × Word)) : State :=
  { State.reset with grids := [probeGrid], blocks := [tBlock i rs], issuing := some { grid := probeHandle, bidx := 0, gid := 0 } }

/-- The next state of an instruction. -/
def after (i : Instr) (s : State) : State :=
  match exec i s with
  | .next t => t
  | _ => s

/-- The thread after one instruction. -/
def ran (i : Instr) (rs : List (Nat × Word)) : Thread := (((after i (tState i rs)).blocks.headD default).threads.headD default)

theorem issuing (i : Instr) (rs : List (Nat × Word)) (h : entryFault (tState i rs) (tBlock i rs) (tGroup i) i = none) :
    Issuing (tState i rs) (tBlock i rs) (tGroup i) i := ⟨rfl, h, by simp [tBlock, tThread, probeThread]⟩

theorem alone (i : Instr) (rs : List (Nat × Word)) (h : entryFault (tState i rs) (tBlock i rs) (tGroup i) i = none) :
    IssuingAlone (tState i rs) (tBlock i rs) (tGroup i) tMember (tThread rs) i := ⟨issuing i rs h, rfl⟩

/-- An operation of the small block's one thread under token 3. -/
def tPend (k : PendKind) : Pend := { (default : Pend) with id := 7, who := { (default : Tref) with grid := probeHandle, bidx := 0, tid := 0 }, tok := 3, kind := k }

/- Single steps with the values the manual works out. -/

/-- R168's listing: QMULR.H of 300, 7, −7, −32,768 by 0.75, 0.5, 0.5, −1.0 saturates the last; RSHR.H by 2; NRWS.H. -/
theorem test_qmulr : (ran (.qmulr .h 3 1 2 0) [(1, 0x8000FFF90007012C), (2, 0x8000400040006000)]).reg 3 = 0x7FFFFFFD000400E1 ∧
    (ran (.qmulr .h 3 1 2 0) [(1, 0x8000FFF90007012C), (2, 0x8000400040006000)]).tstat = 0x20 := by decide +kernel
theorem test_rshr : (ran (.rshr .h 4 3 5 0) [(3, 0x7FFFFFFD000400E1), (5, 0x0002000200020002)]).reg 4 = 0x2000FFFF00010038 := by decide +kernel
theorem test_nrws : (ran (.nrws .h 6 4 0 0) [(4, 0x2000FFFF00010038)]).reg 6 = 0x000000007FFF0138 := by decide +kernel
/-- R98: 1 + 2^−8 converted to BF16 with seed 0, BIDX 0 and HTROOP 0 draws W = 0x7B1DCDAF. -/
theorem test_m64 : m64 0 = 0xE220A8397B1DCDAF := by decide +kernel
/-- R195: 10.0 and 0.3 at scale 0x7A. -/
theorem test_cvts : (ran (.cvts .e4m3 3 1 2) [(1, 0x3E99999A41200000), (2, 0x7A)]).reg 3 = 0x527A ∧
    (ran (.cvts .e4m3 3 1 2) [(1, 0x3E99999A41200000), (2, 0x7A)]).tstat = 1 := by decide +kernel
/-- R166: addition wraps in each element. -/
theorem test_add_wraps : (ran (.add .h 3 1 2 0) [(1, 0x7FFFFFFF0001FFFF), (2, 0x0001000100010002)]).reg 3 = 0x8000000000020001 := by decide +kernel
/-- R168: division by zero gives −1 and DZ; the most negative number over −1 wraps. -/
theorem test_div : (ran (.div .w 3 1 2 0) [(1, 0x8000000000000005), (2, 0xFFFFFFFF00000000)]).reg 3 = 0x80000000FFFFFFFF ∧
    (ran (.div .w 3 1 2 0) [(1, 0x8000000000000005), (2, 0xFFFFFFFF00000000)]).tstat = 8 := by decide +kernel
/-- R168: a shift of the full width gives zero, SRA the sign. -/
theorem test_shift : (ran (.shl .w 3 1 2 0) [(1, 0x80000001FFFFFFFF), (2, 0x0000002000000021)]).reg 3 = 0 ∧
    (ran (.sra .w 3 1 2 0) [(1, 0x80000001FFFFFFFF), (2, 0x0000002000000000)]).reg 3 = 0xFFFFFFFFFFFFFFFF := by decide +kernel
/-- R174: the listing of R184: TIDs below 12 get true; p7 discards. -/
theorem test_cmp : (ran (.cmp .w .ltu 1 1 2) [(2, 12)]).pred 1 = true ∧ (ran (.cmp .w .eq 7 1 2) [(2, 12)]).pred 7 = true := by decide +kernel
/-- R186: infinity minus infinity is invalid; 1.0 / 0 is infinity with DZ. -/
theorem test_fsub : (ran (.fsub .s 3 1 2 0) [(1, 0x7F800000), (2, 0x7F800000)]).tstat = 16 := by decide +kernel
theorem test_fdiv : (ran (.fdiv .h 3 1 2 0) [(1, 0x3C00), (2, 0x3C003C003C000000)]).reg 3 = 0x7C00 ∧
    (ran (.fdiv .h 3 1 2 0) [(1, 0x3C00), (2, 0x3C003C003C000000)]).tstat = 8 := by decide +kernel
/-- R204: a sum with one active lane is the lane's value and the identities of the others. -/
theorem test_red : (ran (.red .w .add 3 1) [(1, 0x0000000500000007)]).reg 3 = 0x0000000500000007 := by decide +kernel
/-- R211: a sign-extended half word; the page is frame 1. -/
theorem test_ldh : ((((after (.ldh 3 1 2 7 0) { tState (.ldh 3 1 2 7 0) [] with mem := Memory.empty.write 0x10002 [0xFE, 0x80] }).blocks.headD
    default).threads.headD default).reg 3) = 0xFFFFFFFFFFFF80FE := by decide +kernel
/-- R211: a store performed later writes its bytes little-endian and nothing else. -/
theorem test_sth : (after (.storePerformed 1) (after (.sth 3 1 2 false) (tState (.sth 3 1 2 false) [(3, 0x123456)]))).mem
    = Memory.empty.write 0x10002 [0x56, 0x34] := by decide +kernel
/-- R221: AMIN of signed words. -/
theorem test_amin : (after (.amin .w 3 1 4 7 0 .none .blk) { tState (.amin .w 3 1 4 7 0 .none .blk) [(3, 0xFFFFFFFF)] with
    mem := Memory.empty.write 0x10004 [5, 0, 0, 0] }).mem = Memory.empty.write 0x10004 [0xFF, 0xFF, 0xFF, 0xFF] := by decide +kernel
/-- R182, R181: EXIT ends the thread; MPUSH pushes the address after the clause plus four times the offset. -/
theorem test_exit : (ran .exit []).status = .exited := by decide +kernel
theorem test_mpush : (ran (.mpush 6) []).meet = [36] := by decide +kernel
/-- R15: CORE_ID and DIE_ID of core 417, of die 2: cluster 0, position 1. -/
theorem test_core_id : sysReg State.reset 417 0 = 0x8041A1 ∧ sysReg State.reset 417 1 = 2 := by decide +kernel
/-- R98: with seed 0, BIDX 0 and HTROOP 0 lane 0 rounds 1 + 2^−8 away from zero, and NX is set. -/
theorem test_cvtRs : (ran (.cvtRs .bf .s 3 1 2) [(1, 0x3F808000)]).reg 3 = 0x3F81 ∧
    (ran (.cvtRs .bf .s 3 1 2) [(1, 0x3F808000)]).tstat = 1 := by decide +kernel
theorem test_first_step : step (State.reset.withFetchWord 32 0x14618001) = exec (.addi 6 6 1) (State.reset.withFetchWord 32 0x14618001) := rfl

/- Witnesses: for each statement with hypotheses, a state and operands that meet them together. -/

theorem wit_packedInteger : ∃ s b g i w d a c l f, packedInt i = some (w, d, a, c, l, f) ∧ Issuing s b g i :=
  ⟨_, _, _, .add .w 3 1 2 0, _, _, _, _, _, _, rfl, issuing _ [] rfl⟩
theorem wit_wholeRegister : ∃ s b g i d a c l f, wholeReg i = some (d, a, c, l, f) ∧ Issuing s b g i :=
  ⟨_, _, _, .and 3 1 2 0, _, _, _, _, _, rfl, issuing _ [] rfl⟩
theorem wit_counting : ∃ s b g i w d a r, counting i = some (w, d, a, r) ∧ Issuing s b g i :=
  ⟨_, _, _, .popc .w 3 1, _, _, _, _, rfl, issuing _ [] rfl⟩
theorem wit_bitField : ∃ s b g i d a c r, bitField i = some (d, a, c, r) ∧ Issuing s b g i :=
  ⟨_, _, _, .bfx 3 1 2, _, _, _, _, rfl, issuing _ [] rfl⟩
theorem wit_dotAndNarrow : ∃ s b g i w n d a c l f, gathered i = some (w, n, d, a, c, l, f) ∧ Issuing s b g i :=
  ⟨_, _, _, .dot2s 3 1 2 0, _, _, _, _, _, _, _, rfl, issuing _ [] rfl⟩
theorem wit_predicate : ∃ s b g i f, predicated i = some f ∧ Issuing s b g i :=
  ⟨_, _, _, .cmp .w .eq 1 1 2, _, rfl, issuing _ [] rfl⟩
theorem wit_packedFloat : ∃ s b g i w d a c l f, packedFp i = some (w, d, a, c, l, f) ∧ Issuing s b g i :=
  ⟨_, _, _, .fadd .s 3 1 2 0, _, _, _, _, _, _, rfl, issuing _ [] rfl⟩
theorem wit_special : (∃ s b g, Issuing s b g (.fexp2 .s 3 1)) ∧ (∃ s b g, Issuing s b g (.flog2 .h 3 1)) ∧ (∃ s b g, Issuing s b g (.fsin .bf 3 1)) ∧
    ∃ s b g, Issuing s b g (.fcos .s 3 1) :=
  ⟨⟨_, _, _, issuing _ [] rfl⟩, ⟨_, _, _, issuing _ [] rfl⟩, ⟨_, _, _, issuing _ [] rfl⟩, ⟨_, _, _, issuing _ [] rfl⟩⟩
/-- Every clause of R191's table has an operand: a NaN, the infinities, zeros, a negative number, 1.0, an integer, a half integer. -/
theorem wit_special_operands : ffS.val 0x7FC00000 = .nan false ∧ ffS.val 0xFF800000 = .inf true ∧ ffS.val 0x80000000 = .fin true 0 (-149) ∧
    ffS.val 0xC0400000 = .fin true 12582912 (-22) ∧ (2 : Nat) ^ 22 ∣ 12582912 ∧ ffS.val 0x3F000000 = .fin false 8388608 (-24) ∧
    8388608 = (2 * 0 + 1) * 2 ^ 23 := by decide +kernel
theorem wit_conversion : (∃ s b g, Issuing s b g (.cvt .bf .s 3 1)) ∧ (∃ s b g, Issuing s b g (.cvtRs .bf .s 3 1 2)) ∧
    ∃ s b g, Issuing s b g (.cvts .i8 3 1 2) :=
  ⟨⟨_, _, _, issuing _ [] rfl⟩, ⟨_, _, _, issuing _ [] rfl⟩, ⟨_, _, _, issuing _ [] rfl⟩⟩
theorem wit_laneMove : ∃ s b g i f, laneMove i = some f ∧ Issuing s b g i := ⟨_, _, _, .shfl 3 1 2, _, rfl, issuing _ [] rfl⟩
theorem wit_lanePattern : (∃ s b g, Issuing s b g (.lpset 1 1)) ∧ (∃ s b g, Issuing s b g (.push 3 1 2 1)) ∧
    ∃ s b g, Issuing s b g (.vote .all 1 false 0) :=
  ⟨⟨_, _, _, issuing _ [] rfl⟩, ⟨_, _, _, issuing _ [] rfl⟩, ⟨_, _, _, issuing _ [] rfl⟩⟩
theorem wit_reduction : (∃ s b g, Issuing s b g (.red .s .add 3 1)) ∧ (∃ s b g, Issuing s b g (.scan .d .min 3 1)) ∧
    ∃ s b g, Issuing s b g (.redmaxi .w 3 1 2) :=
  ⟨⟨_, _, _, issuing _ [] rfl⟩, ⟨_, _, _, issuing _ [] rfl⟩, ⟨_, _, _, issuing _ [] rfl⟩⟩

/-- Nothing of a thread is outstanding in a small state. -/
theorem drained (i : Instr) (rs : List (Nat × Word)) : Drained (tState i rs) (tBlock i rs) (tThread rs) :=
  ⟨fun _ h => (by cases h), fun _ _ h => (by cases h), fun _ => rfl, fun _ h => (by cases h)⟩

theorem wit_load : ∃ s b g m th i a n sx ga pa e, loads i = some a ∧ a.op = .ld n sx ga ∧ IssuingAlone s b g m th i ∧ Drained s b th ∧
    Reaches s b th (a.of th) pa e :=
  ⟨_, _, _, _, _, .ldh 3 1 2 7 0, _, _, _, _, _, _, rfl, rfl, alone _ [] rfl, drained _ [], ⟨rfl, by decide +kernel, rfl, rfl⟩⟩
theorem wit_formattedLoad : ∃ s b g m th i a bf pa e, formatLoads i = some a ∧ a.op = .ldf bf ∧ IssuingAlone s b g m th i ∧ Drained s b th ∧
    Reaches s b th (a.of th) pa e :=
  ⟨_, _, _, _, _, .ldfS 3 1 8 7 0, _, _, _, _, rfl, rfl, alone _ [] rfl, drained _ [], ⟨rfl, by decide +kernel, rfl, rfl⟩⟩
theorem wit_scratchLoad : ∃ s b g m th i n q a, scratchLoads i = some (n, q, a) ∧ IssuingAlone s b g m th i ∧ Drained s b th ∧
    accFaults s b (!th.priv) (a.of th) = (s, []) ∧ (q = .none ∨ b.full.contains ((a.ea th).toNat % 2 ^ 57 / 16) = true) :=
  ⟨_, _, _, _, _, .lds .w .none 3 1 4 7 0, _, _, _, rfl, alone _ [] rfl, drained _ [], rfl, .inl rfl⟩
theorem wit_weightLoad : ∃ s b g m th i n a, weightLoads i = some (n, a) ∧ IssuingAlone s b g m th i ∧
    accFaults s b (!th.priv) (a.of th) = (s, []) ∧ wsBusy s (dieOf b.core) ((a.ea th).toNat % 2 ^ 57 / 2 ^ 16 % 8) = false :=
  ⟨_, _, _, _, _, .ldwsW 3 1 (0x10000 : BitVec 26) 7 0, _, _, rfl, alone _ [] rfl, by decide +kernel, by decide +kernel⟩
theorem wit_store : ∃ s b g m th i a n o ga pa e, stores i = some a ∧ a.op = .st n o ga ∧ IssuingAlone s b g m th i ∧
    Reaches s b th (a.of th) pa e ∧ (o = false ∨ s.ordered b.grid = false) :=
  ⟨_, _, _, _, _, .sth 3 1 2 true, _, _, _, _, _, _, rfl, rfl, alone _ [] rfl, ⟨rfl, by decide +kernel, rfl, rfl⟩, .inr rfl⟩
theorem wit_scratchStore : ∃ s b g m th i n f a, scratchStores i = some (n, f, a) ∧ IssuingAlone s b g m th i ∧
    accFaults s b (!th.priv) (a.of th) = (s, []) :=
  ⟨_, _, _, _, _, .stsShort 3 1 2, _, _, _, rfl, alone _ [] rfl, rfl⟩
theorem wit_prefetch : ∃ s b g, Issuing s b g (.prefL1 1 0) := ⟨_, _, _, issuing _ [] rfl⟩

/-- The probe's grid with flags changed. -/
def tGrid (fl : Nat) : Grid := { probeGrid with l := { probeGrid.l with flags := fl } }

theorem wit_orderedStore : ∃ s b g m th i a n ga pa e, stores i = some a ∧ a.op = .st n true ga ∧ IssuingAlone s b g m th i ∧
    Reaches s b th (a.of th) pa e ∧ s.ordered b.grid = true :=
  ⟨{ tState (.sth 3 1 2 true) [] with grids := [tGrid 3] }, tBlock (.sth 3 1 2 true) [], tGroup (.sth 3 1 2 true), tMember, tThread [],
   .sth 3 1 2 true, _, _, _, _, _, rfl, rfl, ⟨⟨rfl, rfl, by simp [tBlock, tThread, probeThread]⟩, rfl⟩, ⟨rfl, by decide +kernel, rfl, rfl⟩, rfl⟩
theorem wit_stagedAtomic : ∃ s b g m th d r o k l sc pa e, IssuingAlone s b g m th (.aaddf d r o k l .none sc) ∧ s.ordered b.grid = true ∧
    Reaches s b th (mkAcc (.atom .addf .w .none sc) th (ea_ th r o.toInt) d k l) pa e ∧
    ((s.core b.core).staged.filter fun x => !x.spilled).length < 512 :=
  ⟨{ tState (.aaddf 3 1 4 1 0 .none .blk) [] with grids := [tGrid 3] }, tBlock (.aaddf 3 1 4 1 0 .none .blk) [], tGroup (.aaddf 3 1 4 1 0 .none .blk), tMember,
   tThread [], 3, 1, 4, 1, 0, .blk, _, _, ⟨⟨rfl, rfl, by simp [tBlock, tThread, probeThread]⟩, rfl⟩, rfl,
   ⟨rfl, by decide +kernel, rfl, rfl⟩, by decide +kernel⟩

/-- No result is awaited and no entry armed: the bytes of a page of no job's tables are data. -/
theorem plain (i : Instr) (rs : List (Nat × Word)) (va pa n : Nat) (hn : 0 < n) (ha : 0x10000 ≤ pa) (h : writeHeld (tState i rs) 0 va = false)
    (h1 : pageLeft (tState i rs) 0 va = false) (h2 : noteDsm (tState i rs) 0 va = tState i rs) : Plain (tState i rs) 0 va pa n :=
  ⟨hn, ha, fun _ _ _ => rfl, h, h1, h2, fun p hp => (by cases hp), fun d x hx => (by cases hx)⟩

theorem wit_atomic : ∃ s b g m th i o y od sc a pa e, atomics i = some (o, y, od, sc, a) ∧ IssuingAlone s b g m th i ∧ Drained s b th ∧
    Reaches s b th (a.of th) pa e ∧ Plain s (s.jobOf b.grid) (a.ea th).toNat pa (atomBits y / 8) ∧
    (od = .ord ∨ (od = .none ∧ o = .addf) → s.ordered b.grid = false) ∧ ¬(od = .sc ∧ sc = .pod) ∧
    (od = .sc → ∀ x ∈ s.scOut, x.1 = false → s.waitsOn x.2.2 = false) :=
  ⟨_, _, _, _, _, .amin .w 3 1 4 7 0 .none .blk, _, _, _, _, _, _, _, rfl, alone _ [] rfl, drained _ [], ⟨rfl, by decide +kernel, rfl, rfl⟩,
   plain _ [] _ _ _ (by decide) (by decide) rfl rfl rfl, fun _ => rfl, nofun, nofun⟩
theorem wit_seqAtomic : ∃ s b g m th i o y a, atomics i = some (o, y, .sc, .pod, a) ∧ IssuingAlone s b g m th i ∧ Drained s b th ∧
    accFaults s b (!th.priv) (a.of th) = (s, []) :=
  ⟨_, _, _, _, _, .aadd .d 3 1 8 2 0 .sc .pod, _, _, _, rfl, alone _ [] rfl, drained _ [], rfl⟩

/-- A store of two bytes to a place, and the result of a load, outstanding in the small state. -/
def tWrite (pl : Place) (f : Bool) : PWrite :=
  { id := 1, who := { (default : Tref) with grid := probeHandle }, job := 0, place := pl, va := 0x100, bytes := [1, 2], set := f, at_ := 0, token := 0 }
def outState (w : PWrite) : State := { tState .nop [] with writes := [w] }
theorem foremost (pl : Place) (f : Bool) (h : (tWrite pl f).before (tWrite pl f) = false) : Foremost (outState (tWrite pl f)) (tWrite pl f) :=
  ⟨rfl, fun x hx => by rw [List.mem_singleton.mp hx]; exact h, rfl, rfl, fun x hx _ => List.mem_singleton.mp hx⟩
theorem quiet (w : PWrite) : Quiet (outState w) := ⟨fun _ h => (by cases h), fun _ h => (by cases h), fun _ h => (by cases h)⟩
theorem wit_outstanding : (∃ (s : State) (w : PWrite) (pa : Nat), s.writes.find? (fun x => x.id == w.id) = some w ∧ w.place = .pa pa ∧ Foremost s w ∧ Quiet s ∧
      Plain s w.job w.va pa w.bytes.length ∧ (w.set = true → ∀ n, linesBefore s w.who n = false)) ∧
    (∃ (s : State) (w : PWrite) (off : Nat), s.writes.find? (fun x => x.id == w.id) = some w ∧ w.place = .scratch off ∧ Foremost s w ∧ Quiet s ∧ w.set = true ∧
      (∀ n, linesBefore s w.who n = false) ∧ ∀ p ∈ s.pend, ∀ o n c, p.kind = .fullEmpty o n c → p.who.grid ≠ w.who.grid ∨ p.who.bidx ≠ w.who.bidx) ∧
    ∃ (s : State) (p : Pend) (b : Block) (th : Thread) (v : Word) (f : BitVec 6), s.pend.find? (fun x => x.id == p.id) = some p ∧ p.kind = .result v f ∧ (∀ t k, p.acc.op ≠ .jump t k) ∧ p.tok < 7 ∧
      s.block? p.who.grid p.who.bidx = some b ∧ b.place = 0 ∧ s.thread? p.who = some th ∧ th.status ≠ .shelved :=
  ⟨⟨outState (tWrite (.pa 0x10100) false), tWrite (.pa 0x10100) false, 0x10100, rfl, rfl, foremost _ _ (by decide +kernel), quiet _,
     ⟨by decide, by decide, fun _ _ _ => rfl, rfl, rfl, rfl, fun p hp => (by cases hp), fun d x hx => (by cases hx)⟩, nofun⟩,
   ⟨outState (tWrite (.scratch 0x40) true), tWrite (.scratch 0x40) true, 0x40, rfl, rfl, foremost _ _ (by decide +kernel), quiet _, rfl, fun _ => rfl,
     fun _ h => (by cases h)⟩,
   ⟨{ tState .nop [] with pend := [tPend (.result 5 0)] }, tPend (.result 5 0), _, _, 5, 0, rfl, rfl, nofun, by decide, rfl, rfl, rfl, by decide⟩⟩

/-- Page tables of job 0 with pages 0 and 1 at the frames 0x13 and 0x14 (R59, R60), present, writable, user, DSM set; the vector of class
0x0D is 0x400 (R375), and the frame of TID 0 says PC 0x800, privileged (R374, R377). -/
def tPte (frame : Nat) : Nat := 7 + 2 ^ 28 + frame * 2 ^ 29
def tMem : Memory :=
  ((((((Memory.empty.writeNum 0x100000 8 (1 + 0x11 * 2 ^ 29)).writeNum 0x110000 8 (1 + 0x12 * 2 ^ 29)).writeNum 0x120000 8 (tPte 0x13)).writeNum
    0x120008 8 (tPte 0x14)).writeNum 0x130068 8 0x400).writeNum 0x140002 2 8).writeNum 0x140010 8 0x800

/-- The small state with those tables, and a role of 64 private bytes at page 1. -/
def mState (i : Instr) (rs : List (Nat × Word)) : State :=
  { tState i rs with
    mem := tMem, job0Root := 0x100000
    grids := [{ probeGrid with l := { probeGrid.l with roles := [{ troops := 1, regs := 64, priv := 64 }], priv := 0x10000 } }] }
def uThread (f : Thread → Thread) : Thread := f (tThread [])
def mBlock (i : Instr) (f : Thread → Thread) : Block := { tBlock i [] with threads := [uThread f] }
def uState (i : Instr) (f : Thread → Thread) : State := { mState i [] with blocks := [mBlock i f] }

theorem aloneM (i : Instr) (f : Thread → Thread) (h0 : (uThread f).tid = 0) (h1 : (uThread f).trapAfter = none)
    (h : entryFault (uState i f) (mBlock i f) (tGroup i) i = none) : IssuingAlone (uState i f) (mBlock i f) (tGroup i) tMember (uThread f) i :=
  ⟨⟨rfl, h, by simpa [mBlock] using h1⟩, by simp [activeLanes, mBlock, h0, tGroup, probeGroup, Group.member?, tMember]⟩
theorem last (i : Instr) (th : Thread) (n : Nat) (h : (encode i).length = n) (h16 : n < 16) (h1 : th.status = .issuing) (h2 : th.goto = none)
    (h3 : th.yieldAfter = false) : Last (tGroup i) th n := by
  refine ⟨?_, rfl, h1, h2, h3⟩
  have : (tGroup i).cnt = n := by
    simp only [tGroup, probeGroup, Group.cnt, h]
    rcases n with _ | _ | _ | _ | _ | _ | _ | _ | _ | _ | _ | _ | _ | _ | _ | _ | n <;> first | rfl | omega
  rw [this]; simp [tGroup, probeGroup]

theorem wit_transfer : ∃ s b g m th i f, transfers i = some f ∧ IssuingAlone s b g m th i ∧ Last g th (Instr.len i) ∧
    ∀ w, f g th = some w → targetFault s b (!th.priv) w = (s, none) :=
  ⟨_, _, _, _, _, .bra 7 2, _, rfl, aloneM _ id rfl rfl rfl, last _ _ _ rfl (by decide) rfl rfl rfl, fun w h => by cases h; rfl⟩
theorem wit_call : ∃ s b g m th i f pa e, calls i = some f ∧ IssuingAlone s b g m th i ∧ Last g th (Instr.len i) ∧
    th.callDepth < min 255 (privSize s b th / 8) ∧ Reaches s b th (pushAcc s b th g.fall) pa e ∧
    targetFault s b (!th.priv) (f g th) = (s, none) :=
  ⟨_, _, _, _, _, .call 2, _, _, _, rfl, aloneM _ id rfl rfl rfl, last _ _ _ rfl (by decide) rfl rfl rfl, by decide +kernel,
   ⟨rfl, by decide +kernel, rfl, rfl⟩, rfl⟩
theorem wit_ret : ∃ s b g m th pa e, IssuingAlone s b g m th .ret ∧ Last g th 1 ∧ th.callDepth ≠ 0 ∧ Drained s b th ∧
    Reaches s b th (popAcc s b th) pa e ∧ targetFault s b (!th.priv) (BitVec.ofNat 64 (s.mem.num pa 8)) = (s, none) :=
  ⟨_, _, _, _, _, _, _, aloneM .ret (fun th => { th with callDepth := 1 }) rfl rfl rfl, last _ _ _ rfl (by decide) rfl rfl rfl, by decide,
   ⟨fun _ h => (by cases h), fun _ _ h => (by cases h), fun _ => rfl, fun _ h => (by cases h)⟩, ⟨rfl, by decide +kernel, rfl, rfl⟩, rfl⟩
theorem wit_meetingStack : (∃ s b g m th, IssuingAlone s b g m th (.mpush 6) ∧ th.meet.length < 8) ∧
    (∃ s b g m th, IssuingAlone s b g m th .mpop ∧ th.meet ≠ []) ∧
    (∃ s b g m th, IssuingAlone s b g m th (.mpush 6) ∧ 8 ≤ th.meet.length) ∧ ∃ s b g m th, IssuingAlone s b g m th .mpop ∧ th.meet = [] :=
  ⟨⟨_, _, _, _, _, aloneM _ id rfl rfl rfl, by decide⟩,
   ⟨_, _, _, _, _, aloneM _ (fun th => { th with meet := [4] }) rfl rfl rfl, by decide⟩,
   ⟨_, _, _, _, _, aloneM _ (fun th => { th with meet := [4, 8, 12, 16, 20, 24, 28, 32] }) rfl rfl rfl, by decide⟩,
   ⟨_, _, _, _, _, aloneM _ id rfl rfl rfl, rfl⟩⟩
theorem wit_threadEnd : (∃ s b g, Issuing s b g .nop) ∧ (∃ s b g, Issuing s b g (.clrf 0x3F)) ∧ (∃ s b g, Issuing s b g .yield) ∧
    ∃ s b g, Issuing s b g .exit ∧ (∀ x ∈ s.bars, x.grid ≠ b.grid) ∧ (gridPeers s b.grid).isEmpty = true :=
  ⟨⟨_, _, _, issuing _ [] rfl⟩, ⟨_, _, _, issuing _ [] rfl⟩, ⟨_, _, _, issuing _ [] rfl⟩, ⟨_, _, _, issuing _ [] rfl, fun _ h => (by cases h), by decide +kernel⟩⟩
theorem wit_trap : ∃ s b g m th n v pa, IssuingAlone s b g m th (.trap n) ∧ Last g th 1 ∧
    (∀ h ∈ b.groups, h.gid ≠ g.gid → h.member? th.tid = none) ∧ th.priv = false ∧ v ≠ 0 ∧
    hwRead s (s.jobOf b.grid) (vectorOf s (dieOf b.core) + 8 * 13) 8 = some v ∧
    hwPa s (s.jobOf b.grid) (vectorOf s (dieOf b.core) + 0x10000 + 64 * (2048 * b.core + 32 * slotOf b th.tid + th.tid % 32)) = some pa :=
  ⟨_, _, _, _, _, 5, 0x400, 0x140000, aloneM _ (fun th => { th with priv := false }) rfl rfl rfl, last _ _ _ rfl (by decide) rfl rfl rfl,
   fun h hm hn => absurd (by simp [mBlock, tBlock, probeBlock] at hm; rw [hm]; rfl) hn, rfl, by decide, by decide +kernel, by decide +kernel⟩
theorem wit_eret : ∃ s b g m th pa, IssuingAlone s b g m th .eret ∧ th.status = .issuing ∧ th.yieldAfter = false ∧
    hwPa s (s.jobOf b.grid) (vectorOf s (dieOf b.core) + 0x10000 + 64 * (2048 * b.core + 32 * slotOf b th.tid + th.tid % 32)) = some pa ∧
    s.mem.bad pa 4 = false ∧ s.mem.bad (pa + 16) 8 = false ∧
    targetFault s b (!decide (s.mem.num (pa + 2) 2 / 8 % 2 = 1)) (BitVec.ofNat 64 (s.mem.num (pa + 16) 8)) = (s, none) :=
  ⟨_, _, _, _, _, 0x140000, aloneM _ id rfl rfl rfl, rfl, rfl, by decide +kernel, by decide +kernel, by decide +kernel, by decide +kernel⟩
theorem wit_stops : (∃ s b g m th, IssuingAlone s b g m th (.bkpt 3)) ∧ ∃ s b g m th, IssuingAlone s b g m th .halt :=
  ⟨⟨_, _, _, _, _, alone _ [] rfl⟩, ⟨_, _, _, _, _, alone _ [] rfl⟩⟩
theorem wit_systemRegister : (∃ s b g, Issuing s b g (.mfs 3 0x014)) ∧ ∃ s b g m th, IssuingAlone s b g m th (.mts 0x013 1) :=
  ⟨⟨_, _, _, issuing _ [] rfl⟩, ⟨_, _, _, _, _, alone _ [] rfl⟩⟩

theorem free (i : Instr) (rs : List (Nat × Word)) (ea : Word) (pa : Nat) (od : Order) (sc : Scope) (h : ¬(od = .sc ∧ sc = .pod))
    (ha : 0x10000 ≤ pa) (h0 : writeHeld (tState i rs) 0 ea.toNat = false) (h1 : pageLeft (tState i rs) 0 ea.toNat = false)
    (h2 : noteDsm (tState i rs) 0 ea.toNat = tState i rs) : Free (tState i rs) (tBlock i rs) (tThread rs) ea pa od sc :=
  ⟨drained i rs, plain i rs _ _ _ (by decide) ha h0 h1 h2, h, fun _ _ hx => (by cases hx)⟩

theorem wit_fence : ∃ s b g m th, IssuingAlone s b g m th (.fence .ar .pod) ∧ Drained s b th :=
  ⟨_, _, _, _, _, alone _ [] rfl, drained _ []⟩
theorem wit_acquire : ∃ s b g m th d r o k l sc pa e, IssuingAlone s b g m th (.acq d r o k l sc) ∧ Drained s b th ∧
    Reaches s b th (mkAcc (.acq sc) th (ea_ th r o.toInt) d k l) pa e :=
  ⟨_, _, _, _, _, 3, 1, 8, 7, 0, .pod, _, _, alone _ [] rfl, drained _ [], ⟨rfl, by decide +kernel, rfl, rfl⟩⟩
theorem wit_release : ∃ s b g m th d r o sc pa e, IssuingAlone s b g m th (.rel d r o sc) ∧ Free s b th (ea_ th r o.toInt) pa .rel sc ∧
    Reaches s b th (mkAcc (.rel sc) th (ea_ th r o.toInt) d 7 0) pa e :=
  ⟨_, _, _, _, _, 3, 1, 8, .pod, _, _, alone _ [] rfl, free _ [] _ _ _ _ nofun (by decide) rfl rfl rfl, ⟨rfl, by decide +kernel, rfl, rfl⟩⟩
theorem wit_bind : ∃ s b g m th d r o, IssuingAlone s b g m th (.rbind d r o) ∧
    accFaults s b (!th.priv) (mkAcc .rbind th (ea_ th r o.toInt) d 7 0) = (s, []) ∧ (th.reg d).toNat % 128 = 0 ∧
    (th.reg (d + 1)).toNat % 128 = 0 ∧ (th.reg (d + 1)).toNat ≠ 0 ∧ (b.binds.filter fun y => !y.off.contains th.tid).length < 16 ∧
    ∀ y ∈ b.binds.filter fun y => !y.off.contains th.tid,
      y.base + y.len ≤ (th.reg d).toNat ∨ (th.reg d).toNat + (th.reg (d + 1)).toNat ≤ y.base :=
  ⟨_, _, _, _, _, 3, 1, 8, alone _ [(3, 256), (4, 128)] rfl, rfl, by decide +kernel, by decide +kernel, by decide +kernel, by decide,
   fun _ h => (by cases h)⟩
theorem wit_unbind : ∃ s b g m th r o, IssuingAlone s b g m th (.runbind r o) ∧
    accFaults s b (!th.priv) (mkAcc .runbind th (ea_ th r o.toInt) 0 7 0) = (s, []) ∧ Drained s b th :=
  ⟨_, _, _, _, _, 1, 8, alone _ [] rfl, rfl, drained _ []⟩

/-- The small state in an ordered grid. -/
def oState (i : Instr) : State := { tState i [] with grids := [tGrid 3] }
theorem aloneO (i : Instr) (h : entryFault (oState i) (tBlock i []) (tGroup i) i = none) :
    IssuingAlone (oState i) (tBlock i []) (tGroup i) tMember (tThread []) i := ⟨⟨rfl, h, by simp [tBlock, tThread, probeThread]⟩, rfl⟩

theorem wit_orderedAtomic : ∃ s b g m th i o y sc a, atomics i = some (o, y, .ord, sc, a) ∧ IssuingAlone s b g m th i ∧ s.ordered b.grid = true ∧
    accFaults s b (!th.priv) (a.of th) = (s, []) :=
  ⟨_, _, _, _, _, .aadd .w 3 1 8 2 0 .ord .pkg, _, _, _, _, rfl, aloneO _ rfl, rfl, rfl⟩

theorem wit_flush : (∃ s b g m th, IssuingAlone s b g m th (.aflush 7 0) ∧ s.ordered b.grid = false) ∧
    ∃ s b g m th, IssuingAlone s b g m th (.aflush 7 0) ∧ s.ordered b.grid = true :=
  ⟨⟨_, _, _, _, _, alone _ [] rfl, rfl⟩, ⟨_, _, _, _, _, aloneO _ rfl, rfl⟩⟩
theorem wit_digest : (∃ s b g m th, IssuingAlone s b g m th (.digrd 3 7 0) ∧ s.ordered b.grid = false ∧ ∀ p ∈ s.pend, p.kind ≠ .digest) ∧
    ∃ s b g m th gr, IssuingAlone s b g m th (.digrd 3 7 0) ∧ th.status = .issuing ∧ s.ordered b.grid = true ∧ (∀ p ∈ s.pend, p.kind ≠ .digest) ∧
      s.grid? b.grid = some gr ∧ ∀ j, ∀ x ∈ (s.die j).tickets, x.who ≠ me b th :=
  ⟨⟨_, _, _, _, _, alone _ [] rfl, rfl, fun _ h => (by cases h)⟩,
   ⟨_, _, _, _, _, _, aloneO _ rfl, rfl, rfl, fun _ h => (by cases h), rfl, fun j x h => (by cases h)⟩⟩
theorem wit_signal : ∃ s b g m th i o od sc a pa e, signals i = some (o, od, sc, a) ∧ IssuingAlone s b g m th i ∧
    Free s b th (a.ea th) pa od sc ∧ Reaches s b th (a.of th) pa e :=
  ⟨_, _, _, _, _, .sigdecShort 3 1 1, _, _, _, _, _, _, rfl, alone _ [(3, 8)] rfl, free _ [(3, 8)] _ _ _ _ nofun (by decide) rfl rfl rfl,
   ⟨rfl, by decide +kernel, rfl, rfl⟩⟩
theorem wit_seqSignal : ∃ s b g m th i o a, signals i = some (o, .sc, .pod, a) ∧ IssuingAlone s b g m th i ∧ Drained s b th ∧
    accFaults s b (!th.priv) (a.of th) = (s, []) :=
  ⟨_, _, _, _, _, .siginc 3 1 8 .sc .pod, _, _, rfl, alone _ [] rfl, drained _ [], rfl⟩
theorem wit_sigwait : (∃ s b g m th d r o k l od sc pa e, IssuingAlone s b g m th (.sigwait d r o k l od sc) ∧
    Free s b th (ea_ th r o.toInt) pa od sc ∧ Reaches s b th (mkAcc (.sigwait od sc) th (ea_ th r o.toInt) d k l) pa e ∧
    s_ 60 (s.mem.num pa 8 % 2 ^ 60) ≤ s_ 60 ((th.reg d).toNat % 2 ^ 60)) ∧
    ∃ s b g m th d r o k l od sc pa e, IssuingAlone s b g m th (.sigwait d r o k l od sc) ∧
    Free s b th (ea_ th r o.toInt) pa od sc ∧ Reaches s b th (mkAcc (.sigwait od sc) th (ea_ th r o.toInt) d k l) pa e ∧
    ¬(s_ 60 (s.mem.num pa 8 % 2 ^ 60) ≤ s_ 60 ((th.reg d).toNat % 2 ^ 60) ∨ s.mem.num pa 8 / 2 ^ 63 % 2 = 1) :=
  ⟨⟨_, _, _, _, _, 3, 1, 8, 7, 0, .acq, .pod, _, _, alone _ [] rfl, free _ [] _ _ _ _ nofun (by decide) rfl rfl rfl, ⟨rfl, by decide +kernel, rfl, rfl⟩,
     by decide +kernel⟩,
   ⟨_, _, _, _, _, 3, 1, 8, 7, 0, .acq, .pod, _, _, alone _ [(3, 0x0FFFFFFFFFFFFFFF)] rfl, free _ [(3, 0x0FFFFFFFFFFFFFFF)] _ _ _ _ nofun (by decide) rfl rfl rfl,
     ⟨rfl, by decide +kernel, rfl, rfl⟩, by decide +kernel⟩⟩
theorem wit_sigarm : ∃ s b g m th d r o od sc pa e, IssuingAlone s b g m th (.sigarm d r o od sc) ∧
    Free s b th (ea_ th r o.toInt) pa od sc ∧ Reaches s b th (mkAcc (.sigarm od sc) th (ea_ th r o.toInt) d 7 0) pa e ∧
    (s.die (homeDie pa)).arms.length < 4096 ∧ s_ 60 ((th.reg d).toNat % 2 ^ 60) < s_ 60 (s.mem.num pa 8 % 2 ^ 60) ∧
    (th.reg (d + 1)).toNat / 2 ^ 57 = 0 ∧ (th.reg (d + 1)).toNat % 8 = 0 :=
  ⟨_, _, _, _, _, 3, 1, 8, .rel, .pod, 0x10008, _, alone _ [(3, 0x0FFFFFFFFFFFFFFF), (4, 64)] rfl,
   free _ [(3, 0x0FFFFFFFFFFFFFFF), (4, 64)] _ _ _ _ nofun (by decide) rfl rfl rfl, ⟨rfl, by decide +kernel, rfl, rfl⟩, by decide +kernel, by decide +kernel,
   by decide +kernel, by decide +kernel⟩

/-- A block with a second thread, READY. -/
def pairBlock (i : Instr) : Block := { tBlock i [] with threads := [tThread [], { tThread [] with tid := 1, status := .ready }] }
def pairState (i : Instr) : State := { tState i [] with blocks := [pairBlock i] }
theorem alonePair (i : Instr) (h : entryFault (pairState i) (pairBlock i) (tGroup i) i = none) :
    IssuingAlone (pairState i) (pairBlock i) (tGroup i) tMember (tThread []) i := ⟨⟨rfl, h, by simp [pairBlock, tThread, probeThread]⟩, rfl⟩

theorem wit_barrier : (∃ s b g m th i k n, barriers i = some (k, n) ∧ IssuingAlone s b g m th i ∧ MayArrive s b th k n.toNat ∧
      missing s k b n.toNat th.tid) ∧
    (∃ s b g m th i k n, barriers i = some (k, n) ∧ (k = .grid → s.ordered b.grid = false ∧ (gridPeers s b.grid).isEmpty = true ∧
        ∀ gr, s.grid? b.grid = some gr → gr.todo = []) ∧
      IssuingAlone s b g m th i ∧ MayArrive s b th k n.toNat ∧ ¬missing s k b n.toNat th.tid ∧
      ∀ a ∈ (s.inst k b.grid (barIdx k b) n.toNat).arrivals, storesBefore s { grid := b.grid, bidx := a.1, tid := a.2 } s.nextId = false) ∧
    (∃ s b g m th n, IssuingAlone s b g m th (.bara n) ∧ MayArrive s b th .block n.toNat ∧ missing s .block b n.toNat th.tid) ∧
    ∃ s b g m th n gen, IssuingAlone s b g m th (.barw n) ∧ th.bara.find? (fun x => x.1 == n.toNat) = some (n.toNat, gen) :=
  ⟨⟨_, _, _, _, _, .bar 2, _, _, rfl, alonePair _ rfl, ⟨⟨fun _ h => (by cases h), fun _ _ h => (by cases h), fun _ => rfl, fun _ h => (by cases h)⟩, nofun, by decide +kernel⟩,
     ⟨pairBlock (.bar 2), by decide +kernel, { tThread [] with tid := 1, status := .ready }, by decide +kernel, by decide, by decide +kernel, by decide +kernel⟩⟩,
   ⟨_, _, _, _, _, .grbar 2, _, _, rfl, fun _ => ⟨rfl, by decide +kernel, fun gr h => by cases h; rfl⟩, alone _ [] rfl, ⟨drained _ [], fun _ => by decide +kernel, by decide +kernel⟩,
     by rintro ⟨c, hc, x, hx, h1, h2, h3⟩
        rw [show barBlocks (tState (.grbar 2) []) .grid (tBlock (.grbar 2) []).grid (barIdx .grid (tBlock (.grbar 2) [])) = [tBlock (.grbar 2) []] by decide +kernel] at hc
        simp only [List.mem_singleton] at hc; subst hc
        simp only [tBlock, List.mem_singleton] at hx; subst hx; exact h3 rfl, fun _ h => (by cases h)⟩,
   ⟨_, _, _, _, _, 2, alonePair _ rfl, ⟨⟨fun _ h => (by cases h), fun _ _ h => (by cases h), fun _ => rfl, fun _ h => (by cases h)⟩, nofun, by decide +kernel⟩,
     ⟨pairBlock (.bara 2), by decide +kernel, { tThread [] with tid := 1, status := .ready }, by decide +kernel, by decide, by decide +kernel, by decide +kernel⟩⟩,
   ⟨_, _, _, _, _, 2, 0, aloneM _ (fun th => { th with bara := [(2, 0)] }) rfl rfl rfl, rfl⟩⟩

theorem whole (i : Instr) (rs : List (Nat × Word)) (h : entryFault (tState i rs) (tBlock i rs) (tGroup i) i = none) :
    Whole (tState i rs) (tBlock i rs) (tGroup i) tMember (tThread rs) i :=
  { alone i rs h with
    whole := fun x hx => by simp [tGroup, probeGroup] at hx; rw [hx]
    troop := fun x hx _ _ => by rw [List.mem_singleton.mp hx], runs := rfl }

/-- A record of a matrix operand: BF16, stride 128, rows 64, inner length 48 (R244). -/
def tRec : List Word := recWords (([0, 0, 2, 0, 0, 0, 0, 0, 128, 0, 0, 0, 64, 0, 0, 0, 48, 0, 0, 0] : List Byte) ++ List.replicate 44 0)
def dBlock (i : Instr) : Block := { tBlock i [] with descs := [some (tRec ++ [0]), some (tRec ++ [0])] ++ List.replicate 14 none }
def dState (i : Instr) : State := { tState i [] with blocks := [dBlock i] }
theorem wholeD (i : Instr) (h : entryFault (dState i) (dBlock i) (tGroup i) i = none) :
    Whole (dState i) (dBlock i) (tGroup i) tMember (tThread []) i :=
  { current := rfl, admitted := h, calm := by simp [dBlock, tBlock, tThread, probeThread], alone := rfl
    whole := fun x hx => by simp [tGroup, probeGroup] at hx; rw [hx]
    troop := fun x hx _ _ => by rw [List.mem_singleton.mp hx], runs := rfl }

theorem wit_matrixEntry : (∃ s b g m th i tl k f, matrixEntry i = some (tl, k, f) ∧ Whole s b g m th i ∧ matrixAccepts s b th i ∧
      (s.table b.core).length < 32 ∧ ∀ e ∈ s.aside, ¬(e.grid = b.grid ∧ e.bidx = b.bidx)) ∧
    ∃ s b g m th, Whole s b g m th (.mma 2 0 1 1 2 4 3 0) ∧ matrixAccepts s b th (.mma 2 0 1 1 2 4 3 0) ∧ (s.table b.core).length < 32 ∧ s.aside = [] :=
  ⟨⟨_, _, _, _, _, .mzero 2 3 0, _, _, _, rfl, whole _ [] rfl, trivial, by decide, fun _ h => (by cases h)⟩, ⟨_, _, _, _, _, wholeD _ (by decide +kernel), (by decide +kernel : pairBad _ false _ _ _ true = none), by decide, rfl⟩⟩

/-- The record's bytes at page 0, which the block's extent maps to frame 1. -/
def rMem : Memory := (((Memory.empty.write 0x10002 [2]).write 0x10008 [128]).write 0x1000C [64]).write 0x10010 [48]
def rBytes : List Byte := ([0, 0, 2, 0, 0, 0, 0, 0, 128, 0, 0, 0, 64, 0, 0, 0, 48, 0, 0, 0] : List Byte) ++ List.replicate 44 0
def rState (i : Instr) : State := { tState i [] with mem := rMem }
theorem wholeR (i : Instr) (h : entryFault (rState i) (tBlock i []) (tGroup i) i = none) :
    Whole (rState i) (tBlock i []) (tGroup i) tMember (tThread []) i :=
  { current := rfl, admitted := h, calm := by simp [tBlock, tThread, probeThread], alone := rfl
    whole := fun x hx => by simp [tGroup, probeGroup] at hx; rw [hx]
    troop := fun x hx _ _ => by rw [List.mem_singleton.mp hx], runs := rfl }

/-- A record read without a fault, as a check. -/
def recOk (s : State) (b : Block) (g : Group) (th : Thread) (va n : Nat) (bs : List Byte) : Bool :=
  match engGrans (byOf s b th va) (acceptOp g) true (granRange va n) s with
  | (u, .ok gs) => u = s ∧ gBytes gs va n = bs
  | _ => false
theorem recordIs {s : State} {b : Block} {g : Group} {th : Thread} {va n : Nat} {bs : List Byte} (h1 : va + n ≤ 2 ^ 57)
    (h : recOk s b g th va n bs = true) : RecordIs s b g th va n bs := by
  unfold recOk at h; split at h
  · next e => rw [decide_eq_true_eq] at h; exact ⟨h1, _, by rw [e, h.1], h.2⟩
  · cases h

theorem wit_matrixSetup : (∃ s b g m th da x k l bs, mdescBad bs = none ∧ Whole s b g m th (.mdesc da x k l) ∧ RecordIs s b g th (th.reg x).toNat 64 bs) ∧
    (∃ s b g m th tl k l, Whole s b g m th (.mwait tl k l) ∧ k ≠ 7 ∧ (∀ p ∈ s.pend, ∀ ids, p.kind ≠ .mwait ids)) ∧
    (∃ s b g m th, Whole s b g m th .mfence) ∧ ∃ s b g m th n x k l, Whole s b g m th (.cbload n x k l) :=
  ⟨⟨_, _, _, _, _, 1, 1, 2, 0, rBytes, by decide +kernel, wholeR _ rfl, recordIs (by decide +kernel) (by decide +kernel)⟩,
   ⟨_, _, _, _, _, 2, 3, 0, whole _ [] rfl, by decide, fun _ h => (by cases h)⟩, ⟨_, _, _, _, _, whole _ [] rfl⟩,
   ⟨_, _, _, _, _, 1, 1, 3, 0, whole _ [] rfl⟩⟩

/-- One entry of cluster 0, of the small state's block on core 0. -/
def tEntry (f : MEntry → MEntry) : MEntry :=
  f { (default : MEntry) with id := 9, kind := .mzero, grid := probeHandle, core := 0, by_ := { (default : EngBy) with grid := probeHandle }, tile := 2, passes := 1 }
def eState (f : MEntry → MEntry) : State := { tState .nop [] with clusters := [(0, [tEntry f])], now := 300 }
theorem one (f : MEntry → MEntry) (h : (tEntry f).core / 4 = 0) : OneEntry (eState f) 0 (tEntry f) := ⟨h, rfl⟩
def tTile : Tile := { elems := [], anchor := 0, aov := false, dof := false, dsat := false, mism := false, prog := 0 }
theorem tileIs (f : MEntry → MEntry) (hg : (tEntry f).grid = probeHandle) (hb : (tEntry f).bidx = 0) (h : (tEntry f).tile = 2) :
    TileIs (eState f) (tEntry f) tTile := ⟨tBlock .nop [], by rw [hg, hb]; rfl, by rw [h]; rfl⟩

theorem wit_matrixGrant : (∃ s c e gs tl, OneEntry s c e ∧ e.phase = 0 ∧ e.passes ≠ 0 ∧ Ready s e gs tl) ∧
    (∃ s c since e, OneEntry s c e ∧ e.phase = 0 ∧ e.since = some since ∧ since + 256 ≤ s.now) ∧
    (∃ s c e old tl, OneEntry s c e ∧ e.phase = 1 ∧ e.next = some tl ∧ TileIs s e old ∧ e.kind = .mma ∧ e.passes ≤ e.prog + 1 ∧ s.aside = [] ∧
      blockRuns s e.grid e.bidx = true) ∧
    (∃ s c e old tl, OneEntry s c e ∧ e.phase = 1 ∧ e.next = some tl ∧ TileIs s e old ∧ e.kind = .mma ∧ e.prog + 1 < e.passes ∧ s.aside = [] ∧
      blockRuns s e.grid e.bidx = true) ∧
    (∃ s c e old tl rs z, OneEntry s c e ∧ e.phase = 1 ∧ e.next = some tl ∧ TileIs s e old ∧ e.kind = .mdrain rs z ∧ s.aside = [] ∧
      blockRuns s e.grid e.bidx = true) ∧
    ∃ s c e old tl p th lane, OneEntry s c e ∧ e.phase = 1 ∧ e.next = some tl ∧ TileIs s e old ∧ s.pend = [p] ∧ p.kind = .engine e.id ∧
      p.tok < 7 ∧ s.thread? p.who = some th ∧ th.status ≠ .exited ∧ th.status ≠ .shelved ∧ e.who = [(p.who.tid, lane)] ∧ e.kind = .mrow true ∧ s.aside = [] :=
  ⟨⟨_, _, _, [], (tileOf (eState id) (tEntry id)).zero, one id rfl, rfl, by decide, ⟨fun _ _ => rfl, fun _ _ => rfl⟩⟩, ⟨_, _, _, _, one (fun e => { e with since := some 0 }) rfl, rfl, rfl, by decide⟩,
   ⟨_, _, _, _, tTile, one (fun e => { e with phase := 1, next := some tTile, kind := .mma }) rfl, rfl, rfl, tileIs _ rfl rfl rfl, rfl, by decide, rfl, rfl⟩,
   ⟨_, _, _, _, tTile, one (fun e => { e with phase := 1, next := some tTile, kind := .mma, passes := 2 }) rfl, rfl, rfl, tileIs _ rfl rfl rfl,
     rfl, by decide, rfl, rfl⟩,
   ⟨_, _, _, _, tTile, true, false, one (fun e => { e with phase := 1, next := some tTile, kind := .mdrain true false }) rfl, rfl, rfl,
     tileIs _ rfl rfl rfl, rfl, rfl, rfl⟩,
   ⟨{ eState (fun e => { e with phase := 1, next := some tTile, kind := .mrow true, who := [(0, 0)] }) with pend := [tPend (.engine 9)] }, 0, _, tTile,
     tTile, _, _, 0, ⟨rfl, rfl⟩, rfl, rfl, ⟨tBlock .nop [], rfl, rfl⟩, rfl, rfl, by decide, rfl, by decide, by decide, rfl, rfl, rfl⟩⟩
theorem wit_passSum : ∃ (tl : Tile) (pos : Nat) (rows cols : List (List (FVal × Int))), pos < 4096 ∧
    (let ps := (rows.getD (pos / 64) []).zip (cols.getD (pos % 64) [])
     let cs := ps.map fun p => productOf tl.anchor p.1 p.2
     cs = [(3, 0)] ∧ (tl.at_ pos).1 + ((cs.map fun c => max 0 c.1).sum) < 2 ^ 95 ∧ -(2 ^ 95) ≤ (tl.at_ pos).1 + ((cs.map fun c => min 0 c.1).sum)) :=
  ⟨tTile, 0, [[(.fin false 1 0, 0)]], [[(.fin false 3 0, 0)]], by decide, by decide +kernel⟩
/-- The bytes of a drain's run, at VA 0x80 (PA 0x10080). -/
theorem plainE (f : MEntry → MEntry) (job va pa n : Nat) (hn : 0 < n) (ha : 0x10000 ≤ pa) (h0 : writeHeld (eState f) job va = false) (h1 : pageLeft (eState f) job va = false)
    (h2 : noteDsm (eState f) job va = eState f) : Plain (eState f) job va pa n :=
  ⟨hn, ha, fun _ _ _ => rfl, h0, h1, h2, fun _ h => (by cases h), fun d a h => (by cases h)⟩
def runOf (e : MEntry) : MEntry := { e with phase := 2, kind := .mdrain true false, out := [(0x80, List.replicate 16 1)] }
def oneRec (fmt : Byte) : List Word := recWords (([128, 0, 0, 0, 0, 0, 0, 0, 0, 0, 0, 0, 1, 0, 0, 0, 1, 0, 0, 0, fmt, 1] : List Byte) ++ List.replicate 42 0)
def walkOf (e : MEntry) : MEntry := { e with phase := 2, kind := .mwalk .i32 1, da := oneRec 0, db := oneRec 0, dO := oneRec 9 }
def walked : State × Tile × Nat × WRes := combineAll (tEntry walkOf) .i32 tTile.anchor (walkElems (tEntry walkOf) tTile) (eState walkOf) tTile 0
theorem wit_matrixWrites : (∃ s c e rs z va bs pa pte, OneEntry s c e ∧ e.phase = 2 ∧ e.kind = .mdrain rs z ∧ e.out = [(va, bs)] ∧
      engLoc s e.by_ va true = (s, .mem pa pte) ∧ Plain s e.by_.job va pa bs.length ∧
      engOut s e.id = false ∧ s.aside = []) ∧
    (∃ s s' cl k e o c tl tl', OneEntry s cl e ∧ e.phase = 2 ∧ e.kind = .mwalk o c ∧ TileIs s e tl ∧ e.chunk ∉ e.chunks ∧
      combineAll e o tl.anchor ((walkElems e tl).drop e.part) s tl e.part = (s', tl', k, .done) ∧ OneEntry s' cl e ∧
      engOut s' e.id = false ∧ s'.aside = [] ∧ blockRuns s' e.grid e.bidx = true) ∧
    ∃ s d r gs, s.rebuilds.find? (fun x => x.die == d && x.token.isNone) = some r ∧ r.va % 32 = 0 ∧ r.slot < (s.die d).codebooks.length ∧
      engGrans r.by_ r.op true (granRange r.va 32) s = (s, .ok gs) :=
  ⟨⟨_, _, _, true, false, 0x80, List.replicate 16 1, 0x10080, _, one runOf rfl, rfl, rfl, rfl, rfl, plainE _ _ _ _ _ (by decide) (by decide) rfl rfl rfl,
     by decide +kernel, rfl⟩,
   ⟨_, walked.1, _, walked.2.2.1, _, .i32, 1, tTile, walked.2.1, one walkOf rfl, rfl, rfl, tileIs _ rfl rfl rfl, by decide,
     (by decide +kernel : walked = (walked.1, walked.2.1, walked.2.2.1, .done)), ⟨rfl, by decide +kernel⟩, by decide +kernel, by decide +kernel, by decide +kernel⟩,
   ⟨{ tState .nop [] with rebuilds := [{ (default : Rebuild) with die := 0, by_ := { (default : EngBy) with grid := probeHandle } }] }, 0, _, _,
     rfl, rfl, by decide +kernel, rfl⟩⟩

theorem clean (i : Instr) (rs : List (Nat × Word)) (h : dropGot (tState i rs) (acceptOp (tGroup i)) = tState i rs) :
    Clean (tState i rs) (tBlock i rs) (tGroup i) (tThread rs) := ⟨drained i rs, h⟩

/-- A copy record of state 0 (R264): one row of eight bytes from VA 0x200 to VA 0x100. -/
def cBytes : List Byte := [0, 1, 0, 0, 0, 0, 0, 0, 0, 2, 0, 0, 0, 0, 0, 0, 8, 0, 0, 0, 1, 0, 0, 0] ++ List.replicate 24 0
def cMem : Memory := (((Memory.empty.write 0x10001 [1]).write 0x10009 [2]).write 0x10010 [8]).write 0x10014 [1]
theorem wholeOf (s : State) (i : Instr) (rs : List (Nat × Word)) (h0 : s.cur? = some (tBlock i rs, tGroup i))
    (h : entryFault s (tBlock i rs) (tGroup i) i = none) : Whole s (tBlock i rs) (tGroup i) tMember (tThread rs) i :=
  { current := h0, admitted := h, calm := by simp [tBlock, tThread, probeThread], alone := rfl
    whole := fun x hx => by simp [tGroup, probeGroup] at hx; rw [hx]
    troop := fun x hx _ _ => by rw [List.mem_singleton.mp hx], runs := rfl }
def tCopy (f : Copy → Copy) : Copy :=
  f { (default : Copy) with op := 9, by_ := { (default : EngBy) with grid := probeHandle }, rowlen := 128, rows := 2 }
/-- The small state with the record at VA 0 and copies of it. -/
def cState (i : Instr) (cs : List Copy) : State := { tState i [] with mem := cMem, copies := cs }
theorem cleanC (i : Instr) (cs : List Copy) (h : dropGot (cState i cs) (acceptOp (tGroup i)) = cState i cs) :
    Clean (cState i cs) (tBlock i []) (tGroup i) (tThread []) :=
  ⟨⟨fun _ h => (by cases h), fun _ _ h => (by cases h), fun _ => rfl, fun _ h => (by cases h)⟩, h⟩
theorem drainedC (i : Instr) (cs : List Copy) : Drained (cState i cs) (tBlock i []) (tThread []) :=
  ⟨fun _ h => (by cases h), fun _ _ h => (by cases h), fun _ => rfl, fun _ h => (by cases h)⟩
def aside (c : Copy) : Copy := { c with phase := 1 }

theorem wit_copyBegins : ∃ s b g m th x k l bs st mem, Whole s b g m th (.cpy x k l) ∧ Clean s b g th ∧ (th.reg x).toNat % 64 = 0 ∧
      RecordIs s b g th (th.reg x).toNat 48 bs ∧ copyBad bs = none ∧
      stateStep s g { byOf s b th (th.reg x).toNat with store := 2 } bs = (s, .ok st) ∧ (st = 0 ∨ st = 3 ∨ st = 4) ∧
      (∀ y ∈ s.copies, y.op ≠ (runningCopy s b th (th.reg x).toNat bs).op) ∧ engOut s (runningCopy s b th (th.reg x).toNat bs).op = false ∧
      Puts (issuedWith s b g (.cpy x k l) k l (s.copies ++ [begunCopy (runningCopy s b th (th.reg x).toNat bs)]))
        (runningCopy s b th (th.reg x).toNat bs).by_ (runningCopy s b th (th.reg x).toNat bs).op ((th.reg x).toNat + 48)
        (List.replicate 8 0 ++ [1] ++ List.replicate 7 0) mem :=
  ⟨_, _, _, _, _, 1, 3, 0, cBytes, 0, cMem.write 0x10038 [1], wholeOf (cState (.cpy 1 3 0) []) _ _ rfl rfl, cleanC _ _ rfl, by decide,
     recordIs (by decide +kernel) (by decide +kernel), by decide +kernel, by decide +kernel, .inl rfl, fun _ h => (by cases h), by decide +kernel,
     by unfold Puts; decide +kernel⟩
theorem wit_copyInstruction : (∃ s b g m th x k l, Whole s b g m th (.cpys x k l) ∧ Drained s b th ∧ (th.reg x).toNat % 64 = 0 ∧
      ∀ c, copyAt s (s.jobOf b.grid) (th.reg x).toNat = some c → c.phase = 1 ∨ c.stage = 3) ∧
    (∃ s b g m th x k l c, Whole s b g m th (.cpys x k l) ∧ Drained s b th ∧ (th.reg x).toNat % 64 = 0 ∧
      copyAt s (s.jobOf b.grid) (th.reg x).toNat = some c ∧ c.phase ≠ 1 ∧ c.stage ≠ 3) ∧
    (∃ s b g m th x k l, Whole s b g m th (.cpyr x k l) ∧ Clean s b g th ∧ (th.reg x).toNat % 64 = 0 ∧
      ∀ c, copyAt s (s.jobOf b.grid) (th.reg x).toNat = some c → c.phase ≠ 1) ∧
    (∃ s b g m th x y z k l c, Whole s b g m th (.cpyq x y z k l) ∧ Clean s b g th ∧ (th.reg x).toNat % 64 = 0 ∧
      copyAt s (s.jobOf b.grid) (th.reg x).toNat = some c) ∧
    ∃ s b g m th x y z k l bs, Whole s b g m th (.cpyq x y z k l) ∧ Clean s b g th ∧ (th.reg x).toNat % 64 = 0 ∧
      copyAt s (s.jobOf b.grid) (th.reg x).toNat = none ∧ RecordIs s b g th ((th.reg x).toNat + 48) 16 bs :=
  ⟨⟨_, _, _, _, _, 1, 3, 0, wholeOf (cState (.cpys 1 3 0) [tCopy aside]) _ _ rfl rfl, drainedC _ _, by decide, fun c h => by cases h; exact .inl rfl⟩,
   ⟨_, _, _, _, _, 1, 3, 0, _, wholeOf (cState (.cpys 1 3 0) [tCopy id]) _ _ rfl rfl, drainedC _ _, by decide, rfl, by decide, by decide⟩,
   ⟨_, _, _, _, _, 1, 3, 0, wholeOf (cState (.cpyr 1 3 0) [tCopy id]) _ _ rfl rfl, cleanC _ _ rfl, by decide, fun c h => by cases h; decide⟩,
   ⟨_, _, _, _, _, 1, 2, 3, 3, 0, _, wholeOf (cState (.cpyq 1 2 3 3 0) [tCopy id]) _ _ rfl rfl, cleanC _ _ rfl, by decide, rfl⟩,
   ⟨_, _, _, _, _, 1, 2, 3, 3, 0, List.replicate 16 0, wholeOf (cState (.cpyq 1 2 3 3 0) []) _ _ rfl rfl, cleanC _ _ rfl, by decide, rfl,
     recordIs (by decide +kernel) (by decide +kernel)⟩⟩
theorem wit_copyResumes : ∃ s b g m th x k l c bs mem, Whole s b g m th (.cpyr x k l) ∧ Clean s b g th ∧ (th.reg x).toNat % 64 = 0 ∧
      copyAt s (s.jobOf b.grid) (th.reg x).toNat = some c ∧ c.phase = 1 ∧ s.copies.find? (fun y => y.op == c.op) = some c ∧
      RecordIs s b g th (th.reg x).toNat 48 bs ∧ copyBad bs = none ∧ engOut s c.op = false ∧ (∀ p ∈ s.pend, p.kind ≠ .engine s.nextId) ∧
      Puts (issuedWith s b g (.cpyr x k l) k l (replaceFirst (fun y => y.op == c.op) (fun y =>
        { copyOf bs y with phase := 0, stage := 1, goes := [s.nextId], tail := [((th.reg x).toNat + 56, [1], 0)] }) s.copies))
        c.by_ c.op ((th.reg x).toNat + 56) [1] mem :=
  ⟨_, _, _, _, _, 1, 3, 0, _, cBytes, cMem.write 0x10038 [1], wholeOf (cState (.cpyr 1 3 0) [tCopy aside]) _ _ rfl rfl, cleanC _ _ rfl, by decide, rfl, rfl, rfl,
     recordIs (by decide +kernel) (by decide +kernel), by decide +kernel, by decide +kernel, fun _ h => (by cases h), by unfold Puts; decide +kernel⟩

def kCopy (prow : Nat) : Copy :=
  { tCopy id with rowlen := 256, prow := prow, dst := 0x1000, src := 0x2000, by_ := { (default : EngBy) with grid := probeHandle, recVa := 0x3000 } }
def kState (prow : Nat) : State := { tState .nop [] with copies := [kCopy prow] }
def kItems : List (Nat × List Byte × Byte) := match (copyRead (kState 0) (kCopy 0)).2 with
  | .ok x => x.1
  | _ => []
theorem runs (prow : Nat) : Runs (kState prow) (kCopy prow) := ⟨rfl, rfl, rfl, rfl, rfl, rfl⟩
theorem wit_copyChunk : (∃ s c items n inv mem, Runs s c ∧ c.prow < c.rows ∧ copyRead s c = (s, .ok (items, n, inv)) ∧ items ≠ [] ∧
      engPuts c.by_ c.op items { s with copies := [{ c with out := items, ahead := n, invblk := min 65535 (c.invblk + inv) }] }
        = ({ s with copies := [{ c with out := items, ahead := n, invblk := min 65535 (c.invblk + inv) }], mem := mem }, [], .done) ∧
      c.prow + 1 < c.rows) ∧
    ∃ s c mem, Runs s c ∧ c.rows ≤ c.prow ∧ c.signal = 0 ∧ engOut s c.op = false ∧
      Puts (copyEnd s c 3 0) c.by_ c.op (c.by_.recVa + 48) (copyTail c 3 0) mem :=
  ⟨⟨_, _, kItems, 256, 0, Memory.empty, runs 0, by decide, rfl, by decide +kernel, by decide +kernel, by decide⟩,
   ⟨_, _, (Memory.empty.write 0x13030 [2]).write 0x13038 [3], runs 2, by decide, rfl, by decide +kernel, by unfold Puts; decide +kernel⟩⟩

def gMem : Memory := (Memory.empty.write 0x10000 [16]).write 0x10008 [0, 1]
def gState (i : Instr) : State := { tState i [(1, 0x1000), (2, 0x2000)] with mem := gMem }
theorem wholeG (i : Instr) (h : entryFault (gState i) (tBlock i [(1, 0x1000), (2, 0x2000)]) (tGroup i) i = none) :
    Whole (gState i) (tBlock i [(1, 0x1000), (2, 0x2000)]) (tGroup i) tMember (tThread [(1, 0x1000), (2, 0x2000)]) i :=
  { current := rfl, admitted := h, calm := by simp [tBlock, tThread, probeThread], alone := rfl
    whole := fun x hx => by simp [tGroup, probeGroup] at hx; rw [hx]
    troop := fun x hx _ _ => by rw [List.mem_singleton.mp hx], runs := rfl }
def tXfer (kind left : Nat) : Xfer := { (default : Xfer) with op := 9, kind := kind, by_ := { (default : EngBy) with grid := probeHandle }, dst := 0x1000, src := 0x2000, left := left, want := 5 }
theorem wit_oneSided : (∃ s b g m th i x y z k l kind, i = .put x y z k l ∧ kind = 0 ∧ Whole s b g m th i ∧ Clean s b g th ∧ 0 < (th.reg z).toNat ∧
      (th.reg z).toNat < 2 ^ 32 ∧ crosses56 (th.reg x).toNat (th.reg z).toNat = false ∧ crosses56 (th.reg y).toNat (th.reg z).toNat = false) ∧
    (∃ s b g m th x y z k l bs, Whole s b g m th (.getVer x y z k l) ∧ Clean s b g th ∧ (th.reg z).toNat % 32 = 0 ∧
      RecordIs s b g th (th.reg z).toNat 32 bs ∧ leNat (bs.take 4) ≠ 0 ∧ crosses56 (th.reg x).toNat (leNat (bs.take 4)) = false ∧
      crosses56 (th.reg y).toNat (leNat (bs.take 4)) = false) ∧
    (∃ s b g m th x y k l, Whole s b g m th (.putf x y k l) ∧ Clean s b g th ∧ (th.reg x).toNat % 8 = 0) ∧
    (∃ (s : State) (x : Xfer) (gs is : List (Nat × List Byte × Byte)) (mem : Memory), x.token = none ∧ x.kind ≤ 1 ∧ x.left ≠ 0 ∧
      inWindow x.remoteVa = false ∧
      engGrans x.by_ x.op (x.dst % 8 != x.src % 8) (granRange x.src (min x.left (128 - x.dst % 128))) s = (s, .ok gs) ∧
      plainItems x.dst x.src (min x.left (128 - x.dst % 128)) gs = .ok is ∧
      engPuts x.by_ x.op is s = ({ s with mem := mem }, [], .done)) ∧
    (∃ (s : State) (x : Xfer), x.token = none ∧ x.kind ≤ 1 ∧ x.left = 0 ∧ engOut s x.op = false) ∧
    ∃ (s : State) (x : Xfer) (pa : Nat) (pte : Word) (mem : Memory), x.token = none ∧ x.kind = 3 ∧ x.stage = 0 ∧ putBefore s x = false ∧ engLoc s x.by_ x.dst true = (s, .mem pa pte) ∧
      Puts s x.by_ x.op x.dst (leBytes x.want.toNat 8) mem :=
  ⟨⟨_, _, _, _, _, .put 1 2 3 3 0, 1, 2, 3, 3, 0, 0, rfl, rfl, whole _ [(3, 100)] rfl, clean _ _ rfl, by decide, by decide, by decide +kernel,
     by decide +kernel⟩,
   ⟨_, _, _, _, _, 1, 2, 3, 3, 0, [16, 0, 0, 0, 0, 0, 0, 0, 0, 1, 0, 0, 0, 0, 0, 0, 0, 0, 0, 0, 0, 0, 0, 0, 0, 0, 0, 0, 0, 0, 0, 0], wholeG _ rfl,
     ⟨⟨fun _ h => (by cases h), fun _ _ h => (by cases h), fun _ => rfl, fun _ h => (by cases h)⟩, rfl⟩, by decide, (recordIs (by decide +kernel) (by decide +kernel)), by decide, by decide +kernel,
     by decide +kernel⟩,
   ⟨_, _, _, _, _, 1, 2, 3, 0, whole _ [] rfl, clean _ _ rfl, by decide⟩,
   ⟨{ tState .nop [] with xfers := [tXfer 0 8] }, tXfer 0 8, [(0x400, List.replicate 8 0, 0)], [(0x1000, List.replicate 8 0, 0)], Memory.empty, rfl, by decide, by decide, by decide +kernel,
     by decide +kernel, rfl, by decide +kernel⟩,
   ⟨tState .nop [], tXfer 0 0, rfl, by decide, rfl, by decide +kernel⟩,
   ⟨tState .nop [], tXfer 3 0, _, _, Memory.empty.write 0x11000 [5], rfl, rfl, rfl, by decide +kernel, rfl, by unfold Puts; decide +kernel⟩⟩
/-- The small state with a store of its thread to package 2 in the core's write-combining buffer. -/
def lineState (i : Instr) : State :=
  (tState i []).updCore 0 fun c => { c with wc := [{ (default : WcLine) with peer := 2, va := 0x1000, bytes := [(0, 7)], whos := [(0, { (default : Tref) with grid := probeHandle })] }] }
theorem wit_flushAndAck : (∃ s b g m th k l, IssuingAlone s b g m th (.wcflush k l)) ∧
    (∃ s b g m th k l, IssuingAlone s b g m th (.fenceack k l) ∧ (∀ p ∈ s.pend, ∀ iss, p.kind ≠ .fenceack iss) ∧
      xferBefore (sendOwn s b.core (me b th)) (me b th) (sendOwn s b.core (me b th)).nextId = false ∧
      linesBefore (sendOwn s b.core (me b th)) (me b th) (sendOwn s b.core (me b th)).nextId = false ∧
      movingBefore (sendOwn s b.core (me b th)) (me b th) (sendOwn s b.core (me b th)).nextId = false) ∧
    ∃ s b g m th k l, IssuingAlone s b g m th (.fenceack k l) ∧ (∀ p ∈ s.pend, ∀ iss, p.kind ≠ .fenceack iss) ∧
      linesBefore (sendOwn s b.core (me b th)) (me b th) (sendOwn s b.core (me b th)).nextId = true :=
  ⟨⟨_, _, _, _, _, 3, 0, alone _ [] rfl⟩,
   ⟨_, _, _, _, _, 3, 0, alone _ [] rfl, fun _ h => (by cases h), by decide +kernel, by decide +kernel, by decide +kernel⟩,
   ⟨lineState (.fenceack 3 0), tBlock (.fenceack 3 0) [], tGroup (.fenceack 3 0), tMember, tThread [], 3, 0,
     ⟨⟨rfl, rfl, by simp [tBlock, tThread, probeThread]⟩, rfl⟩, fun _ h => (by cases h), by decide +kernel⟩⟩

/-- A valid launch record at VA 0x4000 of job 0 (R298): one block of one thread of 16 registers. -/
def lMem : Memory :=
  { cells := [(0x100000, 1), (0x100003, 0x20), (0x100004, 2), (0x110000, 1), (0x110003, 0x40), (0x110004, 2), (0x120000, 7), (0x120003, 0x70),
      (0x120004, 2), (0x134008, 1), (0x13400C, 1), (0x13400E, 1), (0x134010, 1), (0x134012, 1), (0x134014, 1), (0x134018, 1), (0x134019, 16),
      (0x13403E, 1), (0x13403F, 1)], errs := [], poison := [] }
def lState (q : List Sub) : State := { tState .nop [] with mem := lMem, job0Root := 0x100000, queues := [q, [], [], []] }
def tSub (va : Nat) : Sub := { (default : Sub) with kind := 0, va := va, job := 0, user := true }
def launchFound (q : List Sub) : Bool := match launchAt (lState q) 0x4000 0 true with
  | (u, .ok (some l)) => l.cls = 0 ∧ u.queues = (lState q).queues
  | _ => false
theorem found (q : List Sub) (h : launchFound q = true) :
    ∃ u l, launchAt (lState q) 0x4000 0 true = (u, .ok (some l)) ∧ l.cls = 0 ∧ u.queues = [q, [], [], []] := by
  unfold launchFound at h; split at h
  · next e => rw [decide_eq_true_eq] at h; exact ⟨_, _, e, h.1, h.2⟩
  · cases h

theorem wit_submission : (∃ s s' b g m th i kind n x y k l, submissions i = some (kind, x, y, k, l) ∧ IssuingAlone s b g m th i ∧ Drained s b th ∧
      (∀ p ∈ s.pend, p.id ≠ s.nextId) ∧ submit (submitting s b g th y k) (submission s b th kind (th.reg x).toNat) = (s', .status n) ∧
      s'.blocks = (submitting s b g th y k).blocks ∧ s'.pend = (submitting s b g th y k).pend) ∧
    (∃ (s u : State) (x : Sub) (l : Launch), x.kind = 0 ∧ launchAt s x.va x.job x.user = (u, .ok (some l)) ∧ l.cls < 4 ∧
      ∀ c < 4, (u.queues.getD c []).length + (if c = l.cls then 1 else 0) ≤ 256) ∧
    (∃ (s u : State) (x : Sub) (l : Launch), x.kind = 0 ∧ launchAt s x.va x.job x.user = (u, .ok (some l)) ∧ l.cls < 4 ∧ 256 ≤ (u.queues.getD l.cls []).length) ∧
    (∃ (s : State) (x : Sub), x.kind = 0 ∧ launchAt s x.va x.job x.user = (s, .ok none)) ∧
    ∃ s s' n, submit s { kind := 0, va := (1 : Va).toNat, job := 0, user := true, unit := 0, pend := 0, token := 0, sent := false, host := true, l := default, handle := none }
      = (s', .status n) :=
  ⟨⟨_, _, _, _, _, _, .launch 1 2 3 0, _, 1, _, _, _, _, rfl, alone _ [(1, 1)] rfl, drained _ [(1, 1)], fun _ h => (by cases h), rfl, rfl, rfl⟩,
   (let ⟨u, l, h, c, e⟩ := found [] (by decide +kernel);
     ⟨_, u, tSub 0x4000, l, rfl, h, by rw [c]; decide, by rw [e, c]; decide +kernel⟩),
   (let ⟨u, l, h, c, e⟩ := found (List.replicate 256 default) (by decide +kernel);
     ⟨_, u, tSub 0x4000, l, rfl, h, by rw [c]; decide, by rw [e, c]; decide +kernel⟩),
   ⟨tState .nop [], tSub 1, rfl, rfl⟩, ⟨tState .nop [], _, 1, rfl⟩⟩

theorem wit_podRequest : (∃ s b g m th x y k l, IssuingAlone s b g m th (.snap x y k l) ∧ ∀ w ∈ s.writes, w.who ≠ me b th) ∧
    (∃ s b g m th x k l, IssuingAlone s b g m th (.snapstat x k l)) ∧
    (∃ s b g m th x k l, IssuingAlone s b g m th (.snapwait x k l) ∧ th.status = .issuing ∧ ∀ p ∈ s.pend, p.kind ≠ .engine snapwaitOp) ∧
    (∃ s b g m th lv x k l, IssuingAlone s b g m th (.cancel lv x k l) ∧ th.priv = true) ∧
    ∃ s b g m th x close pa, IssuingAlone s b g m th (.jobctl x close) ∧ hwPa s 0 ((th.reg x).toNat % 2 ^ 57) = some pa ∧ s.mem.bad pa 2 = false :=
  ⟨⟨_, _, _, _, _, 3, 1, 3, 0, alone _ [] rfl, fun _ h => (by cases h)⟩, ⟨_, _, _, _, _, 3, 3, 0, alone _ [] rfl⟩,
   ⟨_, _, _, _, _, 3, 3, 0, alone _ [] rfl, rfl, fun _ h => (by cases h)⟩, ⟨_, _, _, _, _, .grid, 3, 3, 0, alone _ [] rfl, rfl⟩,
   ⟨_, _, _, _, _, 3, false, 0x130000, aloneM _ id rfl rfl rfl, by decide +kernel, by decide +kernel⟩⟩

def vState (i : Instr) (rs : List (Nat × Word)) : State :=
  { tState i rs with dies := [(0, { dieInit with waits := [{ (default : WaitEntry) with index := 5, page := 3 }] })] }
theorem aloneV (i : Instr) (rs : List (Nat × Word)) (h : entryFault (vState i rs) (tBlock i rs) (tGroup i) i = none) :
    IssuingAlone (vState i rs) (tBlock i rs) (tGroup i) tMember (tThread rs) i := ⟨⟨rfl, h, by simp [tBlock, tThread, probeThread]⟩, rfl⟩
/-- A snapshot's manifest header at VA 0x2000 of job 0: magic, no predecessor (R341). -/
def hMem : Memory := (tMem.writeNum 0x132000 4 0x54514E4D)
def hState : State := { tState .nop [] with mem := hMem, job0Root := 0x100000, pend := [{ tPend (.engine rollPend) with acc := { (default : Acc) with ea := 0x2000 } }] }
/-- A stopped thread, its group parked with no token (R432). -/
def sBlock : Block :=
  { tBlock .nop [] with
    threads := [{ tThread [] with status := .parked, parked := [(stopTok, againAcc)] }]
    groups := [{ tGroup .nop with parked := true }] }
theorem wit_supervisor : (∃ s b g m th a sc, IssuingAlone s b g m th (.shoot a sc) ∧ sc ≠ 3) ∧
    (∃ s b g m th a resume cs, IssuingAlone s b g m th (.preempt a resume) ∧ podCompls s (s.jobOf b.grid) = (s, cs, false)) ∧
    (∃ s b g m th d a sl, IssuingAlone s b g m th (.ldraw d a sl) ∧ populated ((th.reg a).toNat % 2 ^ 39) = true ∧ (th.reg a).toNat % 2 ^ 39 % 8 = 0) ∧
    (∃ s b g m th a, IssuingAlone s b g m th (.rollback a)) ∧
    (∃ s b g m th a d w, IssuingAlone s b g m th (.replay a true) ∧
      openEntries s (fun d w => w.tok d == (th.reg a).toNat % 2 ^ 32) = [(d, w)] ∧
      (∀ c ∈ s.blocks, c.place = 0 ∧ ∀ h ∈ c.groups, h.parked = false ∧ h.held = []) ∧ Still s) ∧
    (∃ (s : State) (x : Shoot) (d : Nat), s.shoots = [x] ∧ x.dies = [d] ∧ x.pkgs = [] ∧ d < 4) ∧
    (∃ (s : State) (b : Block) (g : Group) (m : Member) (th : Thread) (a : Word), s.blocks = [b] ∧ b.place = 0 ∧ b.core = a.toNat % 2 ^ 10 ∧
      a.getLsbD 21 = true ∧ b.groups = [g] ∧ g.parked = true ∧ g.held = [] ∧ g.members = [m] ∧ m.active = true ∧ b.threads = [th] ∧ m.tid = th.tid ∧
      th.parked = [(stopTok, againAcc)] ∧ g.windows = [] ∧ g.idx ≤ g.cnt) ∧
    ∃ (s : State) (target : Nat), target ≠ s.pkg :=
  ⟨⟨_, _, _, _, _, 3, 0, alone _ [] rfl, by decide⟩, ⟨_, _, _, _, _, 3, false, [], alone _ [] rfl, rfl⟩,
   ⟨_, _, _, _, _, 3, 1, 0, alone _ [] rfl, by decide +kernel, by decide +kernel⟩, ⟨_, _, _, _, _, 3, alone _ [] rfl⟩,
   ⟨_, _, _, _, _, 3, 0, { (default : WaitEntry) with index := 5, page := 3 }, aloneV _ [(3, BitVec.ofNat 64 (({ (default : WaitEntry) with index := 5, page := 3 } : WaitEntry).tok 0))] rfl, by decide +kernel,
     fun c h => (by simp [vState, tState] at h; subst h; exact ⟨rfl, fun h hh => (by simp [tBlock, probeBlock] at hh; subst hh; exact ⟨rfl, rfl⟩)⟩), ⟨rfl, rfl, rfl, rfl, rfl, rfl, rfl, rfl, fun _ h => (by cases h),
       fun c h th ht p hp => (by simp [vState, tState] at h; subst h; simp [tBlock] at ht; subst ht; cases hp)⟩⟩,
   ⟨{ tState .nop [] with shoots := [{ (default : Shoot) with dies := [1] }] }, _, _, rfl, rfl, rfl, by decide⟩,
   ⟨{ tState .nop [] with blocks := [sBlock] }, sBlock, { tGroup .nop with parked := true }, tMember, { tThread [] with status := .parked, parked := [(stopTok, againAcc)] }, 0x200000, rfl, rfl, by decide, by decide, rfl, rfl, rfl, rfl, rfl, rfl, rfl, rfl, rfl, by decide⟩,
   ⟨State.reset, 1, by decide +kernel⟩⟩
def hCheck : Bool := match chainOk hState 0 0 65536 0x2000 with
  | (u, .ok true) => match (rollRead u 0 0x2000 64).2 with
    | .ok _ => true
    | _ => false
  | _ => false
theorem wit_rollbackManifest : ∃ s u v p h, s.pend = [p] ∧ p.kind = .engine rollPend ∧ p.acc.x = 0 ∧
    chainOk s (s.jobOf p.who.grid) (lastEpoch s (s.jobOf p.who.grid)) 65536 p.acc.ea.toNat = (u, .ok true) ∧
    rollRead u (s.jobOf p.who.grid) p.acc.ea.toNat 64 = (v, .ok h) := by
  have h : hCheck = true := by decide +kernel
  unfold hCheck at h; split at h
  · next u e => split at h
                · next bs e' => exact ⟨hState, u, _, _, bs, rfl, rfl, rfl, e, Prod.ext rfl e'⟩
                · cases h
  · cases h

/-- A collective descriptor at VA 0 (R320): ID 1, the given OP, one rank, its list at VA 0x100, COUNT 1 from 0x200 to 0x300, 4096-byte
chunks; a RESHARD's one move at VA 0x180. -/
def dBytes (op : Byte) : List Byte :=
  [1, 0, 0, 0, 0, 0, 0, 0, op, 0, 0, 0, 1, 0, 0, 0, 0, 1, 0, 0, 0, 0, 0, 0, 0, 2, 0, 0, 0, 0, 0, 0, 0, 3, 0, 0, 0, 0, 0, 0, 1, 0, 0, 0, 0, 0, 0, 0,
   0, 16, 0, 0] ++ List.replicate 26 0 ++ (if op = 6 then [1, 0, 0x80, 1] else [0, 0, 0, 0]) ++ List.replicate 46 0
def dMem (op : Byte) : Memory := Memory.empty.write 0x10000 (dBytes op)
def qState (i : Instr) (op : Byte) : State := { tState i [(2, 1)] with mem := dMem op }
theorem wholeQ (i : Instr) (op : Byte) (h : entryFault (qState i op) (tBlock i [(2, 1)]) (tGroup i) i = none) :
    Whole (qState i op) (tBlock i [(2, 1)]) (tGroup i) tMember (tThread [(2, 1)]) i :=
  { current := rfl, admitted := h, calm := by simp [tBlock, tThread, probeThread], alone := rfl
    whole := fun x hx => by simp [tGroup, probeGroup] at hx; rw [hx]
    troop := fun x hx _ _ => by rw [List.mem_singleton.mp hx], runs := rfl }
theorem cleanQ (i : Instr) (op : Byte) (h : dropGot (qState i op) (acceptOp (tGroup i)) = qState i op) :
    Clean (qState i op) (tBlock i [(2, 1)]) (tGroup i) (tThread [(2, 1)]) := ⟨⟨fun _ h => (by cases h), fun _ _ h => (by cases h), fun _ => rfl, fun _ h => (by cases h)⟩, h⟩

/-- A collective of that descriptor whose one rank's contribution is staged, and one that awaits nothing more. -/
def tColl (f : Coll → Coll) : Coll :=
  f { (default : Coll) with op := 9, by_ := { (default : EngBy) with grid := probeHandle }, no := 1, d := dBytes 0, ranks := [0], phase := 2 }
def collState (f : Coll → Coll) : State := { tState .nop [] with colls := [tColl f] }
def staged (c : Coll) : Coll := { c with stage := [{ rank := 0, more := 0, off := 0, va := 0x200, n := 4, gran := [5, 0, 0, 0, 0, 0, 0, 0], err := 0 }] }
def ended (c : Coll) : Coll := { c with phase := 4, chunks := [0] }
def resharded (c : Coll) : Coll := { c with phase := 4, d := dBytes 6, kind := 2, notices := [(0, 0)] }
theorem collects (i : Instr) (op : Byte) (kind : Nat) (h0 : leNat (((dBytes op).drop 8).take 1) = 6 ↔ kind = 2)
    (h1 : collBad (dBytes op) = none) (h2 : leNat (((dBytes op).drop 8).take 1) ≠ 4)
    (h3 : RecordIs (qState i op) (tBlock i [(2, 1)]) (tGroup i) (tThread [(2, 1)]) 0 128 (dBytes op))
    (h4 : RecordIs (qState i op) (tBlock i [(2, 1)]) (tGroup i) (tThread [(2, 1)]) (leNat (((dBytes op).drop 16).take 8))
      (2 * leNat (((dBytes op).drop 12).take 2)) [0, 0])
    (h5 : listsBad (qState i op) (theColl (qState i op) (tBlock i [(2, 1)]) (tThread [(2, 1)]) kind 0 (dBytes op) [0] []) = none)
    (h6 : bitOf (leNat (((dBytes op).drop 11).take 1)) 1 = false) :
    Collects (qState i op) (tBlock i [(2, 1)]) (tGroup i) (tThread [(2, 1)]) kind 0 (dBytes op) [0] [] :=
  ⟨rfl, h3, h0, h1, ⟨[0, 0], h4, rfl⟩, fun h => absurd h h2, fun _ => rfl, h5, rfl, h6⟩

theorem collectsColl : Collects (qState (.coll 1 3 0) 0) (tBlock (.coll 1 3 0) [(2, 1)]) (tGroup (.coll 1 3 0)) (tThread [(2, 1)]) 0 0 (dBytes 0) [0] [] :=
  collects _ 0 0 (by decide) (by decide +kernel) (by decide) (recordIs (by decide +kernel) (by decide +kernel)) (recordIs (by decide +kernel) (by decide +kernel))
    (by decide +kernel) (by decide)
theorem collectsReshard : Collects (qState (.reshard 1 2 3 0) 6) (tBlock (.reshard 1 2 3 0) [(2, 1)]) (tGroup (.reshard 1 2 3 0)) (tThread [(2, 1)]) 2 0
    (dBytes 6) [0] [] :=
  collects _ 6 2 (by decide) (by decide +kernel) (by decide) (recordIs (by decide +kernel) (by decide +kernel)) (recordIs (by decide +kernel) (by decide +kernel))
    (by decide +kernel) (by decide)

theorem wit_collectiveIssue : (∃ s b g m th i x k l kind d ranks aux, i = .coll x k l ∧ kind = 0 ∧ Whole s b g m th i ∧ Clean s b g th ∧
      Collects s b g th kind (th.reg x).toNat d ranks aux) ∧
    (∃ s b g m th x y k l d mb ranks, Whole s b g m th (.reshard x y k l) ∧ Clean s b g th ∧ Collects s b g th 2 (th.reg x).toNat d ranks [] ∧
      RecordIs s b g th (leNat ((d.drop 80).take 8)) (32 * leNat ((d.drop 78).take 2)) mb ∧ leNat ((d.drop 78).take 2) = 1 ∧
      (moveAt mb 0).1 < leNat ((d.drop 12).take 2) ∧ (moveAt mb 0).2.1 < leNat ((d.drop 12).take 2) ∧ zeros mb 4 4 = true ∧
      (th.reg y).toNat = s.epoch (s.jobOf b.grid) + 1 ∧ movesClash [moveAt mb 0] = false) ∧
    ∃ s b g m th i, Whole s b g m th i :=
  ⟨⟨_, _, _, _, _, .coll 1 3 0, 1, 3, 0, 0, dBytes 0, [0], [], rfl, rfl, wholeQ _ 0 rfl, cleanQ _ 0 (by decide +kernel), collectsColl⟩,
   ⟨_, _, _, _, _, 1, 2, 3, 0, dBytes 6, List.replicate 32 0, [0], wholeQ _ 6 rfl, cleanQ _ 6 (by decide +kernel), collectsReshard, (recordIs (by decide +kernel) (by decide +kernel)), by decide, by decide, by decide, by decide, by decide +kernel, by decide⟩,
   ⟨_, _, _, _, _, .nop, whole _ [] rfl⟩⟩
theorem wit_collectiveChunk : (∃ (s : State) (c : Coll) (mem : Memory), s.coll? c.op = some c ∧ collRun (collFuel c) s c.op = s ∧ c.kind ≠ 2 ∧ c.phase = 2 ∧
      c.token = none ∧ c.out = [] ∧ c.sfmt ≠ 4 ∧ 0 < c.nchunk ∧ 0 ∉ c.chunks ∧ headsThere c = true ∧ c.csize = 4096 ∧ c.dstLen = 4 ∧
      (∀ n ∈ collNeeds c 0 4, lacks c n = false) ∧ badPiece c (collNeeds c 0 4) = none ∧ chunkWrites s c [] 0 4 = ([(0, [5, 0, 0, 0])], false) ∧
      (let c1 : Coll := { c with out := [(0x300, [5, 0, 0, 0], 0)], outOf := 0 }
       let s1 : State := { s with free := s.free + 2 ^ 18, colls := replaceFirst (fun x => x.op == c.op) (fun _ => c1) s.colls }
       engPuts c.by_ c.op [(0x300, [5, 0, 0, 0], 0)] s1 = ({ s1 with mem := mem }, [], .done))) ∧
    (∃ (s : State) (c : Coll) (r : Nat), s.coll? c.op = some c ∧ c.token = none ∧ c.phase = 4 ∧ c.kind ≠ 2 ∧ c.dtype ≠ 7 ∧ Heard c r ∧ leNat ((c.d.drop 56).take 8) = 0 ∧
      leNat ((c.d.drop 64).take 8) = 0) ∧
    ∃ (s : State) (c : Coll), s.colls = [c] ∧ c.token = none ∧ c.phase = 4 ∧ c.kind = 2 ∧ c.status = 0 ∧ Heard c c.me ∧ (∀ n ∈ c.notices, n.2 = 0) ∧
      leNat ((c.d.drop 56).take 8) = 0 ∧ leNat ((c.d.drop 64).take 8) = 0 :=
  ⟨⟨collState staged, tColl staged, Memory.empty.write 0x10300 [5], rfl, by decide +kernel, by decide, rfl, rfl, rfl, by decide, by decide, by decide,
     by decide, by decide, by decide, by decide +kernel, by decide +kernel, by decide +kernel, by decide +kernel⟩,
   ⟨collState ended, tColl ended, 1, rfl, rfl, rfl, by decide, by decide,
     ⟨fun h => absurd h (by decide), fun q h => absurd (show q ∈ (tColl ended).awaits from h) (by rw [show (tColl ended).awaits = [] by decide +kernel]; simp)⟩,
     by decide, by decide⟩,
   ⟨collState resharded, tColl resharded, rfl, rfl, rfl, rfl, rfl,
     ⟨fun _ => ⟨(0, 0), by decide, by decide⟩, fun q h => absurd (show q ∈ (tColl resharded).awaits from h) (by rw [show (tColl resharded).awaits = [] by decide +kernel]; simp)⟩,
     by decide, by decide, by decide⟩⟩

/-- The small state as a population of one thread (R275), and one with a second block. -/
def pState (i : Instr) : State :=
  { tState i [(4, 0x3F800000), (5, 1)] with grids := [{ probeGrid with l := { probeGrid.l with flags := 5, popcap := 1 } }] }
def p2State (i : Instr) : State := { pState i with blocks := [tBlock i [(4, 0x3F800000), (5, 1)], { tBlock .nop [] with bidx := 1 }] }
theorem wholeP (i : Instr) (h : entryFault (pState i) (tBlock i [(4, 0x3F800000), (5, 1)]) (tGroup i) i = none) :
    Whole (pState i) (tBlock i [(4, 0x3F800000), (5, 1)]) (tGroup i) tMember (tThread [(4, 0x3F800000), (5, 1)]) i :=
  { current := rfl, admitted := h, calm := by simp [tBlock, tThread, probeThread], alone := rfl
    whole := fun x hx => by simp [tGroup, probeGroup] at hx; rw [hx]
    troop := fun x hx _ _ => by rw [List.mem_singleton.mp hx], runs := rfl }
theorem wholeP2 (i : Instr) (h : entryFault (p2State i) (tBlock i [(4, 0x3F800000), (5, 1)]) (tGroup i) i = none) :
    Whole (p2State i) (tBlock i [(4, 0x3F800000), (5, 1)]) (tGroup i) tMember (tThread [(4, 0x3F800000), (5, 1)]) i :=
  { current := rfl, admitted := h, calm := by simp [tBlock, tThread, probeThread], alone := rfl
    whole := fun x hx => by simp [tGroup, probeGroup] at hx; rw [hx]
    troop := fun x hx _ _ => by rw [List.mem_singleton.mp hx], runs := rfl }
def pArr : State := arrived (pState (.resample 3 4 5 7)) (tBlock (.resample 3 4 5 7) [(4, 0x3F800000), (5, 1)]) (tGroup (.resample 3 4 5 7))
  (tThread [(4, 0x3F800000), (5, 1)]) (.resample 3 4 5 7) (sampleOf (tGroup (.resample 3 4 5 7)) (tThread [(4, 0x3F800000), (5, 1)]) 3 4 5 none 7)
theorem wit_population : (∃ s b g m th x k l, Whole s b g m th (.popseed x k l)) ∧
    (∃ s b c g m th o i x y z u k, resamples i = some (x, y, z, u, k) ∧ Whole s b g m th i ∧ Clean s b g th ∧ (s.launchOf b.grid).pop = true ∧
      th.stores = 0 ∧ (∀ n ∈ th.toks, n = 0) ∧ gridPkgs s b.grid = [s.pkg] ∧ (exchOf s b.grid).plan = [] ∧ c ∈ s.blocks ∧ c.grid = b.grid ∧ o ∈ c.threads ∧
      o.status ≠ .exited ∧ o.sample = none ∧ c.bidx ≠ b.bidx) ∧
    (∃ (s u v : State) (b : Block) (g : Group) (m : Member) (th : Thread) (i : Instr) (x y z : Reg) (r : Option Reg) (k : BitVec 3) (gr : Grid)
        (plan : List Child) (ks : List (Child × List Word × Word)),
      resamples i = some (x, y, z, r, k) ∧ Whole s b g m th i ∧ Clean s b g th ∧ (s.launchOf b.grid).pop = true ∧ th.stores = 0 ∧
      (∀ n ∈ th.toks, n = 0) ∧ u = arrived s b g th i (sampleOf g th x y z r k) ∧ u.grid? b.grid = some gr ∧ gr.l.pop = true ∧ gr.decided = false ∧
      gridPkgs u b.grid = [u.pkg] ∧ (exchOf u b.grid).plan = [] ∧ allSampled u b.grid = true ∧ (∃ a ∈ localArrs u b.grid, a.free = false) ∧
      popPlan (localArrs u b.grid) gr.seed gr.gen gr.l.popcap = .ok plan ∧
      gatherKids b.grid (plan.filter fun c => c.copy != 0) u = (v, some ks)) ∧
    ∃ (s : State) (b : Block) (th : Thread) (sm : Sample) (c : Child), s.blocks = [b] ∧ b.threads = [th] ∧ th.sample = some sm ∧
      th.trapAfter = none ∧ c.copy = 0 ∧ c.ppkg = s.pkg ∧ c.pslot = slotIndex b th :=
  ⟨⟨_, _, _, _, _, 1, 3, 0, whole _ [] rfl⟩,
   ⟨_, _, { tBlock .nop [] with bidx := 1 }, _, _, _, tThread [], .resample 3 4 5 7, _, _, _, _, _, rfl, wholeP2 _ rfl,
     ⟨⟨fun _ h => (by cases h), fun _ _ h => (by cases h), fun _ => rfl, fun _ h => (by cases h)⟩, rfl⟩, rfl, rfl, by decide, by decide +kernel, rfl, by simp [p2State], rfl, by simp [tBlock],
     by decide, rfl, by decide⟩,
   ⟨_, pArr, pArr, _, _, _, _, .resample 3 4 5 7, 3, 4, 5, none, 7, _, [{ (default : Child) with rank := 0 }], [], rfl, wholeP _ rfl,
     ⟨⟨fun _ h => (by cases h), fun _ _ h => (by cases h), fun _ => rfl, fun _ h => (by cases h)⟩, rfl⟩, rfl, rfl, by decide, rfl, rfl, rfl, rfl, by decide +kernel, rfl, by decide +kernel,
     ⟨_, by rw [show localArrs pArr _ = [{ slot := 0, pkg := 0, core := 0, free := false, stack := false, lid := 0, w := 1065353216, n := 1, u := none }] by decide +kernel]; exact List.mem_singleton.mpr rfl, rfl⟩,
     rfl, rfl⟩,
   ⟨pArr, _, _, _, default, rfl, rfl, rfl, rfl, rfl, by decide +kernel, by decide +kernel⟩⟩
theorem wit_populationCounts : Weights [0x3F800000, 0x40000000] ∧ 0 < (popUnits [0x3F800000, 0x40000000]).sum ∧
    popFault [{ slot := 0, pkg := 0, core := 0, free := false, stack := false, lid := 0, w := 0x3F800000, n := 1, u := none }] 0 1 = none :=
  ⟨⟨fun w h => (by
      simp only [List.mem_cons, List.not_mem_nil, or_false] at h
      rcases h with rfl | rfl
      · exact ⟨false, 8388608, -23, by decide +kernel, nofun⟩
      · exact ⟨false, 8388608, -22, by decide +kernel, nofun⟩), 0x3F800000, by simp, by decide +kernel⟩, by decide +kernel, by decide +kernel⟩

/- Happenings. -/

/-- The small state with its thread and its grid changed, at cycle now. -/
def hBlock (f : Thread → Thread) : Block := { tBlock .nop [] with threads := [f (tThread [])] }
def jState (f : Thread → Thread) (gf : Grid → Grid) (now : Nat) : State :=
  { tState .nop [] with blocks := [hBlock f], grids := [gf probeGrid], now := now }
def inStatus (st : Status) (t : Thread) : Thread := { t with status := st, until_ := 32 }
def tOld : Pend := { tPend (.fullEmpty 0 8 false) with aged := 2 ^ 24 }
def tLdws : Pend := { tPend (.refresh 0x40 4) with acc := { (default : Acc) with op := .ldws 4, ea := 0x40 } }
theorem wit_issueAndTimer : (∃ (s : State) (core : Nat), ∀ b ∈ s.blocks, b.runs core = false) ∧
    (∃ s core part dt b g, Runs1 (passTime s dt) core part b g ∧ issuable { passTime s dt with issuing := none } b g = true) ∧
    (∃ (s : State) (core bidx grid tid : Nat) (b : Block) (th : Thread), s.block? grid bidx = some b ∧ b.core = core ∧ b.thread? tid = some th ∧
      th.status = .ready ∧ th.readySince + 256 ≤ s.now) ∧
    (∃ (s : State) (core bidx grid tid : Nat) (b : Block) (th : Thread), s.block? grid bidx = some b ∧ b.core = core ∧ b.thread? tid = some th ∧
      th.status = .yielded ∧ th.until_ ≤ s.now) ∧
    (∃ (s : State) (bidx grid : Nat) (b : Block), s.block? grid bidx = some b ∧ b.place = 0 ∧ b.threads.filter Thread.live ≠ [] ∧
      ∀ th ∈ b.threads.filter Thread.live, blockWait th = true ∧ th.readySince + 4096 ≤ s.now) ∧
    (∃ (s : State) (p : Pend) (off n : Nat) (clr : Bool) (b : Block) (th : Thread), s.pend.find? (fun q => q.id == p.id) = some p ∧
      p.kind = .fullEmpty off n clr ∧ s.block? p.who.grid p.who.bidx = some b ∧ b.thread? p.who.tid = some th ∧ p.aged < 2 ^ 24) ∧
    (∃ (s : State) (p : Pend) (off n : Nat) (clr : Bool) (b : Block) (th : Thread), s.pend.find? (fun q => q.id == p.id) = some p ∧
      p.kind = .fullEmpty off n clr ∧ s.block? p.who.grid p.who.bidx = some b ∧ b.thread? p.who.tid = some th ∧ 2 ^ 24 ≤ p.aged) ∧
    (∃ (s : State) (die dt : Nat), ∀ g < 8, wsClock { s with now := s.now + dt } die ≠ 4000 * g ∧ wsClock { s with now := s.now + dt } die ≠ 4000 * g + 960) ∧
    (∃ (s : State) (die dt : Nat), wsClock { s with now := s.now + dt } die = 4000 * 0 ∧ Quiet s ∧ ∀ p ∈ s.pend, ∀ off n, p.kind ≠ .refresh off n) ∧
    ∃ (s : State) (die dt : Nat) (p : Pend) (b : Block) (th : Thread) (n : Nat), wsClock { s with now := s.now + dt } die = 4000 * 0 + 960 ∧
      s.pend = [p] ∧ s.sigHeld = [] ∧ s.scOut = [] ∧ (∀ x ∈ s.bars, x.arrivals = []) ∧ p.acc.op = .ldws n ∧ p.tok < 7 ∧
      p.kind = .refresh (p.acc.ea.toNat % 2 ^ 57) n ∧ s.block? p.who.grid p.who.bidx = some b ∧ b.place = 0 ∧ dieOf b.core = die ∧
      s.thread? p.who = some th ∧ th.status = .issuing ∧ wsBusy { s with now := s.now + dt } die (p.acc.ea.toNat % 2 ^ 57 / 2 ^ 16 % 8) = false ∧
      (let u := { { s with now := s.now + dt } with pend := [{ p with kind := .held }] }; accFaults u b (!th.priv) p.acc = (u, [])) :=
  ⟨⟨State.reset, 0, fun _ h => (by cases h)⟩,
   ⟨tState .nop [], 0, 0, 1, tBlock .nop [], tGroup .nop, ⟨by decide +kernel, rfl, rfl, rfl, rfl, by decide +kernel, by decide +kernel⟩, by decide +kernel⟩,
   ⟨jState (inStatus .ready) id 256, 0, 0, probeHandle, 0, _, inStatus .ready (tThread []), rfl, rfl, rfl, rfl, by decide⟩,
   ⟨jState (inStatus .yielded) id 32, 0, 0, probeHandle, 0, _, inStatus .yielded (tThread []), rfl, rfl, rfl, rfl, by decide⟩,
   ⟨jState (inStatus .formation) id 4096, 0, probeHandle, hBlock (inStatus .formation), rfl, rfl, by decide, by decide +kernel⟩,
   ⟨{ tState .nop [] with pend := [tPend (.fullEmpty 0 8 false)] }, tPend (.fullEmpty 0 8 false), 0, 8, false, tBlock .nop [], tThread [], rfl, rfl,
     rfl, rfl, by decide⟩,
   ⟨{ tState .nop [] with pend := [tOld] }, tOld, 0, 8, false, tBlock .nop [], tThread [], rfl, rfl, rfl, rfl, by decide⟩,
   ⟨State.reset, 0, 5, by decide +kernel⟩,
   ⟨State.reset, 0, 0, by decide +kernel, ⟨fun _ h => (by cases h), fun _ h => (by cases h), fun _ h => (by cases h)⟩, fun _ h => (by cases h)⟩,
   ⟨{ tState .nop [] with pend := [tLdws] }, 0, 960, tLdws, tBlock .nop [], tThread [], 4, by decide +kernel, rfl, rfl, rfl, fun _ h => (by cases h), rfl,
     by decide, rfl, rfl, rfl, rfl, rfl, rfl, by decide +kernel, by decide +kernel⟩⟩

/-- A class queue whose one record waits for the signal at VA 8 of job 0, which holds w (R110, R297). -/
def wSub : Sub := { (default : Sub) with l := { (default : Launch) with nwait := 1, waits := [8] } }
def wwState (w : Nat) : State := { State.reset with queues := [[wSub]], mem := tMem.writeNum 0x130008 8 w, job0Root := 0x100000 }
def overGrid (l : Bool) (g : Grid) : Grid := { g with retired := [0], local_ := l }
def tLine : WcLine := { (default : WcLine) with peer := 2, va := 0x1000, bytes := [(0, 7)], whos := [(0, { (default : Tref) with grid := probeHandle })] }
theorem wit_retire : (∃ s grid bidx b, Retires s grid bidx b) ∧
    (∃ (s : State) (grid : Nat) (g : Grid), s.grid? grid = some g ∧ gridOver s g = false) ∧
    (∃ (s : State) (grid : Nat) (g : Grid), s.grid? grid = some g ∧ gridOver s g = true ∧ g.local_ = true ∧ g.l.ord = false) ∧
    (∃ (s : State) (grid : Nat) (g : Grid), s.grid? grid = some g ∧ gridOver s g = true ∧ g.local_ = false ∧ g.l.ord = false) ∧
    (∃ (s : State) (grid : Nat) (g : Grid) (x : Nat × Nat), s.grid? grid = some g ∧ readyBatch s g = some x) ∧
    (∃ (s : State) (die : Nat) (g : Grid) (t : Ticket), s.grids = [g] ∧ g.ordTok = none ∧ gridTicket s g.handle = some (die, t) ∧ ticketTurn s t = true) ∧
    (∃ (s : State) (core line : Nat) (l : WcLine), (s.core core).wc[line]? = some l ∧ s.withdrawn = false ∧ l.born + 1600 ≤ s.now) ∧
    (∃ (s : State) (cls pos : Nat) (x : Sub), (s.queues.getD cls [])[pos]? = some x ∧ recordFirst s cls pos = true) ∧
    (∃ (s u : State) (cls pos : Nat) (x : Sub), (s.queues.getD cls [])[pos]? = some x ∧ x.token = 0 ∧ recordFirst s cls pos = false ∧ testRecord s x = (u, .met)) ∧
    (∃ (s u : State) (cls pos : Nat) (x : Sub), (s.queues.getD cls [])[pos]? = some x ∧ x.token = 0 ∧ recordFirst s cls pos = false ∧ testRecord s x = (u, .not)) ∧
    ∃ (s u : State) (cls pos : Nat) (x : Sub) (st : Nat), (s.queues.getD cls [])[pos]? = some x ∧ x.token = 0 ∧ recordFirst s cls pos = false ∧
      testRecord s x = (u, .err st) := by
  refine ⟨⟨jState (inStatus .exited) id 0, probeHandle, 0, _, ⟨rfl, rfl, ?_, ?_, ⟨rfl, rfl⟩, ⟨by decide +kernel, by decide +kernel⟩⟩⟩,
   ⟨tState .nop [], probeHandle, _, rfl, by decide +kernel⟩,
   ⟨{ State.reset with grids := [overGrid true probeGrid] }, probeHandle, _, rfl, by decide +kernel, rfl, rfl⟩,
   ⟨{ State.reset with grids := [overGrid false probeGrid] }, probeHandle, _, rfl, by decide +kernel, rfl, rfl⟩,
   ⟨{ jState (fun t => { t with flushes := 1 }) (fun g => { g with l := { g.l with flags := 3 } }) 0 with pend := [] }, probeHandle, _, (1, 0), rfl, by decide +kernel⟩,
   ⟨{ tState .nop [] with grids := [tGrid 3], dies := [(0, { dieInit with tickets := [{ (default : Ticket) with who := { (default : Tref) with grid := probeHandle } }] })] },
     0, _, _, rfl, rfl, rfl, by decide +kernel⟩,
   ⟨{ (tState .nop []).updCore 0 (fun c => { c with wc := [tLine] }) with now := 1600 }, 0, 0, tLine, rfl, rfl, by decide⟩,
   ⟨{ State.reset with queues := [[default, default]] }, 0, 1, default, rfl, by decide +kernel⟩,
   ⟨{ State.reset with queues := [[default]] }, _, 0, 0, _, rfl, rfl, by decide +kernel, rfl⟩,
   ⟨wwState 1, _, 0, 0, wSub, rfl, rfl, by decide +kernel, Prod.ext rfl (by decide +kernel)⟩,
   ⟨wwState (2 ^ 63), _, 0, 0, wSub, 0, rfl, rfl, by decide +kernel, Prod.ext rfl (by decide +kernel)⟩⟩
  · intro th h; simp [hBlock, jState] at h; subst h; rfl
  · intro th h; simp [hBlock, jState] at h; subst h; rfl

def haltGrid (t : Option Nat) (g : Grid) : Grid := { g with halting := t }
def placed (n : Nat) : Block := { tBlock .nop [] with place := n }
/-- A grid with registers, so that its blocks' contexts take room (R306). -/
def roomy (g : Grid) : Grid := { g with l := { g.l with roles := [{ troops := 1, regs := 64, priv := 0 }], sx := 1, sy := 1, sz := 1, scratch := 0, acc := 0, desc := 0 } }
def heldState : State :=
  { (jState id id 0).updCore 0 (fun c => { c with held := [(probeHandle, 0, 2, none)] }) with blocks := [placed 2], preemptCtl := 0x100 }
def tSnap (ph : Nat) : Snap := { (default : Snap) with phase := ph, epoch := 1, fields := List.replicate 64 0 }
def snapState (ph : Nat) : State := { tState .nop [] with snap := some (tSnap ph), mem := tMem, job0Root := 0x100000 }
theorem wit_preempt : (∃ (s : State) (core grid t0 : Nat) (g : Grid) (b : Block), s.grid? grid = some g ∧ g.halting = some t0 ∧ exchOpen s grid = false ∧
      s.blocks = [b] ∧ b.grid = grid ∧ b.core = core ∧ b.place = 0 ∧ s.writes = [] ∧ (s.core core).wc = [] ∧ s.copies = [] ∧ s.table core = []) ∧
    (∃ (s : State) (core t0 : Nat) (b : Block) (g : Grid), s.quiet = false ∧ b ∈ s.blocks ∧ b.core = core ∧ b.place = 0 ∧ s.grid? b.grid = some g ∧
      g.halting = some t0 ∧ t0 + 81200 ≤ s.now ∧ exchOpen s b.grid = false) ∧
    (∃ (s : State) (core grid : Nat) (b : Block), s.blocks = [b] ∧ b.grid = grid ∧ b.core = core ∧ b.place = 1 ∧ cutting s (s.jobOf grid) = false ∧
      0 < footK (s.launchOf grid) ∧
      carveOver s (heldFor (!shelfTaken s core grid) (s.core core) grid b.bidx (footK (s.launchOf grid))) = false) ∧
    (∃ (s : State) (bidx grid n : Nat) (b : Block) (g : Grid), s.block? grid bidx = some b ∧ s.grid? grid = some g ∧ 2 ≤ b.place ∧ g.decided = false ∧
      (s.core b.core).held.filter (fun h => h.1 == grid && h.2.1 == bidx && h.2.2.2.isNone) = [(grid, bidx, n, none)] ∧
      carveFree (s.core b.core) n + n ≤ carveRoom s) ∧
    (∃ (s : State) (sn : Snap) (job : Nat), s.snap = some sn ∧ sn.job = job ∧ sn.phase = 0) ∧
    (∃ (s : State) (sn : Snap), s.snap = some sn ∧ sn.phase ≠ 1) ∧
    ∃ (s s2 s3 : State) (sn : Snap) (job pos loc : Nat), s.snap = some sn ∧ sn.job = job ∧ sn.phase = 1 ∧ sn.pages = [] ∧ sn.ctxs = [] ∧ sn.grids = [] ∧ sn.subs = [] ∧
      sn.units = [] ∧ sn.log = [] ∧
      balanced s sn = true ∧ (jobPkgs s job).head? ≠ some s.pkg ∧ (jobPkgs s job).findIdx (fun p => p == s.pkg) = pos ∧
      sliceTake s sn (sn.parts.flatMap partBytes).length 8 = (s2, some loc) ∧
      slicePut job sn.epoch ((sn.parts.flatMap partBytes).length + 1) loc (soundGrans (sn.parts.flatMap partBytes)) s2 = (s2, none) ∧
      slicePut job sn.epoch 3 (sn.partsVa + 16 * pos) (soundGrans (leBytes loc 8 ++ leBytes sn.parts.length 8)) s2 = (s3, none) :=
  ⟨⟨jState id (haltGrid (some 0)) 0, 0, probeHandle, 0, _, hBlock id, rfl, rfl, by decide +kernel, rfl, rfl, rfl, rfl, rfl, rfl, rfl, rfl⟩,
   ⟨jState id (haltGrid (some 0)) 81200, 0, 0, hBlock id, _, rfl, by simp [jState], rfl, rfl, rfl, rfl, by decide, by decide +kernel⟩,
   ⟨{ jState id roomy 0 with blocks := [placed 1] }, 0, probeHandle, placed 1, rfl, rfl, rfl, rfl, by decide +kernel, by decide +kernel, by decide +kernel⟩,
   ⟨heldState, 0, probeHandle, 2, placed 2, _, rfl, rfl, by decide, rfl, by decide +kernel, by decide +kernel⟩,
   ⟨snapState 0, tSnap 0, 0, rfl, rfl, rfl⟩, ⟨snapState 0, tSnap 0, rfl, by decide⟩,
   ⟨snapState 1, _, _, tSnap 1, 0, 0, _, rfl, rfl, rfl, rfl, rfl, rfl, rfl, rfl, rfl, by decide +kernel, by decide +kernel, by decide +kernel, rfl, rfl,
     Prod.ext rfl (by decide +kernel)⟩⟩

/- R340, R345, R438: what a package writes of a job into its slice, its substitute reads back. -/

def tCtx : SnapCtx :=
  { block := tBlock (.add .w 3 1 2 0) [(1, 5), (2, 0xFFFFFFFF)], pends := [{ (default : Pend) with id := 9, kind := .mwait [4], tok := 3 }], staged := []
    tickets := [(2, { (default : Ticket) with id := 9, seg := 1 })], entries := [{ (default : MEntry) with id := 4, kind := .manchor (-3) }]
    xfers := [], copies := [], colls := [], moved := true }
theorem test_context_back : readBytes (rCtx 0) (itemBytes (wCtx tCtx)) = some tCtx := by decide +kernel
theorem test_context_renumbered : (readBytes (rCtx 100) (itemBytes (wCtx tCtx))).map (fun x => (x.pends.map fun p => (p.id, p.kind), x.entries.map fun e => e.id))
    = some ([(109, .mwait [104])], [104]) := by decide +kernel
theorem test_log_back : logOf 7 4 (logBytes [(0, 1, { (default : Packet) with
      typ := 1, dst := 3, src := 2, pen := true, n := 2, seq := 77, base := 0x4010, data := [5, 6], seals := [1, 2], masks := [0xFF, 0x0F], job := 7 })])
    = [{ (default : Packet) with
      typ := 1, dst := 3, src := 2, pen := true, n := 2, seq := 77, base := 0x4010, data := [5, 6], seals := [1, 2], masks := [0xFF, 0x0F], job := 7 }] := by
  decide +kernel

def copySnap : Snap := { tSnap 1 with pages := [0], fields := leBytes 0x10000 8 ++ leBytes 0x10000 8 ++ List.replicate 48 0 }
theorem pair_of_true {α : Type} {p : α × Bool} (h : p.2 = true) : p = (p.1, true) := Prod.ext rfl h
def copyState : State := { snapState 1 with snap := some copySnap }
set_option maxRecDepth 100000 in
theorem wit_preservation : ∃ (s : State) (job page : Nat) (sn : Snap) (a : Nat) (e : Word) (s1 : State), s.snap = some sn ∧ sn.job = job ∧ sn.phase = 1 ∧
    page ∈ sn.pages ∧ (jobLeaves s job).find? (fun x => x.1 == page) = some (page, a, e) ∧
    putPart s 0 (page * 2 ^ 16) (2 ^ 16) ((List.range 8192).map fun i =>
      (s.mem.read (ptePa e (page * 2 ^ 16) + 8 * i) 8, s.mem.err (ptePa e (page * 2 ^ 16) / 8 + i))) = (s1, true) :=
  ⟨copyState, 0, 0, copySnap, 0x120000, BitVec.ofNat 64 (tPte 0x13), _, rfl, rfl, rfl, by decide, by decide +kernel, pair_of_true (by decide +kernel)⟩

/-- A configuration record that stage 2 takes (R448): magic, revision 1, package number 5, the recovery limit. -/
def okRecord : List Byte := (List.range 1024).map fun i =>
  if i = 0 then 0x51 else if i = 1 then 0x43 else if i = 2 then 0x46 else if i = 3 then 0x47 else if i = 4 then 1 else if i = 16 then 5 else if i = 58 then 1 else 0
def okBoot : BootFindings :=
  { fwSigOk := true, fwVer := 1, slotOk := [true, false], d2dOk := true, stacksOk := true, edramOk := true, keyOk := true, linkUp := List.replicate 16 true }
def bootState : State := { State.reset with cfgSlots := [okRecord, []] }
def faultState : State :=
  { State.reset with dies := [(0, { dieInit with faultq := 0x8000200000, holding := [default] })] }
def tMove (r : Bool) : Move := { (default : Move) with page := 3, repl := r }
def walkState : State := { State.reset with mem := tMem, job0Root := 0x100000 }
theorem wit_upkeep : (∃ (s : State) (die job : Nat) (va : Va) (r a : Nat) (e : Word),
      (s.die die).tlb.find? (fun t => t.job == job && t.page == va.toNat / 2 ^ 16) = none ∧ jobRoot s job = some r ∧
      walk s.mem r va.toNat = .ok (a, e) ∧ pteP e = true ∧ s.aliases = []) ∧
    (∃ (s : State) (die : Nat), s.now < (s.die die).heatAt + 2 ^ 20) ∧
    (∃ (s : State) (die : Nat), (s.die die).heatAt + 2 ^ 20 ≤ s.now) ∧
    (∃ (s : State) (die page : Nat) (m : Move), moveDone s die page false = some m ∧ m.failed = false ∧
      directoryOf s m.job (page * 2 ^ 16) = s.pkg ∧
      directoryOf (shootHere (setLeaf { s with moves := s.moves.filter fun x => x != m } m.job page fun e => pteSet (pteSet e 63 52 m.dst) 23 22 2) m.job page)
        m.job (page * 2 ^ 16) = directoryOf s m.job (page * 2 ^ 16)) ∧
    (∃ (s : State) (die page : Nat) (m : Move), moveDone s die page true = some m ∧ m.failed = false) ∧
    (∃ (s : State) (die : Nat) (r : FRec) (rest : List FRec), Calm s ∧ (s.die die).holding = r :: rest ∧
      bitOf (s.die die).faultq.toNat 39 = true ∧ populated (faultqBase s die) = true ∧ 0x10000 ≤ faultqBase s die ∧
      s.mem.num (faultqBase s die) 8 - s.mem.num (faultqBase s die + 8) 8 < 2 ^ (bits (s.die die).faultq.toNat 43 40 + 6)) ∧
    (∃ (s : State) (die : Nat), (s.die die).holding = [] ∨ bitOf (s.die die).faultq.toNat 39 = false) ∧
    (∃ f : ScrubFindings, f.stack < 8 ∧ f.ce = [] ∧ f.ue = []) ∧
    (∃ (s : State) (f : ScrubFindings) (pa : Nat) (d : BitVec 64), f.stack < 8 ∧ f.ce = [] ∧ f.ue = [(pa, d)] ∧ pa / 2 ^ 36 = f.stack ∧ pa % 8 = 0 ∧
      populated pa = true ∧ (s.die (homeDie pa)).holding.length < 64) ∧
    (∃ (s : State) (f : BootFindings), s.pkgId.getLsbD 12 = false ∧ f.fwSigOk = false) ∧
    (∃ (s : State) (f : BootFindings) (r : List Byte), s.pkgId.getLsbD 12 = false ∧ f.fwSigOk = true ∧ chooseSlot s f = some r ∧ recordOk r = true ∧
      f.keyOk = true ∧ at_ r 20 8 ≤ f.fwVer ∧ f.d2dOk = true ∧ f.stacksOk = true ∧ f.edramOk = true) ∧
    (∃ s : State, s.attest = none ∧ s.mem.num 0x800 8 = 1) ∧ (∃ (s : State) (n : List Byte), Calm s ∧ s.attest = some n) ∧
    (∃ (s : State) (r : Readings), Calm s ∧ ∀ d < 4, 40 ≤ r.slack.getD d 0) ∧
    ∃ s : State, Calm s ∧ s.field.wcount < 2 ^ 64 - 1 ∧ s.flash.length = 2 :=
  ⟨⟨walkState, 0, 0, 0, 0x100000, 0x120000, BitVec.ofNat 64 (tPte 0x13), by decide +kernel, rfl, by rfl, by decide +kernel, rfl⟩,
   ⟨State.reset, 0, by decide +kernel⟩, ⟨{ State.reset with now := 2 ^ 20 }, 0, by decide +kernel⟩,
   ⟨{ State.reset with moves := [tMove false] }, 0, 3, tMove false, rfl, rfl, by decide +kernel, by decide +kernel⟩,
   ⟨{ State.reset with moves := [tMove true] }, 0, 3, tMove true, rfl, rfl⟩,
   ⟨faultState, 0, default, [], ⟨rfl, fun d => by
      by_cases h : d = 0
      · subst h; rfl
      · simp only [State.die, faultState, tget]; rw [if_neg (by simpa using fun e => h e.symm)]; rfl⟩, rfl, by decide +kernel, by decide +kernel, by decide +kernel, by decide +kernel⟩,
   ⟨State.reset, 0, .inl rfl⟩, ⟨{ stack := 0, ue := [], ce := [] }, by decide, rfl, rfl⟩,
   ⟨State.reset, { stack := 0, ue := [(8, 7)], ce := [] }, 8, 7, by decide, rfl, rfl, by decide, by decide, by decide +kernel, by decide +kernel⟩,
   ⟨State.reset, { okBoot with fwSigOk := false }, by decide, rfl⟩,
   ⟨bootState, okBoot, okRecord, by decide, rfl, by decide +kernel, by decide +kernel, rfl, by decide +kernel, rfl, rfl, rfl⟩,
   ⟨{ State.reset with mem := Memory.empty.write 0x800 [1] }, rfl, by decide +kernel⟩, ⟨{ State.reset with attest := some [] }, [], ⟨rfl, fun _ => rfl⟩, rfl⟩,
   ⟨State.reset, { slack := [40, 40, 40, 40], slackAfter := [], eye := [] }, ⟨rfl, fun _ => rfl⟩, by decide⟩,
   ⟨State.reset, ⟨rfl, fun _ => rfl⟩, by decide +kernel, by decide +kernel⟩⟩

/-- A packet from package 2 to this one, the first of its stream; a state whose die 0 holds the translation of page 0 of job 0. -/
def tPacket (f : Packet → Packet) : Packet := f { (default : Packet) with src := 2, base := 0x100 }
def cachedState : State :=
  { walkState with dies := [(0, { dieInit with tlb := [{ job := 0, page := 0, pte := BitVec.ofNat 64 (tPte 0x13) }] })] }
def writeOf (p : Packet) : Packet := { p with typ := 1, n := 1, masks := [0xFF], data := [7], seals := [seal8 [7, 0, 0, 0, 0, 0, 0, 0] 0x100] }
def readOf (p : Packet) : Packet := { p with typ := 3, tspec := 1 }
theorem noArms (d : Nat) : (cachedState.die d).arms = [] := by
  by_cases h : d = 0
  · subst h; rfl
  · simp only [State.die, cachedState, tget]; rw [if_neg (by simpa using fun e => h e.symm)]; rfl
def tKept : Kept := { (default : Kept) with p := { (default : Packet) with dst := 2 }, sent := true }
def tWaits : Kept := { tKept with sent := false }
/-- As many kept packets as a die's link controller holds (R433). -/
def full (n : Nat) : List Kept := List.replicate n tKept
theorem noRoom (n : Nat) (h : 16384 ≤ n) (ks : List Kept) : linkRoom { State.reset with retained := full n ++ ks } 0 = false := by
  have h1 : (tKept.sent && tKept.p.path / 4 == 0 / 4) = true := by decide
  simp only [linkRoom, full, List.filter_append, List.filter_replicate, h1, if_true, List.length_append, List.length_replicate, decide_eq_false_iff_not]
  omega
theorem waitsLast (n : Nat) : ((full n ++ [tWaits]).filter fun x => !x.sent) = [tWaits] := by
  have h1 : (!tKept.sent) = false := by decide
  have h2 : (!tWaits.sent) = true := by decide
  rw [full, List.filter_append, List.filter_replicate, h1]
  simp [h2]
theorem path0 (ks : List Kept) : pathOf { State.reset with retained := ks } = 0 := (by decide +kernel : pathOf State.reset = 0)
theorem wit_packet : (∃ s p, Next s p) ∧
    (∃ (s : State) (p a : Packet), p.dst = s.pkg ∧ p.src ≠ s.pkg ∧ p.vc = 0 ∧ s.withdrawn = false ∧
      2 ^ 31 ≤ (p.seq + 2 ^ 32 - tget 0 s.seqIn (8 * p.src) % 2 ^ 32) % 2 ^ 32 ∧
      s.answers.find? (fun x => x.1 == p.src && x.2.1 == p.seq && p.vc == 0) = some (p.src, p.seq, a)) ∧
    (∃ (s : State) (p : Packet), p.typ ∈ [1, 2, 3, 4, 6, 8, 10, 11, 13] ∧ p.ctlResvd = 0 ∧ p.src ≠ s.pkg) ∧
    (∃ (s : State) (p : Packet), (p.typ = 0 ∨ 14 ≤ p.typ ∨ p.ctlResvd ≠ 0) ∧ s.withdrawn = false) ∧
    (∃ (s : State) (p : Packet) (sn : Snap), p.typ = 12 ∧ p.vc = 3 ∧ p.ctlResvd = 0 ∧ p.src ≠ s.pkg ∧ s.snap = some sn ∧ sn.job = p.job ∧
      sn.epoch % 2 ^ 32 = tfield p 0 4) ∧
    (∃ (s u : State) (p : Packet) (va pa : Nat) (e : Word), p.typ = 1 ∧ tfield p 31 1 = 0 ∧ p.n = 1 ∧ p.masks = [0xFF] ∧ pa % 8 = 0 ∧
      p.seals = [seal8 (leBytes (p.data.getD 0 0).toNat 8) (va / 8 * 8)] ∧ reqLocs s p = (u, [(0, va, .here pa e, false)]) ∧
      Plain u p.job va pa 8 ∧ wEn u.placeWeights = false ∧ u.withdrawn = false) ∧
    (∃ (s u : State) (p : Packet) (va pa : Nat) (e : Word), p.typ = 3 ∧ reqLocs s p = (u, [(0, va, .here pa e, false)]) ∧
      wEn u.placeWeights = false ∧ u.withdrawn = false) ∧
    (∃ (s : State) (a : Packet) (k : Kept), keptFor s a = some k ∧ k.p.host = false ∧ s.fwds = [] ∧ a.typ = 7 ∧ tfield a 5 1 = 0 ∧ tfield a 31 1 = 0 ∧
      s.pend = [] ∧ s.engAsks = [] ∧ s.shoots = [] ∧ (∀ g ∈ s.grids, g.flushSent = none) ∧ ∀ d, (s.die d).tickets = []) ∧
    (∃ (s : State) (k : Kept), s.retained[0]? = some k ∧ k.sent = false) ∧
    (∃ (s : State) (k : Kept), s.retained[0]? = some k ∧ k.at_ + 80000 ≤ s.now ∧ k.sent = true ∧ s.withdrawn = false) ∧
    (∃ (s : State) (p : Packet), p.vc = 0 ∧ s.withdrawn = false ∧ linkRoom s (pathOf s) = false) ∧
    (∃ (s : State) (p : Packet), p.vc = 0 ∧ s.withdrawn = false ∧ linkRoom s (pathOf s) = true) ∧
    (∃ (s : State) (k : Kept), (s.retained.filter fun x => !x.sent) = [k] ∧ s.withdrawn = false ∧ linkRoom s k.p.path = false) ∧
    ∃ (s : State) (k : Kept), (s.retained.filter fun x => !x.sent) = [k] ∧ s.withdrawn = false ∧ linkRoom s k.p.path = true :=
  ⟨⟨State.reset, tPacket writeOf, ⟨by decide +kernel, by decide⟩, .inl (by decide), by decide +kernel, by decide +kernel, rfl, rfl⟩,
   ⟨{ State.reset with seqIn := [(16, 1)], answers := [(2, 0, default)] }, tPacket id, default, by decide +kernel, by decide +kernel, rfl, rfl,
     by decide +kernel, rfl⟩,
   ⟨State.reset, tPacket writeOf, by decide, rfl, by decide +kernel⟩, ⟨State.reset, tPacket id, .inl rfl, rfl⟩,
   ⟨{ State.reset with snap := some (tSnap 1) }, tPacket fun p => { p with typ := 12, vc := 3, tspec := 1 }, tSnap 1, rfl, rfl, rfl, by decide +kernel, rfl, rfl,
     by decide +kernel⟩,
   ⟨cachedState, cachedState, tPacket writeOf, 0x100, 0x130100, BitVec.ofNat 64 (tPte 0x13), rfl, by decide +kernel, rfl, rfl, by decide, by decide +kernel,
     by decide +kernel, ⟨by decide, by decide, fun _ _ _ => rfl, by decide +kernel, by decide +kernel, by decide +kernel, fun _ h => (by cases h), fun d a h => (by rw [noArms d] at h; cases h)⟩,
     by decide +kernel, rfl⟩,
   ⟨cachedState, cachedState, tPacket readOf, 0x100, 0x130100, BitVec.ofNat 64 (tPte 0x13), rfl, by decide +kernel, by decide +kernel, rfl⟩,
   ⟨{ State.reset with retained := [tKept] }, { (default : Packet) with typ := 7, src := 2 }, tKept, by decide +kernel, rfl, rfl, rfl, by decide +kernel, by decide +kernel, rfl, rfl,
     rfl, fun _ h => (by cases h), fun _ => rfl⟩,
   ⟨{ State.reset with retained := [tWaits] }, tWaits, rfl, rfl⟩,
   ⟨{ State.reset with retained := [tKept], now := 80000 }, tKept, rfl, by decide, rfl, rfl⟩,
   ⟨{ State.reset with retained := full 16384 ++ [] }, default, rfl, rfl, by rw [path0]; exact noRoom _ (Nat.le_refl _) []⟩, ⟨State.reset, default, rfl, rfl, by decide +kernel⟩,
   ⟨{ State.reset with retained := full 16384 ++ [tWaits] }, tWaits, waitsLast _, rfl, noRoom _ (Nat.le_refl _) [tWaits]⟩,
   ⟨{ State.reset with retained := [tWaits] }, tWaits, rfl, rfl, by decide +kernel⟩⟩

theorem wit_links : (∃ s : State, s.rejoin = none ∧ s.gap = none ∧ s.withdrawn = true) ∧
    (∃ (s : State) (seq : Nat), s.rejoin = none ∧ s.gap = none ∧ s.withdrawn = false ∧ seq ≤ s.podSeq ∧ s.evKnown ≤ s.podSeq) ∧
    (∃ (s : State) (seq : Nat), s.rejoin = none ∧ s.gap = none ∧ s.withdrawn = false ∧ s.podSeq < seq ∧ s.evBuf = []) ∧
    (∃ (s : State) (link : Nat), link < 16 ∧ linkState s link = 2 ∧ tget 0 s.linkSent link + 800 ≤ s.now) ∧
    (∃ (s : State) (pkg link : Nat), link < 16 ∧ (pkg, link) ∉ s.deaths ∧ pkg = s.pkg ∧ s.retained = []) ∧
    (∃ (s : State) (pkg link : Nat), link < 16 ∧ (pkg, link) ∉ s.deaths ∧ pkg ≠ s.pkg ∧ ∃ j < 16, j ≠ link ∧ (pkg, j) ∉ s.deaths) ∧
    (∃ (s : State) (pkg link : Nat), link < 16 ∧ (pkg, link) ∉ s.deaths ∧ pkg ≠ s.pkg ∧ s.withdrawn = false ∧ ∀ j < 16, j ≠ link → (pkg, j) ∈ s.deaths) ∧
    (∃ (s : State) (link : Nat), link < 16 ∧ linkState s link = 2 ∧ tget 0 s.linkHeard link + 4000 ≤ s.now ∧ s.retained = []) ∧
    (∃ (s : State) (link : Nat), link < 16 ∧ linkState s link = 1 ∧ s.retained = [] ∧ tget 0 s.linkFails link < 2) ∧
    (∃ (s : State) (link : Nat), link < 16 ∧ linkState s link = 3 ∧ s.retained = [] ∧ 2 ≤ tget 0 s.linkFails link) ∧
    (∃ (s : State) (link : Nat), link < 16 ∧ linkState s link = 4) ∧
    (∃ (s : State) (t0 : Nat), s.gap = some (t0, 0) ∧ t0 + 1600 ≤ s.now ∧ t0 + 80000 ≤ s.now ∧ t0 + 800000 ≤ s.now ∧ s.withdrawn = false) ∧
    (∃ (s : State) (target : Nat), target = s.pkg ∧ s.withdrawn = false ∧ s.pkg ∉ s.fenced ∧ 0 ≤ s.podSeq + 1) ∧
    (∃ (s : State) (target : Nat), target ≠ s.pkg) ∧ (∃ s : State, s.withdrawn = true) ∧
    (∃ (s : State) (r : Rejoin) (target origin : Nat), target = s.pkg ∧ s.rejoin = some r ∧ r.phase = 0 ∧ r.asked = some origin ∧ r.chunks.length < imageChunks) ∧
    (∃ m : Mgmt, m.mtype = 0) ∧ (∃ m : Mgmt, 0 < m.mtype ∧ m.mtype < 8) ∧
    (∃ (s : State) (pkgs : List Nat), s.pkgId.getLsbD 12 = true ∧ s.pkg ∈ pkgs ∧ s.pkg < 4096 ∧ s.podPkgs = []) ∧
    (∃ (s : State) (job : Nat), hostGranted s job = false) ∧ ∃ (s : State) (job : Nat), hostGranted s job = true :=
  ⟨⟨{ State.reset with withdrawn := true }, rfl, rfl, rfl⟩, ⟨State.reset, 0, rfl, rfl, rfl, by decide, by decide⟩,
   ⟨State.reset, 1, rfl, rfl, rfl, by decide, rfl⟩, ⟨{ State.reset with linkStat := 2, now := 800 }, 0, by decide, by decide +kernel, by decide⟩,
   ⟨State.reset, 0, 15, by decide, by decide, by decide +kernel, rfl⟩,
   ⟨State.reset, 2, 15, by decide, by decide, by decide +kernel, 0, by decide, by decide, by decide⟩,
   ⟨{ State.reset with deaths := (List.range 15).map fun j => (2, j) }, 2, 15, by decide, by decide, by decide +kernel, rfl, by decide⟩,
   ⟨{ State.reset with linkStat := 2, now := 4000 }, 0, by decide, by decide +kernel, by decide, rfl⟩,
   ⟨{ State.reset with linkStat := 1 }, 0, by decide, by decide +kernel, rfl, by decide⟩,
   ⟨{ State.reset with linkStat := 3, linkFails := [(0, 2)] }, 0, by decide, by decide +kernel, rfl, by decide⟩,
   ⟨{ State.reset with linkStat := 4 }, 0, by decide, by decide +kernel⟩,
   ⟨{ State.reset with gap := some (0, 0), now := 800000 }, 0, rfl, by decide, by decide, by decide, rfl⟩,
   ⟨State.reset, 0, by decide +kernel, rfl, by decide, by decide⟩, ⟨State.reset, 1, by decide +kernel⟩, ⟨{ State.reset with withdrawn := true }, rfl⟩,
   ⟨{ State.reset with rejoin := some { (default : Rejoin) with asked := some 3 } }, _, 0, 3, by decide +kernel, rfl, rfl, rfl, by decide +kernel⟩,
   ⟨default, rfl⟩, ⟨{ (default : Mgmt) with mtype := 7 }, by decide, by decide⟩,
   ⟨{ State.reset with pkgId := 0x1005 }, [5], by decide, by decide +kernel, by decide +kernel, rfl⟩, ⟨State.reset, 0, by decide +kernel⟩,
   ⟨{ State.reset with config := (List.range 64).map fun i => if i = 40 then 1 else 0 }, 0, by decide +kernel⟩⟩

def ev (f : EvHdr → EvHdr) : EvHdr := f { seq := 1, origin := 2, job := 1 }
def gridWords (st : Nat) : List (Nat × Word) := [(0x10000, BitVec.ofNat 64 (st * 2 ^ 53))]
def tPod : PodGrid := { (default : PodGrid) with handle := 0, c := 2 }
def podState (ws : List (Nat × Word)) : State := { State.reset with words := ws, podGrids := [tPod], podPkgs := [0, 2, 3] }
theorem wit_eventReceipt : (∃ i e, eventOf i = some e) ∧ (∃ s : State, s.rejoin = none ∧ s.withdrawn = true) ∧
    (∃ (s : State) (e : Event), s.rejoin = none ∧ s.withdrawn = false ∧ e.seq ≤ s.podSeq) ∧
    (∃ (s : State) (e : Event), s.rejoin = none ∧ s.withdrawn = false ∧ s.podSeq + 1 < e.seq ∧ s.evBuf = [] ∧ s.gap = none) ∧
    (∃ (s : State) (e : Event), s.rejoin = none ∧ s.withdrawn = false ∧ e.seq = s.podSeq + 1 ∧ s.evBuf = [] ∧ mayApply s = true ∧
      (applyEvent { s with evKnown := max s.evKnown e.seq, evBuf := [e] } e).evBuf = [] ∧
      (applyEvent { s with evKnown := max s.evKnown e.seq, evBuf := [e] } e).rejoin = none ∧
      (applyEvent { s with evKnown := max s.evKnown e.seq, evBuf := [e] } e).podSeq = e.seq) ∧
    ∃ (s : State) (e : Event), s.hold = true ∧ e.inHold = false ∧ e.seq % 64 ≠ 0 ∧ s.hook = none ∧ s.withdrawn = false ∧ s.tailFor = [] :=
  ⟨⟨.ticketEvent (ev id), _, rfl⟩, ⟨{ State.reset with withdrawn := true }, rfl, rfl⟩,
   ⟨State.reset, .ticket (ev fun h => { h with seq := 0 }), rfl, rfl, by decide⟩,
   ⟨State.reset, .ticket (ev fun h => { h with seq := 2 }), rfl, rfl, by decide, rfl, rfl⟩,
   ⟨State.reset, .ticket (ev id), rfl, rfl, by decide, rfl, by decide +kernel, by decide +kernel, by decide +kernel, by decide +kernel⟩,
   ⟨{ State.reset with hold := true }, .ticket (ev id), rfl, by decide, by decide, rfl, rfl, rfl⟩⟩
def jobState (w0 w3 : Word) : State := { State.reset with words := [(0x50004, w0), (0x50007, w3)] }
theorem wit_eventEffects : (∃ (s : State) (g : PodGrid), bitOf g.flags 1 = true ∧ mayTake s g = [0, 2]) ∧
    (∃ (s : State) (h : EvHdr) (c : Nat), ∃ d ∈ s.digests, d.1 = c ∧ d.2.1 = h.origin) ∧ (∃ (s : State) (h : EvHdr) (g cls : Nat), h.origin ≠ s.pkg ∧ ringTail s cls - ringHead s cls < 16384 ∧ g < 65536 ∧
      rowState s g = 0 ∧ ∀ x < g, rowState s x ≠ 0) ∧
    (∃ (s : State) (g : PodGrid) (cs : List (Nat × Nat)), placeCores s (mayTake s g) (bitOf g.flags 4) (max 1 g.c) = some cs) ∧
    (∃ (s : State) (pkgs : List Nat) (whole : Bool) (c : Nat) (cs : List (Nat × Nat)), placeCores s pkgs whole c = some cs) ∧
    (∃ (s : State) (g : Nat) (p : PodGrid), s.pod? g = some p ∧ p.admission = none ∧ rowState s g = 1) ∧
    (∃ (s : State) (g : Nat), rowState s g = 0) ∧
    (∃ (s : State) (g : Nat), rowState s g ≠ 0 ∧ ∀ x ∈ rowsOf s g, preemptOn s (rowPkg x.2) = true) ∧
    (∃ (s : State) (g : Nat), gridBlocked s g = false) ∧ (∃ (s : State) (g : Nat), gridBlocked s g = true) ∧
    (∃ (s : State) (h : EvHdr), h.origin ≠ s.pkg) ∧
    (∃ (s : State) (h : EvHdr) (p : Nat), p ∉ s.fenced ∧ (p, h.origin) ∉ s.fenceVotes ∧
      2 * voters s (s.fenceVotes ++ [(p, h.origin)]) p ≤ (livePkgs s).length) ∧
    (∃ (s : State) (h : EvHdr) (p : Nat), p ∉ s.fenced ∧ (p, h.origin) ∉ s.fenceVotes ∧
      (livePkgs s).length < 2 * voters s (s.fenceVotes ++ [(p, h.origin)]) p) ∧
    (∃ (s : State) (h : EvHdr) (p : Nat), p ∉ s.lost ∧ (p, h.origin) ∉ s.lossVotes) ∧
    (∃ (s : State) (p : Nat), p ∉ s.fenced) ∧ (∃ (s : State) (h : EvHdr) (p last : Nat), p ∈ s.fenced ∧ p + 4096 ∉ s.fenceSent ∧ last < h.seq) ∧
    (∃ (s : State) (h : EvHdr), h.origin ∈ s.fenced) ∧
    (∃ (s : State) (h : EvHdr), h.origin ∉ s.fenced ∧ s.digests = [] ∧ s.majority = [] ∧ 2 ≤ (livePkgs s).length ∧ ∃ p ∈ livePkgs s, p ≠ h.origin) ∧
    (∃ (s : State) (h : EvHdr) (e : Nat), s.snap = none ∧ s.pend = [] ∧ s.snapWait = [] ∧ (s.jobWord h.job 3).toNat / 4 % 4 = 1 ∧
      (s.jobWord h.job 3).toNat / 2 ^ 16 = e) ∧
    (∃ (s : State) (h : EvHdr), h.origin ≠ s.pkg ∧ s.snapWait = [] ∧ s.jobWord h.job 0 = 0) ∧
    (∃ (s : State) (h : EvHdr), h.origin ≠ s.pkg ∧ s.snapWait = [] ∧ s.jobWord h.job 0 ≠ 0 ∧ (s.jobWord h.job 3).toNat / 4 % 4 ≠ 1 ∧
      snapBusy s h.job = false ∧ s.pkg ∉ jobPkgs s h.job) ∧
    (∃ (s : State) (h : EvHdr) (va : Va) (pa : Nat), h.origin ≠ s.pkg ∧ 0 < h.job ∧ h.job < 4096 ∧ s.jobWord h.job 0 = 0 ∧
      hwPaRoot s s.job0Root va.toNat = some pa) ∧
    (∃ (s : State) (h : EvHdr), h.origin ≠ s.pkg ∧ 0 < h.job ∧ h.job < 4096 ∧ s.jobWord h.job 0 ≠ 0 ∧ ∀ p ∈ s.podGrids, p.job ≠ h.job) ∧
    ∃ s : State, s.podGrids = [] :=
  ⟨⟨{ walkState with words := [(0x50004, 0x40), (0x50005, 0), (0x50007, 0)], mem := ((tMem.writeNum 0x130042 2 2).writeNum 0x130048 8 0x80).writeNum 0x130080 2 2 }, { (default : PodGrid) with flags := 2, job := 1 }, rfl, by decide +kernel⟩,
   ⟨{ State.reset with digests := [(0, 2, 0, 0)] }, ev id, 0, (0, 2, 0, 0), by simp, rfl, rfl⟩,
   ⟨State.reset, ev id, 0, 0, by decide +kernel, by decide +kernel, by decide, by decide +kernel, fun _ h => absurd h (by omega)⟩,
   ⟨podState [], tPod, [(0, 0), (0, 1)], by decide +kernel⟩, ⟨podState [], [3], false, 1, [(3, 0)], by decide +kernel⟩,
   ⟨podState (gridWords 1), 0, tPod, rfl, rfl, by decide +kernel⟩, ⟨State.reset, 0, by decide +kernel⟩,
   ⟨podState (gridWords 2), 0, by decide +kernel, by decide +kernel⟩, ⟨State.reset, 0, by decide +kernel⟩,
   ⟨podState [(0x10000, BitVec.ofNat 64 (2 ^ 55))], 0, by decide +kernel⟩, ⟨State.reset, ev id, by decide +kernel⟩,
   ⟨podState [], ev id, 3, by decide, by decide, by decide +kernel⟩,
   ⟨{ podState [] with fenceVotes := [(3, 0)] }, ev id, 3, by decide, by decide, by decide +kernel⟩,
   ⟨podState [], ev id, 3, by decide, by decide⟩, ⟨State.reset, 0, by decide⟩,
   ⟨{ podState [] with fenced := [3] }, ev id, 3, 0, by decide, by decide, by decide⟩, ⟨{ podState [] with fenced := [2] }, ev id, by decide⟩,
   ⟨podState [], ev id, by decide, rfl, rfl, by decide +kernel, 0, by decide +kernel, by decide⟩,
   ⟨jobState 64 (BitVec.ofNat 64 (5 * 2 ^ 16 + 4)), ev id, 5, rfl, rfl, rfl, by decide +kernel, by decide +kernel⟩,
   ⟨State.reset, ev id, by decide +kernel, rfl, by decide +kernel⟩,
   ⟨jobState 64 0, ev id, by decide +kernel, rfl, by decide +kernel, by decide +kernel, by decide +kernel, by decide +kernel⟩,
   ⟨walkState, ev id, 0x40, _, by decide +kernel, by decide, by decide, by decide +kernel, rfl⟩,
   ⟨jobState 64 0, ev id, by decide +kernel, by decide, by decide, by decide +kernel, fun _ h => (by cases h)⟩, ⟨State.reset, rfl⟩⟩

/- Encodings, steps and whole-machine rules. -/

theorem wit_decodeEncode : (Instr.add .w 3 1 2 0).wellFormed = true ∧ (Instr.add .w 3 1 2 0).isInstruction = true := by decide +kernel
theorem wit_step : (∃ (s : State) (b : Block) (g : Group) (i : Instr) (n : Nat), s.powered = true ∧ s.cur? = some (b, g) ∧ decode (g.words.drop (g.idx - 1)) = .ok (i, n)) ∧
    (∃ nbits w i n, decode (rowWords nbits w) = .ok (i, n)) ∧
    (∃ (s : State) (i : Instr) (r : List Instr), s.powered = true ∧ s.issuing = none ∧ s.agenda = i :: r ∧ i.isInstruction = false) ∧
    (∃ s : State, s.powered = true ∧ s.issuing = none ∧ s.agenda = []) ∧
    ∃ (s t : State) (b : Block) (va pa : Nat) (user : Bool) (e : Word), va / 2 ^ 48 % 2 ^ 9 ≠ 0x0FF ∧
      translateCode s (dieOf b.core) (s.jobOf b.grid) b.extents va user = (t, .here pa e) ∧ t.mem.badAt pa 4 = none :=
  ⟨⟨tState .nop [], _, _, _, _, rfl, rfl, rfl⟩, ⟨32, 0x14618001, _, _, rfl⟩, ⟨{ State.reset with agenda := [.managementReset] }, _, _, rfl, rfl, rfl, by decide +kernel⟩,
   ⟨State.reset, rfl, rfl, rfl⟩, ⟨tState .nop [], _, tBlock .nop [], 0, 0x10000, true, _, by decide, rfl, by decide +kernel⟩⟩
theorem wit_everyStep : (∃ s : State, s.powered = true) ∧ ∃ s : State, s.powered = false ∧ ∀ f r, s.agenda ≠ .powerOn f :: r :=
  ⟨⟨State.reset, rfl⟩, ⟨{ State.reset with powered := false }, rfl, nofun⟩⟩
theorem wit_canonical : ∃ s t : State, s.mem.wf = true ∧ step s = .next t := ⟨tState .nop [], _, by decide +kernel, rfl⟩
theorem wit_shuffle : ∃ s b g, Issuing s b g (.shfl 3 1 2) := ⟨_, _, _, issuing _ [] rfl⟩
theorem wit_identity : (∃ die cluster pos : Nat, die < 4 ∧ cluster < 52 ∧ pos < 4) ∧ (∃ s b g, Issuing s b g (.mfs 3 2)) ∧
    (∃ s b g th d r, s.cur? = some (b, g) ∧ th ∈ groupThreads b g ∧ th.priv = false ∧ entryDecode s b g (.mfs d r) = none ∧ r.toNat < 3) ∧
    ∃ s b g, Issuing s b g (.mts 2 3) :=
  ⟨⟨3, 51, 3, by decide, by decide, by decide⟩, ⟨_, _, _, issuing _ [] rfl⟩,
   ⟨uState (.mfs 3 2) (fun t => { t with priv := false }), mBlock (.mfs 3 2) (fun t => { t with priv := false }), tGroup (.mfs 3 2),
     uThread (fun t => { t with priv := false }), 3, 2, rfl, by decide +kernel, rfl, rfl, by decide⟩, ⟨_, _, _, issuing _ [] rfl⟩⟩
theorem wit_privilege : (∃ s b g i code, i.isInstruction = true ∧ s.cur? = some (b, g) ∧ entryFault s b g i = some code) ∧
    (∃ (s : State) (b : Block) (g : Group) (th : Thread), th ∈ groupThreads b g ∧ th.priv = false ∧ entryDecode s b g .halt = none) ∧
    (∃ (s : State) (b : Block) (g : Group) (th : Thread), th ∈ groupThreads b g ∧ th.priv = false ∧ entryDecode s b g (.snap 3 1 2 0) = none ∧
      (s.launchOf b.grid).compl ≠ (s.jobWord (s.jobOf b.grid) 1).toNat) ∧
    ∃ (b : Block) (g : Group), ∀ th ∈ groupThreads b g, th.priv = true :=
  ⟨⟨uState .halt (fun t => { t with priv := false }), _, _, .halt, 0x0201, by decide +kernel, rfl, rfl⟩,
   ⟨uState .halt (fun t => { t with priv := false }), mBlock .halt (fun t => { t with priv := false }), tGroup .halt,
     uThread (fun t => { t with priv := false }), by decide +kernel, rfl, rfl⟩,
   ⟨{ uState (.snap 3 1 2 0) (fun t => { t with priv := false }) with grids := [{ probeGrid with l := { probeGrid.l with compl := 8 } }] },
     mBlock (.snap 3 1 2 0) (fun t => { t with priv := false }), tGroup (.snap 3 1 2 0),
     uThread (fun t => { t with priv := false }), by decide +kernel, rfl, by decide +kernel, by decide +kernel⟩,
   ⟨tBlock .nop [], tGroup .nop, by decide +kernel⟩⟩
theorem wit_join : (∃ (s : State) (h : EvHdr) (p last : Nat), p ∈ s.fenced ∧ p + 4096 ∉ s.fenceSent ∧ last < h.seq) ∧
    (∃ (s : State) (p : Nat), p ∉ s.fenced ∨ p + 4096 ∈ s.fenceSent) ∧
    ∃ (s : State) (h : EvHdr) (p last : Nat), p ∈ s.fenced ∧ p + 4096 ∉ s.fenceSent ∧ h.seq ≤ last :=
  ⟨⟨{ podState [] with fenced := [3] }, ev id, 3, 0, by decide, by decide, by decide⟩, ⟨State.reset, 0, .inl (by decide)⟩,
   ⟨{ podState [] with fenced := [3] }, ev id, 3, 1, by decide, by decide, by decide⟩⟩

end Sys2Proof.Tests
end

section
/-! SUPPORT. A table, a core and a die after one of them was set, and an instruction that ends with its lanes untouched. -/

namespace Sys2Proof.Machine

open Sys2Proof

/-- An entry of a table after another or the same entry was set. -/
theorem tget_tset {α : Type} (d x : α) (i j : Nat) : ∀ t : Tab α, tget d (tset t i x) j = if j = i then x else tget d t j
  | [] => by simp [tset, tget, @eq_comm _ i j]
  | (k, v) :: r => by
    by_cases hk : k = i
    · subst hk
      by_cases hj : k = j <;> simp [tset, tget, hj, @eq_comm _ j k]
    · by_cases hj : k = j
      · subst hj
        simp [tset, tget, hk]
      · simp [tset, tget, hk, hj, tget_tset d x i j r]

theorem State.core_updCore (s : State) (i j : Nat) (f : Core → Core) :
    (s.updCore i f).core j = if j = i then f (s.core i) else s.core j := tget_tset ..

theorem State.die_updDie (s : State) (i j : Nat) (f : Die → Die) :
    (s.updDie i f).die j = if j = i then f (s.die i) else s.die j := tget_tset ..

theorem replaceFirst_id {α : Type} (p : α → Bool) : ∀ l : List α, replaceFirst p id l = l
  | [] => rfl
  | x :: r => by by_cases h : p x = true <;> simp [replaceFirst, h, replaceFirst_id p r]

theorem Block.updThread_id (t : Nat) : (fun b : Block => b.updThread t id) = id := by
  funext b
  simp only [Block.updThread, replaceFirst_id, id]

/-- The end of an instruction that has left every block as it was: the state but for the block's progress, every lane's content kept. -/
theorem advanceIn_kept {s s2 : State} {b : Block} {g : Group} {m : Member} {th : Thread} {i : Instr} (h : IssuingAlone s b g m th i)
    (hb : s2.blocks = s.blocks) (n : Nat) (ws : List Window) :
    ∃ b', advanceIn s2 b.grid b.bidx g.gid n ws = (s2.updBlock b.grid b.bidx fun _ => b').idle ∧
      OneLane s (advanceIn s2 b.grid b.bidx g.gid n ws) b g fun _ x x' => x'.content = x.content :=
  advanceIn_lane h id (fun _ => rfl) (by rw [hb, Block.updThread_id, replaceFirst_id]) n ws

end Sys2Proof.Machine
end

section
/-! The system registers (R7, R15, R20, R69, R304, R375): what one reads, and what a write changes of them and of the state. -/

namespace Sys2Proof.Machine

open Sys2Proof Sys2Proof.Rules

theorem coreId_eq (core : Nat) :
    coreId core = BitVec.ofNat 64 (core / 208 * 2 ^ 22 + core % 208 / 4 * 2 ^ 16 + core % 4 * 2 ^ 14 + core) := by
  simp only [coreId, dieOf, Nat.shiftLeft_eq]

theorem dieId_eq (die : Nat) : dieId die = BitVec.ofNat 64 (die + if die = 0 then 4 else 0) := by
  by_cases h : die = 0 <;> simp [dieId, b2n, h]

theorem readSys_eq (s : State) (core r : Nat) : readSys s core r = sysReg s core r := by
  unfold readSys sysReg
  rw [coreId_eq, dieId_eq]
  rfl

/- A write, by the part of the state that holds the register. -/

theorem maskedWord_zero (old v : Word) : maskedWord 0 old v = old := by
  change (v &&& 0#64) ||| (old &&& ~~~0#64) = old
  rw [BitVec.and_zero, BitVec.not_zero, BitVec.and_allOnes, BitVec.zero_or]

theorem maskedWord_allOnes (old v : Word) : maskedWord (BitVec.allOnes 64) old v = v := by
  rw [maskedWord, BitVec.and_allOnes, BitVec.not_allOnes, BitVec.and_zero, BitVec.or_zero]

/-- WS_REFRESH reads no more of a die than the phase of its refresh clock (R74). -/
theorem wsRefresh_updDie (s : State) (i die : Nat) (f : Die → Die) (hf : ∀ d, (f d).wsPhase = d.wsPhase) :
    wsRefresh (s.updDie i f) die = wsRefresh s die := by
  have hp : ((s.updDie i f).die die).wsPhase = (s.die die).wsPhase := by
    rw [State.die_updDie]
    split
    case isTrue h => rw [hf, h]
    case isFalse => rfl
  have hc : wsClock (s.updDie i f) die = wsClock s die := by rw [wsClock, hp, State.updDie_now, wsClock]
  have hw : wsField (s.updDie i f) die = wsField s die := by
    funext q
    unfold wsField wsBusy
    rw [hc]
  rw [wsRefresh, hw, State.updDie_pkgId, wsRefresh]

theorem sysReg_updFaultq (s : State) (core q : Nat) (v : Word) :
    sysReg (s.updDie (dieOf core) fun d => { d with faultq := maskedWord (sysMask 0x010) d.faultq v }) core q =
      if q = 0x010 then maskedWord (sysMask q) (sysReg s core q) v else sysReg s core q := by
  split
  case isTrue h =>
    subst h
    simp only [sysReg, State.die_updDie, dieOf, if_true]
  case isFalse h =>
    unfold sysReg
    split
    case h_5 => exact absurd rfl h
    case h_7 => exact wsRefresh_updDie s _ _ _ fun _ => rfl
    all_goals rfl

theorem sysReg_updPreemptCtl (s : State) (core q : Nat) (v : Word) :
    sysReg { s with preemptCtl := maskedWord (sysMask 0x013) s.preemptCtl v } core q =
      if q = 0x013 then maskedWord (sysMask q) (sysReg s core q) v else sysReg s core q := by
  split
  case isTrue h => subst h; rfl
  case isFalse h =>
    unfold sysReg
    split
    case h_8 => exact absurd rfl h
    all_goals rfl

theorem sysReg_updPlaceWeights (s : State) (core q : Nat) (v : Word) :
    sysReg { s with placeWeights := maskedWord (sysMask 0x014) s.placeWeights v } core q =
      if q = 0x014 then maskedWord (sysMask q) (sysReg s core q) v else sysReg s core q := by
  split
  case isTrue h => subst h; rfl
  case isFalse h =>
    unfold sysReg
    split
    case h_9 => exact absurd rfl h
    all_goals rfl

/-- A core with the performance counter of register r set to v (R20). -/
def withPerf (r : Nat) (v : Word) (k : Core) : Core :=
  { k with
    perfIssue := if r = 0x100 then v else k.perfIssue
    perfStallSp := if r = 0x101 then v else k.perfStallSp
    perfStallMem := if r = 0x102 then v else k.perfStallMem
    perfForm := if r = 0x103 then v else k.perfForm }

theorem sysReg_withPerf (s : State) (core r q : Nat) (v : Word) (hr : r = 0x100 ∨ r = 0x101 ∨ r = 0x102 ∨ r = 0x103) :
    sysReg (s.updCore core (withPerf r v)) core q =
      if q = r then maskedWord (sysMask q) (sysReg s core q) v else sysReg s core q := by
  have hk : (s.updCore core (withPerf r v)).core core = withPerf r v (s.core core) := by rw [State.core_updCore, if_pos rfl]
  split
  case isTrue h =>
    subst h
    have hm : sysMask q = BitVec.allOnes 64 := by rcases hr with rfl | rfl | rfl | rfl <;> rfl
    rw [hm, maskedWord_allOnes]
    rcases hr with rfl | rfl | rfl | rfl <;> simp only [sysReg, hk, withPerf, if_true]
  case isFalse h =>
    unfold sysReg
    split
    case h_6 => rw [hk]; rfl
    case h_11 | h_12 | h_13 | h_14 => rw [hk, withPerf, if_neg (Ne.symm h)]
    all_goals rfl

theorem writePreemptCtl_eq (s : State) (v : Word) :
    writePreemptCtl s v = { s with preemptCtl := maskedWord (sysMask 0x013) s.preemptCtl v
                                   outEvents := s.outEvents ++ enEvent s 0x013 v } := by
  unfold writePreemptCtl enEvent
  by_cases h : v.getLsbD 0 = s.preemptCtl.getLsbD 0
  · rw [if_neg (fun hne => (bne_iff_ne.1 hne) h), if_neg (fun hne => hne.2 h), List.append_nil]
    rfl
  · rw [if_pos (bne_iff_ne.2 h), if_pos ⟨rfl, h⟩]
    rfl

theorem sysReg_writePreemptCtl (s : State) (core q : Nat) (v : Word) :
    sysReg (writePreemptCtl s v) core q = if q = 0x013 then maskedWord (sysMask q) (sysReg s core q) v else sysReg s core q := by
  rw [writePreemptCtl_eq]
  exact sysReg_updPreemptCtl s core q v

theorem writePreemptCtl_kept (s : State) (v : Word) :
    (writePreemptCtl s v).mem = s.mem ∧ (writePreemptCtl s v).blocks = s.blocks ∧
      (writePreemptCtl s v).outEvents = s.outEvents ++ enEvent s 0x013 v := by
  rw [writePreemptCtl_eq]
  exact ⟨rfl, rfl, rfl⟩

theorem writeSys_kept (s : State) (core r : Nat) (v : Word) :
    (writeSys s core r v).mem = s.mem ∧ (writeSys s core r v).blocks = s.blocks ∧
      (writeSys s core r v).outEvents = s.outEvents ++ enEvent s r v := by
  by_cases hr : r = 0x013
  · subst hr
    exact writePreemptCtl_kept s v
  · rw [enEvent, if_neg (fun h => hr h.1), List.append_nil]
    unfold writeSys
    split
    case h_2 => exact absurd rfl hr
    all_goals exact ⟨rfl, rfl, rfl⟩

theorem sysReg_writeSys (s : State) (core r q : Nat) (v : Word) :
    sysReg (writeSys s core r v) core q = if q = r then maskedWord (sysMask q) (sysReg s core q) v else sysReg s core q := by
  unfold writeSys
  split
  case h_1 => exact sysReg_updFaultq s core q v
  case h_2 => exact sysReg_writePreemptCtl s core q v
  case h_3 => exact sysReg_updPlaceWeights s core q v
  case h_4 => exact sysReg_withPerf s core 0x100 q v (by decide)
  case h_5 => exact sysReg_withPerf s core 0x101 q v (by decide)
  case h_6 => exact sysReg_withPerf s core 0x102 q v (by decide)
  case h_7 => exact sysReg_withPerf s core 0x103 q v (by decide)
  case h_8 =>
    split
    case isTrue h =>
      subst h
      have hm : sysMask q = 0 := by rw [sysMask] <;> assumption
      rw [hm, maskedWord_zero]
    case isFalse => rfl

/-- Settles O22: MFS by what a lane-wise instruction does with `readSys_eq`, MTS and PREEMPT_CTL_WRITE by what one write does to each
register (`sysReg_writeSys`) and leaves of the state (`writeSys_kept`). -/
theorem systemRegisterResult : Obligations.SystemRegisterResult := by
  refine ⟨fun s b g d r h => ?_, fun s b g m th r a h => ?_, fun s v => ?_⟩
  · obtain ⟨t, ht, hl⟩ := onLanes_did h (fun b _ _ th => th.setReg d (readSys s b.core r.toNat)) fun _ _ => rfl
    refine ⟨t, ht, ?_⟩
    simpa only [readSys_eq, SetsReg] using hl
  · obtain ⟨hmem, hblocks, hout⟩ := writeSys_kept s b.core r.toNat (th.reg a)
    obtain ⟨b', hend, hlane⟩ := advanceIn_kept h hblocks (Instr.len (.mts r a)) []
    refine ⟨_, runLanes_alone h _ _ rfl rfl, ?_⟩
    rw [hend] at hlane ⊢
    exact ⟨hmem, hout, fun q => sysReg_writeSys s b.core r.toNat q (th.reg a), hlane⟩
  · obtain ⟨hmem, hblocks, hout⟩ := writePreemptCtl_kept s v
    exact ⟨_, rfl, hmem, hblocks, hout, fun c q => sysReg_writePreemptCtl s c q v⟩

end Sys2Proof.Machine
end

section
/-! The identity registers and the state after reset (R14, R15, R69, R290, R304, R313): their layouts, bring-up's write of PKG_ID (R447,
R449), and who may read and write them (R387). -/

namespace Sys2Proof.Machine

open Sys2Proof Sys2Proof.Rules

/- The package core index and the layouts (R14, R15). -/

theorem coreIndex_parts {die cluster pos : Nat} (hc : cluster < 52) (hp : pos < 4) :
    (208 * die + 4 * cluster + pos) / 208 = die ∧ (208 * die + 4 * cluster + pos) % 208 / 4 = cluster ∧
      (208 * die + 4 * cluster + pos) % 4 = pos := by omega

theorem sysReg_coreId {s : State} {die cluster pos : Nat} (hd : die < 4) (hc : cluster < 52) (hp : pos < 4) :
    (sysReg s (208 * die + 4 * cluster + pos) 0).toNat =
      die * 2 ^ 22 + cluster * 2 ^ 16 + pos * 2 ^ 14 + (208 * die + 4 * cluster + pos) := by
  obtain ⟨hdie, hcluster, hpos⟩ := coreIndex_parts (die := die) hc hp
  simp only [sysReg, BitVec.toNat_ofNat, hdie, hcluster, hpos]
  exact Nat.mod_eq_of_lt (by omega)

theorem sysReg_dieId {s : State} {die cluster pos : Nat} (hd : die < 4) (hc : cluster < 52) (hp : pos < 4) :
    (sysReg s (208 * die + 4 * cluster + pos) 1).toNat = (if die = 0 then 4 else 0) + die := by
  obtain ⟨hdie, -, -⟩ := coreIndex_parts (die := die) hc hp
  simp only [sysReg, BitVec.toNat_ofNat, hdie]
  rw [Nat.mod_eq_of_lt (by split <;> omega), Nat.add_comm]

/- Bring-up (R447): no signal wait and no armed counter stands before it is done, so its writes of the bring-up page wake nobody. -/

theorem afterWrite_unwatched {s : State} (hp : s.pend = []) (ha : ∀ i, (s.die i).arms = []) (old : Memory) (pa n : Nat) :
    afterWrite s old pa n = s := by
  refine List.foldl_fixed' (fun i => ?_) _
  simp only [hp, ha, List.any_nil, Bool.or_self, Bool.false_eq_true, if_false]

theorem putPage0_unwatched {s : State} (hp : s.pend = []) (hd : s.dies = []) (o : Nat) (bs : List Byte) :
    putPage0 s o bs = { s with mem := s.mem.write o bs } := by
  have ha (i : Nat) : (State.die { s with mem := s.mem.write o bs } i).arms = [] := by
    change (tget dieInit s.dies i).arms = []
    rw [hd]
    rfl
  exact afterWrite_unwatched (s := { s with mem := s.mem.write o bs }) hp ha s.mem o bs.length

theorem bootDone_pkgId (s : State) (f : BootFindings) (r : List Byte) :
    (bootDone s f r).pkgId = BitVec.ofNat 64 (at_ r 16 2 + 2 ^ 12) := by
  unfold bootDone
  dsimp only
  split
  case isTrue => rw [putPage0_unwatched rfl rfl]
  case isFalse =>
    rw [putPage0_unwatched (o := 0x1000) rfl rfl, putPage0_unwatched rfl rfl]

theorem execPowerOn_ready {s : State} {f : BootFindings} {r : List Byte} (hv : s.pkgId.getLsbD 12 = false) (hfw : f.fwSigOk = true)
    (hslot : chooseSlot s f = some r) (hrec : recordOk r = true) (hkey : f.keyOk = true) (hver : at_ r 20 8 ≤ f.fwVer)
    (hd2d : f.d2dOk = true) (hst : f.stacksOk = true) (hed : f.edramOk = true) : execPowerOn f s = .next (bootDone s f r) := by
  simp only [execPowerOn, hv, hfw, hslot, hrec, hkey, hd2d, hst, hed, Nat.not_lt.2 hver, Bool.and_false, Bool.not_true, Bool.or_self,
    Bool.false_eq_true, if_false]

theorem recordOk_pkg {r : List Byte} (h : recordOk r = true) : at_ r 16 2 < 4096 := by
  simp only [recordOk, Bool.and_eq_true, decide_eq_true_eq] at h
  omega

/- Privilege (R387). -/

/-- An instruction of R387 in a group with a user-mode member, no decode cause before it. -/
theorem entryFault_privCause {s : State} {b : Block} {g : Group} {i : Instr} {th : Thread} {c : Nat} (hth : th ∈ groupThreads b g)
    (hu : th.priv = false) (hdec : entryDecode s b g i = none) (hc : Instr.privCause i = some c) :
    entryFault s b g i = some (0x0200 + c) := by
  have hall : ¬ ((groupThreads b g).all fun th => th.priv) = true := fun h => by
    rw [List.all_eq_true.1 h th hth] at hu
    cases hu
  simp only [entryFault, hdec, entryPriv, if_neg hall, hc, Option.none_or, Option.some_or]

/- A write that RO fields ignore (R7). -/

theorem writeSys_readOnly (s : State) (core : Nat) (v : Word) {r : Nat} (h : sysMask r = 0) : writeSys s core r v = s := by
  unfold writeSys
  split
  case h_8 => rfl
  all_goals exact absurd h (by decide)

theorem sysMask_identity {r : Nat} (h : r < 3) : sysMask r = 0 := by
  interval_cases r <;> rfl

theorem State.cur?_group {s : State} {b : Block} {g : Group} (h : s.cur? = some (b, g)) :
    b.groups.find? (fun x => x.gid == g.gid) = some g := by
  unfold State.cur? at h
  split at h
  case h_1 => cases h
  case h_2 c _ =>
    split at h
    case h_1 => cases h
    case h_2 b' _ =>
      obtain ⟨g', hg, he⟩ := Option.map_eq_some_iff.1 h
      cases he
      have hgid : g.gid = c.gid := by simpa using List.find?_some hg
      rw [hgid]
      exact hg

theorem advanceIn_current {s : State} {b : Block} {g : Group} (h : s.cur? = some (b, g)) (n : Nat) (ws : List Window) :
    advanceIn s b.grid b.bidx g.gid n ws = advance s b g n ws := by
  obtain ⟨hb, -, -⟩ := State.cur?_block h
  simp only [advanceIn, hb, State.cur?_group h]

theorem mapActive_self (b : Block) (g : Group) : mapActive b g (fun _ th => th) = b := by
  refine congrArg (fun ts => { b with threads := ts }) (List.map_id'' (fun th => ?_) b.threads)
  cases g.member? th.tid with
  | none => rfl
  | some m => exact ite_self th

theorem checkLanes_go (s : State) : ∀ ls : List (Member × Thread),
    checkLanes (fun s _ _ => (s, .go)) ls s = (s, ls.map fun l => (l.1, l.2, .go))
  | [] => rfl
  | l :: ls => by simp only [checkLanes, checkLanes_go s ls, List.map_cons]

theorem actLanes_self {act : State → Member → Thread → State × List Window} {s : State} (h : ∀ m th, act s m th = (s, [])) :
    ∀ ls : List (Member × Thread), actLanes act ls s = (s, [])
  | [] => rfl
  | l :: ls => by simp only [actLanes, h, actLanes_self h ls, List.append_nil]

/-- Lanes that all act and leave the state as it was, however many there are: the group only goes on. -/
theorem runLanes_idle {s : State} {b : Block} {g : Group} {i : Instr} (h : Issuing s b g i)
    {act : Block → Group → State → Member → Thread → State × List Window} (ha : ∀ m th, act b g s m th = (s, [])) :
    runLanes i s (fun _ _ s _ _ => (s, .go)) act = onLanes i s fun _ _ _ th => th := by
  rw [runLanes, runLanesThen, onLanes, issue_next h, issue_next h]
  simp [checkLanes_go, List.flatMap_map, List.filterMap_map, actLanes_self ha, parkLanes, trapLanes,
    advanceIn_current h.current, mapActive_self]

/-- MTS of a read-only register changes no lane and nothing else (R7). -/
theorem execMts_readOnly {s : State} {b : Block} {g : Group} {r : BitVec 9} {a : Reg} (h : Issuing s b g (.mts r a))
    (hr : sysMask r.toNat = 0) :
    ∃ t, execMts r a s = .next t ∧ LanesDid s t b g fun _ x x' => x'.content = x.content := by
  rw [execMts, runLanes_idle h fun _ th => by rw [writeSys_readOnly s b.core (th.reg a) hr]]
  exact onLanes_did h _ fun _ _ => rfl

/-- Settles O56: each register and list of `State.reset` read off. -/
theorem resetState : Obligations.ResetState :=
  ⟨rfl, rfl, rfl, rfl, rfl, rfl, rfl, rfl, rfl, rfl⟩

/-- Settles O58: the layouts by the parts of the core index, PKG_ID by what bring-up leaves (`bootDone_pkgId`) and the record's range, MFS
by O22's clause of it, its fault by `entryFault_privCause`, MTS by `execMts_readOnly`. -/
theorem identityRegisters : Obligations.IdentityRegisters := by
  refine ⟨fun s die cluster pos hd hc hp => ⟨sysReg_coreId hd hc hp, sysReg_dieId hd hc hp, rfl⟩, rfl, ?_,
    fun s b g d r _ h => systemRegisterResult.1 s b g d r h, ?_, fun s b g r a hr h => execMts_readOnly h (sysMask_identity hr)⟩
  · intro s f r hv hfw hslot hrec hkey hver hd2d hst hed
    have hpkg := recordOk_pkg hrec
    refine ⟨bootDone s f r, at_ r 16 2, execPowerOn_ready hv hfw hslot hrec hkey hver hd2d hst hed, hpkg, fun _ => ?_⟩
    change (bootDone s f r).pkgId.toNat = _
    rw [bootDone_pkgId, BitVec.toNat_ofNat]
    exact Nat.mod_eq_of_lt (by omega)
  · intro s b g th d r _ hth hu hdec hr
    exact entryFault_privCause hth hu hdec (c := 2) (if_pos (by omega))

end Sys2Proof.Machine
end

section
/-! SUPPORT. Lists after the first entry that meets a test was changed, and the end of an instruction of a group with one active lane, with
what becomes of the lane's status. -/

namespace Sys2Proof.Machine

open Sys2Proof

theorem mem_replaceFirst {α : Type} {p : α → Bool} {f : α → α} {x : α} : ∀ {l : List α}, x ∈ replaceFirst p f l →
    x ∈ l ∨ ∃ y, l.find? p = some y ∧ x = f y
  | y :: r, h => by
    by_cases hp : p y = true
    · rw [replaceFirst, if_pos hp, List.mem_cons] at h
      rcases h with rfl | h
      · exact .inr ⟨y, List.find?_cons_of_pos hp, rfl⟩
      · exact .inl (List.mem_cons_of_mem _ h)
    · rw [replaceFirst, if_neg hp, List.mem_cons] at h
      rw [List.find?_cons_of_neg hp, List.mem_cons, or_assoc]
      exact h.imp_right mem_replaceFirst

theorem mem_replaceFirst_of_mem {α : Type} {p : α → Bool} (f : α → α) {x : α} : ∀ {l : List α}, x ∈ l →
    x ∈ replaceFirst p f l ∨ l.find? p = some x ∧ f x ∈ replaceFirst p f l
  | y :: r, h => by
    by_cases hp : p y = true
    · rw [replaceFirst, if_pos hp, List.find?_cons_of_pos hp]
      rcases List.mem_cons.1 h with rfl | h
      · exact .inr ⟨rfl, List.mem_cons_self⟩
      · exact .inl (List.mem_cons_of_mem _ h)
    · rw [replaceFirst, if_neg hp, List.find?_cons_of_neg hp]
      rcases List.mem_cons.1 h with rfl | h
      · exact .inl List.mem_cons_self
      · exact (mem_replaceFirst_of_mem f h).imp (List.mem_cons_of_mem _) fun ⟨h1, h2⟩ => ⟨h1, List.mem_cons_of_mem _ h2⟩

/-- Only the entry found matters. -/
theorem replaceFirst_found {α : Type} {p : α → Bool} {l : List α} {x : α} (h : l.find? p = some x) (f : α → α) :
    replaceFirst p f l = replaceFirst p (fun _ => f x) l :=
  replaceFirst_congr p f _ l fun y hy => by rw [h] at hy; cases hy; rfl

theorem State.updBlock_found {s : State} {g n : Nat} {b : Block} (h : s.block? g n = some b) (f : Block → Block) :
    s.updBlock g n f = s.updBlock g n fun _ => f b := by
  rw [State.updBlock, replaceFirst_found h]
  rfl

theorem State.updBlock_self {s : State} {g n : Nat} {b : Block} (h : s.block? g n = some b) : (s.updBlock g n fun _ => b) = s := by
  refine (State.updBlock_found h id).symm.trans ?_
  rw [State.updBlock, replaceFirst_id]

theorem State.updBlock_updBlock (s : State) (g n : Nat) (f h : Block → Block) (hf : ∀ x, isBlock g n x = true → isBlock g n (f x) = true) :
    (s.updBlock g n f).updBlock g n h = s.updBlock g n fun x => h (f x) := by
  simp only [State.updBlock, replaceFirst_replaceFirst _ _ _ hf]

theorem Block.mem_updThread {b : Block} {tid : Nat} {f : Thread → Thread} {y : Thread} (h : y ∈ (b.updThread tid f).threads) :
    y ∈ b.threads ∨ ∃ x ∈ b.threads, x.tid = tid ∧ y = f x :=
  (mem_replaceFirst h).imp_right fun ⟨x, hx, he⟩ => ⟨x, List.mem_of_find?_eq_some hx, by simpa using List.find?_some hx, he⟩

theorem Block.mem_updThread_of_ne {b : Block} {tid : Nat} (f : Thread → Thread) {x : Thread} (h : x ∈ b.threads) (hx : x.tid ≠ tid) :
    x ∈ (b.updThread tid f).threads :=
  (mem_replaceFirst_of_mem f h).elim id fun ⟨hf, _⟩ => absurd (by simpa using List.find?_some hf) hx

theorem State.block?_eq_of_blocks {s s2 : State} {grid bidx : Nat} {b c : Block} (hb : s.block? grid bidx = some b)
    (h2 : s2.blocks = replaceFirst (isBlock grid bidx) (fun _ => c) s.blocks) (hc : c.grid = grid ∧ c.bidx = bidx) :
    s2.block? grid bidx = some c := by
  rw [State.block?, h2, find?_replaceFirst _ _ fun _ _ => (isBlock_iff _ _ _).2 hc]
  exact congrArg (Option.map fun _ => c) hb

/-- A thread that waits keeps its status at the end of its instruction and of its clause. -/
theorem movedThread_status {s : State} {b : Block} {g : Group} {n : Nat} {ws : List Window} {th : Thread} (h : th.status ≠ .issuing) :
    (movedThread s b g n ws th).status = th.status := by
  unfold movedThread clauseEndThread
  dsimp only
  cases g.member? th.tid with
  | none => rfl
  | some m =>
    dsimp only
    split
    · rw [if_pos (by simpa using h)]
    · split <;> rfl

/-- `advanceIn` where the block and its group stand in the state and no thread has a TRAP to take. -/
theorem advanceIn_found {s : State} {b : Block} {g : Group} (hb : s.block? b.grid b.bidx = some b)
    (hg : b.groups.find? (fun x => x.gid == g.gid) = some g) (hc : ∀ th ∈ b.threads, th.trapAfter = none) (n : Nat) (ws : List Window) :
    advanceIn s b.grid b.bidx g.gid n ws = (s.updBlock b.grid b.bidx fun _ => advanceBlock s b g n ws).idle := by
  simp only [advanceIn, hb, hg]
  exact advance_calm s b g n ws hc

/-- The lane of an instruction's group in the block that its act has left: the one active lane by f, every other thread as it was. -/
theorem updThread_lanesWent {s s2 : State} {b c : Block} {g : Group} {m : Member} {th : Thread} {i : Instr} (h : IssuingAlone s b g m th i)
    (f : Thread → Thread) (hc : c.threads = (b.updThread th.tid f).threads) (n : Nat) (ws : List Window) :
    LanesWent b (advanceBlock s2 c g n ws) g fun _ x x' => x' = movedThread s2 c g n ws (f x) := by
  have hlane : ∀ x ∈ b.threads, ∀ m', g.member? x.tid = some m' → (m'.active = true ↔ x.tid = th.tid) := by
    intro x hx m' hm'
    obtain ⟨-, hm, ha⟩ := activeLanes_mem h.alone
    constructor
    · intro ha'
      have hmem : (m', x) ∈ activeLanes b g := List.mem_filterMap.2 ⟨x, hx, by simp [hm', ha']⟩
      rw [h.alone, List.mem_singleton] at hmem
      exact congrArg (fun l : Member × Thread => l.2.tid) hmem
    · intro he
      rw [he, hm] at hm'
      cases hm'
      exact ha
  refine ⟨fun x => movedThread s2 c g n ws (if x.tid == th.tid then f x else x), ?_, fun x hx => ?_⟩
  · rw [advanceBlock_threads, hc, updThread_threads h.alone, List.map_map]
    rfl
  · cases hm : g.member? x.tid with
    | none =>
      have hne : x.tid ≠ th.tid := fun e => by simp [e, (activeLanes_mem h.alone).2.1] at hm
      simp [hne, movedThread, hm]
    | some m' =>
      dsimp only
      by_cases ha : m'.active = true
      · simp [ha, (hlane x hx m' hm).1 ha]
      · have hne : x.tid ≠ th.tid := fun e => ha ((hlane x hx m' hm).2 e)
        simp [ha, hne]

theorem LanesWent.mono {b b' : Block} {g : Group} {r r' : Member → Thread → Thread → Prop} (h : LanesWent b b' g r)
    (hr : ∀ m x x', r m x x' → r' m x x') : LanesWent b b' g r' := by
  obtain ⟨F, hF, hw⟩ := h
  refine ⟨F, hF, fun x hx => ?_⟩
  have hx' := hw x hx
  cases hm : g.member? x.tid with
  | none => simpa only [hm] using hx'
  | some m' =>
    simp only [hm] at hx' ⊢
    by_cases ha : m'.active = true
    · rw [if_pos ha] at hx' ⊢
      exact hr _ _ _ hx'
    · rwa [if_neg ha] at hx' ⊢

/-- The end of an instruction whose act has changed its lane by f and the block's bindings: the state but for the block's progress. The lane
keeps the content f gives it, and its status where it waits. -/
theorem advanceIn_laneWent {s s2 : State} {b : Block} {g : Group} {m : Member} {th : Thread} {i : Instr} (h : IssuingAlone s b g m th i)
    (bs : List Bind) (f : Thread → Thread) (hf : ∀ x, (f x).trapAfter = x.trapAfter)
    (hb : s2.blocks = replaceFirst (isBlock b.grid b.bidx) (fun _ => ({ b with binds := bs } : Block).updThread th.tid f) s.blocks)
    (n : Nat) (ws : List Window) :
    ∃ b', advanceIn s2 b.grid b.bidx g.gid n ws = (s2.updBlock b.grid b.bidx fun _ => b').idle ∧
      (s2.updBlock b.grid b.bidx fun _ => b').blocks = replaceFirst (isBlock b.grid b.bidx) (fun _ => b') s.blocks ∧
      b'.shell = ({ b with binds := bs } : Block).shell ∧
      LanesWent b b' g fun _ x x' => x'.content = (f x).content ∧ ((f x).status ≠ .issuing → x'.status = (f x).status) := by
  obtain ⟨hblock, -, -⟩ := State.cur?_block h.current
  have hgroup := State.cur?_group h.current
  let c := ({ b with binds := bs } : Block).updThread th.tid f
  have hcalm : ∀ x ∈ c.threads, x.trapAfter = none := by
    intro x hx
    rcases Block.mem_updThread hx with hx | ⟨y, hy, -, rfl⟩
    · exact h.calm x hx
    · rw [hf]
      exact h.calm y hy
  have he : advanceIn s2 b.grid b.bidx g.gid n ws = (s2.updBlock b.grid b.bidx fun _ => advanceBlock s2 c g n ws).idle :=
    advanceIn_found (b := c) (State.block?_eq_of_blocks hblock hb ⟨rfl, rfl⟩) hgroup hcalm n ws
  refine ⟨advanceBlock s2 c g n ws, he, ?_, advanceBlock_shell s2 c g n ws, ?_⟩
  · exact (congrArg _ hb).trans (replaceFirst_replaceFirst _ (fun _ => c) _ (fun _ _ => isBlock_self c) s.blocks)
  · refine (updThread_lanesWent (s2 := s2) (c := c) h f rfl n ws).mono ?_
    rintro _ _ _ rfl
    exact ⟨movedThread_content .., movedThread_status⟩

theorem OneLane.mono {s t : State} {b : Block} {g : Group} {r r' : Member → Thread → Thread → Prop} (h : OneLane s t b g r)
    (hr : ∀ m x x', r m x x' → r' m x x') : OneLane s t b g r' := by
  obtain ⟨b', hblocks, hidle, hshell, hw⟩ := h
  exact ⟨b', hblocks, hidle, hshell, hw.mono hr⟩

end Sys2Proof.Machine
end

section
/-! SUPPORT. Barriers (R44, R45, R234): a barrier's entry after it was set, an arrival's state, when every thread has arrived, and a departure. -/

namespace Sys2Proof.Machine

open Sys2Proof Sys2Proof.Rules

/- A thread whose accesses are performed (R102). -/

theorem storesBefore_drained {s : State} {b : Block} {th : Thread} (h : Drained s b th) (n : Nat) :
    storesBefore s (trefOf b th) n = false := by
  have hw : ∀ w ∈ s.writes, w.who ≠ trefOf b th := h.writes
  have hl : linesBefore s (trefOf b th) n = false := h.lines n
  rw [storesBefore, hl, Bool.or_false, List.any_eq_false]
  intro w hmem
  simp [hw w hmem]

theorem tget_mem_or {α : Type} (d : α) (i : Nat) : ∀ t : Tab α, tget d t i = d ∨ ∃ e ∈ t, tget d t i = e.2
  | [] => .inl rfl
  | (k, v) :: r => by
    by_cases hk : k = i
    · exact .inr ⟨_, List.mem_cons_self, by simp [tget, hk]⟩
    · rw [show tget d ((k, v) :: r) i = tget d r i by simp [tget, hk]]
      exact (tget_mem_or d i r).imp_right fun ⟨e, he, h⟩ => ⟨e, List.mem_cons_of_mem _ he, h⟩

/-- No write-combining line of a core holds a store of the thread (R119). -/
theorem wc_of_drained {s : State} {b : Block} {th : Thread} (h : Drained s b th) (core : Nat) :
    ∀ l ∈ (s.core core).wc, ∀ w ∈ l.whos, w.2 ≠ trefOf b th := by
  intro l hl w hw he
  rcases tget_mem_or coreInit core s.cores with hc | ⟨e, hmem, hc⟩
  · rw [State.core, hc] at hl
    cases hl
  · rw [State.core, hc] at hl
    have hlines := h.lines (w.1 + 1)
    simp only [linesBefore, Bool.or_eq_false_iff, List.any_eq_false] at hlines
    have hof := hlines.1 e hmem
    simp only [List.any_eq_true, not_exists, not_and] at hof
    refine hof l hl ?_
    simp only [WcLine.of, List.any_eq_true]
    exact ⟨w, hw, by simp [he, trefOf, me]⟩

theorem flushThread_drained {s : State} {b : Block} {th : Thread} (h : Drained s b th) : flushThread s b.core (trefOf b th) = s := by
  have hw : s.writes.filter (fun w => w.who == trefOf b th) = [] :=
    List.filter_eq_nil_iff.2 fun w hmem => by simpa [trefOf, me] using h.writes w hmem
  have hl : (s.core b.core).wc.filter (fun l => l.whos.any fun w => w.2 == trefOf b th) = [] :=
    List.filter_eq_nil_iff.2 fun l hmem => by simpa using fun i hi => wc_of_drained h b.core l hmem (i, trefOf b th) hi rfl
  simp only [flushThread, drainThread, sendOwn, sendLines, hw, hl, List.foldl_nil]

/- A barrier's entry: its generation and its arrivals (R234). -/

theorem State.inst_names (s : State) (k : BarKind) (grid idx n : Nat) :
    (s.inst k grid idx n).kind = k ∧ (s.inst k grid idx n).grid = grid ∧ (s.inst k grid idx n).idx = idx ∧ (s.inst k grid idx n).n = n := by
  unfold State.inst
  cases h : s.bars.find? (isInst k grid idx n) with
  | none => exact ⟨rfl, rfl, rfl, rfl⟩
  | some x => simpa [isInst, and_assoc] using List.find?_some h

theorem State.inst_of_bars {s t : State} {x : BarInst} (h : t.bars = (s.setInst x).bars) : t.inst x.kind x.grid x.idx x.n = x := by
  have hx : isInst x.kind x.grid x.idx x.n x = true := by simp [isInst]
  have hold : (s.bars.filter fun y => !isInst x.kind x.grid x.idx x.n y).find? (isInst x.kind x.grid x.idx x.n) = none :=
    List.find?_eq_none.2 fun y hy => by simpa using (List.mem_filter.1 hy).2
  rw [State.inst, h, State.setInst, List.find?_append, hold, List.find?_singleton, if_pos hx]
  rfl

/-- As `State.inst_of_bars`, for the barrier of a kind and number that a block uses. -/
theorem State.inst_set {s t : State} {b : Block} {k : BarKind} {n : Nat} {x : BarInst} (h : t.bars = (s.setInst x).bars)
    (hx : x.kind = k ∧ x.grid = b.grid ∧ x.idx = barIdx k b ∧ x.n = n) : t.inst k b.grid (barIdx k b) n = x := by
  obtain ⟨rfl, hgrid, hidx, rfl⟩ := hx
  rw [← hgrid, ← hidx]
  exact State.inst_of_bars h

/- Arrivals. -/

/-- The barrier with the arrival of one more thread. -/
def counted (s : State) (b : Block) (tid : Nat) (k : BarKind) (n : Nat) : BarInst :=
  { s.inst k b.grid (barIdx k b) n with
    arrivals := (s.inst k b.grid (barIdx k b) n).arrivals ++ [(b.bidx, tid)], mark := s.nextId }

theorem counted_names (s : State) (b : Block) (tid : Nat) (k : BarKind) (n : Nat) :
    (counted s b tid k n).kind = k ∧ (counted s b tid k n).grid = b.grid ∧ (counted s b tid k n).idx = barIdx k b ∧ (counted s b tid k n).n = n :=
  s.inst_names k b.grid (barIdx k b) n

/-- The block after the arrival, its thread changed by w. -/
def arrivedBlock (s : State) (b : Block) (tid : Nat) (k : BarKind) (n : Nat) (w : Thread → Thread) : Block :=
  (arrivedAt k b tid n (s.inst k b.grid (barIdx k b) n).gen).updThread tid w

/-- The state after the arrival. -/
def arrivedState (s : State) (b : Block) (tid : Nat) (k : BarKind) (n : Nat) (w : Thread → Thread) : State :=
  (s.setInst (counted s b tid k n)).updBlock b.grid b.bidx fun _ => arrivedBlock s b tid k n w

/-- An arrival of a thread whose accesses are performed: the barrier counts it, the bindings of a block barrier take note of it. -/
theorem arrive_updThread {s : State} {b : Block} {th : Thread} (hb : s.block? b.grid b.bidx = some b) (hd : Drained s b th) (k : BarKind)
    (n : Nat) (w : Thread → Thread) : (arrive s b th k n).updThread (trefOf b th) w = arrivedState s b th.tid k n w := by
  let u := s.setInst (counted s b th.tid k n)
  have hu : u.block? b.grid b.bidx = some b := hb
  have ha : arrive s b th k n = u.updBlock b.grid b.bidx fun _ => arrivedAt k b th.tid n (s.inst k b.grid (barIdx k b) n).gen := by
    simp only [arrive, flushThread_drained hd]
    by_cases hk : k = .block
    · subst hk
      exact State.updBlock_found hu _
    · rw [if_neg hk, arrivedAt, if_neg hk]
      exact (State.updBlock_self hu).symm
  rw [ha]
  exact State.updBlock_updBlock u _ _ _ _ fun _ _ => isBlock_self b

/-- After the arrival of a thread all have arrived where none is missing (R44). -/
theorem all_arrived_iff {s : State} {b : Block} {tid : Nat} {k : BarKind} {n : Nat} {w : Thread → Thread}
    (hb : s.block? b.grid b.bidx = some b) (hw : ∀ x, (w x).tid = x.tid) :
    (∀ c ∈ barBlocks (arrivedState s b tid k n w) k b.grid (barIdx k b), ∀ y ∈ c.threads,
        y.status = .exited ∨ (c.bidx, y.tid) ∈ (counted s b tid k n).arrivals) ↔ ¬missing s k b n tid := by
  have hcounted : ∀ a, a ∈ (counted s b tid k n).arrivals ↔ a ∈ (s.inst k b.grid (barIdx k b) n).arrivals ∨ a = (b.bidx, tid) := by
    simp [counted]
  simp only [barBlocks, List.mem_filter, hcounted]
  constructor
  · rintro hall ⟨c, hc, x, hx, hlive, hnot, hne⟩
    obtain ⟨hc, hidx⟩ := List.mem_filter.1 hc
    rcases mem_replaceFirst_of_mem (fun _ => arrivedBlock s b tid k n w) hc with hc' | ⟨hfound, hc'⟩
    · exact (hall c ⟨hc', hidx⟩ x hx).elim hlive (fun h => h.elim hnot hne)
    · obtain rfl : b = c := by simpa [hb] using hb.symm.trans hfound
      have hx' : x ∈ (arrivedBlock s b tid k n w).threads := Block.mem_updThread_of_ne w hx fun e => hne (by rw [e])
      exact (hall _ ⟨hc', hidx⟩ x hx').elim hlive (fun h => h.elim hnot hne)
  · rintro hmiss c ⟨hc, hidx⟩ y hy
    have hold : ∀ c ∈ s.blocks, (c.grid == b.grid && barIdx k c == barIdx k b) = true → ∀ y ∈ c.threads,
        y.status = .exited ∨ (c.bidx, y.tid) ∈ (s.inst k b.grid (barIdx k b) n).arrivals ∨ (c.bidx, y.tid) = (b.bidx, tid) := by
      intro c hc hidx y hy
      by_contra hno
      simp only [not_or] at hno
      exact hmiss ⟨c, List.mem_filter.2 ⟨hc, hidx⟩, y, hy, hno.1, hno.2.1, hno.2.2⟩
    rcases mem_replaceFirst hc with hc | ⟨b', hfound, rfl⟩
    · exact hold c hc hidx y hy
    · rcases Block.mem_updThread hy with hy | ⟨x, -, rfl, rfl⟩
      · exact hold b (List.mem_of_find?_eq_some hb) hidx y hy
      · exact .inr (.inr (by rw [hw]; rfl))

theorem allArrived_iff (s : State) (x : BarInst) : allArrived s x = true ↔
    x.arrivals ≠ [] ∧ (x.kind = .grid → ∀ g, s.grid? x.grid = some g → g.todo = []) ∧
      ∀ c ∈ barBlocks s x.kind x.grid x.idx, ∀ y ∈ c.threads, y.status = .exited ∨ (c.bidx, y.tid) ∈ x.arrivals := by
  have htodo : (x.kind != .grid || ((s.grid? x.grid).map fun g => g.todo.isEmpty).getD true) = true ↔
      (x.kind = .grid → ∀ g, s.grid? x.grid = some g → g.todo = []) := by
    cases s.grid? x.grid with
    | none => simp
    | some g => simp [Decidable.imp_iff_not_or (a := x.kind = .grid)]
  simp only [allArrived, Bool.and_eq_true, htodo, and_assoc]
  simp [List.all_eq_true]

/-- The last arrival of a grid barrier of a grid on this package alone that is not ordered completes it (R44, R236). -/
theorem tryGrid_alone {s : State} {x : BarInst} (hp : (gridPeers s x.grid).isEmpty = true) (ho : s.ordered x.grid = false) :
    tryGrid s x = departAll s x := by
  have htell : tellGrid s x.grid (tellArrived x.n) (x.gen + 1) (highFlush s x) = s := by
    unfold tellGrid
    cases s.grid? x.grid with
    | none => rfl
    | some g => exact if_pos (by rw [hp]; rfl)
  have hready : peersReady s x (tellArrived x.n) = true := by
    unfold peersReady
    cases s.grid? x.grid with
    | none => rfl
    | some g => rw [List.isEmpty_iff.1 hp]; rfl
  simp [tryGrid, htell, hready, ho]

/-- With a thread missing the barrier stays as the arrival left it. -/
theorem tryInst_missing {s : State} {b : Block} {tid : Nat} {k : BarKind} {n : Nat} {w : Thread → Thread}
    (hb : s.block? b.grid b.bidx = some b) (hw : ∀ x, (w x).tid = x.tid) (hm : missing s k b n tid) :
    tryInst (arrivedState s b tid k n w) (counted s b tid k n) = arrivedState s b tid k n w := by
  obtain ⟨hkind, hgrid, hidx, -⟩ := counted_names s b tid k n
  have hnot : allArrived (arrivedState s b tid k n w) (counted s b tid k n) = false := by
    rw [Bool.eq_false_iff, ne_eq, allArrived_iff, hkind, hgrid, hidx, all_arrived_iff hb hw]
    exact fun h => h.2.2 hm
  simp [tryInst, hnot]

/-- With none missing and the stores of the arrived performed it completes. -/
theorem tryInst_last {s : State} {b : Block} {th : Thread} {k : BarKind} {n : Nat} {w : Thread → Thread}
    (hb : s.block? b.grid b.bidx = some b) (hd : Drained s b th) (hw : ∀ x, (w x).tid = x.tid) (hm : ¬missing s k b n th.tid)
    (hg : k = .grid → s.ordered b.grid = false ∧ (gridPeers s b.grid).isEmpty = true ∧ ∀ gr, s.grid? b.grid = some gr → gr.todo = [])
    (ho : ∀ a ∈ (s.inst k b.grid (barIdx k b) n).arrivals, storesBefore s { grid := b.grid, bidx := a.1, tid := a.2 } s.nextId = false) :
    tryInst (arrivedState s b th.tid k n w) (counted s b th.tid k n) = departAll (arrivedState s b th.tid k n w) (counted s b th.tid k n) := by
  obtain ⟨hkind, hgrid, hidx, -⟩ := counted_names s b th.tid k n
  have hall : allArrived (arrivedState s b th.tid k n w) (counted s b th.tid k n) = true := by
    rw [allArrived_iff, hkind, hgrid, hidx, all_arrived_iff hb hw]
    exact ⟨by simp [counted], fun h => (hg h).2.2, hm⟩
  have hout : arrivalsOut (arrivedState s b th.tid k n w) (counted s b th.tid k n) = true := by
    rw [arrivalsOut, List.all_eq_true]
    intro a ha
    rw [hgrid]
    have hstores : storesBefore s { grid := b.grid, bidx := a.1, tid := a.2 } s.nextId = false := by
      rcases List.mem_append.1 ha with ha | ha
      · exact ho a ha
      · rw [List.mem_singleton.1 ha]
        exact storesBefore_drained hd s.nextId
    exact congrArg (!·) hstores
  rw [tryInst, hall, hout]
  cases k with
  | block => simp [hkind]
  | gang => simp [hkind]
  | grid =>
    obtain ⟨hord, hpeers, -⟩ := hg rfl
    simp only [hkind]
    exact tryGrid_alone (by rw [hgrid]; exact hpeers) (by rw [hgrid]; exact hord)

/- Departures. -/

/-- A block as a completion leaves it. -/
def departedBlock (s : State) (x : BarInst) (c : Block) : Block :=
  if c.grid == x.grid && barIdx x.kind c == x.idx then
    { c with threads := c.threads.map (departThread s c x.kind x.n x.gen)
             binds := if x.kind = .block then bindsAfter c.binds x.n x.gen else c.binds }
  else c

theorem departAll_blocks (s : State) (x : BarInst) : (departAll s x).blocks = s.blocks.map (departedBlock s x) := rfl

theorem departedBlock_shape (s : State) (x : BarInst) (c : Block) : (departedBlock s x c).grid = c.grid ∧
    (departedBlock s x c).bidx = c.bidx ∧ (departedBlock s x c).groups = c.groups ∧ ∀ k, barIdx k (departedBlock s x c) = barIdx k c := by
  unfold departedBlock
  split
  · exact ⟨rfl, rfl, rfl, fun k => by cases k <;> rfl⟩
  · exact ⟨rfl, rfl, rfl, fun _ => rfl⟩

theorem departThread_bar (s : State) (b : Block) (k : BarKind) (n gen : Nat) (th : Thread) :
    (departThread s b k n gen th).bar ≠ some (k, n, gen) := by
  unfold departThread
  by_cases h : waitsBar k n gen th = true
  · simp [h]
  · have hbar : th.bar ≠ some (k, n, gen) := by simpa [waitsBar] using h
    rw [if_neg h]
    split <;> exact hbar

theorem departThread_trap (s : State) (b : Block) (k : BarKind) (n gen : Nat) (th : Thread) :
    (departThread s b k n gen th).trapAfter = th.trapAfter := by
  unfold departThread
  split
  · rfl
  · split <;> rfl

/-- No thread of the blocks that the barrier counts waits on the generation that is over. -/
theorem departedBlock_bar {s : State} {x : BarInst} {c : Block} (hg : c.grid = x.grid) (hi : barIdx x.kind c = x.idx) :
    ∀ y ∈ (departedBlock s x c).threads, y.bar ≠ some (x.kind, x.n, x.gen) := by
  intro y hy
  rw [departedBlock, if_pos (by simp [hg, hi])] at hy
  obtain ⟨z, -, rfl⟩ := List.mem_map.1 hy
  exact departThread_bar _ _ _ _ _ _

theorem departedBlock_trap {s : State} {x : BarInst} {c : Block} (h : ∀ th ∈ c.threads, th.trapAfter = none) :
    ∀ th ∈ (departedBlock s x c).threads, th.trapAfter = none := by
  intro y hy
  unfold departedBlock at hy
  split at hy
  · obtain ⟨z, hz, rfl⟩ := List.mem_map.1 hy
    rw [departThread_trap]
    exact h z hz
  · exact h y hy

theorem State.block?_departAll (s : State) (x : BarInst) (grid bidx : Nat) :
    (departAll s x).block? grid bidx = (s.block? grid bidx).map (departedBlock s x) := by
  rw [State.block?, departAll_blocks, List.find?_map]
  refine congrArg (Option.map _) (congrArg (List.find? · s.blocks) (funext fun c => ?_))
  obtain ⟨hgrid, hbidx, -, -⟩ := departedBlock_shape s x c
  simp only [Function.comp, isBlock, hgrid, hbidx]

/- BAR, GBAR and GRBAR, BARA, BARW (R234). -/

theorem exec_barrier {i : Instr} {k : BarKind} {n : BitVec 4} (h : barriers i = some (k, n)) (s : State) : exec i s = arriveWait i k n s := by
  unfold barriers at h
  split at h <;> cases h <;> rfl

/-- The check of an arrival that R235 admits. -/
theorem arriveCheck_go {s : State} {b : Block} {th : Thread} {k : BarKind} {n : Nat} (h : MayArrive s b th k n) :
    arriveCheck b k n s th = (s, .go) := by
  have hgrid : ¬(k = .grid ∧ (s.launchOf b.grid).cores_ = false) := fun ⟨hk, hc⟩ => by simp [h.grid hk] at hc
  have hfresh : (s.inst k b.grid (barIdx k b) n).arrivals.contains (b.bidx, th.tid) = false := by simpa using h.fresh
  rw [arriveCheck, if_neg (by simpa using hgrid), hfresh]
  rfl

/-- A thread as it waits in BARRIER. -/
def atBarrier (now : Nat) (k : BarKind) (n gen : Nat) (th : Thread) : Thread :=
  { th with status := .barrier, bar := some (k, n, gen), readySince := now }

theorem arriveWait_next {s : State} {b : Block} {g : Group} {m : Member} {th : Thread} {i : Instr} {k : BarKind} {n : BitVec 4}
    (h : IssuingAlone s b g m th i) (ha : MayArrive s b th k n.toNat) : ∃ now,
    let u := arrivedState s b th.tid k n.toNat (atBarrier now k n.toNat (s.inst k b.grid (barIdx k b) n.toNat).gen)
    arriveWait i k n s = .next (advanceIn (tryInst u (counted s b th.tid k n.toNat)) b.grid b.bidx g.gid (Instr.len i) []) := by
  obtain ⟨hb, -, -⟩ := State.cur?_block h.current
  refine ⟨(arrive s b th k n.toNat).now, ?_⟩
  let w := atBarrier (arrive s b th k n.toNat).now k n.toNat (s.inst k b.grid (barIdx k b) n.toNat).gen
  have hact := arrive_updThread hb ha.drained k n.toNat w
  have hinst : (arrivedState s b th.tid k n.toNat w).inst k b.grid (barIdx k b) n.toNat = counted s b th.tid k n.toNat :=
    State.inst_set rfl (counted_names s b th.tid k n.toNat)
  rw [arriveWait, runLanesThen_alone h _ _ _ (arriveCheck_go ha) (congrArg (·, []) hact)]
  simp only [hinst, w]

/-- The end of an instruction that has only arrived. -/
theorem advanceIn_arrived {s : State} {b : Block} {g : Group} {m : Member} {th : Thread} {i : Instr} (h : IssuingAlone s b g m th i)
    (k : BarKind) (n : Nat) {w : Thread → Thread} (hw : ∀ x, (w x).trapAfter = x.trapAfter) (len : Nat) :
    let t := advanceIn (arrivedState s b th.tid k n w) b.grid b.bidx g.gid len []
    t.mem = s.mem ∧ t.pend = s.pend ∧ t.inst k b.grid (barIdx k b) n = counted s b th.tid k n ∧
      OneLane s t (arrivedAt k b th.tid n (s.inst k b.grid (barIdx k b) n).gen) g fun _ y y' =>
        y'.content = (w y).content ∧ ((w y).status ≠ .issuing → y'.status = (w y).status) := by
  let gen := (s.inst k b.grid (barIdx k b) n).gen
  obtain ⟨b', he, hblocks, hshell, hlanes⟩ := advanceIn_laneWent (s2 := arrivedState s b th.tid k n w) h
    (arrivedAt k b th.tid n gen).binds w hw rfl len []
  dsimp only
  rw [he]
  exact ⟨rfl, rfl, State.inst_set rfl (counted_names s b th.tid k n), b', hblocks, rfl, hshell, hlanes⟩

/-- The end of an instruction after which the barrier has completed: every block goes on with nothing of it waiting. -/
theorem advanceIn_departed {u : State} {b c : Block} {g : Group} {x : BarInst} (hc : u.block? b.grid b.bidx = some c)
    (hg : c.groups.find? (fun y => y.gid == g.gid) = some g) (hcalm : ∀ th ∈ c.threads, th.trapAfter = none) (len : Nat) :
    let t := advanceIn (departAll u x) b.grid b.bidx g.gid len []
    t.mem = u.mem ∧ t.pend = u.pend ∧ t.bars = (u.setInst { x with gen := x.gen + 1, arrivals := [], full := false }).bars ∧
      ∀ d ∈ t.blocks, d.grid = x.grid → barIdx x.kind d = x.idx → ∀ y ∈ d.threads, y.bar ≠ some (x.kind, x.n, x.gen) := by
  let v := departAll u x
  let c' := departedBlock u x c
  obtain ⟨hgrid, hbidx, hgroups, -⟩ := departedBlock_shape u x c
  obtain ⟨hcgrid, hcbidx⟩ := State.block?_name hc
  have hv : v.block? b.grid b.bidx = some c' := by rw [State.block?_departAll, hc]; rfl
  have he : advanceIn v b.grid b.bidx g.gid len [] = (v.updBlock b.grid b.bidx fun _ => advanceBlock v c' g len []).idle := by
    have hname : c'.grid = b.grid ∧ c'.bidx = b.bidx := ⟨hgrid.trans hcgrid, hbidx.trans hcbidx⟩
    rw [← hname.1, ← hname.2] at hv ⊢
    exact advanceIn_found hv (by rw [hgroups]; exact hg) (departedBlock_trap hcalm) len []
  dsimp only
  rw [he]
  refine ⟨rfl, rfl, rfl, fun d hd hdg hdi => ?_⟩
  have hold : ∀ d ∈ v.blocks, d.grid = x.grid → barIdx x.kind d = x.idx → ∀ y ∈ d.threads, y.bar ≠ some (x.kind, x.n, x.gen) := by
    intro d hd hdg hdi
    obtain ⟨d0, -, rfl⟩ := List.mem_map.1 hd
    obtain ⟨hg0, -, -, hi0⟩ := departedBlock_shape u x d0
    exact departedBlock_bar (hg0.symm.trans hdg) ((hi0 _).symm.trans hdi)
  rcases mem_replaceFirst hd with hd | ⟨_, -, rfl⟩
  · exact hold d hd hdg hdi
  · intro y hy
    rw [advanceBlock_threads] at hy
    obtain ⟨z, hz, rfl⟩ := List.mem_map.1 hy
    have hbar : (movedThread v c' g len [] z).bar = z.bar := congrArg (·.bar) (movedThread_content v c' g len [] z)
    rw [hbar]
    have hshell := advanceBlock_shell v c' g len []
    exact hold c' (List.mem_of_find?_eq_some hv) ((congrArg Block.grid hshell).symm.trans hdg)
      ((congrArg (barIdx x.kind) hshell).symm.trans hdi) z hz

/-- BAR, GBAR or GRBAR with a thread missing. -/
theorem exec_barrier_missing {s : State} {b : Block} {g : Group} {m : Member} {th : Thread} {i : Instr} {k : BarKind} {n : BitVec 4}
    (hi : barriers i = some (k, n)) (h : IssuingAlone s b g m th i) (ha : MayArrive s b th k n.toNat) (hm : missing s k b n.toNat th.tid) :
    let x := s.inst k b.grid (barIdx k b) n.toNat
    ∃ t, exec i s = .next t ∧ t.mem = s.mem ∧ t.pend = s.pend ∧
      t.inst k b.grid (barIdx k b) n.toNat = { x with arrivals := x.arrivals ++ [(b.bidx, th.tid)], mark := s.nextId } ∧
      OneLane s t (arrivedAt k b th.tid n.toNat x.gen) g fun _ y y' =>
        y'.status = .barrier ∧ y'.content = ({ y with bar := some (k, n.toNat, x.gen) } : Thread).content := by
  obtain ⟨hb, -, -⟩ := State.cur?_block h.current
  obtain ⟨now, he⟩ := arriveWait_next h ha
  dsimp only at he
  let w := atBarrier now k n.toNat (s.inst k b.grid (barIdx k b) n.toNat).gen
  rw [tryInst_missing (w := w) hb (fun _ => rfl) hm] at he
  obtain ⟨hmem, hpend, hinst, hlane⟩ := advanceIn_arrived h k n.toNat (w := w) (fun _ => rfl) (Instr.len i)
  exact ⟨_, (exec_barrier hi s).trans he, hmem, hpend, hinst, hlane.mono fun _ y y' ⟨hcontent, hstatus⟩ => ⟨hstatus nofun, hcontent⟩⟩

/-- BAR, GBAR or GRBAR of the last thread. -/
theorem exec_barrier_last {s : State} {b : Block} {g : Group} {m : Member} {th : Thread} {i : Instr} {k : BarKind} {n : BitVec 4}
    (hi : barriers i = some (k, n)) (hg : k = .grid → s.ordered b.grid = false ∧ (gridPeers s b.grid).isEmpty = true ∧
      ∀ gr, s.grid? b.grid = some gr → gr.todo = [])
    (h : IssuingAlone s b g m th i) (ha : MayArrive s b th k n.toNat) (hm : ¬missing s k b n.toNat th.tid) :
    let x := s.inst k b.grid (barIdx k b) n.toNat
    (∀ a ∈ x.arrivals, storesBefore s { grid := b.grid, bidx := a.1, tid := a.2 } s.nextId = false) →
    ∃ t, exec i s = .next t ∧ t.mem = s.mem ∧ t.pend = s.pend ∧
      t.inst k b.grid (barIdx k b) n.toNat = { x with gen := x.gen + 1, arrivals := [], full := false, mark := s.nextId } ∧
      ∀ c ∈ t.blocks, c.grid = b.grid → barIdx k c = barIdx k b → ∀ y ∈ c.threads, y.bar ≠ some (k, n.toNat, x.gen) := by
  intro x ho
  obtain ⟨hb, -, -⟩ := State.cur?_block h.current
  obtain ⟨now, he⟩ := arriveWait_next h ha
  dsimp only at he
  let w := atBarrier now k n.toNat x.gen
  rw [tryInst_last (w := w) hb ha.drained (fun _ => rfl) hm hg ho] at he
  have hc : (arrivedState s b th.tid k n.toNat w).block? b.grid b.bidx = some (arrivedBlock s b th.tid k n.toNat w) :=
    State.block?_eq_of_blocks (s2 := arrivedState s b th.tid k n.toNat w) hb rfl ⟨rfl, rfl⟩
  have hcalm : ∀ y ∈ (arrivedBlock s b th.tid k n.toNat w).threads, y.trapAfter = none := by
    intro y hy
    rcases Block.mem_updThread hy with hy | ⟨z, hz, -, rfl⟩
    · exact h.calm y hy
    · exact h.calm z hz
  have hgroup := State.cur?_group h.current
  obtain ⟨hmem, hpend, hinst, hbars⟩ := advanceIn_departed (x := counted s b th.tid k n.toNat) hc hgroup hcalm (Instr.len i)
  obtain ⟨hkind, hgrid, hidx, hn⟩ := counted_names s b th.tid k n.toNat
  rw [hkind, hgrid, hidx, hn] at hbars
  exact ⟨_, (exec_barrier hi s).trans he, hmem, hpend, State.inst_set hinst ⟨hkind, hgrid, hidx, hn⟩, hbars⟩

/-- BARA with a thread missing. -/
theorem exec_bara_missing {s : State} {b : Block} {g : Group} {m : Member} {th : Thread} {n : BitVec 4}
    (h : IssuingAlone s b g m th (.bara n)) (ha : MayArrive s b th .block n.toNat) (hm : missing s .block b n.toNat th.tid) :
    let x := s.inst .block b.grid b.bidx n.toNat
    ∃ t, exec (.bara n) s = .next t ∧ t.mem = s.mem ∧ t.pend = s.pend ∧
      t.inst .block b.grid b.bidx n.toNat = { x with arrivals := x.arrivals ++ [(b.bidx, th.tid)], mark := s.nextId } ∧
      OneLane s t (arrivedAt .block b th.tid n.toNat x.gen) g fun _ y y' =>
        y'.content = ({ y with bara := (y.bara.filter fun z => z.1 != n.toNat) ++ [(n.toNat, x.gen)] } : Thread).content := by
  intro x
  obtain ⟨hb, -, -⟩ := State.cur?_block h.current
  let w (y : Thread) : Thread := { y with bara := (y.bara.filter fun z => z.1 != n.toNat) ++ [(n.toNat, x.gen)] }
  have hact := arrive_updThread hb ha.drained .block n.toNat w
  have hinst : (arrivedState s b th.tid .block n.toNat w).inst .block b.grid b.bidx n.toNat = counted s b th.tid .block n.toNat :=
    State.inst_set (k := .block) rfl (counted_names s b th.tid .block n.toNat)
  have he : exec (.bara n) s = .next (advanceIn (arrivedState s b th.tid .block n.toNat w) b.grid b.bidx g.gid (Instr.len (.bara n)) []) := by
    change execBara n s = _
    rw [execBara, runLanesThen_alone h _ _ _ (arriveCheck_go ha) (congrArg (·, []) hact)]
    simp only [hinst, tryInst_missing hb (w := w) (fun _ => rfl) hm]
  obtain ⟨hmem, hpend, hcounted, hlane⟩ := advanceIn_arrived h .block n.toNat (w := w) (fun _ => rfl) (Instr.len (.bara n))
  exact ⟨_, he, hmem, hpend, hcounted, hlane.mono fun _ _ _ hy => hy.1⟩

/-- BARW: on where the generation is over, else in BARRIER. -/
theorem exec_barw {s : State} {b : Block} {g : Group} {m : Member} {th : Thread} {n : BitVec 4} {gen : Nat}
    (h : IssuingAlone s b g m th (.barw n)) (hfound : th.bara.find? (fun x => x.1 == n.toNat) = some (n.toNat, gen)) :
    ∃ t, exec (.barw n) s = .next t ∧ LanesDid s t b g fun _ y y' =>
      if gen < (s.inst .block b.grid b.bidx n.toNat).gen
      then y'.content = ({ y with bara := y.bara.filter fun z => z.1 != n.toNat } : Thread).content
      else y'.status = .barrier ∧ y'.content = ({ y with bar := some (.block, n.toNat, gen) } : Thread).content := by
  obtain ⟨hb, -, -⟩ := State.cur?_block h.current
  have hany : (th.bara.any fun x => x.1 == n.toNat) = true :=
    List.any_eq_true.2 ⟨_, List.mem_of_find?_eq_some hfound, beq_self_eq_true _⟩
  have hend : ∀ w : Thread → Thread, (∀ x, (w x).trapAfter = x.trapAfter) →
      LanesDid s (advanceIn (s.updThread (trefOf b th) w) b.grid b.bidx g.gid (Instr.len (.barw n)) []) b g fun _ y y' =>
        y'.content = (w y).content ∧ ((w y).status ≠ .issuing → y'.status = (w y).status) := by
    intro w hw
    obtain ⟨b', he, hblocks, hshell, hlanes⟩ := advanceIn_laneWent (s2 := s.updThread (trefOf b th) w) h b.binds w hw
      (replaceFirst_found hb _) (Instr.len (.barw n)) []
    refine ⟨b', ?_, hshell, hlanes⟩
    rw [he]
    exact congrArg (fun l => ({ s with blocks := l, issuing := none } : State)) hblocks
  by_cases hover : gen < (s.inst .block b.grid b.bidx n.toNat).gen
  · refine ⟨_, runLanes_alone h _ _ (if_pos hany) (by simp only [hfound, Option.map_some, Option.getD_some]; exact if_pos hover), ?_⟩
    obtain ⟨b', ht, hshell, hlanes⟩ := hend (fun y => { y with bara := y.bara.filter fun z => z.1 != n.toNat }) fun _ => rfl
    exact ⟨b', ht, hshell, hlanes.mono fun _ _ _ hy => by rw [if_pos hover]; exact hy.1⟩
  · refine ⟨_, runLanes_alone h _ _ (if_pos hany) (by simp only [hfound, Option.map_some, Option.getD_some]; exact if_neg hover), ?_⟩
    obtain ⟨b', ht, hshell, hlanes⟩ := hend (atBarrier s.now .block n.toNat gen) fun _ => rfl
    exact ⟨b', ht, hshell, hlanes.mono fun _ _ _ hy => by rw [if_neg hover]; exact ⟨hy.2 nofun, hy.1⟩⟩

/-- Settles O27, clause by clause: an arrival before the last, the last arrival, BARA, BARW. -/
theorem barrierAndSplitBarrierResult : Obligations.BarrierAndSplitBarrierResult :=
  ⟨⟨fun _ _ _ _ _ _ _ _ hi h ha hm => exec_barrier_missing hi h ha hm,
      fun _ _ _ _ _ _ _ _ hi hg h ha hm => exec_barrier_last hi hg h ha hm⟩,
    fun _ _ _ _ _ _ h ha hm => exec_bara_missing h ha hm, fun _ _ _ _ _ _ _ h hfound => exec_barw h hfound⟩

end Sys2Proof.Machine
end

section
/-! SUPPORT. Issue cycles and timers (R37, R74, R302, R397, R415): a partition without candidates, the wait for a refresh window, and what a
fault of the thread route leaves outstanding. -/

namespace Sys2Proof.Machine

open Sys2Proof Sys2Proof.Rules

/- Issue cycles (R302). -/

/-- No block on the core: no candidate. -/
theorem allCands_idle (core part : Nat) : ∀ (bs : List Block) (s : State), (∀ b ∈ bs, b.runs core = false) → allCands core part bs s = (s, [])
  | [], _, _ => rfl
  | b :: r, s, h => by
    rw [allCands, h b List.mem_cons_self]
    exact allCands_idle core part r s fun c hc => h c (List.mem_cons_of_mem _ hc)

theorem exec_issueCycle_idle {s : State} {core part dt : Nat} (h : ∀ b ∈ s.blocks, b.runs core = false) :
    exec (.issueCycle core part dt) s = .next { passTime s dt with issuing := none } := by
  let u : State := { passTime s dt with issuing := none }
  have hcands : allCands core part u.blocks u = (u, []) := allCands_idle core part s.blocks u h
  have hstall : (u.blocks.any fun b => b.runs core && b.threads.any fun th => th.tid / 32 % 4 == part && waitsForMemory u b th) = false :=
    List.any_eq_false.2 fun b hb => by simp [h b hb]
  change execIssueCycle core part dt s = _
  simp only [execIssueCycle]
  rw [hcands]
  simp only [bestOf]
  exact congrArg Host.Outcome.next (if_neg (by rw [hstall]; exact Bool.false_ne_true))

/-- A thread that is not at a clause boundary of the partition is in none of its statuses there (R37). -/
theorem status_of_away {part : Nat} {th : Thread} (h : atBoundary part th = false) (hp : th.tid / 32 % 4 = part) :
    th.status ≠ .ready ∧ th.status ≠ .formation ∧ th.status ≠ .meeting := by
  simp only [atBoundary, hp, beq_self_eq_true, Bool.true_and, Bool.or_eq_false_iff, beq_eq_false_iff_ne] at h
  exact ⟨h.1.1.1, h.1.2, h.2⟩

theorem map_self {α : Type} {l : List α} {f : α → α} (h : ∀ x ∈ l, f x = x) : l.map f = l :=
  (List.map_congr_left h).trans (List.map_id l)

theorem refresh_away {now part : Nat} {ks : List Look} {b : Block} (h : ∀ th ∈ b.threads, atBoundary part th = false) :
    refresh now part ks b = b := by
  have hmeet : ∀ th ∈ b.threads, ¬(th.tid / 32 % 4 == part && meetingOver b.threads th) = true := by
    intro th hth hm
    simp only [Bool.and_eq_true, beq_iff_eq, meetingOver] at hm
    exact (status_of_away (h th hth) hm.1).2.2 hm.2.1
  rw [refresh]
  dsimp only
  rw [map_self (l := b.threads) fun th hth => if_neg (by simp [h th hth])]
  rw [map_self fun th hth => if_neg (hmeet th hth)]

theorem homeCands_away {part : Nat} {b : Block} (h : ∀ th ∈ b.threads, atBoundary part th = false) : homeCands part b = [] := by
  rw [homeCands, List.filterMap_eq_nil_iff]
  intro t _
  by_cases ht : t % 4 = part
  · rw [if_neg (by simp [ht])]
    dsimp only
    split
    · rfl
    · next th r hlive =>
      have hmem : th ∈ b.threads.filter fun th => th.tid / 32 == t && th.live := by rw [hlive]; exact List.mem_cons_self
      obtain ⟨hth, hon⟩ := List.mem_filter.1 hmem
      simp only [Bool.and_eq_true, beq_iff_eq] at hon
      obtain ⟨hready, hform, -⟩ := status_of_away (h th hth) (hon.1 ▸ ht)
      rw [if_neg (by rw [hlive]; simp [hready, hform])]
  · rw [if_pos (by simpa using ht)]

theorem blockCands_away {now part : Nat} {ks : List Look} {b : Block} (h : ∀ th ∈ b.threads, atBoundary part th = false) :
    blockCands now part ks b = (b, []) := by
  have hnone : ∀ needs : Nat → Bool, (b.threads.filter fun th => th.tid / 32 % 4 == part && th.status == .ready && !needs th.tid) = [] := by
    intro needs
    refine List.filter_eq_nil_iff.2 fun th hth hl => ?_
    simp only [Bool.and_eq_true, beq_iff_eq] at hl
    exact (status_of_away (h th hth) hl.1.1).1 hl.1.2
  simp only [blockCands, homeCands_away h, List.any_nil, Bool.false_or, Bool.not_false, Bool.and_true, List.nil_append]
  rw [map_self fun th hth => ?_]
  · rw [hnone fun tid => ((ks.find? fun k => k.tid == tid).map fun k => k.home).getD false]
    rfl
  · by_cases hp : th.tid / 32 % 4 = part
    · obtain ⟨hready, hform, -⟩ := status_of_away (h th hth) hp
      simp [hp, hready, hform]
    · exact if_pos (by simpa using hp)

/-- The one running group of the core's partition is its one candidate. -/
theorem allCands_runs {s : State} {core part : Nat} {b : Block} {g : Group} (h : Runs1 s core part b g) (hi : issuable s b g = true) :
    allCands core part s.blocks s = (s, [(groupRank s b g, .running b g)]) := by
  have hblock : s.block? b.grid b.bidx = some b := by rw [State.block?, h.onlyBlock]; simp [isBlock_self]
  have haway : ∀ th ∈ b.threads, atBoundary part th = false := fun th hth => (h.elsewhere th hth).1
  have hsettle : settleBlock s b.grid b.bidx = s := by
    simp only [settleBlock, settleGroup, hblock, h.onlyGroup, List.foldl_cons, List.foldl_nil, List.find?_singleton, beq_self_eq_true, if_true,
      h.inClause, Bool.false_and, Bool.false_eq_true, if_false]
  have hlook : b.threads.filter (atBoundary part) = [] := List.filter_eq_nil_iff.2 fun th hth => by simp [haway th hth]
  have hruns : b.runs core = true := by simp [Block.runs, h.onCore, h.inPlace]
  rw [h.onlyBlock, allCands, hruns]
  simp only [Bool.not_true, Bool.false_eq_true, if_false, hsettle, hblock, Option.getD_some, hlook, lookAll, refresh_away haway,
    blockCands_away haway, State.updBlock_self hblock, h.onlyGroup, enterAll, allCands, List.append_nil]
  simp [h.onPart, hi]

theorem exec_issueCycle_runs {s : State} {core part dt : Nat} {b : Block} {g : Group} (h : Runs1 (passTime s dt) core part b g)
    (hi : issuable { passTime s dt with issuing := none } b g = true) :
    ∃ t, exec (.issueCycle core part dt) s = .next t ∧ t.now = s.now + dt ∧ t.mem = s.mem ∧ t.blocks = s.blocks ∧
      t.issuing = some { grid := b.grid, bidx := b.bidx, gid := g.gid } ∧ (t.core core).perfIssue = (s.core core).perfIssue + 1 := by
  let u : State := { passTime s dt with issuing := none }
  have hu : Runs1 u core part b g := ⟨h.onlyBlock, h.onCore, h.inPlace, h.onlyGroup, h.onPart, h.inClause, h.elsewhere⟩
  have he : exec (.issueCycle core part dt) s = .next (({ u with issuing := some { grid := b.grid, bidx := b.bidx, gid := g.gid } } : State).updCore
      core fun k => { k with perfIssue := k.perfIssue + 1 }) := by
    change execIssueCycle core part dt s = _
    simp only [execIssueCycle]
    rw [allCands_runs hu hi]
    rfl
  refine ⟨_, he, rfl, rfl, rfl, rfl, ?_⟩
  rw [State.core_updCore, if_pos rfl]
  rfl

/- Timers of a thread (R37, R52, R183). -/

theorem Block.thread?_updThread (b : Block) (tid : Nat) (f : Thread → Thread) (hf : ∀ x, (f x).tid = x.tid) :
    (b.updThread tid f).thread? tid = (b.thread? tid).map f :=
  find?_replaceFirst _ f (fun x hx => by rw [hf]; exact hx) b.threads

theorem State.thread?_updThread {s : State} {r : Tref} {f : Thread → Thread} (hf : ∀ x, (f x).tid = x.tid) :
    (s.updThread r f).thread? r = (s.thread? r).map f := by
  have hb : (s.updThread r f).block? r.grid r.bidx = (s.block? r.grid r.bidx).map fun b => b.updThread r.tid f :=
    State.block?_updBlock s _ _ _ fun _ hx => hx
  rw [State.thread?, hb, State.thread?]
  cases s.block? r.grid r.bidx with
  | none => rfl
  | some b => exact b.thread?_updThread r.tid f hf

/-- A timer of one thread of a core's block: the thread as f leaves it. -/
theorem thread?_timer {s : State} {core grid bidx tid : Nat} {b : Block} {th : Thread} (hb : s.block? grid bidx = some b)
    (hcore : b.core = core) (hth : b.thread? tid = some th) {f : Thread → Thread} (hf : ∀ x, (f x).tid = x.tid) :
    (s.updBlock grid bidx fun b => if b.core != core then b else b.updThread tid f).thread? { grid := grid, bidx := bidx, tid := tid } =
      some (f th) := by
  have hhere : (if b.core != core then b else b.updThread tid f) = b.updThread tid f := if_neg (by simp [hcore])
  rw [State.updBlock_found hb, hhere, ← State.updBlock_found hb fun b => b.updThread tid f]
  refine (State.thread?_updThread (r := { grid := grid, bidx := bidx, tid := tid }) hf).trans ?_
  rw [State.thread?, hb]
  exact congrArg (Option.map f) hth

/- What a fault of the thread route leaves outstanding (R371, R372). -/

theorem queueRecAs_pend (pod : Bool) (s : State) (die : Nat) (r : FRec) : (queueRecAs pod s die r).pend = s.pend := by
  cases pod <;> simp only [queueRecAs, countFault, Bool.false_eq_true, if_false, if_true, apply_ite State.pend, State.updDie_pend, ite_self]

theorem takeTrap_pend {s t : State} {b : Block} {th : Thread} {r : FRec} {pc : Va} (h : takeTrap s b th r pc = some t) : t.pend = s.pend := by
  have hwrite : ∀ {u : State} {job va : Nat} {bs : List Byte}, hwWrite s job va bs = some u → u.pend = s.pend := by
    intro u job va bs hu
    unfold hwWrite at hu
    cases hpa : hwPa s job va <;> simp only [hpa] at hu <;> cases hu
    rfl
  unfold takeTrap at h
  dsimp only at h
  split at h
  · cases h
  · split at h
    · cases h
    · next u hu =>
      cases h
      have hpend := hwrite hu
      exact hpend

theorem trapOrPark_pend (die : Nat) (r : FRec) (gid : Nat) (resume : Thread → Va) : ∀ (ths : List Thread) (s : State) (n : Nat),
    (trapOrPark die r gid resume ths s n).pend = s.pend
  | [], s, n => by
    rw [trapOrPark]
    split
    · rfl
    · exact queueRecAs_pend ..
  | th :: rest, s, n => by
    rw [trapOrPark]
    cases s.block? r.grid r.bidx with
    | none => rfl
    | some b =>
      dsimp only
      split
      · next hu =>
        have hpend := takeTrap_pend hu
        exact (trapOrPark_pend die r gid resume rest _ n).trans hpend
      · exact trapOrPark_pend die r gid resume rest _ (n + 1)

theorem foldl_pend {α : Type} {f : State → α → State} (h : ∀ s x, (f s x).pend = s.pend) : ∀ (l : List α) (s : State),
    (l.foldl f s).pend = s.pend
  | [], _ => rfl
  | x :: r, s => (foldl_pend h r (f s x)).trans (h s x)

theorem endTraps_pend (s : State) (grid bidx : Nat) : (endTraps s grid bidx).pend = s.pend := by
  unfold endTraps
  cases s.block? grid bidx with
  | none => rfl
  | some b =>
    refine foldl_pend (fun s x => ?_) _ s
    refine (trapOrPark_pend ..).trans ((foldl_pend ?_ _ _).trans ?_)
    · exact fun _ _ => rfl
    · split
      · rfl
      · exact queueRecAs_pend ..

theorem settleGroup_pend (s : State) (grid bidx gid : Nat) : (settleGroup s grid bidx gid).pend = s.pend := by
  unfold settleGroup
  cases s.block? grid bidx with
  | none => rfl
  | some b =>
    dsimp only
    cases b.groups.find? fun g => g.gid == gid with
    | none => rfl
    | some g =>
      dsimp only
      split
      · exact endTraps_pend _ grid bidx
      · rfl

/-- A full-empty load that has waited 2^24 cycles leaves the list of outstanding results (R415). -/
theorem exec_fullEmptyTimeLimit {s : State} {p : Pend} {off n : Nat} {clr : Bool} {b : Block} {th : Thread}
    (hp : s.pend.find? (fun q => q.id == p.id) = some p) (hk : p.kind = .fullEmpty off n clr)
    (hb : s.block? p.who.grid p.who.bidx = some b) (hth : b.thread? p.who.tid = some th) :
    (p.aged < 2 ^ 24 → exec (.fullEmptyTimeLimit p.id) s = .next s) ∧
    (2 ^ 24 ≤ p.aged → ∃ t, exec (.fullEmptyTimeLimit p.id) s = .next t ∧ ∀ q ∈ t.pend, q.id ≠ p.id) := by
  change (_ → execFullEmptyTimeLimit p.id s = _) ∧ (_ → ∃ t, execFullEmptyTimeLimit p.id s = .next t ∧ _)
  simp only [execFullEmptyTimeLimit, hp, hk, hb, hth]
  refine ⟨fun hage => by rw [if_pos hage], fun hage => ?_⟩
  rw [if_neg (by omega)]
  refine ⟨_, rfl, fun q hq => ?_⟩
  rw [settleGroup_pend, trapOrPark_pend] at hq
  simpa using (List.mem_filter.1 hq).2

/- Held accesses and barriers after a performed access (R45, R102). -/

/-- One pass over the held accesses. -/
def retryPass (s : State) : State :=
  (s.pend.filter fun p => p.kind == .held).foldl (fun s p => if s.waitsOn p.id then retryPend s p else s) s

theorem retryHeld_noSignals {s : State} (h : ∀ x ∈ s.sigHeld, x.2.2.2.2 < 2 ^ 37) :
    retryHeld s = (List.range (s.scOut.length + 1)).foldl (fun s _ => retryPass s) s := by
  have hkeep : s.sigHeld.filter (fun x => decide (x.2.2.2.2 < 2 ^ 37)) = s.sigHeld := List.filter_eq_self.2 fun x hx => by simpa using h x hx
  have hnone : s.sigHeld.filter (fun x => decide (2 ^ 37 ≤ x.2.2.2.2)) = [] :=
    List.filter_eq_nil_iff.2 fun x hx => by simpa using h x hx
  simp only [retryHeld, hkeep, hnone, List.foldl_nil]
  rfl

theorem goOn_noArrivals {s : State} (h : ∀ x ∈ (retryHeld s).bars, x.arrivals = []) : goOn s = retryHeld s := by
  have hnone : (retryHeld s).bars.filter (fun x => !x.arrivals.isEmpty) = [] := List.filter_eq_nil_iff.2 fun x hx => by simp [h x hx]
  simp only [goOn, hnone]
  rfl

theorem retryHeld_quiet {s : State} (h : Quiet s) : retryHeld s = s := by
  have hpass : retryPass s = s := by
    rw [retryPass, List.filter_eq_nil_iff.2 fun p hp => by simpa using h.held p hp]
    rfl
  exact (retryHeld_noSignals h.sigs).trans (List.foldl_fixed' (fun _ => hpass) _)

theorem goOn_quiet {s : State} (h : Quiet s) : goOn s = s := by
  have hs := retryHeld_quiet h
  rw [goOn_noArrivals (by rw [hs]; exact h.bars), hs]

/- The refresh window (R74). -/

/-- A load that waits for a refresh window, at a window's edge: it may be made where its die's bank group is free. -/
def windowEnd (t : State) (die : Nat) (p : Pend) : Pend :=
  match p.kind with
  | .refresh off _ =>
    if (t.block? p.who.grid p.who.bidx).any (fun b => dieOf b.core == die) && !wsBusy t die (off / 2 ^ 16 % 8) then { p with kind := .held } else p
  | _ => p

theorem windowEnd_other {t : State} {die : Nat} {p : Pend} (h : ∀ off n, p.kind ≠ .refresh off n) : windowEnd t die p = p := by
  unfold windowEnd
  split
  · next hk => exact absurd hk (h _ _)
  · rfl

theorem windowEnd_free {t : State} {die off n : Nat} {p : Pend} {b : Block} (hk : p.kind = .refresh off n)
    (hb : t.block? p.who.grid p.who.bidx = some b) (hdie : dieOf b.core = die) (hfree : wsBusy t die (off / 2 ^ 16 % 8) = false) :
    windowEnd t die p = { p with kind := .held } := by
  simp only [windowEnd, hk, hb, Option.any_some, hdie, beq_self_eq_true, hfree, Bool.not_false, Bool.and_true, if_true]

/-- No bank group's window begins or ends (R74). -/
theorem exec_wsRefreshWindow_between {s : State} {die dt : Nat}
    (h : ∀ g < 8, wsClock { s with now := s.now + dt } die ≠ 4000 * g ∧ wsClock { s with now := s.now + dt } die ≠ 4000 * g + 960) :
    exec (.wsRefreshWindow die dt) s = .next s := by
  have hno : ((List.range 8).any fun g => wsClock { s with now := s.now + dt } die == 4000 * g ||
      wsClock { s with now := s.now + dt } die == 4000 * g + 960) = false := by
    rw [List.any_eq_false]
    intro g hg
    obtain ⟨h1, h2⟩ := h g (List.mem_range.1 hg)
    simp [h1, h2]
  change execWsRefreshWindow die dt s = _
  simp only [execWsRefreshWindow, hno]
  rfl

/-- A bank group's window begins or ends: the loads that waited for it are made. -/
theorem exec_wsRefreshWindow_edge {s : State} {die dt g : Nat} (hg : g < 8)
    (h : wsClock { s with now := s.now + dt } die = 4000 * g ∨ wsClock { s with now := s.now + dt } die = 4000 * g + 960) :
    exec (.wsRefreshWindow die dt) s =
      .next (goOn { s with now := s.now + dt, pend := s.pend.map (windowEnd { s with now := s.now + dt } die) }) := by
  have hyes : ((List.range 8).any fun g => wsClock { s with now := s.now + dt } die == 4000 * g ||
      wsClock { s with now := s.now + dt } die == 4000 * g + 960) = true :=
    List.any_eq_true.2 ⟨g, List.mem_range.2 hg, by simpa using h⟩
  change execWsRefreshWindow die dt s = _
  simp only [execWsRefreshWindow, hyes]
  rfl

theorem exec_wsRefreshWindow_quiet {s : State} {die dt g : Nat} (hg : g < 8)
    (h : wsClock { s with now := s.now + dt } die = 4000 * g ∨ wsClock { s with now := s.now + dt } die = 4000 * g + 960)
    (hq : Quiet s) (hp : ∀ p ∈ s.pend, ∀ off n, p.kind ≠ .refresh off n) :
    exec (.wsRefreshWindow die dt) s = .next { s with now := s.now + dt } := by
  rw [exec_wsRefreshWindow_edge hg h, map_self fun p hmem => windowEnd_other (hp p hmem)]
  exact congrArg Host.Outcome.next (goOn_quiet (s := { s with now := s.now + dt }) ⟨hq.held, hq.sigs, hq.bars⟩)

theorem performAcc_ldws {s : State} {b : Block} {who : Tref} {user : Bool} {acc : Acc} {upTo n : Nat} (hop : acc.op = .ldws n)
    (hfree : wsBusy s (dieOf b.core) (acc.ea.toNat % 2 ^ 57 / 2 ^ 16 % 8) = false) : performAcc s b who user acc upTo =
      (s, .value (BitVec.ofNat 64 ((s.die (dieOf b.core)).ws.num (acc.ea.toNat % 2 ^ 57) n)) 0) := by
  unfold performAcc
  simp only [hop, hfree, Bool.false_eq_true, if_false]

/-- A held load of the weight store outside its window is complete with its value. -/
theorem retryNow_ldws {s : State} {p : Pend} {b : Block} {th : Thread} {n : Nat} (hop : p.acc.op = .ldws n) (hth : s.thread? p.who = some th)
    (htok : p.tok < 7) (hcheck : accFaults s b (!th.priv) p.acc = (s, []))
    (hfree : wsBusy s (dieOf b.core) (p.acc.ea.toNat % 2 ^ 57 / 2 ^ 16 % 8) = false) : retryNow s p b =
      complete s p [(p.acc.d, BitVec.ofNat 64 ((s.die (dieOf b.core)).ws.num (p.acc.ea.toNat % 2 ^ 57) n))] 0 := by
  have htok8 : (p.tok == 8) = false := by simp; omega
  unfold retryNow
  simp only [hth, hop, Option.map_some, Option.getD_some, hcheck, performAcc_ldws hop hfree, htok8, Bool.false_eq_true, if_false]

theorem finishThread_tid (p : Pend) (d : Reg) (v : Word) (f : BitVec 6) (th : Thread) : (finishThread p [(d, v)] f th).tid = th.tid := by
  simp only [finishThread, List.foldl_cons, List.foldl_nil, apply_ite Thread.tid, Thread.setTok_tid, Thread.setReg_tid, Thread.setFlags_tid,
    ite_self]

/-- The value and the token of a result that comes to a thread which executes (R137). -/
theorem finishThread_issuing {p : Pend} {th : Thread} (d : Reg) (v : Word) (htok : p.tok < 7) (hs : th.status = .issuing) :
    finishThread p [(d, v)] 0 th = (th.setReg d v).setTok p.tok (th.tok p.tok - 1) := by
  have hflags : th.setFlags 0 = th := by simp [Thread.setFlags]
  have htok7 : (p.tok == 7) = false := by simp; omega
  have hgone : (th.status == .exited || (th.status == .shelved && th.kept == .exited)) = false := by simp [hs]
  simp only [finishThread, hgone, hflags, htok, htok7, Bool.false_eq_true, if_false, if_true, Bool.false_and, List.foldl_cons, List.foldl_nil]
  rfl

/-- The one held access, of a block that runs and of no SC order, is made. -/
theorem retryHeld_one {s : State} {p : Pend} {b : Block} (hp : s.pend = [p]) (hk : p.kind = .held) (hsig : s.sigHeld = []) (hsc : s.scOut = [])
    (hb : s.block? p.who.grid p.who.bidx = some b) (hplace : b.place = 0) (hop : p.acc.op.scOrder = none) : retryHeld s = retryNow s p b := by
  have hwaits : s.waitsOn p.id = true := by simp [State.waitsOn, hp]
  have hretry : retryPend s p = retryNow s p b := by
    unfold retryPend
    simp only [hb, hplace, scOf, hsc, hop]
    rfl
  rw [retryHeld_noSignals (by simp [hsig]), hsc]
  simp only [List.length_nil, Nat.zero_add, List.range_one, List.foldl_cons, List.foldl_nil, retryPass, hp, List.filter_singleton, hk,
    beq_self_eq_true, cond_true, hwaits, if_true, hretry]

/-- A load of the weight store has its value once its bank group's window is over (R74, R218). -/
theorem exec_wsRefreshWindow_ldws {s : State} {die dt g : Nat} (hg : g < 8)
    (h : wsClock { s with now := s.now + dt } die = 4000 * g ∨ wsClock { s with now := s.now + dt } die = 4000 * g + 960)
    {p : Pend} {b : Block} {th : Thread} {n : Nat} (hpend : s.pend = [p]) (hsig : s.sigHeld = []) (hsc : s.scOut = [])
    (hbars : ∀ x ∈ s.bars, x.arrivals = []) (hop : p.acc.op = .ldws n) (htok : p.tok < 7)
    (hk : p.kind = .refresh (p.acc.ea.toNat % 2 ^ 57) n) (hb : s.block? p.who.grid p.who.bidx = some b) (hplace : b.place = 0)
    (hdie : dieOf b.core = die) (hth : s.thread? p.who = some th) (hs : th.status = .issuing)
    (hfree : wsBusy { s with now := s.now + dt } die (p.acc.ea.toNat % 2 ^ 57 / 2 ^ 16 % 8) = false)
    (hcheck : let u : State := { s with now := s.now + dt, pend := [{ p with kind := .held }] }; accFaults u b (!th.priv) p.acc = (u, [])) :
    ∃ u, exec (.wsRefreshWindow die dt) s = .next u ∧ u.mem = s.mem ∧ u.pend = [] ∧ u.thread? p.who =
      some ((th.setReg p.acc.d (BitVec.ofNat 64 ((s.die die).ws.num (p.acc.ea.toNat % 2 ^ 57) n))).setTok p.tok (th.tok p.tok - 1)) := by
  let q : Pend := { p with kind := .held }
  let u : State := { s with now := s.now + dt, pend := [q] }
  let v : Word := BitVec.ofNat 64 ((s.die die).ws.num (p.acc.ea.toNat % 2 ^ 57) n)
  have hheld : s.pend.map (windowEnd { s with now := s.now + dt } die) = [q] := by
    rw [hpend]
    exact congrArg (fun x => [x]) (windowEnd_free (t := { s with now := s.now + dt }) hk hb hdie hfree)
  have hmade : retryHeld u = complete u q [(p.acc.d, v)] 0 := by
    rw [retryHeld_one (s := u) (p := q) rfl rfl hsig hsc hb hplace (by rw [show q.acc.op = .ldws n from hop]; rfl)]
    have hvalue := retryNow_ldws (s := u) (p := q) (b := b) hop hth htok hcheck (by rw [hdie]; exact hfree)
    rw [hdie] at hvalue
    exact hvalue
  refine ⟨complete u q [(p.acc.d, v)] 0, ?_, rfl, ?_, ?_⟩
  · rw [exec_wsRefreshWindow_edge hg h, hheld]
    exact congrArg Host.Outcome.next ((goOn_noArrivals (s := u) (by rw [hmade]; exact hbars)).trans hmade)
  · simp [complete, u]
  · have hfound : (u.updThread p.who (finishThread q [(p.acc.d, v)] 0)).thread? p.who = some (finishThread q [(p.acc.d, v)] 0 th) := by
      rw [State.thread?_updThread (finishThread_tid q _ _ _)]
      exact congrArg (Option.map _) hth
    exact hfound.trans (congrArg some (finishThread_issuing (p := q) p.acc.d v htok hs))

/-- A formation deadlock raises SYNC cause 0x09 in every live thread (R397). -/
theorem exec_formationDeadlock {s : State} {bidx grid : Nat} {b : Block} (hb : s.block? grid bidx = some b) (hplace : b.place = 0)
    (hlive : b.threads.filter Thread.live ≠ [])
    (hwait : ∀ th ∈ b.threads.filter Thread.live, blockWait th = true ∧ th.readySince + 4096 ≤ s.now) :
    exec (.formationDeadlock bidx grid) s = .next (raiseEach b 0x0809
      (BitVec.ofNat 64 (distinctPcs ((b.threads.filter Thread.live).map fun th => { th with pc := (waitPoint b th).1 })).length)
      (b.threads.filter Thread.live).length (b.threads.filter Thread.live) s false) := by
  have hall : (b.threads.filter Thread.live).all (fun th => blockWait th && th.readySince + 4096 ≤ s.now) = true :=
    List.all_eq_true.2 fun th hth => by simpa using hwait th hth
  have hdead : (b.place == 0 && !(b.threads.filter Thread.live).isEmpty &&
      (b.threads.filter Thread.live).all (fun th => blockWait th && th.readySince + 4096 ≤ s.now)) = true := by
    rw [hall, hplace]
    simpa using hlive
  change execFormationDeadlock bidx grid s = _
  simp only [execFormationDeadlock, hb]
  exact congrArg Host.Outcome.next (if_pos hdead)

theorem exec_starvation {s : State} {core bidx grid tid : Nat} {b : Block} {th : Thread} (hb : s.block? grid bidx = some b)
    (hcore : b.core = core) (hth : b.thread? tid = some th) (hs : th.status = .ready) (hlong : th.readySince + 256 ≤ s.now) :
    ∃ t, exec (.starvation core bidx grid tid) s = .next t ∧ t = { s with blocks := t.blocks } ∧
      t.thread? { grid := grid, bidx := bidx, tid := tid } = some { th with starving := true } := by
  refine ⟨_, rfl, rfl, (thread?_timer hb hcore hth fun x => by split <;> rfl).trans ?_⟩
  rw [if_pos (by simpa [hs] using hlong)]

theorem exec_yieldExpiry {s : State} {core bidx grid tid : Nat} {b : Block} {th : Thread} (hb : s.block? grid bidx = some b)
    (hcore : b.core = core) (hth : b.thread? tid = some th) (hs : th.status = .yielded) (hover : th.until_ ≤ s.now) :
    ∃ t, exec (.yieldExpiry core bidx grid tid) s = .next t ∧ t = { s with blocks := t.blocks } ∧
      t.thread? { grid := grid, bidx := bidx, tid := tid } = some { th with status := .ready, readySince := s.now } := by
  refine ⟨_, rfl, rfl, (thread?_timer hb hcore hth fun x => by split <;> rfl).trans ?_⟩
  rw [if_pos (by simpa [hs] using hover)]

/-- Settles O43, clause by clause: the issue cycle, the timers of a thread and of a block, the limit of a full-empty load, the refresh window. -/
theorem issueAndTimerResult : Obligations.IssueAndTimerResult :=
  ⟨fun _ _ _ _ h => exec_issueCycle_idle h, fun _ _ _ _ _ _ h hi => exec_issueCycle_runs h hi,
    fun _ _ _ _ _ _ _ hb hcore hth hs hlong => exec_starvation hb hcore hth hs hlong,
    fun _ _ _ _ _ _ _ hb hcore hth hs hover => exec_yieldExpiry hb hcore hth hs hover,
    fun _ _ _ _ hb hplace hlive hwait => exec_formationDeadlock hb hplace hlive hwait,
    fun _ _ _ _ _ _ _ hp hk hb hth => exec_fullEmptyTimeLimit hp hk hb hth,
    fun _ _ _ => ⟨exec_wsRefreshWindow_between, fun _ hg hc => ⟨exec_wsRefreshWindow_quiet hg hc,
      fun _ _ _ _ hpend hsig hsc hbars hop htok hk hb hplace hdie hth hs hfree hcheck =>
        exec_wsRefreshWindow_ldws hg hc hpend hsig hsc hbars hop htok hk hb hplace hdie hth hs hfree hcheck⟩⟩⟩

end Sys2Proof.Machine
end

section
/-! SUPPORT. Retiring, completing, applying, releasing and dispatching (R46, R50, R224, R225, R297, R317): what each of these happenings does where
its conditions hold, and that it does nothing where they do not. -/

namespace Sys2Proof.Machine

open Sys2Proof Sys2Proof.Rules

/- Blocks (R46). -/

theorem freeEntries_frame (before s : State) : ∃ ds, freeEntries before s = { s with dies := ds } := by
  have key : ∀ (ls : List Nat) (f : State → Nat → Die → Die) (s : State),
      ∃ ds, ls.foldl (fun s die => s.updDie die (f s die)) s = { s with dies := ds } := by
    intro ls f
    induction ls with
    | nil => exact fun s => ⟨s.dies, rfl⟩
    | cons d r ih =>
      intro s
      obtain ⟨ds, hds⟩ := ih (s.updDie d (f s d))
      exact ⟨ds, hds⟩
  exact key _ (fun s die d => { d with waits := d.waits.filter fun w => tokenHeld s (w.tok die) || !tokenHeld before (w.tok die) }) s

theorem State.grid?_updGrid (s : State) (h : Nat) (f : Grid → Grid) (hf : ∀ x, (f x).handle = x.handle) :
    (s.updGrid h f).grid? h = (s.grid? h).map f :=
  find?_replaceFirst _ f (fun x hx => by rw [hf]; exact hx) s.grids

/-- Nothing of the block's threads is flushed where nothing of them is on the way. -/
theorem foldl_flushThread {s : State} {b : Block} : ∀ {ths : List Thread}, (∀ th ∈ ths, flushThread s b.core (me b th) = s) →
    ths.foldl (fun s th => flushThread s b.core (trefOf b th)) s = s
  | [], _ => rfl
  | th :: r, h => by
    have hth : flushThread s b.core (trefOf b th) = s := h th List.mem_cons_self
    rw [List.foldl_cons, hth]
    exact foldl_flushThread fun x hx => h x (List.mem_cons_of_mem _ hx)

/-- The state a block leaves that retires. -/
def retiredState (s : State) (grid bidx : Nat) : State :=
  (freeEntries s (removeBlock s grid bidx)).updGrid grid fun g => { g with retired := g.retired ++ [bidx] }

theorem exec_blockRetire {s : State} {grid bidx : Nat} {b : Block} (h : Retires s grid bidx b) : exec (.blockRetire bidx grid) s =
    .next (dispatchAll (resumeAll (haltEnds (barriersAgain (segReady (retiredState s grid bidx) grid bidx) grid) grid))) := by
  have hplace4 : (b.place == 4) = false := by rw [h.place]; rfl
  have hlive : (b.place != 0 || b.threads.any fun th => th.status != .exited) = false := by
    rw [h.place, Bool.or_eq_false_iff, List.any_eq_false]
    exact ⟨rfl, fun th hth => by simp [h.exited th hth]⟩
  obtain ⟨hpop, hord⟩ := h.plain
  obtain ⟨hbusy, hstaged⟩ := h.idle
  have hover : popOver s grid = true := by simp [popOver, hpop]
  change execBlockRetire bidx grid s = _
  simp only [execBlockRetire, h.block, hplace4, hlive, foldl_flushThread h.drained, hpop, hord, hbusy, hstaged, hover, Bool.false_eq_true, if_false,
    Bool.or_self, Bool.not_true]
  rfl

theorem retiredState_frame (s : State) (grid bidx : Nat) : (retiredState s grid bidx).mem = s.mem ∧
    (∀ x ∈ (retiredState s grid bidx).blocks, ¬(x.grid = grid ∧ x.bidx = bidx)) ∧
    (∀ p ∈ (retiredState s grid bidx).pend, ¬(p.who.grid = grid ∧ p.who.bidx = bidx)) ∧
    ∀ g, s.grid? grid = some g → (retiredState s grid bidx).grid? grid = some { g with retired := g.retired ++ [bidx] } := by
  obtain ⟨ds, hfree⟩ := freeEntries_frame s (removeBlock s grid bidx)
  have hgrids : ∀ g, s.grid? grid = some g → (retiredState s grid bidx).grid? grid = some { g with retired := g.retired ++ [bidx] } := by
    intro g hg
    rw [retiredState, hfree]
    refine (State.grid?_updGrid _ _ _ ?_).trans (congrArg (Option.map _) hg)
    exact fun _ => rfl
  refine ⟨by rw [retiredState, hfree]; rfl, fun x hx => ?_, fun p hp => ?_, hgrids⟩
  · rw [retiredState, hfree] at hx
    have hnot := (List.mem_filter.1 hx).2
    rintro ⟨rfl, rfl⟩
    simp [isBlock_self] at hnot
  · rw [retiredState, hfree] at hp
    have hnot := (List.mem_filter.1 hp).2
    rintro ⟨rfl, rfl⟩
    simp at hnot

/- Grids (R50). -/

theorem writeDigest_unordered {s : State} {g : Grid} (h : g.l.ord = false) : writeDigest s g = (s, true) := by simp [writeDigest, h]

theorem exec_gridCompletion_over {s : State} {grid : Nat} {g : Grid} (hg : s.grid? grid = some g) (hover : gridOver s g = true)
    (hord : g.l.ord = false) : exec (.gridCompletion grid) s = .next (if g.local_ then
      dispatchAll (sendFinishes (unitMember
        (signalDone { s with grids := s.grids.filter fun x => x.handle != grid } g.l.job g.user g.l.compl 0) g.unit g.l.compl))
      else dispatchAll (sendFinishes
        ((if g.l.span then s else originDecides s grid 0).updGrid grid fun x => { x with decided := true, flushTok := some finishTok }))) := by
  change execGridCompletion grid s = _
  simp only [execGridCompletion, hg, hover, writeDigest_unordered hord]
  rfl

/-- The conditions and the effect of GRID_COMPLETION, by whether the pod knows the grid. -/
theorem exec_gridCompletion {s : State} {grid : Nat} {g : Grid} (hg : s.grid? grid = some g) :
    (gridOver s g = false → exec (.gridCompletion grid) s = .next s) ∧
    (gridOver s g = true → g.local_ = true → g.l.ord = false → exec (.gridCompletion grid) s = .next (dispatchAll (sendFinishes (unitMember
      (signalDone { s with grids := s.grids.filter fun x => x.handle != grid } g.l.job g.user g.l.compl 0) g.unit g.l.compl)))) ∧
    (gridOver s g = true → g.local_ = false → g.l.ord = false → exec (.gridCompletion grid) s = .next (dispatchAll (sendFinishes
      ((if g.l.span then s else originDecides s grid 0).updGrid grid fun x => { x with decided := true, flushTok := some finishTok })))) := by
  refine ⟨fun hover => ?_, fun hover hlocal hord => ?_, fun hover hlocal hord => ?_⟩
  · change execGridCompletion grid s = _
    simp only [execGridCompletion, hg, hover]
    rfl
  · rw [exec_gridCompletion_over hg hover hord, if_pos hlocal]
  · rw [exec_gridCompletion_over hg hover hord, if_neg (by simp [hlocal])]

/- Batches and tickets (R224, R225). -/

theorem exec_stagedBatchApply {s : State} {grid k bidx : Nat} {g : Grid} (hg : s.grid? grid = some g) (hb : readyBatch s g = some (k, bidx)) :
    exec (.stagedBatchApply grid) s = .next (goOn (barriersAgain (applyBatch s grid k bidx).1 grid)) := by
  change execStagedBatchApply grid s = _
  simp only [execStagedBatchApply, hg, hb]

theorem exec_ordTicketRelease {s : State} {die : Nat} {g : Grid} {t : Ticket} (hg : s.grids = [g]) (hfree : g.ordTok = none)
    (ht : gridTicket s g.handle = some (die, t)) (hturn : ticketTurn s t = true) :
    exec (.ordTicketRelease die) s = .next (goOn (barriersAgain (releaseTicket s die t) g.handle)) := by
  change execOrdTicketRelease die s = _
  simp only [execOrdTicketRelease, hg, List.find?_singleton, hfree, ht, hturn, Option.isNone_none, beq_self_eq_true, Bool.and_self, if_true]

/- Write-combining lines (R317). -/

/-- A numbered request leaves where its controller has room, and is kept until its answer (R433). -/
theorem leaveKept_sent {s : State} {p : Packet} {link : Nat} (hw : s.withdrawn = false) :
    (leaveKept s p link).outPackets = (if linkRoom s p.path then s.outPackets ++ [p] else s.outPackets) ∧
      ∃ k ∈ (leaveKept s p link).retained, k.p = p ∧ k.sent = linkRoom s p.path := by
  by_cases h : linkRoom s p.path = true
  · have hout : (leave s p link).outPackets = s.outPackets ++ [p] := if_neg (by simp [hw])
    simp [leaveKept, h, hout]
  · simp [leaveKept, h]

/-- A request as it is numbered and sent: on the path of the moment, kept, and counted by its core where one made it (R314, R319). -/
theorem sendPacket_kept {s : State} {p : Packet} (hvc : p.vc = 0) : ∃ (q : Packet) (seqs : Tab Nat) (f : Core → Core),
    q.typ = p.typ ∧ q.dst = p.dst ∧ q.path = pathOf s ∧ (∀ k, (f k).wc = k.wc) ∧
      let t := leaveKept { s with seqOut := seqs } q (pathOf s)
      sendPacket s p = (if p.score < 832 then t.updCore p.score f else t, q) := by
  unfold sendPacket
  simp only [hvc, beq_self_eq_true, if_true, Bool.and_true, decide_eq_true_eq]
  refine ⟨_, _, _, ?_, ?_, ?_, ?_, rfl⟩
  · rfl
  · rfl
  · rfl
  · exact fun _ => rfl

theorem leaveKept_core (s : State) (p : Packet) (link c : Nat) : (leaveKept s p link).core c = s.core c := by
  obtain ⟨_, _, _, _, h⟩ := leaveKept_onlySent s p link
  rw [h]
  rfl

/-- What of a request's sending WC_LINE_TIMEOUT speaks of: what leaves, what is kept, and the buffers of the cores, which stay. -/
theorem sendPacket_request {s : State} {p : Packet} (hvc : p.vc = 0) (hw : s.withdrawn = false) :
    let t := sendPacket s p
    t.2.typ = p.typ ∧ t.2.dst = p.dst ∧ (∀ c, (t.1.core c).wc = (s.core c).wc) ∧
      t.1.outPackets = (if linkRoom s (pathOf s) then s.outPackets ++ [t.2] else s.outPackets) ∧
      ∃ k ∈ t.1.retained, k.p = t.2 ∧ k.sent = linkRoom s (pathOf s) := by
  obtain ⟨q, seqs, f, htyp, hdst, hpath, hf, he⟩ := sendPacket_kept (s := s) hvc
  obtain ⟨hout, hkept⟩ := leaveKept_sent (s := { s with seqOut := seqs }) (p := q) (link := pathOf s) hw
  rw [hpath] at hout hkept
  dsimp only at he ⊢
  rw [he]
  refine ⟨htyp, hdst, fun c => ?_, ?_⟩
  · by_cases hcore : p.score < 832
    · rw [if_pos hcore, State.core_updCore]
      by_cases hc : c = p.score
      · rw [if_pos hc, hf, leaveKept_core, hc]
        rfl
      · rw [if_neg hc, leaveKept_core]
        rfl
    · rw [if_neg hcore, leaveKept_core]
      rfl
  · by_cases hcore : p.score < 832
    · rw [if_pos hcore]
      exact ⟨hout, hkept⟩
    · rw [if_neg hcore]
      exact ⟨hout, hkept⟩

/-- WC_LINE_TIMEOUT: nothing before 2 µs; then the line leaves its buffer with a WRITE to its package (R317). -/
theorem exec_wcLineTimeout {s : State} {core line : Nat} {l : WcLine} (hl : (s.core core).wc[line]? = some l) (hw : s.withdrawn = false) :
    (s.now < l.born + 1600 → exec (.wcLineTimeout core line) s = .next s) ∧
    (l.born + 1600 ≤ s.now → ∃ t p, exec (.wcLineTimeout core line) s = .next t ∧ t.mem = s.mem ∧ t.blocks = s.blocks ∧
      t.outPackets = (if linkRoom s (pathOf s) then s.outPackets ++ [p] else s.outPackets) ∧
      (∃ k ∈ t.retained, k.p = p ∧ k.sent = linkRoom s (pathOf s)) ∧ p.typ = 1 ∧ p.dst = l.peer ∧ t.inFlight = s.inFlight ++ [(l.peer, p.seq, l)] ∧
      (t.core core).wc = (s.core core).wc.filter (fun x => x != l)) := by
  change (_ → execWcLineTimeout core line s = _) ∧ (_ → ∃ t p, execWcLineTimeout core line s = .next t ∧ _)
  simp only [execWcLineTimeout, hl]
  refine ⟨fun hyoung => by rw [if_pos hyoung], fun hold => ?_⟩
  rw [if_neg (by omega)]
  let u := s.updCore core fun k => { k with wc := k.wc.filter fun x => x != l }
  obtain ⟨htyp, hdst, hwc, hout, hkept⟩ := sendPacket_request (s := u) (p := wcPacket core l) rfl hw
  obtain ⟨seqs, cs, hsent⟩ := sendPacket_frame u (wcPacket core l)
  have hflight : (sendPacket u (wcPacket core l)).1.inFlight = s.inFlight := by
    obtain ⟨_, _, _, _, he⟩ := hsent
    rw [he]
    rfl
  refine ⟨sendLine s core l, (sendPacket u (wcPacket core l)).2, rfl, hsent.mem, hsent.blocks, hout, hkept, htyp, hdst, ?_, ?_⟩
  · exact congrArg₂ (fun fs d => fs ++ [(d, (sendPacket u (wcPacket core l)).2.seq, l)]) hflight hdst
  · refine (hwc core).trans ?_
    rw [State.core_updCore, if_pos rfl]

/- Records of a class queue (R297). -/

theorem exec_dispatchRecord_behind {s : State} {cls pos : Nat} {x : Sub} (hx : (s.queues.getD cls [])[pos]? = some x)
    (hfirst : recordFirst s cls pos = true) : exec (.dispatchRecord cls pos) s = .next s := by
  change execDispatchRecord cls pos s = _
  simp only [execDispatchRecord, hx, hfirst, Bool.or_true, if_true]

/-- A record that no other precedes is tested, and stays or leaves by what the test says. -/
theorem exec_dispatchRecord_tested {s : State} {cls pos : Nat} {x : Sub} (hx : (s.queues.getD cls [])[pos]? = some x) (htok : x.token = 0)
    (hfirst : recordFirst s cls pos = false) :
    (∀ u, testRecord s x = (u, .not) → exec (.dispatchRecord cls pos) s = .next u) ∧
    (∀ u, testRecord s x = (u, .met) →
      exec (.dispatchRecord cls pos) s = .next (leaveQueue (updQueue u cls pos fun _ => none) x)) ∧
    (∀ u st, testRecord s x = (u, .err st) →
      exec (.dispatchRecord cls pos) s = .next (decideRecord (updQueue u cls pos fun _ => none) x st)) := by
  have hgo : (x.token != 0 || recordFirst s cls pos) = false := by simp [htok, hfirst]
  change (∀ u, _ → execDispatchRecord cls pos s = _) ∧ (∀ u, _ → execDispatchRecord cls pos s = _) ∧ ∀ u st, _ → execDispatchRecord cls pos s = _
  simp only [execDispatchRecord, hx, hgo, Bool.false_eq_true, if_false]
  exact ⟨fun u hu => by rw [hu], fun u hu => by rw [hu], fun u st hu => by rw [hu]⟩

/-- Settles O44, clause by clause: BLOCK_RETIRE, GRID_COMPLETION, STAGED_BATCH_APPLY, ORD_TICKET_RELEASE, WC_LINE_TIMEOUT, DISPATCH_RECORD. -/
theorem retireAndDispatchResult : Obligations.RetireAndDispatchResult :=
  ⟨fun s grid bidx _ h => ⟨retiredState s grid bidx, exec_blockRetire h, retiredState_frame s grid bidx⟩, fun _ _ _ hg => exec_gridCompletion hg,
    fun _ _ _ _ _ hg hb => exec_stagedBatchApply hg hb, fun _ _ _ _ hg hfree ht hturn => exec_ordTicketRelease hg hfree ht hturn,
    fun _ _ _ _ hl hw => exec_wcLineTimeout hl hw, fun _ _ _ _ hx hfirst => exec_dispatchRecord_behind hx hfirst,
    fun _ _ _ _ hx htok hfirst => exec_dispatchRecord_tested hx htok hfirst⟩

end Sys2Proof.Machine
end

section
/-! SUPPORT. Copies (R264, R266): an engine operation's completion leaves memory and copies alone, a chunk that is written moves the copy's
progress on, and a copy past its last row is over once its record is written. -/

namespace Sys2Proof.Machine

open Sys2Proof Sys2Proof.Rules

/- The completion of engine operations (R117, R137). -/

/-- What a completion leaves: the state but for blocks and granules kept, and of the outstanding results only such as stood there before. -/
structure Completed (s t : State) : Prop where
  mem    : t.mem = s.mem
  copies : t.copies = s.copies
  pend   : ∀ p ∈ t.pend, p ∈ s.pend

theorem Completed.trans {s t u : State} (h : Completed s t) (h' : Completed t u) : Completed s u :=
  ⟨h'.mem.trans h.mem, h'.copies.trans h.copies, fun p hp => h.pend p (h'.pend p hp)⟩

/-- A result completed where it is the operation's. -/
def completeOf (op : Nat) (dests : Nat → List (Reg × Word)) (s : State) (p : Pend) : State :=
  if p.kind == .engine op then complete s p (dests p.who.tid) 0 else s

theorem completeOf_completed (op : Nat) (dests : Nat → List (Reg × Word)) (s : State) (p : Pend) : Completed s (completeOf op dests s p) ∧
    (p.kind = .engine op → p ∉ (completeOf op dests s p).pend) := by
  by_cases hp : p.kind = .engine op
  · have hpend : ∀ q, q ∈ (completeOf op dests s p).pend ↔ q ∈ s.pend ∧ q.id ≠ p.id := fun q => by simp [completeOf, hp, complete]
    rw [completeOf, if_pos (by simpa using hp)] at hpend ⊢
    exact ⟨⟨rfl, rfl, fun q hq => ((hpend q).1 hq).1⟩, fun _ hmem => ((hpend p).1 hmem).2 rfl⟩
  · rw [completeOf, if_neg (by simpa using hp)]
    exact ⟨⟨rfl, rfl, fun _ => id⟩, fun h => absurd h hp⟩

/-- Of a list of results none that is the operation's stays. -/
theorem completed_foldl (op : Nat) (dests : Nat → List (Reg × Word)) (l : List Pend) (s : State) :
    Completed s (l.foldl (completeOf op dests) s) ∧ ∀ p ∈ l, p.kind = .engine op → p ∉ (l.foldl (completeOf op dests) s).pend := by
  induction l generalizing s with
  | nil => exact ⟨⟨rfl, rfl, fun _ => id⟩, fun _ hp => absurd hp List.not_mem_nil⟩
  | cons q r ih =>
    obtain ⟨hq, hgone⟩ := completeOf_completed op dests s q
    obtain ⟨hr, hnone⟩ := ih (completeOf op dests s q)
    rw [List.foldl_cons]
    refine ⟨hq.trans hr, fun p hp hk hmem => ?_⟩
    rcases List.mem_cons.1 hp with rfl | hp
    · exact hgone hk (hr.pend p hmem)
    · exact hnone p hp hk hmem

theorem engDone_completed (s : State) (op : Nat) (dests : Nat → List (Reg × Word)) :
    Completed s (engDone s op dests) ∧ ∀ p ∈ (engDone s op dests).pend, p.kind ≠ .engine op := by
  obtain ⟨hc, hnone⟩ := completed_foldl op dests s.pend (dropGot s op)
  exact ⟨⟨hc.mem, hc.copies, hc.pend⟩, fun p hp hk => hnone p (hc.pend p hp) hk hp⟩

theorem engDones_completed : ∀ (ops : List Nat) (s : State), Completed s (ops.foldl (fun s o => engDone s o fun _ => []) s)
  | [], _ => ⟨rfl, rfl, fun _ => id⟩
  | o :: r, s => (engDone_completed s o fun _ => []).1.trans (engDones_completed r (engDone s o fun _ => []))

/- The end of a copy (R266). -/

/-- A copy without a SIGNAL that is over has left memory as it was, the list of copies, and every token it had raised. -/
theorem copyOver_unsignalled {c : Copy} (h : c.signal = 0) (s : State) (status : Nat) : (copyOver s c status).mem = s.mem ∧
    (∀ x ∈ (copyOver s c status).copies, x.op ≠ c.op) ∧ ∀ p ∈ (copyOver s c status).pend, p.kind ≠ .engine c.op := by
  let u : State := { s with copies := s.copies.filter fun x => x.op != c.op }
  obtain ⟨hfirst, hnone⟩ := engDone_completed u c.op fun _ => []
  have hrest : Completed (engDone u c.op fun _ => []) (copyOver s c status) := by
    simp only [copyOver, signalDoneAt, h, beq_self_eq_true, if_true, stopsDone]
    exact (engDones_completed c.stops _).trans (engDones_completed c.goes _)
  have hall := hfirst.trans hrest
  refine ⟨hall.mem, fun x hx => ?_, fun p hp => hnone p (hrest.pend p hp)⟩
  rw [hall.copies] at hx
  simpa using (List.mem_filter.1 hx).2

/-- A copy that is decided, with its record's write to be made (R264). -/
def decidedCopy (c : Copy) (state status : Nat) : Copy :=
  { c with ends := some (state, status), stage := 3, out := [], phase := 0, token := 0
           tail := [(c.by_.recVa + 48, copyTail c state status, 0)] }

theorem find?_updCopy {s : State} {c : Copy} (h : s.copies.find? (fun x => x.op == c.op) = some c) {f : Copy → Copy}
    (hf : ∀ x, (f x).op = x.op) : (updCopy s c.op f).copies.find? (fun x => x.op == c.op) = some (f c) := by
  refine (find?_replaceFirst _ f (fun x hx => by rw [hf]; exact hx) s.copies).trans ?_
  rw [h]
  rfl

theorem updCopy_const_found {s : State} {c c' : Copy} (h : s.copies.find? (fun x => x.op == c.op) = some c) (hc : c'.op = c.op) :
    (updCopy s c.op fun _ => c').copies.find? (fun x => x.op == c'.op) = some c' := by
  rw [hc]
  refine (find?_replaceFirst _ _ (fun _ _ => by simpa using hc) s.copies).trans ?_
  rw [h]
  rfl

/-- The record's last write made at this package: the copy is over. -/
theorem copyClose_written {s : State} {c : Copy} {state status : Nat} {mem : Memory}
    (hfound : s.copies.find? (fun x => x.op == c.op) = some c) (hout : engOut s c.op = false)
    (hput : Puts (copyEnd s c state status) c.by_ c.op (c.by_.recVa + 48) (copyTail c state status) mem) :
    ∃ u, copyClose s c state status = copyOver u (decidedCopy c state status) status ∧ u.mem = mem := by
  have hend : (copyEnd s c state status).copies.find? (fun x => x.op == c.op) = some (decidedCopy c state status) :=
    find?_updCopy (s := dropGot s c.op) hfound fun _ => rfl
  have hout' : engOut (updCopy { copyEnd s c state status with mem := mem } c.op fun x => { x with tail := [] }) c.op = false := hout
  refine ⟨updCopy { copyEnd s c state status with mem := mem } c.op fun x => { x with tail := [] }, ?_, rfl⟩
  unfold Puts at hput
  simp only [copyClose, hend, copyTailStep, decidedCopy, hput, hout', Bool.false_eq_true, if_false, copyWritten]

/- A step of a running copy (R266). -/

theorem copyStep_past {s : State} {c : Copy} (h : Runs s c) (hlast : c.rows ≤ c.prow) (hout : engOut s c.op = false) :
    copyStep s c = copyClose s c 3 0 := by
  simp [copyStep, h.stage, h.ends, h.stops, hlast, hout]

theorem copyStep_read {s : State} {c : Copy} {items : List (Nat × List Byte × Byte)} {n inv : Nat} (h : Runs s c) (hrow : c.prow < c.rows)
    (hread : copyRead s c = (s, .ok (items, n, inv))) :
    copyStep s c = copyWrite (updCopy s c.op fun _ => { c with out := items, ahead := n, invblk := min 65535 (c.invblk + inv) })
      { c with out := items, ahead := n, invblk := min 65535 (c.invblk + inv) } := by
  simp [copyStep, h.stage, h.ends, h.stops, Nat.not_le.2 hrow, hread]

/-- The copy after its chunk has been written: at the next row where the row is done (R266). -/
def afterChunk (c : Copy) : Copy :=
  if c.poff + c.ahead ≥ c.rowlen then { c with out := [], ahead := 0, prow := c.prow + 1, poff := 0 }
  else { c with out := [], ahead := 0, poff := c.poff + c.ahead }

/-- A chunk written at this package: memory has it, and the copy's progress is moved on. -/
theorem copyWrite_done {s : State} {c : Copy} {mem : Memory} (hfound : s.copies.find? (fun x => x.op == c.op) = some c)
    (hput : engPuts c.by_ c.op c.out s = ({ s with mem := mem }, [], .done)) :
    (copyWrite s c).mem = mem ∧ (copyWrite s c).pend = s.pend ∧
      (copyWrite s c).copies.find? (fun x => x.op == c.op) = some (afterChunk c) := by
  simp only [copyWrite, hput]
  refine ⟨rfl, rfl, find?_updCopy (s := dropGot { s with mem := mem } c.op) hfound fun x => ?_⟩
  split <;> rfl

/-- COPY_CHUNK of a copy at a chunk boundary makes one step, unless that brings the copy past its last row. -/
theorem exec_copyChunk_once {s : State} {c : Copy} (h : Runs s c)
    (hrow : ∀ c', (copyStep s c).copies.find? (fun x => x.op == c.op) = some c' → c'.prow < c'.rows) :
    exec (.copyChunk c.op) s = .next (copyStep s c) := by
  change execCopyChunk c.op s = _
  simp only [execCopyChunk, h.found, h.phase, h.out, List.isEmpty_nil, bne_self_eq_false, Bool.false_eq_true, if_false, if_true]
  cases hfound : (copyStep s c).copies.find? (fun x => x.op == c.op) with
  | none => rfl
  | some c' => simp [hrow c' hfound]

theorem exec_copyChunk_moves {s : State} {c : Copy} {items : List (Nat × List Byte × Byte)} {n inv : Nat} {mem : Memory} (h : Runs s c)
    (hrow : c.prow < c.rows) (hread : copyRead s c = (s, .ok (items, n, inv))) :
    let c1 : Copy := { c with out := items, ahead := n, invblk := min 65535 (c.invblk + inv) }
    let s1 : State := { s with copies := replaceFirst (fun x => x.op == c.op) (fun _ => c1) s.copies }
    engPuts c.by_ c.op items s1 = ({ s1 with mem := mem }, [], .done) → (c.prow + 1 < c.rows ∨ c.poff + n < c.rowlen) →
    ∃ t c', exec (.copyChunk c.op) s = .next t ∧ t.mem = mem ∧ t.pend = s.pend ∧ t.copies.find? (fun x => x.op == c.op) = some c' ∧
      c'.out = [] ∧ c'.invblk = c1.invblk ∧
      (c'.prow, c'.poff) = if c.rowlen ≤ c.poff + n then (c.prow + 1, 0) else (c.prow, c.poff + n) := by
  intro c1 s1 hput hmore
  obtain ⟨hmem, hpend, hfound⟩ := copyWrite_done (s := s1) (c := c1) (updCopy_const_found (c' := c1) h.found rfl) hput
  have hstep : copyStep s c = copyWrite s1 c1 := copyStep_read h hrow hread
  have hprog : ((afterChunk c1).prow, (afterChunk c1).poff) = if c.rowlen ≤ c.poff + n then (c.prow + 1, 0) else (c.prow, c.poff + n) := by
    simp only [afterChunk, c1, ge_iff_le]
    split <;> rfl
  have hrows : (afterChunk c1).rows = c.rows ∧ (afterChunk c1).out = [] ∧ (afterChunk c1).invblk = c1.invblk := by
    unfold afterChunk
    split <;> exact ⟨rfl, rfl, rfl⟩
  obtain ⟨hrows, hout, hinv⟩ := hrows
  have hrow' : (afterChunk c1).prow < (afterChunk c1).rows := by
    have hprow := congrArg Prod.fst hprog
    rw [hrows, show (afterChunk c1).prow = _ from hprow]
    split <;> dsimp only <;> omega
  refine ⟨copyWrite s1 c1, afterChunk c1, ?_, hmem, hpend, hfound, hout, hinv, hprog⟩
  rw [← hstep]
  refine exec_copyChunk_once h fun c' hc' => ?_
  rw [hstep, show (copyWrite s1 c1).copies.find? (fun x => x.op == c.op) = _ from hfound] at hc'
  cases hc'
  exact hrow'

theorem exec_copyChunk_ends {s : State} {c : Copy} {mem : Memory} (h : Runs s c) (hlast : c.rows ≤ c.prow) (hsig : c.signal = 0)
    (hout : engOut s c.op = false) (hput : Puts (copyEnd s c 3 0) c.by_ c.op (c.by_.recVa + 48) (copyTail c 3 0) mem) :
    ∃ t, exec (.copyChunk c.op) s = .next t ∧ t.mem = mem ∧ (∀ x ∈ t.copies, x.op ≠ c.op) ∧ ∀ p ∈ t.pend, p.kind ≠ .engine c.op := by
  obtain ⟨u, hclose, hu⟩ := copyClose_written h.found hout hput
  obtain ⟨hmem, hcopies, hpend⟩ := copyOver_unsignalled (c := decidedCopy c 3 0) hsig u 0
  have hstep : copyStep s c = copyOver u (decidedCopy c 3 0) 0 := (copyStep_past h hlast hout).trans hclose
  refine ⟨copyOver u (decidedCopy c 3 0) 0, ?_, hmem.trans hu, hcopies, hpend⟩
  rw [← hstep]
  refine exec_copyChunk_once h fun c' hc' => ?_
  rw [hstep] at hc'
  have hop : (c'.op == c.op) = true := List.find?_some (p := fun x : Copy => x.op == c.op) hc'
  exact absurd (beq_iff_eq.1 hop) (hcopies c' (List.mem_of_find?_eq_some hc'))

/-- Settles O34, clause by clause: a chunk written, and the end of a copy. -/
theorem copyChunkResult : Obligations.CopyChunkResult :=
  ⟨fun _ _ _ _ _ _ h hrow hread _ hput hmore => exec_copyChunk_moves h hrow hread hput hmore,
    fun _ _ _ h hlast hsig hout hput => exec_copyChunk_ends h hlast hsig hout hput⟩

end Sys2Proof.Machine
end

section
/-! SUPPORT. What leaves the package (R314, R315, R318, R433): answers, LINK records, kept requests and those that wait for room. -/

namespace Sys2Proof.Machine

open Sys2Proof Sys2Proof.Rules

/- Records and answers. -/

/-- A record of the queue route changes the field records, the fault queues with their header in memory, the events and the flits sent. -/
theorem queueRecAs_frame (pod : Bool) (s : State) (die : Nat) (r : FRec) : ∃ fld evs flits m ds,
    queueRecAs pod s die r = { s with field := fld, outEvents := evs, outMgmt := flits, mem := m, dies := ds } := by
  unfold queueRecAs
  cases pod <;> dsimp only [Bool.false_eq_true] <;> repeat' split
  all_goals exact ⟨_, _, _, _, _, rfl⟩

theorem linkRec_frame (s : State) (code link peer typ : Nat) : ∃ recs fld evs flits m ds,
    linkRec s code link peer typ = { s with linkRecs := recs, field := fld, outEvents := evs, outMgmt := flits, mem := m, dies := ds } := by
  unfold linkRec
  dsimp only
  generalize (s.linkRecs.any _) = old
  cases old
  case true =>
    obtain ⟨fld, evs, flits, m, ds, h⟩ := queueRecAs_frame (!true) s (link / 4) _
    exact ⟨_, _, _, _, _, _, h⟩
  case false =>
    obtain ⟨fld, evs, flits, m, ds, h⟩ := queueRecAs_frame (!false) _ (link / 4) _
    exact ⟨_, _, _, _, _, _, h⟩

/-- A packet that is no request is numbered and leaves at once. -/
theorem sendPacket_unkept {s : State} {p : Packet} (hvc : (p.vc == 0) = false) : ∃ (q : Packet) (seqs : Tab Nat),
    sendPacket s p = (leave { s with seqOut := seqs } q p.path, q) ∧ q.typ = p.typ ∧ q.dst = p.dst ∧ q.data = p.data ∧ q.tspec = p.tspec := by
  unfold sendPacket
  simp only [hvc, Bool.and_false, Bool.false_eq_true, if_false]
  exact ⟨_, _, rfl, rfl, rfl, rfl, rfl⟩

theorem leave_outPackets {s : State} (hw : s.withdrawn = false) (p : Packet) (link : Nat) :
    (leave s p link).outPackets = s.outPackets ++ [p] := if_neg (by simp [hw])

/-- An answer leaves at once, to the sender of the request (R318). -/
theorem answer_sent {s : State} {p : Packet} {typ : Nat} {fs : List (Nat × Nat × Nat)} {data : List (BitVec 64)} {seals : List Byte}
    (hw : s.withdrawn = false) : (answer s p typ fs data seals).mem = s.mem ∧ ∃ a, (answer s p typ fs data seals).outPackets = s.outPackets ++ [a] ∧
      a.typ = typ ∧ a.dst = p.src ∧ a.data = data ∧ a.tspec = tspecOf fs := by
  let r : Packet := { blankPacket with
    typ := typ, dst := p.src, vc := 1, host := p.host, hjob := p.hjob, path := p.path, score := p.score, pser := p.pser, n := data.length
    base := p.base, job := p.job, user := p.user, data := data, seals := seals, masks := data.map fun _ => 0xFF, tspec := tspecOf fs }
  obtain ⟨q, seqs, hsent, htyp, hdst, hdata, hspec⟩ := sendPacket_unkept (s := s) (p := r) rfl
  have hout : (sendPacket s r).1.outPackets = s.outPackets ++ [q] := by
    rw [hsent]
    exact leave_outPackets (s := { s with seqOut := seqs }) hw q r.path
  have hmem : (sendPacket s r).1.mem = s.mem := by rw [hsent]; rfl
  exact ⟨hmem, q, hout, htyp, hdst, hdata, hspec⟩

/- TSPEC fields (R315): a field reads back what it was made with, where the fields do not overlap. -/

/-- A field added to a number. -/
def addField (acc : Nat) (f : Nat × Nat × Nat) : Nat := acc + f.2.2 % 2 ^ (8 * f.2.1) * 2 ^ (8 * f.1)

/-- The fields ascend from byte lo without overlap and end at or below byte hi. -/
def Ascend (lo hi : Nat) : List (Nat × Nat × Nat) → Prop
  | [] => lo ≤ hi
  | f :: r => lo ≤ f.1 ∧ Ascend (f.1 + f.2.1) hi r

theorem tspecOf_toNat (fs : List (Nat × Nat × Nat)) : (tspecOf fs).toNat = fs.foldl addField 0 % 2 ^ 256 := by
  simp only [tspecOf, BitVec.toNat_ofNat, Nat.shiftLeft_eq]
  rfl

/-- Fields below byte hi leave the bytes above it zero. -/
theorem foldl_addField_lt {hi : Nat} : ∀ {fs : List (Nat × Nat × Nat)} {lo acc : Nat}, Ascend lo hi fs → acc < 2 ^ (8 * lo) →
    fs.foldl addField acc < 2 ^ (8 * hi)
  | [], _, _, h, ha => lt_of_lt_of_le ha (Nat.pow_le_pow_right (by omega) (Nat.mul_le_mul_left 8 h))
  | (o, n, x) :: r, lo, acc, h, ha => by
    obtain ⟨hlo, hr⟩ := h
    rw [List.foldl_cons]
    refine foldl_addField_lt hr ?_
    have hacc : acc < 2 ^ (8 * o) := lt_of_lt_of_le ha (Nat.pow_le_pow_right (by omega) (Nat.mul_le_mul_left 8 hlo))
    calc acc + x % 2 ^ (8 * n) * 2 ^ (8 * o) < 2 ^ (8 * o) + x % 2 ^ (8 * n) * 2 ^ (8 * o) := Nat.add_lt_add_right hacc _
      _ = (x % 2 ^ (8 * n) + 1) * 2 ^ (8 * o) := by ring
      _ ≤ 2 ^ (8 * n) * 2 ^ (8 * o) := Nat.mul_le_mul_right _ (Nat.mod_lt _ (by positivity))
      _ = 2 ^ (8 * (o + n)) := by rw [← pow_add]; congr 1; ring

/-- Fields from byte m on leave the bytes below it alone. -/
theorem foldl_addField_above {m : Nat} : ∀ {fs : List (Nat × Nat × Nat)} (acc : Nat), (∀ f ∈ fs, m ≤ f.1) →
    ∃ k, fs.foldl addField acc = acc + 2 ^ (8 * m) * k
  | [], acc, _ => ⟨0, by simp⟩
  | (o, n, x) :: r, acc, h => by
    obtain ⟨k, hk⟩ := foldl_addField_above (addField acc (o, n, x)) fun f hf => h f (List.mem_cons_of_mem _ hf)
    obtain ⟨j, hj⟩ : ∃ j, o = m + j := Nat.exists_eq_add_of_le (h _ List.mem_cons_self)
    refine ⟨x % 2 ^ (8 * n) * 2 ^ (8 * j) + k, ?_⟩
    rw [List.foldl_cons, hk, addField, hj]
    ring

theorem tfield_tspecOf {a : Packet} {below above : List (Nat × Nat × Nat)} {o n x : Nat} (h : a.tspec = tspecOf (below ++ (o, n, x) :: above))
    (hbelow : Ascend 0 o below) (habove : ∀ f ∈ above, o + n ≤ f.1) (hend : o + n ≤ 32) : tfield a o n = x % 2 ^ (8 * n) := by
  have hlow : below.foldl addField 0 < 2 ^ (8 * o) := foldl_addField_lt hbelow (by simp)
  obtain ⟨k, hk⟩ := foldl_addField_above (addField (below.foldl addField 0) (o, n, x)) habove
  obtain ⟨j, hj⟩ : ∃ j, 32 = o + n + j := Nat.exists_eq_add_of_le hend
  have hsplit : (2 : Nat) ^ 256 = 2 ^ (8 * o) * (2 ^ (8 * n) * 2 ^ (8 * j)) := by
    rw [← pow_add, ← pow_add]
    congr 1
    omega
  have hsum : addField (below.foldl addField 0) (o, n, x) + 2 ^ (8 * (o + n)) * k =
      below.foldl addField 0 + 2 ^ (8 * o) * (x % 2 ^ (8 * n) + 2 ^ (8 * n) * k) := by
    rw [addField, Nat.mul_add 8 o n, pow_add]
    ring
  rw [tfield, h, tspecOf_toNat, List.foldl_append, List.foldl_cons, hk, hsum, Nat.shiftRight_eq_div_pow, hsplit, Nat.mod_mul_right_div_self,
    Nat.mod_mul_right_mod, Nat.add_mul_div_left _ _ (by positivity), Nat.div_eq_of_lt hlow, Nat.zero_add, Nat.add_mul_mod_self_left, Nat.mod_mod]

/-- The flags of an ACK, which further fields may follow (R315). -/
theorem ack_flags (p : Packet) (flags code mask : Nat) (more : List (Nat × Nat × Nat)) {a : Packet} (hmore : ∀ f ∈ more, 6 ≤ f.1)
    (h : a.tspec = tspecOf (ackFs p flags code mask ++ more)) : tfield a 5 1 = flags % 2 ^ 8 := by
  refine tfield_tspecOf (below := [(0, 4, p.pser), (4, 1, p.path)]) (above := (6, 2, code) :: (8, 4, mask) :: more) h ?_ ?_ ?_
  · simp [Ascend]
  · simpa using hmore
  · omega
/- Requests (R433). -/

theorem leaveKept_retained (s : State) (p : Packet) (link : Nat) : (leaveKept s p link).retained =
    s.retained ++ [{ p := p, link := link, at_ := s.now, sent := linkRoom s p.path }] := by
  unfold leaveKept
  by_cases h : linkRoom s p.path = true
  · simp [h, leave]
  · simp [h]

/-- A request is kept with the numbers it gets, and leaves where there is room. -/
theorem sendPacket_retained {s : State} {p : Packet} (hvc : p.vc = 0) (hw : s.withdrawn = false) : ∃ q, (sendPacket s p).2 = q ∧
    (sendPacket s p).1.retained = s.retained ++ [{ p := q, link := pathOf s, at_ := s.now, sent := linkRoom s (pathOf s) }] ∧
    (sendPacket s p).1.outPackets = if linkRoom s (pathOf s) then s.outPackets ++ [q] else s.outPackets := by
  obtain ⟨q, seqs, f, -, -, hpath, -, he⟩ := sendPacket_kept (s := s) hvc
  have hkept := leaveKept_retained { s with seqOut := seqs } q (pathOf s)
  obtain ⟨hout, -⟩ := leaveKept_sent (s := { s with seqOut := seqs }) (p := q) (link := pathOf s) hw
  rw [hpath] at hkept hout
  dsimp only at he
  rw [he]
  refine ⟨q, rfl, ?_, ?_⟩
  · rw [apply_ite State.retained, State.updCore_retained, ite_self]
    exact hkept
  · rw [apply_ite State.outPackets, State.updCore_outPackets, ite_self]
    exact hout

/-- The one request that waits: it leaves once there is room, in the colour of the moment. -/
theorem sendWaiting_one {s : State} {k : Kept} (h : (s.retained.filter fun x => !x.sent) = [k]) (hw : s.withdrawn = false) :
    (linkRoom s k.p.path = false → sendWaiting s = s) ∧
    (linkRoom s k.p.path = true → (sendWaiting s).outPackets = s.outPackets ++ [{ k.p with col := s.colour, lvl := freeLevel s s.ringOf }] ∧
      (sendWaiting s).mem = s.mem) := by
  have hone : sendWaiting s = if linkRoom s k.p.path then leaveLate s k else s := by rw [sendWaiting, h]; rfl
  refine ⟨fun hfull => by rw [hone, hfull]; rfl, fun hroom => ⟨?_, (sendWaiting_onlySent s).mem⟩⟩
  rw [hone, if_pos hroom]
  exact if_neg (by simp [hw])

/-- ACK_TIMEOUT_RESEND: nothing before 100 µs, or for a request that has not left; then the packet leaves again (R433). -/
theorem exec_ackTimeoutResend {s : State} {idx : Nat} {k : Kept} (hk : s.retained[idx]? = some k) :
    (s.now < k.at_ + 80000 ∨ k.sent = false → exec (.ackTimeoutResend idx) s = .next s) ∧
    (k.at_ + 80000 ≤ s.now → k.sent = true → s.withdrawn = false → ∃ t, exec (.ackTimeoutResend idx) s = .next t ∧
      t.outPackets = s.outPackets ++ [k.p] ∧ t.blocks = s.blocks ∧ t.pend = s.pend) := by
  change (_ → execAckTimeoutResend idx s = _) ∧ (_ → _ → _ → ∃ t, execAckTimeoutResend idx s = .next t ∧ _)
  simp only [execAckTimeoutResend, hk]
  refine ⟨fun hyoung => ?_, fun hold hsent hw => ?_⟩
  · rw [if_pos]
    rcases hyoung with hyoung | hyoung <;> simp [hyoung]
  · obtain ⟨_, _, _, _, _, _, hrec⟩ := linkRec_frame s 0x0B03 k.link k.p.dst 0
    refine ⟨resendKept (linkRec s 0x0B03 k.link k.p.dst 0) k, ?_, ?_⟩
    · rw [if_neg]
      simp [hold, hsent, hw]
    · rw [hrec]
      exact ⟨rfl, rfl, rfl⟩

end Sys2Proof.Machine
end

section
/-! SUPPORT. Packets delivered (R315, R318, R341, R342): what the ingress does with the next packet of a stream and with a duplicate, and what
each type's delivery does. -/

namespace Sys2Proof.Machine

open Sys2Proof Sys2Proof.Rules

theorem exec_packet {i : Instr} {p : Packet} (h : Rules.packetOf i = some p) (s : State) : exec i s = .next (recvPacket s p) := by
  unfold Rules.packetOf at h
  split at h <;> cases h <;> rfl

/-- The state with a packet that has come to the ingress. -/
def atIngress (s : State) (p : Packet) : State := { s with ingress := s.ingress ++ [p], linkHeard := tset s.linkHeard p.path s.now }

/-- A duplicate's answer sent again where it is known (R318, R433). -/
def answeredAgain (s : State) (p : Packet) : State :=
  match s.answers.find? fun a => a.1 == p.src && a.2.1 == p.seq && p.vc == 0 with
  | some a => { s with outPackets := s.outPackets ++ [a.2.2] }
  | none => s

/-- A packet for this package from another waits at the ingress for its turn, unless it was delivered before or is there already. -/
theorem recvPacket_here {s : State} {p : Packet} (hdst : p.dst = s.pkg) (hsrc : p.src ≠ s.pkg) (hvc : p.vc < 2 ∨ p.vc = 3)
    (hw : s.withdrawn = false) : recvPacket s p =
      if 2 ^ 31 ≤ (p.seq + 2 ^ 32 - tget 0 s.seqIn (8 * p.src + p.vc) % 2 ^ 32) % 2 ^ 32 then
        answeredAgain s p
      else if s.ingress.any fun q => q.src == p.src && q.vc == p.vc && q.seq == p.seq then s
      else carryOn (drainIngress (atIngress s p).ingress.length (atIngress s p)) := by
  have hother : ¬(p.src == s.pkg && p.dst != s.pkg && p.host && p.vc == 0) = true := by simp [hsrc]
  have hkind : ¬(p.dst != s.pkg || p.vc == 2 || p.vc == 4) = true := by
    have h2 : p.vc ≠ 2 ∧ p.vc ≠ 4 := by omega
    simp [hdst, h2]
  have h5 : ¬5 ≤ p.vc := by omega
  unfold recvPacket
  rw [if_neg (by simp [hw]), if_neg hother, if_neg hkind, if_neg h5]
  rfl

theorem drainIngress_one {u : State} {p : Packet} (honly : u.ingress = [p]) (hnext : p.seq = tget 0 u.seqIn (8 * p.src + p.vc) % 2 ^ 32)
    (hfree : colourHeld u p = false) : drainIngress 1 u = deliver u p := by
  have hfind : u.ingress.find? (fun q => q.seq == tget 0 u.seqIn (8 * q.src + q.vc) % 2 ^ 32 && !colourHeld u q) = some p := by
    rw [honly, List.find?_singleton, hfree, ← hnext]
    simp
  rw [drainIngress, hfind]
  rfl

/-- The next packet of its stream, alone at the ingress, is delivered. -/
theorem recvPacket_next {s : State} {p : Packet} (h : Next s p) : recvPacket s p =
    carryOn (deliver { s with ingress := [p], linkHeard := tset s.linkHeard p.path s.now } p) := by
  obtain ⟨hdst, hsrc⟩ := h.here
  let u : State := { s with ingress := [p], linkHeard := tset s.linkHeard p.path s.now }
  have hu : atIngress s p = u := by rw [atIngress, h.only, List.nil_append]
  have hdrain : drainIngress 1 u = deliver u p := drainIngress_one rfl h.next h.free
  rw [recvPacket_here hdst hsrc h.vc h.up, if_neg (by rw [← h.next]; omega), if_neg (by simp [h.only]), hu]
  exact congrArg carryOn hdrain

/-- A packet delivered before is answered again (R318). -/
theorem recvPacket_duplicate {s : State} {p a : Packet} (hdst : p.dst = s.pkg) (hsrc : p.src ≠ s.pkg) (hvc : p.vc = 0)
    (hw : s.withdrawn = false) (hold : 2 ^ 31 ≤ (p.seq + 2 ^ 32 - tget 0 s.seqIn (8 * p.src) % 2 ^ 32) % 2 ^ 32)
    (ha : s.answers.find? (fun x => x.1 == p.src && x.2.1 == p.seq && p.vc == 0) = some (p.src, p.seq, a)) :
    recvPacket s p = { s with outPackets := s.outPackets ++ [a] } := by
  rw [recvPacket_here hdst hsrc (by omega) hw, if_pos (by rw [hvc]; exact hold), answeredAgain, ha]

/- Delivery. -/

/-- The state in which a delivered packet is taken: counted by stream and colour, and logged where it crossed the cut (R318, R338, R341). -/
def atDelivery (s : State) (p : Packet) : State :=
  { s with
    seqIn := tset s.seqIn (8 * p.src + p.vc) (tget 0 s.seqIn (8 * p.src + p.vc) + 1)
    colIn := if p.vc < 2 then tset s.colIn (8 * p.src + p.vc) (b2n p.col) else s.colIn
    ingress := s.ingress.filter fun q => q != p
    recvFrom := if p.vc < 2 then tset s.recvFrom (colKey p.src p.col) (tget 0 s.recvFrom (colKey p.src p.col) + 1) else s.recvFrom
    lvls := if p.vc == 0 then tset s.lvls p.src p.lvl else s.lvls
    snap := s.snap.map fun (x : Snap) =>
      if p.vc < 2 && x.phase == 1 && p.col != s.colour && p.src != s.pkg && (jobPkgs s x.job).contains p.src then
        { x with log := x.log ++ [(x.log.length, p.path, p)] } else x }

/-- What a delivered packet's type says (R315). -/
def takenByType (s : State) (p : Packet) : State :=
  match p.typ with
  | 5 | 7 | 9 => recvAnswer s p
  | 12 => { s with snap := s.snap.map fun (x : Snap) =>
      if x.job == p.job && x.epoch % 2 ^ 32 == tfield p 0 4 then { x with bal := x.bal ++ [(p.src, tfield p 4 8)] } else x }
  | _ => { s with inbox := s.inbox ++ [p] }

theorem takenByType_request {s : State} {p : Packet} (h : p.typ ∈ [1, 2, 3, 4, 6, 8, 10, 11, 13]) :
    takenByType s p = { s with inbox := s.inbox ++ [p] } := by
  unfold takenByType
  split
  case h_5 => rfl
  all_goals next ht => simp [ht] at h

theorem takenByType_burgee {s : State} {p : Packet} {sn : Snap} (h : p.typ = 12) (hsnap : s.snap = some sn) (hjob : sn.job = p.job)
    (hepoch : sn.epoch % 2 ^ 32 = tfield p 0 4) :
    takenByType s p = { s with snap := some { sn with bal := sn.bal ++ [(p.src, tfield p 4 8)] } } := by
  simp only [takenByType, h, hsnap, Option.map_some, hjob, hepoch, beq_self_eq_true, Bool.and_self, if_true]

theorem deliver_eq (s : State) (p : Packet) : deliver s p =
    if p.typ == 0 || 14 ≤ p.typ || p.ctlResvd != 0 then dropPacket (atDelivery s p) p 0x0B04
    else if p.src == s.pkg && (!p.host || !hostGranted (atDelivery s p) p.hjob) then dropPacket (atDelivery s p) p 0x0B05
    else takenByType (atDelivery s p) (if p.src == s.pkg then { p with job := p.hjob, user := p.hjob != 0 } else p) := rfl

/-- A packet of another package is taken by its type where neither that nor its CTL bits are reserved. -/
theorem deliver_taken {s : State} {p : Packet} (h : 0 < p.typ ∧ p.typ < 14) (hctl : p.ctlResvd = 0) (hsrc : p.src ≠ s.pkg) :
    deliver s p = takenByType (atDelivery s p) p := by
  have hkind : ¬(p.typ == 0 || 14 ≤ p.typ || p.ctlResvd != 0) = true := by
    have h0 : p.typ ≠ 0 := by omega
    have h14 : ¬14 ≤ p.typ := by omega
    simp [h0, h14, hctl]
  rw [deliver_eq, if_neg hkind, if_neg (by simp [hsrc]), if_neg (by simp [hsrc])]

theorem deliver_request {s : State} {p : Packet} (htyp : p.typ ∈ [1, 2, 3, 4, 6, 8, 10, 11, 13]) (hctl : p.ctlResvd = 0)
    (hsrc : p.src ≠ s.pkg) : (deliver s p).inbox = s.inbox ++ [p] ∧ (deliver s p).mem = s.mem ∧
      tget 0 (deliver s p).seqIn (8 * p.src + p.vc) = tget 0 s.seqIn (8 * p.src + p.vc) + 1 := by
  have hrange : 0 < p.typ ∧ p.typ < 14 := by
    simp only [List.mem_cons, List.not_mem_nil, or_false] at htyp
    omega
  rw [deliver_taken hrange hctl hsrc, takenByType_request htyp]
  exact ⟨rfl, rfl, (tget_tset ..).trans (if_pos rfl)⟩

theorem deliver_burgee {s : State} {p : Packet} {sn : Snap} (htyp : p.typ = 12) (hvc : p.vc = 3) (hctl : p.ctlResvd = 0)
    (hsrc : p.src ≠ s.pkg) (hsnap : s.snap = some sn) (hjob : sn.job = p.job) (hepoch : sn.epoch % 2 ^ 32 = tfield p 0 4) :
    (deliver s p).snap = some { sn with bal := sn.bal ++ [(p.src, tfield p 4 8)] } ∧ (deliver s p).inbox = s.inbox := by
  have hat : (atDelivery s p).snap = some sn := by simp [atDelivery, hvc, hsnap]
  rw [deliver_taken (by omega) hctl hsrc, takenByType_burgee htyp hat hjob hepoch]
  exact ⟨rfl, rfl⟩

/-- A reserved packet is dropped with an answer that says so. -/
theorem deliver_reserved {s : State} {p : Packet} (h : p.typ = 0 ∨ 14 ≤ p.typ ∨ p.ctlResvd ≠ 0) (hw : s.withdrawn = false) :
    ∃ a, (deliver s p).outPackets = s.outPackets ++ [a] ∧ a.typ = 7 ∧ a.dst = p.src ∧ bitOf (tfield a 5 1) 0 = true := by
  obtain ⟨_, _, _, _, _, _, hrec⟩ := linkRec_frame (atDelivery s p) 0x0B04 p.path p.src p.typ
  have hup : (linkRec (atDelivery s p) 0x0B04 p.path p.src p.typ).withdrawn = false := by rw [hrec]; exact hw
  have hsame : (linkRec (atDelivery s p) 0x0B04 p.path p.src p.typ).outPackets = s.outPackets := by rw [hrec]; rfl
  obtain ⟨-, a, hout, htyp, hdst, -, hspec⟩ := answer_sent (p := p) (typ := 7) (fs := ackFs p 1 0 0) (data := []) (seals := []) hup
  refine ⟨a, ?_, htyp, hdst, ?_⟩
  · rw [deliver_eq, if_pos (by simpa [or_assoc] using h), ← hsame]
    exact hout
  · rw [ack_flags p 1 0 0 [] (by simp) hspec]
    rfl

end Sys2Proof.Machine
end

section
/-! SUPPORT. Requests performed at this package (R68, R76, R77, R316): a granule written whole, and a granule read. -/

namespace Sys2Proof.Machine

open Sys2Proof Sys2Proof.Rules

/-- While placement is off, an access counts for no page (R68). -/
theorem noteHeat_off {s : State} (h : wEn s.placeWeights = false) (job va pa : Nat) (e : Word) (src : Nat) (write : Bool) :
    noteHeat s job va pa e src write = s := by
  rw [noteHeat, if_pos (by simp [h])]

theorem countReq_off {s : State} (h : wEn s.placeWeights = false) (p : Packet) (ls : List (Nat × Nat × XRes × Bool)) : countReq s p ls = s := by
  unfold countReq
  split
  · exact noteHeat_off h ..
  · rfl

theorem noteOperand_frame (s : State) (num g n : Nat) : ∃ ws, noteOperand s num g n = { s with opWrites := ws } := by
  unfold noteOperand
  split <;> exact ⟨_, rfl⟩

theorem foldl_fixed_of_mem {α β : Type} {f : α → β → α} {a : α} : ∀ {l : List β}, (∀ x ∈ l, f a x = a) → l.foldl f a = a
  | [], _ => rfl
  | x :: r, h => by rw [List.foldl_cons, h x List.mem_cons_self, foldl_fixed_of_mem fun y hy => h y (List.mem_cons_of_mem _ hy)]

/-- A write of bytes on which no wait and no armed entry stands is looked at by none (R233). -/
theorem afterWrite_unwaited {s : State} {pa n : Nat} (old : Memory)
    (hw : ∀ p ∈ s.pend, ∀ q od sc x, p.kind = .signal q od sc x → ¬(q / 8 * 8 < pa + n ∧ pa < q / 8 * 8 + 8))
    (ha : ∀ d, ∀ a ∈ (s.die d).arms, ¬(a.obj / 8 * 8 < pa + n ∧ pa < a.obj / 8 * 8 + 8)) : afterWrite s old pa n = s := by
  refine foldl_fixed_of_mem fun i hi => ?_
  have hi := List.mem_range.1 hi
  have hword : ∀ q, q = 8 * (pa / 8 + i) → q / 8 * 8 < pa + n ∧ pa < q / 8 * 8 + 8 := by omega
  refine if_neg ?_
  rw [Bool.or_eq_true, not_or, List.any_eq_true, List.any_eq_true]
  refine ⟨fun ⟨p, hp, hk⟩ => ?_, fun ⟨a, hmem, hobj⟩ => ha _ a hmem (hword _ (beq_iff_eq.1 hobj))⟩
  split at hk
  case h_1 q od sc x hkind => exact hw p hp q od sc x hkind (hword q (beq_iff_eq.1 hk))
  case h_2 => cases hk

/-- A whole granule that came with its seal is in memory, sound (R76, R77). -/
theorem writeEntry_whole {u : State} {p : Packet} {va pa : Nat} (hm : p.masks = [0xFF]) (hpa : pa % 8 = 0)
    (hs : p.seals = [seal8 (leBytes (p.data.getD 0 0).toNat 8) (va / 8 * 8)]) (hp : Plain u p.job va pa 8) : ∃ ws,
    writeEntry u p 0 va pa =
      ({ u with opWrites := ws, mem := u.mem.writeGranule (pa / 8) (leBytes (p.data.getD 0 0).toNat 8) 0 }, none, false) := by
  obtain ⟨ws, hnote⟩ := noteOperand_frame u u.nextId (pa / 8) 1
  let t : State := { u with opWrites := ws, mem := u.mem.writeGranule (pa / 8) (leBytes (p.data.getD 0 0).toNat 8) 0 }
  have hgran : 8 * (pa / 8) = pa := by omega
  have hrw : roByte (8 * (pa / 8)) = false := by
    have := hp.above
    simp only [roByte, hgran, Bool.and_eq_false_iff, decide_eq_false_iff_not]
    omega
  have hlook : afterWrite t u.mem (8 * (pa / 8)) 8 = t := by
    rw [hgran]
    exact afterWrite_unwaited u.mem hp.waits hp.arms
  refine ⟨ws, ?_⟩
  rw [writeEntry]
  simp only [hm, hs, List.getD_cons_zero, BitVec.xor_self, hnote, Memory.putGranule, hrw, Bool.false_eq_true, if_false]
  exact congrArg (·, none, false) hlook

/-- A WRITE or READ whose one granule lies here is performed. -/
theorem performReq_here {s u : State} {p : Packet} {va pa : Nat} {e : Word} (htyp : p.typ = 1 ∧ tfield p 31 1 = 0 ∨ p.typ = 3)
    (hloc : reqLocs s p = (u, [(0, va, .here pa e, false)])) (hfree : reqWrites p = true → writeHeld u p.job va = false) :
    performReq s p = some (if p.typ = 3 then performReads u p [(0, va, .here pa e, false)] else performWrites u p [(0, va, .here pa e, false)]) := by
  rcases htyp with ⟨h, hmove⟩ | h
  · simpa [performReq, h, hmove, hloc] using hfree
  · simpa [performReq, h, hloc] using hfree

/-- The ACK of a request that met no fault, with the holder's entry (R318). -/
theorem performWrites_whole {u : State} {p : Packet} {va pa : Nat} {e : Word} (htyp : p.typ = 1) (hm : p.masks = [0xFF]) (hpa : pa % 8 = 0)
    (hs : p.seals = [seal8 (leBytes (p.data.getD 0 0).toNat 8) (va / 8 * 8)]) (hp : Plain u p.job va pa 8)
    (hoff : wEn u.placeWeights = false) : ∃ ws,
    performWrites u p [(0, va, .here pa e, false)] =
      answer { u with opWrites := ws, mem := u.mem.writeGranule (pa / 8) (leBytes (p.data.getD 0 0).toNat 8) 0 } p 7
        (ackFs p 0 0 0 ++ leafFs e) [] [] := by
  obtain ⟨ws, hentry⟩ := writeEntry_whole hm hpa hs hp
  refine ⟨ws, ?_⟩
  have hcount := countReq_off
    (s := { u with opWrites := ws, mem := u.mem.writeGranule (pa / 8) (leBytes (p.data.getD 0 0).toNat 8) 0 }) hoff p [(0, va, .here pa e, false)]
  have hflag : (p.typ == 6) = false := by simp [htyp]
  simp only [performWrites, List.head?_cons, hp.dsm, List.foldl_cons, List.foldl_nil, hflag, hentry, hcount, Bool.false_eq_true, if_false]
  rfl

theorem performReq_write {s u : State} {p : Packet} {va pa : Nat} {e : Word} (htyp : p.typ = 1) (hmove : tfield p 31 1 = 0)
    (hm : p.masks = [0xFF]) (hpa : pa % 8 = 0) (hs : p.seals = [seal8 (leBytes (p.data.getD 0 0).toNat 8) (va / 8 * 8)])
    (hloc : reqLocs s p = (u, [(0, va, .here pa e, false)])) (hp : Plain u p.job va pa 8) (hoff : wEn u.placeWeights = false)
    (hw : u.withdrawn = false) :
    ∃ t a, performReq s p = some t ∧ t.mem = u.mem.writeGranule (pa / 8) (leBytes (p.data.getD 0 0).toNat 8) 0 ∧
      t.outPackets = u.outPackets ++ [a] ∧ a.typ = 7 ∧ a.dst = p.src ∧ tfield a 5 1 = 0 := by
  obtain ⟨ws, hperf⟩ := performWrites_whole (e := e) htyp hm hpa hs hp hoff
  obtain ⟨hmem, a, hout, hatyp, hdst, -, hspec⟩ := answer_sent
    (s := { u with opWrites := ws, mem := u.mem.writeGranule (pa / 8) (leBytes (p.data.getD 0 0).toNat 8) 0 }) (p := p) (typ := 7)
    (fs := ackFs p 0 0 0 ++ leafFs e) (data := []) (seals := []) hw
  refine ⟨_, a, ?_, hmem, hout, hatyp, hdst, ack_flags p 0 0 0 (leafFs e) (by simp [leafFs]) hspec⟩
  rw [performReq_here (.inl ⟨htyp, hmove⟩) hloc fun _ => hp.free, if_neg (by simp [htyp]), hperf]

theorem performReq_read {s u : State} {p : Packet} {va pa : Nat} {e : Word} (htyp : p.typ = 3)
    (hloc : reqLocs s p = (u, [(0, va, .here pa e, false)])) (hoff : wEn u.placeWeights = false) (hw : u.withdrawn = false) :
    ∃ t a, performReq s p = some t ∧ t.mem = u.mem ∧ t.outPackets = u.outPackets ++ [a] ∧ a.typ = 5 ∧ a.dst = p.src ∧
      a.data = [BitVec.ofNat 64 (leNat (u.mem.read (pa / 8 * 8) 8))] := by
  have hread : reqWrites p = false := by simp [reqWrites, htyp]
  rw [performReq_here (.inr htyp) hloc (by simp [hread]), if_pos htyp, performReads, countReq_off hoff]
  obtain ⟨hmem, a, hout, hatyp, hdst, hdata, -⟩ := answer_sent (s := u) (p := p) (typ := 5) (fs := dataFs p ++ leafFs e)
    (data := [BitVec.ofNat 64 (leNat (u.mem.read (pa / 8 * 8) 8))])
    (seals := [seal8 (u.mem.read (pa / 8 * 8) 8) (va / 8 * 8) ^^^ u.mem.err (pa / 8)]) hw
  exact ⟨_, a, rfl, hmem, hout, hatyp, hdst, hdata⟩

end Sys2Proof.Machine
end

section
/-! SUPPORT. Answers (R210, R315, R319, R433): what an acknowledgement of stores leaves of the requests kept and of the stores on the way. -/

namespace Sys2Proof.Machine

open Sys2Proof Sys2Proof.Rules

theorem countAck_frame (s : State) (p : Packet) : ∃ cs, countAck s p = { s with cores := cs } := by
  unfold countAck
  split
  · exact ⟨s.cores, rfl⟩
  · exact ⟨_, rfl⟩

/-- With no ticket outstanding a store's last piece changes its thread's count alone (R210, R225). -/
theorem remoteDone_unordered {s : State} (h : ∀ d, (s.die d).tickets = []) (who : Tref) (id : Nat) :
    ∃ bs, remoteDone s who id = { s with blocks := bs } := by
  unfold remoteDone
  split
  · exact ⟨s.blocks, rfl⟩
  · simp only [h, List.find?_nil, Option.map_none, List.findSome?_eq_none_iff.2 fun _ _ => rfl]
    unfold storeGone
    split
    · exact ⟨s.blocks, rfl⟩
    · exact ⟨_, rfl⟩

theorem remotesDone_unordered : ∀ (ws : List (Nat × Tref)) {s : State}, (∀ d, (s.die d).tickets = []) →
    ∃ bs, ws.foldl (fun s w => if w.2.grid < 2 ^ 40 then remoteDone s w.2 w.1 else s) s = { s with blocks := bs }
  | [], s, _ => ⟨s.blocks, rfl⟩
  | w :: r, s, h => by
    rw [List.foldl_cons]
    by_cases hw : w.2.grid < 2 ^ 40
    · obtain ⟨bs, hbs⟩ := remoteDone_unordered h w.2 w.1
      rw [if_pos hw, hbs]
      exact remotesDone_unordered r (s := { s with blocks := bs }) h
    · rw [if_neg hw]
      exact remotesDone_unordered r h

/-- The stores a packet carried are on the way no longer. -/
theorem storesDone_unordered {s : State} (h : ∀ d, (s.die d).tickets = []) (k : Packet) : ∃ bs fs,
    storesDone s k = { s with blocks := bs, inFlight := fs } ∧
      ((∃ f ∈ s.inFlight, f.1 = k.dst ∧ f.2.1 = k.seq) → fs = s.inFlight.filter fun g => !(g.1 == k.dst && g.2.1 == k.seq)) := by
  unfold storesDone
  split
  case h_1 hnone =>
    refine ⟨s.blocks, s.inFlight, rfl, fun ⟨f, hf, hd, hq⟩ => ?_⟩
    exact absurd (List.find?_eq_none.1 hnone f hf) (by simp [hd, hq])
  case h_2 f hf =>
    obtain ⟨bs, hbs⟩ := remotesDone_unordered f.2.2.whos
      (s := { s with inFlight := s.inFlight.filter fun g => !(g.1 == k.dst && g.2.1 == k.seq) }) h
    exact ⟨bs, _, hbs, fun _ => rfl⟩

/-- No access, engine, shootdown or flush waits for an answer, and no ticket is outstanding. -/
structure NoneAsks (s : State) : Prop where
  pend    : s.pend = []
  asks    : s.engAsks = []
  shoots  : s.shoots = []
  flushes : ∀ g ∈ s.grids, g.flushSent = none
  tickets : ∀ d, (s.die d).tickets = []

theorem flushAnswered_none {s : State} (h : ∀ g ∈ s.grids, g.flushSent = none) (dst seq : Nat) : flushAnswered s dst seq = s := by
  have hnone : s.grids.find? (fun g => g.flushSent == some (dst, seq)) = none := List.find?_eq_none.2 fun g hg => by simp [h g hg]
  rw [flushAnswered, hnone]

theorem shootsAgain_none {s : State} (h : s.shoots = []) : shootsAgain s = { s with shoots := [] } := by
  rw [shootsAgain, h]
  rfl

/-- The stores of an acknowledged request are performed, and nothing else goes on. -/
theorem storesDone_noneAsks {s : State} (h : NoneAsks s) (k : Packet) (f : State → Pend → State) :
    let t := flushAnswered (storesDone s k) k.dst k.seq
    let u := shootsAgain ((t.pend.filter (waitsFor k)).foldl f t)
    u.mem = s.mem ∧ u.retained = s.retained ∧ ((∃ f ∈ s.inFlight, f.1 = k.dst ∧ f.2.1 = k.seq) →
      u.inFlight = s.inFlight.filter fun g => !(g.1 == k.dst && g.2.1 == k.seq)) := by
  obtain ⟨bs, fs, hdone, hfs⟩ := storesDone_unordered h.tickets k
  let t : State := { s with blocks := bs, inFlight := fs }
  have hpend : t.pend.filter (waitsFor k) = [] := by rw [show t.pend = [] from h.pend]; rfl
  have hflush : flushAnswered t k.dst k.seq = t := flushAnswered_none (s := t) h.flushes k.dst k.seq
  have hshoots : shootsAgain t = { t with shoots := [] } := shootsAgain_none (s := t) h.shoots
  rw [hdone, hflush]
  simp only [hpend, List.foldl_nil, hshoots]
  exact ⟨rfl, rfl, hfs⟩

/-- An ACK that nothing waits for but the stores of its request. -/
theorem requestDone_stores {s : State} {k a : Packet} (h : NoneAsks s) (htyp : a.typ = 7) :
    (requestDone s k a).mem = s.mem ∧ (requestDone s k a).retained = s.retained ∧
      ((∃ f ∈ s.inFlight, f.1 = k.dst ∧ f.2.1 = k.seq) →
        (requestDone s k a).inFlight = s.inFlight.filter fun g => !(g.1 == k.dst && g.2.1 == k.seq)) := by
  have hatom : (a.typ == 9) = false := by simp [htyp]
  unfold requestDone
  simp only [h.asks, h.shoots, hatom, Bool.false_and, Bool.false_eq_true, if_false, List.filter_nil, List.flatMap_nil, List.map_nil, List.any_nil]
  refine storesDone_noneAsks ?_ k _
  exact ⟨h.pend, rfl, rfl, h.flushes, h.tickets⟩

/-- An acknowledgement that stands for nothing but stores: the request is no longer kept, one that waits may leave, and the stores are performed. -/
theorem recvAnswer_ack {s : State} {a : Packet} {k : Kept} (hkept : keptFor s a = some k) (hhost : k.p.host = false) (hfwd : s.fwds = [])
    (htyp : a.typ = 7) (hflags : tfield a 5 1 = 0) (hleaf : tfield a 31 1 = 0) (h : NoneAsks s) :
    (recvAnswer s a).mem = s.mem ∧ (recvAnswer s a).retained = (sendWaiting { s with retained := s.retained.filter fun x => x != k }).retained ∧
      ((∃ f ∈ s.inFlight, f.1 = k.p.dst ∧ f.2.1 = k.p.seq) →
        (recvAnswer s a).inFlight = s.inFlight.filter fun g => !(g.1 == k.p.dst && g.2.1 == k.p.seq)) := by
  obtain ⟨_, _, _, ret, hsent⟩ := sendWaiting_onlySent { s with retained := s.retained.filter fun x => x != k }
  obtain ⟨cs, hcount⟩ := countAck_frame (sendWaiting { s with retained := s.retained.filter fun x => x != k }) k.p
  let u := countAck (sendWaiting { s with retained := s.retained.filter fun x => x != k }) k.p
  have hnone : NoneAsks u := by
    simp only [u, hcount, hsent]
    exact ⟨h.pend, h.asks, h.shoots, h.flushes, h.tickets⟩
  have hfwds : (sendWaiting { s with retained := s.retained.filter fun x => x != k }).fwds = [] := by rw [hsent]; exact hfwd
  have hinstall : installEntry u k.p a = u := if_pos (by simp [hleaf])
  have hdone : recvAnswer s a = requestDone u k.p a := by
    unfold recvAnswer
    simp only [hkept, hhost, hfwds, hflags, show ∀ i, bitOf 0 i = false from fun i => by simp [bitOf], List.find?_nil, Bool.false_and,
      Bool.and_false, Bool.false_eq_true, if_false]
    exact congrArg (fun t => requestDone t k.p a) hinstall
  obtain ⟨hmem, hret, hflight⟩ := requestDone_stores (k := k.p) hnone htyp
  rw [hdone]
  refine ⟨?_, ?_, ?_⟩
  · rw [hmem]; simp only [u, hcount, hsent]
  · rw [hret]; simp only [u, hcount]
  · have : u.inFlight = s.inFlight := by simp only [u, hcount, hsent]
    rwa [this] at hflight

/-- Settles O47, clause by clause: a packet's arrival, its turn, a duplicate; delivery of a request, a reserved packet, a BURGEE; a WRITE, a READ;
an acknowledgement; re-sending; a request sent, and one that waits. -/
theorem packetResult : Obligations.PacketResult :=
  ⟨fun s _ _ hp => exec_packet hp s, fun _ _ h => recvPacket_next h,
    fun _ _ _ hdst hsrc hvc hw hold ha => recvPacket_duplicate hdst hsrc hvc hw hold ha,
    fun _ _ htyp hctl hsrc => deliver_request htyp hctl hsrc, fun _ _ h hw => deliver_reserved h hw,
    fun _ _ _ htyp hvc hctl hsrc hsnap hjob hepoch => deliver_burgee htyp hvc hctl hsrc hsnap hjob hepoch,
    fun _ _ _ _ _ _ htyp hmove _ hm hpa hs hloc hp hoff hw => performReq_write htyp hmove hm hpa hs hloc hp hoff hw,
    fun _ _ _ _ _ _ htyp hloc hoff hw => performReq_read htyp hloc hoff hw,
    fun _ _ _ hkept hhost hfwd htyp hflags hleaf hpend hasks hshoots hflush htickets =>
      recvAnswer_ack hkept hhost hfwd htyp hflags hleaf ⟨hpend, hasks, hshoots, hflush, htickets⟩,
    fun _ _ _ hk => exec_ackTimeoutResend hk, fun _ _ hvc hw => sendPacket_retained hvc hw, fun _ _ h hw => sendWaiting_one h hw⟩

end Sys2Proof.Machine
end

section
/-! SUPPORT. Canonical memory through the shapes the model's functions are written in: a loop over a list, a choice, a result beside the state. -/

namespace Sys2Proof.Machine

open Sys2Proof

theorem foldl_mem {α : Type} {f : State → α → State} (hf : ∀ s x, (f s x).mem = s.mem) : ∀ (l : List α) {s : State}, (l.foldl f s).mem = s.mem
  | [], _ => rfl
  | x :: r, s => (foldl_mem hf r).trans (hf s x)

theorem foldl_wf {α : Type} {f : State → α → State} (hf : ∀ s x, s.mem.wf = true → (f s x).mem.wf = true) :
    ∀ (l : List α) {s : State}, s.mem.wf = true → (l.foldl f s).mem.wf = true
  | [], _, h => h
  | x :: r, s, h => foldl_wf hf r (hf s x h)

theorem foldl_fst_wf {α β : Type} {f : State × β → α → State × β} (hf : ∀ p x, p.1.mem.wf = true → (f p x).1.mem.wf = true) :
    ∀ (l : List α) {p : State × β}, p.1.mem.wf = true → (l.foldl f p).1.mem.wf = true
  | [], _, h => h
  | x :: r, p, h => foldl_fst_wf hf r (hf p x h)

theorem foldl_memory_wf {α : Type} {f : Memory → α → Memory} (hf : ∀ m x, m.wf = true → (f m x).wf = true) :
    ∀ (l : List α) {m : Memory}, m.wf = true → (l.foldl f m).wf = true
  | [], _, h => h
  | x :: r, m, h => foldl_memory_wf hf r (hf m x h)

@[simp] theorem mem_ite (c : Prop) [Decidable c] (s t : State) : (if c then s else t).mem = if c then s.mem else t.mem := apply_ite ..

@[simp] theorem fst_ite {β : Type} (c : Prop) [Decidable c] (x y : State × β) : (if c then x else y).1 = if c then x.1 else y.1 :=
  apply_ite ..

/-- The state a result came with, where the model takes the pair apart. -/
theorem wf_of_eq {β : Type} {x : State × β} {t : State} {r : β} (e : x = (t, r)) (h : x.1.mem.wf = true) : t.mem.wf = true := by
  rwa [e] at h

/-- What an instruction or a happening answers has canonical memory. -/
def OutcomeWf : Host.Outcome State Fault Refusal → Prop
  | .next t => t.mem.wf = true
  | _ => True

theorem next_wf {t : State} (h : t.mem.wf = true) : OutcomeWf (.next t) := h

/- The model's other operations on a memory. -/

theorem Memory.put_wf {m : Memory} (h : m.wf = true) (a : Nat) (bs : List Byte) : (m.put a bs).wf = true := m.write_wf _ _ h

theorem Memory.putLeaf_wf {m : Memory} (h : m.wf = true) (a : Nat) (e : Word) : (m.putLeaf a e).wf = true := by
  unfold Memory.putLeaf
  split
  · exact foldl_memory_wf (fun m _ hm => m.writeNum_wf _ _ _ hm) _ h
  · exact m.writeNum_wf _ _ _ h

theorem Memory.putErr_wf {m : Memory} (h : m.wf = true) (a : Nat) (bs : List Byte) (err : Byte) : (m.putErr a bs err).wf = true :=
  m.writeGranule_wf _ _ _ h

theorem Memory.putGranule_wf {m : Memory} (h : m.wf = true) (q : Nat) (bs : List Byte) (e : Byte) : (m.putGranule q bs e).wf = true := by
  unfold Memory.putGranule
  split
  · exact h
  · exact m.writeGranule_wf _ _ _ h

end Sys2Proof.Machine
end

section
/-! SUPPORT. Canonical memory: the shared operations. -/

namespace Sys2Proof.Machine

open Sys2Proof

variable {bs : List Byte} {s : State} {va j die code page job n gid bidx grid idx peer typ link : Nat} {ring : Ring}
  {touch write user pod : Bool} {exts : List Extent} {r : FRec} {resume : Va} {b : Block} {th : Thread} {ths : List Thread} {g : Group}
  {add : List Window} {addr detail : Word} {k : Block → Group → State} {i : Instr} {f : Block → Group → Member → Thread → Thread}
  {p : Pend} {dests : List (Reg × Word)}

theorem hwWrite_wf {t : State} (h : s.mem.wf = true) (e : hwWrite s j va bs = some t) : t.mem.wf = true := by
  unfold hwWrite at e
  split at e
  · simp at e
  · obtain rfl := Option.some.inj e
    exact s.mem.write_wf _ _ h

theorem takeFrame_wf {t : State} (h : s.mem.wf = true) (e : takeFrame s ring = some (n, t)) : t.mem.wf = true := by
  simp only [takeFrame, Option.ite_none_right_eq_some, Option.some.injEq, Prod.mk.injEq] at e
  obtain ⟨-, -, rfl⟩ := e
  exact s.mem.writeNum_wf _ _ _ h

@[simp] theorem agentLookup_mem : (agentLookup s die j va).1.mem = s.mem := by
  simp only [agentLookup]
  (repeat' split) <;> simp

@[simp] theorem firstTouch_wf (h : s.mem.wf = true) : (firstTouch s die j va).1.mem.wf = true := by
  simp only [firstTouch]
  split
  · exact h
  · split
    · exact h
    · split
      · exact h
      next e => exact Memory.putLeaf_wf (Memory.clear_wf _ _ _ (takeFrame_wf h e)) _ _

@[simp] theorem translateGen_wf (h : s.mem.wf = true) : (translateGen touch s die j exts va write user).1.mem.wf = true := by
  simp only [translateGen]
  (repeat' split) <;> simp [h]

@[simp] theorem translate_wf (h : s.mem.wf = true) : (translate s die j exts va write user).1.mem.wf = true := by
  simp [translate, h]

@[simp] theorem translateCode_wf (h : s.mem.wf = true) : (translateCode s die j exts va user).1.mem.wf = true := by
  simp [translateCode, h]

@[simp] theorem countFault_mem : (countFault s code).mem = s.mem := rfl

@[simp] theorem queueRecAs_wf (h : s.mem.wf = true) : (queueRecAs pod s die r).mem.wf = true := by
  simp only [queueRecAs]
  (repeat' split) <;> simp [h, Memory.writeNum_wf]

@[simp] theorem queueRec_wf (h : s.mem.wf = true) : (queueRec s die r).mem.wf = true := by
  simp [queueRec, h]

@[simp] theorem waitEntry_mem : (waitEntry s die job page).1.mem = s.mem := by
  simp only [waitEntry]
  (repeat' split) <;> simp

theorem takeTrap_wf {t : State} (h : s.mem.wf = true) (e : takeTrap s b th r resume = some t) : t.mem.wf = true := by
  simp only [takeTrap] at e
  split at e
  · simp at e
  · split at e
    · simp at e
    next hw =>
      obtain rfl := Option.some.inj e
      simpa using hwWrite_wf h hw

@[simp] theorem trapOrPark_wf {resume : Thread → Va} (h : s.mem.wf = true) : (trapOrPark die r gid resume ths s n).mem.wf = true := by
  induction ths generalizing s n with
  | nil =>
    simp only [trapOrPark]
    split <;> simp [h]
  | cons th ths ih =>
    simp only [trapOrPark]
    split
    · exact h
    · split
      next e => exact ih (by simpa using takeTrap_wf (by simpa using h) e)
      · exact ih (by simpa using h)

@[simp] theorem endTraps_wf (h : s.mem.wf = true) : (endTraps s grid bidx).mem.wf = true := by
  simp only [endTraps]
  split
  · exact h
  · refine foldl_wf (fun s x hs => trapOrPark_wf ?_) _ h
    rw [foldl_mem fun _ _ => State.updThread_mem ..]
    split <;> simp [hs]

@[simp] theorem settleGroup_wf (h : s.mem.wf = true) : (settleGroup s grid bidx gid).mem.wf = true := by
  simp only [settleGroup]
  (repeat' split) <;> simp [h]

@[simp] theorem settleBlock_wf (h : s.mem.wf = true) : (settleBlock s grid bidx).mem.wf = true := by
  simp only [settleBlock]
  split
  · exact h
  · exact foldl_wf (fun _ _ hs => settleGroup_wf hs) _ h

@[simp] theorem advance_wf (h : s.mem.wf = true) : (advance s b g n add).mem.wf = true := by
  simp [advance, h]

@[simp] theorem advanceIn_wf (h : s.mem.wf = true) : (advanceIn s grid bidx gid n add).mem.wf = true := by
  simp only [advanceIn]
  (repeat' split) <;> simp [h]

@[simp] theorem threadFault_wf (h : s.mem.wf = true) : (threadFault s b g ths code idx addr detail).mem.wf = true := by
  simp only [threadFault]
  exact settleGroup_wf (trapOrPark_wf h)

@[simp] theorem groupFault_wf (h : s.mem.wf = true) : (groupFault s b g code idx detail).mem.wf = true := by
  simp [groupFault, h]

theorem issue_wf (h : s.mem.wf = true) (hk : ∀ b g, (k b g).mem.wf = true) : OutcomeWf (issue i s k) := by
  simp only [issue, OutcomeWf]
  split
  · exact h
  · split
    · simp [h]
    · exact hk ..

theorem onLanes_wf (h : s.mem.wf = true) : OutcomeWf (onLanes i s f) := issue_wf h fun _ _ => advance_wf h

@[simp] theorem complete_mem {f : BitVec 6} : (complete s p dests f).mem = s.mem := rfl

@[simp] theorem addPend_mem : (addPend s p).mem = s.mem := by
  simp [addPend]

@[simp] theorem linkRec_wf (h : s.mem.wf = true) : (linkRec s code link peer typ).mem.wf = true := by
  simp [linkRec, h]

end Sys2Proof.Machine
end

section
/-! SUPPORT. Canonical memory: packets, events and submissions. -/

namespace Sys2Proof.Machine

open Sys2Proof

variable {s : State} {link typ core job va die n sc pkg : Nat} {p : Packet} {k : Kept} {e : Event} {m : Mgmt} {data : List (BitVec 64)}
  {seals : List Byte} {fs : List (Nat × Nat × Nat)} {l : WcLine} {user : Bool} {xs : List Nat} {subs : List Sub} {x : Sub}

@[simp] theorem leave_mem : (leave s p link).mem = s.mem := rfl

@[simp] theorem leaveKept_mem : (leaveKept s p link).mem = s.mem := by
  simp [leaveKept]

@[simp] theorem leaveLate_mem : (leaveLate s k).mem = s.mem := rfl

@[simp] theorem sendWaiting_mem : (sendWaiting s).mem = s.mem := by
  unfold sendWaiting
  exact foldl_mem (fun _ _ => by simp) _

@[simp] theorem sendPacket_mem : (sendPacket s p).1.mem = s.mem := by
  simp [sendPacket]

@[simp] theorem sendEvent_mem : (sendEvent s e).mem = s.mem := rfl

@[simp] theorem sendMgmt_mem : (sendMgmt s m).mem = s.mem := rfl

@[simp] theorem answer_mem : (answer s p typ fs data seals).mem = s.mem := by
  simp [answer]

@[simp] theorem sendLine_mem : (sendLine s core l).mem = s.mem := by
  simp [sendLine]

@[simp] theorem sendLines_mem {p : WcLine → Bool} : (sendLines s core p).mem = s.mem := by
  unfold sendLines
  exact foldl_mem (fun _ _ => by simp) _

@[simp] theorem readAs_wf (h : s.mem.wf = true) : (readAs s die job va user sc n).1.mem.wf = true := by
  induction n generalizing s va with
  | zero => exact h
  | succ n ih =>
    simp only [readAs]
    repeat' split
    all_goals apply_rules [translate_wf, wf_of_eq]

@[simp] theorem boundAt_wf {l : Launch} (h : s.mem.wf = true) : (boundAt s job user l).1.mem.wf = true := by
  simp only [boundAt]
  repeat' split
  all_goals apply_rules [readAs_wf, wf_of_eq]

@[simp] theorem launchAt_wf (h : s.mem.wf = true) : (launchAt s va job user).1.mem.wf = true := by
  simp only [launchAt]
  repeat' split
  all_goals apply_rules [readAs_wf, boundAt_wf, wf_of_eq]

@[simp] theorem launchesAt_wf (h : s.mem.wf = true) : (launchesAt s job user xs).1.mem.wf = true := by
  induction xs generalizing s with
  | nil => exact h
  | cons va r ih =>
    simp only [launchesAt]
    repeat' split
    all_goals apply_rules [launchAt_wf, wf_of_eq]

@[simp] theorem vasAt_wf (h : s.mem.wf = true) : (vasAt s va n job user).1.mem.wf = true := by
  simp only [vasAt]
  repeat' split
  all_goals apply_rules [readAs_wf, wf_of_eq]

@[simp] theorem graphAt_wf (h : s.mem.wf = true) : (graphAt s va job user).1.mem.wf = true := by
  simp only [graphAt]
  repeat' split
  all_goals apply_rules [readAs_wf, vasAt_wf, launchesAt_wf, wf_of_eq]

@[simp] theorem graphsAt_wf (h : s.mem.wf = true) : (graphsAt s job user xs).1.mem.wf = true := by
  induction xs generalizing s with
  | nil => exact h
  | cons va r ih =>
    simp only [graphsAt]
    repeat' split
    all_goals apply_rules [graphAt_wf, wf_of_eq]

theorem enqueue_wf {t : State} (e : enqueue s subs = some t) (h : s.mem.wf = true) : t.mem.wf = true := by
  simp only [enqueue, Option.ite_none_left_eq_some, Option.some.injEq] at e
  rwa [← e.2]

@[simp] theorem invalidRec_wf (h : s.mem.wf = true) : (invalidRec s x).mem.wf = true := by
  simp [invalidRec, h]

@[simp] theorem submit_wf (h : s.mem.wf = true) : (submit s x).1.mem.wf = true := by
  unfold submit
  repeat' split
  all_goals grind [invalidRec_wf, readAs_wf, launchAt_wf, graphAt_wf, vasAt_wf, graphsAt_wf, enqueue_wf]

@[simp] theorem dispAsk_mem : (dispAsk s job user va pkg).mem = s.mem := by
  simp [dispAsk]

@[simp] theorem submitNow_wf (h : s.mem.wf = true) : (submitNow s x).1.mem.wf = true := by
  unfold submitNow
  repeat' split
  all_goals grind [dispAsk_mem, waitEntry_mem, queueRec_wf, submit_wf]

end Sys2Proof.Machine
end

section
/-! SUPPORT. Canonical memory: writes performed at this package. -/

namespace Sys2Proof.Machine

open Sys2Proof

variable {va job id pa code die status n g0 num grid gran bidx off core : Nat} {s : State} {p : Pend} {w : PWrite} {k : PendKind}
  {user set : Bool} {put : State → Nat → Word → State} {a : Arm} {v detail : Word} {old : Memory} {bs : List Byte} {who : Tref}

@[simp] theorem noteDsm_wf (h : s.mem.wf = true) : (noteDsm s job va).mem.wf = true := by
  simp only [noteDsm]
  (repeat' split) <;> simp [h, Memory.putLeaf_wf]

@[simp] theorem answerWait_mem {w : Word} : (answerWait s p w).mem = s.mem := by
  simp only [answerWait]
  split <;> simp

@[simp] theorem setKind_mem : (setKind s id k).mem = s.mem := rfl

@[simp] theorem drawTicket_mem : (drawTicket s id).mem = s.mem := rfl

@[simp] theorem wakeWaits_mem : (wakeWaits s pa).mem = s.mem := by
  refine foldl_mem (fun _ _ => ?_) _
  repeat' split
  all_goals simp

@[simp] theorem sigFault_wf (h : s.mem.wf = true) : (sigFault s die job user va status code).mem.wf = true := by
  simp only [sigFault]
  (repeat' split) <;> simp [h]

@[simp] theorem unitPlace_wf (h : s.mem.wf = true) : (unitPlace s die job va n user).1.mem.wf = true := by
  simp only [unitPlace]
  repeat' split
  all_goals grind [translate_wf]

@[simp] theorem sigApply_wf {put : State → Nat → Word → State} (hp : ∀ s pa v, s.mem.wf = true → (put s pa v).mem.wf = true)
    (h : s.mem.wf = true) : (sigApply put s die job user va status).mem.wf = true := by
  simp only [sigApply]
  repeat' split
  all_goals grind [unitPlace_wf, sigFault_wf, noteDsm_wf, sendPacket_mem]

theorem fireArm_wf {put : State → Nat → Word → State} (hp : ∀ s pa v, s.mem.wf = true → (put s pa v).mem.wf = true)
    (h : s.mem.wf = true) : (fireArm put die s a).mem.wf = true := by
  simp only [fireArm]
  split
  · exact sigApply_wf hp h
  · split
    · exact submitNow_wf h
    · exact sigApply_wf hp (submitNow_wf h)

@[simp] theorem noteOperand_mem : (noteOperand s num g0 n).mem = s.mem := by
  simp [noteOperand]

theorem wordWrite_wf {n : Nat} {s : State} {pa : Nat} {v : Word} (h : s.mem.wf = true) : (wordWrite n s pa v).mem.wf = true := by
  induction n generalizing s pa v with
  | zero => simp [wordWrite, Memory.put_wf, h]
  | succ n ih =>
    simp only [wordWrite]
    exact foldl_wf (fun _ _ hs => fireArm_wf (fun _ _ _ => ih) hs) _ (by simp [Memory.put_wf, h])

@[simp] theorem signalPut_wf (h : s.mem.wf = true) : (signalPut s pa v).mem.wf = true := wordWrite_wf h

@[simp] theorem armEntry_wf (h : s.mem.wf = true) : (armEntry s a).mem.wf = true := by
  simp only [armEntry]
  split
  · exact fireArm_wf (fun _ _ _ => signalPut_wf) h
  · simp [h]

@[simp] theorem signalDoneAt_wf (h : s.mem.wf = true) : (signalDoneAt s die job user va status).mem.wf = true := by
  simp only [signalDoneAt]
  split
  · exact h
  · exact sigApply_wf (fun _ _ _ => signalPut_wf) h

@[simp] theorem signalDone_wf (h : s.mem.wf = true) : (signalDone s job user va status).mem.wf = true := by
  simp [signalDone, h]

@[simp] theorem afterWrite_wf (h : s.mem.wf = true) : (afterWrite s old pa n).mem.wf = true := by
  refine foldl_wf (fun s _ hs => ?_) _ h
  dsimp only
  split
  · exact wordWrite_wf (s.mem.writeNum_wf _ _ _ hs)
  · exact hs

@[simp] theorem memPutAs_wf (h : s.mem.wf = true) : (memPutAs s num pa bs).mem.wf = true := by
  simp only [memPutAs]
  exact afterWrite_wf (by simp [Memory.put_wf, h])

@[simp] theorem memPut_wf (h : s.mem.wf = true) : (memPut s pa bs).mem.wf = true := by
  simp [memPut, h]

@[simp] theorem parkDropped_wf (h : s.mem.wf = true) : (parkDropped s p).mem.wf = true := by
  simp [parkDropped, h]

@[simp] theorem faultPend_wf (h : s.mem.wf = true) : (faultPend s p code va detail).mem.wf = true := by
  simp only [faultPend]
  (repeat' split) <;> simp [h]

@[simp] theorem takeFull_wf (h : s.mem.wf = true) : (takeFull s p).mem.wf = true := by
  simp only [takeFull]
  (repeat' split) <;> simp [h]

@[simp] theorem granuleFull_wf (h : s.mem.wf = true) : (granuleFull s grid bidx gran).mem.wf = true := by
  simp only [granuleFull]
  have hf : ∀ ps : List Pend, (ps.foldl takeFull (s.updBlock grid bidx fun b => { b with full := markSet b.full gran true })).mem.wf = true :=
    fun ps => foldl_wf (fun _ _ hs => takeFull_wf hs) ps (by simp [h])
  (repeat' split) <;> simp [hf]

@[simp] theorem scratchPutAs_wf (h : s.mem.wf = true) : (scratchPutAs s num grid bidx off bs set).mem.wf = true := by
  simp only [scratchPutAs]
  split
  · exact foldl_wf (fun _ _ hs => granuleFull_wf hs) _ (by simp [h])
  · simp [h]

@[simp] theorem scratchPut_wf (h : s.mem.wf = true) : (scratchPut s grid bidx off bs set).mem.wf = true := by
  simp [scratchPut, h]

@[simp] theorem storeGone_mem : (storeGone s who id).mem = s.mem := by
  simp [storeGone]

@[simp] theorem writeDone_mem : (writeDone s w).mem = s.mem := by
  simp [writeDone]

@[simp] theorem faultWrite_wf (h : s.mem.wf = true) : (faultWrite s w code va detail).mem.wf = true := by
  simp only [faultWrite]
  (repeat' split) <;> simp [h]

@[simp] theorem performAt_wf (h : s.mem.wf = true) : (performAt s w pa).mem.wf = true := by
  simp only [performAt]
  split <;> simp [h]

@[simp] theorem performMoved_wf (h : s.mem.wf = true) : (performMoved s w).mem.wf = true := by
  simp only [performMoved]
  repeat' split
  all_goals grind [translate_wf, performAt_wf, faultWrite_wf, sendPacket_mem]

@[simp] theorem performWrite_wf (h : s.mem.wf = true) : (performWrite s w).mem.wf = true := by
  simp only [performWrite]
  (repeat' split) <;> simp [h]

@[simp] theorem sendOwn_mem : (sendOwn s core who).mem = s.mem := by
  simp [sendOwn]

theorem performAfter_wf {n : Nat} {s : State} {w : PWrite} (h : s.mem.wf = true) : (performAfter n s w).mem.wf = true := by
  induction n generalizing s w with
  | zero => exact h
  | succ n ih =>
    have hs := foldl_wf (f := performAfter n) (fun _ _ => ih) (s.writes.filter fun x => x.before w) h
    simp only [performAfter]
    split <;> simp [hs]

@[simp] theorem performStore_wf (h : s.mem.wf = true) : (performStore s w).mem.wf = true := by
  simp only [performStore]
  exact performAfter_wf (by split <;> simp [h])

@[simp] theorem drainThread_wf (h : s.mem.wf = true) : (drainThread s who).mem.wf = true := by
  unfold drainThread
  exact foldl_wf (fun _ _ h => by simp [h]) _ h

@[simp] theorem flushThread_wf (h : s.mem.wf = true) : (flushThread s core who).mem.wf = true := by
  simp [flushThread, h]

end Sys2Proof.Machine
end

section
/-! SUPPORT. Canonical memory: placement, clause fetch and the issue arbiter. -/

namespace Sys2Proof.Machine

open Sys2Proof

variable {p q : Nat → Bool} {job page op dst die src va pa n n' bidx grid part core dt tid : Nat} {s : State} {f : Word → Word}
  {repl write user : Bool} {e : Word} {heat : Heat} {b : Block} {ths : List Thread} {c : Cand}

@[simp] theorem shootHere_mem : (shootHere s job page).mem = s.mem := rfl

@[simp] theorem shootAny_mem : (shootAny s page p q).mem = s.mem := by
  unfold shootAny
  exact foldl_mem (fun _ _ => by simp) _

@[simp] theorem setLeaf_wf (h : s.mem.wf = true) : (setLeaf s job page f).mem.wf = true := by
  simp only [setLeaf]
  split <;> simp [h, Memory.putLeaf_wf]

@[simp] theorem movePackets_mem : (movePackets s job page e dst op repl).mem = s.mem := by
  simp only [movePackets]
  exact foldl_mem (fun _ _ => by simp) _

@[simp] theorem startMove_wf (h : s.mem.wf = true) : (startMove s die job page e dst repl).mem.wf = true := by
  simp only [startMove]
  split <;> simp [h]

@[simp] theorem evaluate_wf {q : Nat} (h : s.mem.wf = true) : (evaluate s die job page e heat q).mem.wf = true := by
  simp only [evaluate]
  split <;> simp [h]

@[simp] theorem noteHeat_wf (h : s.mem.wf = true) : (noteHeat s job va pa e src write).mem.wf = true := by
  simp only [noteHeat]
  (repeat' split) <;> simp [h]

@[simp] theorem fetchWord_wf (h : s.mem.wf = true) : (fetchWord s b va user).1.mem.wf = true := by
  simp only [fetchWord]
  (repeat' split) <;> simp [h]

@[simp] theorem fetchWords_wf (h : s.mem.wf = true) : (fetchWords b user n s n').1.mem.wf = true := by
  induction n generalizing s n' with
  | zero => exact h
  | succ n ih =>
    simp only [fetchWords]
    (repeat' split) <;> simp [h, ih]

@[simp] theorem fetchClause_wf (h : s.mem.wf = true) : (fetchClause s b va user).1.mem.wf = true := by
  unfold fetchClause
  repeat' split
  all_goals grind [fetchWords_wf, fetchWord_wf]

@[simp] theorem lookAll_wf (h : s.mem.wf = true) : (lookAll b ths s).1.mem.wf = true := by
  induction ths generalizing s with
  | nil => exact h
  | cons th ths ih =>
    simp only [lookAll]
    exact ih (fetchClause_wf h)

@[simp] theorem parkEntry_wf {e : FetchErr} (h : s.mem.wf = true) : (parkEntry s b c e).mem.wf = true := by
  simp only [parkEntry]
  split
  · split
    · refine queueRec_wf ?_
      rwa [State.updBlock_mem, foldl_mem fun _ _ => waitEntry_mem, waitEntry_mem]
    · rwa [State.updBlock_mem, foldl_mem fun _ _ => waitEntry_mem, waitEntry_mem]
  · exact queueRec_wf h

@[simp] theorem enterClause_wf (h : s.mem.wf = true) : (enterClause s b c part).state.mem.wf = true := by
  have hf := fetchClause_wf (b := b) (va := c.pc.toNat) (user := b.threads.any fun th => !th.priv && c.members.any fun m => m.tid == th.tid) h
  simp only [enterClause]
  repeat' split
  all_goals simp [Entry.state, hf]

@[simp] theorem enterAll_wf {cs : List Cand} (h : s.mem.wf = true) : (enterAll part grid bidx cs s).1.mem.wf = true := by
  induction cs generalizing s with
  | nil => exact h
  | cons c cs ih =>
    simp only [enterAll]
    split
    · exact h
    · split
      · exact ih h
      · exact ih (enterClause_wf h)

@[simp] theorem allCands_wf {bs : List Block} (h : s.mem.wf = true) : (allCands core part bs s).1.mem.wf = true := by
  induction bs generalizing s with
  | nil => exact h
  | cons b bs ih =>
    simp only [allCands]
    split
    · exact ih h
    · exact ih (enterAll_wf (by simp [h]))

@[simp] theorem passTime_mem : (passTime s dt).mem = s.mem := rfl

theorem execIssueCycle_wf (h : s.mem.wf = true) : OutcomeWf (execIssueCycle core part dt s) := by
  refine next_wf ?_
  dsimp only
  (repeat' split) <;> simp [h]

theorem execStarvation_wf (h : s.mem.wf = true) : OutcomeWf (execStarvation core bidx grid tid s) := next_wf (by simp [h])

theorem execYieldExpiry_wf (h : s.mem.wf = true) : OutcomeWf (execYieldExpiry core bidx grid tid s) := next_wf (by simp [h])

theorem issueNext_wf {t : State} (h : s.mem.wf = true) (e : issueNext s = .error t) : t.mem.wf = true := by
  simp only [issueNext] at e
  split at e
  · cases e
    exact h
  · split at e
    · simp at e
    · cases e
      simp [h]

@[simp] theorem turnCycle_mem : (turnCycle s).2.mem = s.mem := rfl

end Sys2Proof.Machine
end

section
/-! SUPPORT. Canonical memory: lanes that fault, park and trap. -/

namespace Sys2Proof.Machine

open Sys2Proof

variable {x : List (Member × Thread)} {s : State} {b : Block} {g : Group} {fs : List LFault} {ts : List (Nat × Nat × Acc)}
  {toks : List Nat} {chk : Block → Group → State → Member → Thread → State × LaneCheck}
  {act : Block → Group → State → Member → Thread → State × List Window} {n : Nat}
  {post : Block → List (Member × Thread) → State → State} {i : Instr}

@[simp] theorem openAll_wf {fs : List LFault} (h : s.mem.wf = true) : (openAll b g fs s).1.mem.wf = true := by
  induction fs generalizing s with
  | nil => exact h
  | cons f r ih =>
    simp only [openAll]
    exact ih (by split <;> simp [h])

@[simp] theorem rung3Rec_wf (h : s.mem.wf = true) : (rung3Rec s b g fs).mem.wf = true := by
  simp only [rung3Rec]
  split <;> simp [h]

@[simp] theorem parkSub_mem : (parkSub s b g ts).mem = s.mem := rfl

@[simp] theorem parkWhole_mem : (parkWhole s b g toks).mem = s.mem := rfl

@[simp] theorem parkLanes_wf (h : s.mem.wf = true) : (parkLanes s b g fs).1.mem.wf = true := by
  unfold parkLanes
  repeat' split
  all_goals grind [rung3Rec_wf, parkWhole_mem, openAll_wf, parkSub_mem]

theorem checkLanes_wf {chk : State → Member → Thread → State × LaneCheck}
    (hc : ∀ s m th, s.mem.wf = true → (chk s m th).1.mem.wf = true) : ∀ (l : List (Member × Thread)) {s : State}, s.mem.wf = true →
    (checkLanes chk l s).1.mem.wf = true
  | [], _, h => h
  | (m, th) :: r, s, h => checkLanes_wf hc r (hc s m th h)

theorem actLanes_wf {act : State → Member → Thread → State × List Window}
    (ha : ∀ s m th, s.mem.wf = true → (act s m th).1.mem.wf = true) : ∀ (l : List (Member × Thread)) {s : State}, s.mem.wf = true →
    (actLanes act l s).1.mem.wf = true
  | [], _, h => h
  | (m, th) :: r, s, h => actLanes_wf ha r (ha s m th h)

@[simp] theorem trapLanes_wf {l : List (Nat × Nat × Word)} (h : s.mem.wf = true) : (trapLanes b g l s n).mem.wf = true := by
  induction n generalizing s l with
  | zero => cases l <;> exact h
  | succ n ih =>
    cases l with
    | nil => exact h
    | cons x r => exact ih (trapOrPark_wf h)

theorem runLanesThen_wf (h : s.mem.wf = true) (hc : ∀ b g s m th, s.mem.wf = true → (chk b g s m th).1.mem.wf = true)
    (ha : ∀ b g s m th, s.mem.wf = true → (act b g s m th).1.mem.wf = true) (hp : ∀ b l s, s.mem.wf = true → (post b l s).mem.wf = true) :
    OutcomeWf (runLanesThen i s chk act post) := by
  refine issue_wf h fun b g => ?_
  have hs := checkLanes_wf (hc b g) (activeLanes b g) h
  dsimp only
  split
  · exact parkLanes_wf hs
  · exact advanceIn_wf (trapLanes_wf (parkLanes_wf (hp b _ _ (actLanes_wf (ha b g) _ hs))))

theorem runLanes_wf (h : s.mem.wf = true) (hc : ∀ b g s m th, s.mem.wf = true → (chk b g s m th).1.mem.wf = true)
    (ha : ∀ b g s m th, s.mem.wf = true → (act b g s m th).1.mem.wf = true) : OutcomeWf (runLanes i s chk act) :=
  runLanesThen_wf h hc ha fun _ _ _ hs => hs

end Sys2Proof.Machine
end

section
/-! SUPPORT. Canonical memory: one lane's access. -/

namespace Sys2Proof.Machine

open Sys2Proof

variable {b : Block} {s : State} {user : Bool} {acc : Acc} {th : Thread} {bs : List Byte} {who : Tref}
  {job id core peer va upTo idx : Nat} {rs : List (Nat × Nat)} {r : ActRes} {hdr : Va} {p : Pend}

@[simp] theorem accFaults_wf (h : s.mem.wf = true) : (accFaults s b user acc).1.mem.wf = true := by
  simp only [accFaults]
  repeat' split
  any_goals simp [h]
  all_goals
    refine foldl_fst_wf (fun p x hp => ?_) _ h
    (repeat' split) <;> simp [hp]

@[simp] theorem accCheck_wf (h : s.mem.wf = true) : (accCheck b s th acc).1.mem.wf = true := by
  simp [accCheck, h]

@[simp] theorem wcStore_mem : (wcStore s core peer job user who id va bs).mem = s.mem := by
  simp only [wcStore]
  (repeat' split) <;> simp

@[simp] theorem issueStore_wf (h : s.mem.wf = true) : (issueStore s b who user va bs).mem.wf = true := by
  simp only [issueStore]
  refine foldl_wf (fun s x hs => ?_) _ h
  have ht := translate_wf (die := dieOf b.core) (j := s.jobOf b.grid) (exts := b.extents) (va := x.1) (write := true) (user := user) hs
  repeat' split
  · simp [hs]
  · rw [foldl_mem fun _ _ => wcStore_mem]
    simp [hs]
  · simp [hs]
  · simp [hs]

@[simp] theorem drawOrder_mem : (drawOrder s who).mem = s.mem := rfl

@[simp] theorem enterTicket_mem : (enterTicket s b who acc id).mem = s.mem := rfl

@[simp] theorem stageRoom_mem : (stageRoom s core).1.mem = s.mem := by
  simp [stageRoom]

@[simp] theorem drainRanges_wf (h : s.mem.wf = true) : (drainRanges s core who job rs).mem.wf = true := by
  simp only [drainRanges, sendLines_mem]
  exact foldl_wf (fun _ _ hs => performStore_wf hs) _ h

@[simp] theorem settleBefore_wf (h : s.mem.wf = true) : (settleBefore s b who acc upTo).1.mem.wf = true := by
  simp only [settleBefore]
  split <;> simp [h]

@[simp] theorem performAcc_wf (h : s.mem.wf = true) : (performAcc s b who user acc upTo).1.mem.wf = true := by
  have hr : ∀ l : List (Nat × Nat), (l.foldl (fun (p : State × List ((Nat × Nat) × XRes)) x =>
      ((translate p.1 (dieOf b.core) (s.jobOf b.grid) b.extents x.1 false user).1,
        p.2 ++ [(x, (translate p.1 (dieOf b.core) (s.jobOf b.grid) b.extents x.1 false user).2)])) (s, [])).1.mem.wf = true :=
    fun l => foldl_fst_wf (fun _ _ hp => by simp [hp]) l h
  have ht : ∀ w, (translate (settleBefore s b who acc upTo).1 (dieOf b.core) (s.jobOf b.grid) b.extents acc.ea.toNat w user).1.mem.wf = true :=
    fun _ => translate_wf (settleBefore_wf h)
  have hd : ∀ w, (noteDsm (translate (settleBefore s b who acc upTo).1 (dieOf b.core) (s.jobOf b.grid) b.extents acc.ea.toNat w user).1
      (s.jobOf b.grid) acc.ea.toNat).mem.wf = true := fun w => noteDsm_wf (ht w)
  simp only [performAcc]
  cases hop : acc.op
  case ld =>
    simp only
    repeat' split
    any_goals simp [h, hr]
    all_goals
      refine foldl_fst_wf (fun p x hp => ?_) _ (by simp [hr])
      split <;> simp [hp]
  all_goals
    simp only
    (repeat' split) <;> simp [h, ht, hd, drawOrder]

@[simp] theorem settle_mem : (settle s who hdr idx acc r).1.mem = s.mem := by
  simp only [settle]
  (repeat' split) <;> simp

@[simp] theorem askTicket_mem : (askTicket s id acc).mem = s.mem := by
  simp only [askTicket]
  (repeat' split) <;> simp

@[simp] theorem actAcc_wf (h : s.mem.wf = true) : (actAcc s who hdr idx user acc).1.mem.wf = true := by
  unfold actAcc
  repeat' split
  all_goals grind [performAcc_wf, settle_mem, settleBefore_wf, askTicket_mem, drawTicket_mem, sendEvent_mem]

@[simp] theorem dropSc_mem : (dropSc s id).mem = s.mem := rfl

@[simp] theorem retryNow_wf (h : s.mem.wf = true) : (retryNow s p b).mem.wf = true := by
  unfold retryNow
  dsimp only
  repeat' split
  all_goals grind [accFaults_wf, performAcc_wf, faultPend_wf, complete_mem, setKind_mem, askTicket_mem, dropSc_mem]

@[simp] theorem retryPend_wf (h : s.mem.wf = true) : (retryPend s p).mem.wf = true := by
  simp only [retryPend]
  (repeat' split) <;> simp [h]

@[simp] theorem retryHeld_wf (h : s.mem.wf = true) : (retryHeld s).mem.wf = true := by
  simp only [retryHeld]
  refine foldl_wf (fun s _ hs => foldl_wf (fun s p hs => ?_) _ hs) _ (foldl_wf (fun s x hs => signalDoneAt_wf hs) _ h)
  split <;> simp [hs]

end Sys2Proof.Machine
end

section
/-! SUPPORT. Canonical memory: the memory instructions. -/

namespace Sys2Proof.Machine

open Sys2Proof

variable {acc : Acc} {g : Group} {th : Thread} {s : State} {b : Block} {f : Thread → Acc} {i : Instr} {n : Nat} {o : BitVec 26}
  {d : Reg} {sc : Scope} {od : Order}

@[simp] theorem actLane_wf (h : s.mem.wf = true) : (actLane b g s th acc).1.mem.wf = true := by
  simp [actLane, h]

theorem runAcc_wf {f : Thread → Acc} (h : s.mem.wf = true) : OutcomeWf (runAcc i s f) :=
  runLanes_wf h (fun _ _ _ _ _ hs => accCheck_wf hs) fun _ _ _ _ _ hs => actLane_wf hs

theorem runScratch_wf {f : Thread → Acc} (h : s.mem.wf = true) : OutcomeWf (runScratch i s f) :=
  runLanesThen_wf h (fun _ _ _ _ _ hs => accCheck_wf hs) (fun _ _ _ _ _ hs => actLane_wf hs) fun _ _ _ hs => hs

@[simp] theorem gatherLane_wf (h : s.mem.wf = true) : (gatherLane f b g s th).1.mem.wf = true := by
  simp only [gatherLane]
  (repeat' split) <;> simp [h]

@[simp] theorem scatterLane_wf (h : s.mem.wf = true) : (scatterLane f b g s th).1.mem.wf = true := by
  simp only [scatterLane]
  repeat' split
  any_goals simp [h]
  all_goals
    rw [foldl_mem fun _ _ => State.updThread_mem ..]
    simp [h]

theorem runGather_wf {f : Thread → Acc} (h : s.mem.wf = true) : OutcomeWf (runGather i s f) :=
  runLanes_wf h (fun _ _ _ _ _ hs => accCheck_wf hs) fun _ _ _ _ _ hs => gatherLane_wf hs

theorem runScatter_wf {f : Thread → Acc} (h : s.mem.wf = true) : OutcomeWf (runScatter i s f) :=
  runLanes_wf h (fun _ _ _ _ _ hs => accCheck_wf hs) fun _ _ _ _ _ hs => scatterLane_wf hs

@[simp] theorem aaddfCheck_wf (h : s.mem.wf = true) : (aaddfCheck b n s th acc).1.mem.wf = true := by
  simp only [aaddfCheck]
  split <;> simp [h]

theorem runAaddf_wf {f : Thread → Acc} (h : s.mem.wf = true) : OutcomeWf (runAaddf i s f) :=
  runLanes_wf h (fun _ _ _ _ _ hs => aaddfCheck_wf hs) fun _ _ _ _ _ hs => actLane_wf hs

@[simp] theorem bindLane_wf (h : s.mem.wf = true) : (bindLane b s th acc).1.mem.wf = true := by
  simp only [bindLane]
  (repeat' split) <;> simp [h]

@[simp] theorem armLane_wf (h : s.mem.wf = true) : (armLane b g f s th).1.mem.wf = true := by
  simp only [armLane]
  (repeat' split) <;> simp [h]

theorem execRbind_wf {b : Reg} (h : s.mem.wf = true) : OutcomeWf (execRbind d b o s) :=
  runLanes_wf h (fun _ _ _ _ _ hs => bindLane_wf hs) fun _ _ _ _ _ hs => actLane_wf hs

theorem execSigarm_wf {b : Reg} (h : s.mem.wf = true) : OutcomeWf (execSigarm d b o od sc s) :=
  runLanes_wf h (fun _ _ _ _ _ hs => armLane_wf hs) fun _ _ _ _ _ hs => actLane_wf hs

end Sys2Proof.Machine
end

section
/-! SUPPORT. Canonical memory: ordered grids and barriers. -/

namespace Sys2Proof.Machine

open Sys2Proof

variable {s : State} {grid va more v what code core die n bidx dst seq id gen count : Nat} {bs : List Byte} {p : Packet} {who : Tref}
  {detail ea : Word} {op : AccOp} {e : Staged} {x : BarInst} {k : BitVec 3} {t : Ticket} {old : Option Word} {b : Block}
  {kind : PendKind} {g : Group} {th : Thread} {d : Reg} {l : BitVec 4} {i : Instr} {ths : List Thread}

@[simp] theorem digestGrid_mem : (digestGrid s grid va bs).mem = s.mem := rfl

@[simp] theorem digestReady_mem : (digestReady s).mem = s.mem := by
  refine foldl_mem (fun _ _ => ?_) _
  (repeat' split) <;> simp

@[simp] theorem tellGrid_mem : (tellGrid s grid what v more).mem = s.mem := by
  simp only [tellGrid]
  repeat' split
  · rfl
  · rfl
  · rw [foldl_mem fun _ _ => sendPacket_mem]
    simp

@[simp] theorem hearGrid_mem : (hearGrid s p).mem = s.mem := rfl

@[simp] theorem stopOrder_wf (h : s.mem.wf = true) : (stopOrder s die core who va code detail).1.mem.wf = true := by
  simp only [stopOrder]
  (repeat' split) <;> simp [h]

@[simp] theorem ordPlace_wf (h : s.mem.wf = true) : (ordPlace s die grid va n op).1.mem.wf = true := by
  simp only [ordPlace]
  (repeat' split) <;> simp [h]

@[simp] theorem unstage_mem : (unstage s core e).mem = s.mem := rfl

@[simp] theorem applyEntries_wf {es : List (Nat × Staged)} (h : s.mem.wf = true) : (applyEntries grid es s).1.mem.wf = true := by
  induction es generalizing s with
  | nil => exact h
  | cons e es ih =>
    have ho : ∀ n o, (ordPlace (drainRanges s e.1 e.2.who (s.jobOf grid) [(e.2.va, 4)]) (dieOf e.1) grid e.2.va n o).1.mem.wf = true :=
      fun _ _ => ordPlace_wf (drainRanges_wf h)
    simp only [applyEntries]
    repeat' split
    case h_4 => exact ih (by simp [noteDsm_wf, ho])
    all_goals simp [h, ho]

@[simp] theorem tellOrder_mem : (tellOrder s grid).mem = s.mem := by
  simp only [tellOrder]
  split <;> simp

@[simp] theorem applyBatch_wf {k : Nat} (h : s.mem.wf = true) : (applyBatch s grid k bidx).1.mem.wf = true := by
  have he := applyEntries_wf (grid := grid) (es := batchOf s grid bidx k) h
  unfold applyBatch
  split
  next e => exact wf_of_eq e he
  next e =>
    dsimp only
    rw [foldl_mem]
    · simpa using wf_of_eq e he
    · intro _ _
      (repeat' split) <;> simp

@[simp] theorem flushAnswered_mem : (flushAnswered s dst seq).mem = s.mem := by
  simp only [flushAnswered]
  (repeat' split) <;> simp

@[simp] theorem applyBatches_wf (h : s.mem.wf = true) : (applyBatches grid n s).mem.wf = true := by
  induction n generalizing s with
  | zero => exact h
  | succ n ih =>
    simp only [applyBatches]
    repeat' split
    · exact h
    · exact h
    next e => exact ih (wf_of_eq e (applyBatch_wf h))
    next e => exact wf_of_eq e (applyBatch_wf h)

@[simp] theorem dropTicket_mem : (dropTicket s die t).mem = s.mem := rfl

@[simp] theorem finishTicket_mem : (finishTicket s die t va bs old).mem = s.mem := by
  simp only [finishTicket]
  (repeat' split) <;> simp

@[simp] theorem releaseTicket_wf (h : s.mem.wf = true) : (releaseTicket s die t).mem.wf = true := by
  have hr (rs : List (Nat × Nat)) (core : Nat) := drainRanges_wf (core := core) (who := t.who) (job := s.jobOf t.who.grid) (rs := rs) h
  simp only [releaseTicket]
  split
  · exact hr ..
  split
  · have ho (n : Nat) (o : AccOp) := ordPlace_wf (die := die) (grid := t.who.grid) (va := t.acc.ea.toNat) (n := n) (op := o)
      (hr [(t.acc.ea.toNat, t.acc.op.size)] (((s.block? t.who.grid t.who.bidx).map fun b => b.core).getD 0))
    split
    case h_4 => simpa using memPut_wf (noteDsm_wf (ho ..))
    all_goals simp [ho]
  · have hp (l : List (Nat × Nat)) : (l.foldl (fun (p : State × List (Nat × Nat × OrdRes)) x =>
        ((ordPlace p.1 die t.who.grid x.1 x.2 t.acc.op).1, p.2 ++ [(x.1, x.2, (ordPlace p.1 die t.who.grid x.1 x.2 t.acc.op).2)]))
        (drainRanges s (((s.block? t.who.grid t.who.bidx).map fun b => b.core).getD 0) t.who (s.jobOf t.who.grid)
          [(t.acc.ea.toNat, t.acc.op.size)], [])).1.mem.wf = true :=
      foldl_fst_wf (fun _ _ hq => by simpa using ordPlace_wf hq) l (by simpa using hr ..)
    repeat' split
    any_goals simp [hp]
    all_goals
      refine foldl_fst_wf (fun p x hq => ?_) _ (hp _)
      split
      · simp [hq]
      · rw [foldl_mem fun _ _ => by simp]
        exact hq
      · exact hq

@[simp] theorem remoteDone_mem : (remoteDone s who id).mem = s.mem := by
  simp only [remoteDone]
  (repeat' split) <;> simp

@[simp] theorem releaseAll_wf (h : s.mem.wf = true) : (releaseAll grid n s).mem.wf = true := by
  induction n generalizing s with
  | zero => exact h
  | succ n ih =>
    simp only [releaseAll]
    repeat' split
    any_goals simp [h]
    exact ih (releaseTicket_wf h)

@[simp] theorem addPlain_mem : (addPlain s b g th d k l kind).1.mem = s.mem := by
  simp [addPlain]

@[simp] theorem addNamed_mem {x : Word} : (addNamed s b g th d k l kind ea x).1.mem = s.mem := by
  simp [addNamed]

theorem execAflush_wf (h : s.mem.wf = true) : OutcomeWf (execAflush k l s) :=
  runLanes_wf h (fun _ _ _ _ _ hs => hs) fun _ _ _ _ _ hs => by split <;> simp [hs]

theorem execDigrd_wf (h : s.mem.wf = true) : OutcomeWf (execDigrd d k l s) :=
  runLanesThen_wf h (fun _ _ _ _ _ hs => hs) (fun _ _ _ _ _ hs => by split <;> simp [hs]) fun _ _ _ hs => by simp [hs]

@[simp] theorem departAll_mem : (departAll s x).mem = s.mem := rfl

@[simp] theorem gridFlush_wf (h : s.mem.wf = true) : (gridFlush s x).mem.wf = true := by
  simp only [gridFlush]
  exact releaseAll_wf (applyBatches_wf (by split <;> simp [h, State.setInst]))

@[simp] theorem tryGrid_wf (h : s.mem.wf = true) : (tryGrid s x).mem.wf = true := by
  simp only [tryGrid]
  (repeat' split) <;> simp [h]

@[simp] theorem tryInst_wf (h : s.mem.wf = true) : (tryInst s x).mem.wf = true := by
  simp only [tryInst]
  (repeat' split) <;> simp [h]

@[simp] theorem tellReached_mem : (tellReached s grid).mem = s.mem := by
  simp only [tellReached]
  split <;> simp

@[simp] theorem barriersAgain_wf (h : s.mem.wf = true) : (barriersAgain s grid).mem.wf = true := by
  simp only [barriersAgain]
  exact foldl_wf (fun _ _ hs => tryInst_wf hs) _ (by simp [h])

@[simp] theorem goOn_wf (h : s.mem.wf = true) : (goOn s).mem.wf = true := by
  simp only [goOn]
  exact foldl_wf (fun _ _ hs => barriersAgain_wf hs) _ (retryHeld_wf h)

theorem execStorePerformed_wf (h : s.mem.wf = true) : OutcomeWf (execStorePerformed id s) := by
  refine next_wf ?_
  split <;> simp [h]

@[simp] theorem arrive_wf {k : BarKind} (h : s.mem.wf = true) : (arrive s b th k n).mem.wf = true := by
  simp only [arrive]
  split <;> simp [h, State.setInst]

@[simp] theorem waitBar_mem {k : BarKind} : (waitBar s b th k n gen).mem = s.mem := rfl

@[simp] theorem arriveCheck_mem {k : BarKind} : (arriveCheck b k n s th).1.mem = s.mem := by
  simp [arriveCheck]

theorem arriveWait_wf {k : BarKind} {n : BitVec 4} (h : s.mem.wf = true) : OutcomeWf (arriveWait i k n s) :=
  runLanesThen_wf h (fun _ _ _ _ _ hs => by simpa using hs) (fun _ _ _ _ _ hs => by simpa using arrive_wf hs) fun _ _ _ hs => tryInst_wf hs

theorem execBara_wf {n : BitVec 4} (h : s.mem.wf = true) : OutcomeWf (execBara n s) :=
  runLanesThen_wf h (fun _ _ _ _ _ hs => by simpa using hs) (fun _ _ _ _ _ hs => by simp [hs]) fun _ _ _ hs => tryInst_wf hs

theorem execBarw_wf {n : BitVec 4} (h : s.mem.wf = true) : OutcomeWf (execBarw n s) :=
  runLanes_wf h (fun _ _ _ _ _ hs => by split <;> exact hs) fun _ _ _ _ _ hs => by
    dsimp only
    split <;> simp [hs]

theorem execStagedBatchApply_wf (h : s.mem.wf = true) : OutcomeWf (execStagedBatchApply grid s) := by
  refine next_wf ?_
  repeat' split
  all_goals grind [applyBatch_wf, barriersAgain_wf, goOn_wf]

theorem execOrdTicketRelease_wf (h : s.mem.wf = true) : OutcomeWf (execOrdTicketRelease die s) := by
  refine next_wf ?_
  repeat' split
  all_goals grind [barriersAgain_wf, releaseTicket_wf, goOn_wf]

@[simp] theorem withdraw_mem : (withdraw s b th).mem = s.mem := rfl

@[simp] theorem raiseEach_wf {recorded : Bool} (h : s.mem.wf = true) : (raiseEach b code detail count ths s recorded).mem.wf = true := by
  induction ths generalizing s recorded with
  | nil => exact h
  | cons th ths ih =>
    simp only [raiseEach]
    split
    next e => exact ih (settleGroup_wf (takeTrap_wf (by simpa using h) e))
    · exact ih (settleGroup_wf (by split <;> simp [h]))

theorem execFormationDeadlock_wf (h : s.mem.wf = true) : OutcomeWf (execFormationDeadlock bidx grid s) := by
  refine next_wf ?_
  dsimp only
  (repeat' split) <;> simp [h]

theorem execFullEmptyTimeLimit_wf (h : s.mem.wf = true) : OutcomeWf (execFullEmptyTimeLimit id s) := by
  refine next_wf ?_
  dsimp only
  (repeat' split) <;> simp [h]

end Sys2Proof.Machine
end

section
/-! SUPPORT. Canonical memory: transfers of control, and what engines share. -/

namespace Sys2Proof.Machine

open Sys2Proof

variable {user write chk : Bool} {b : Block} {t v detail : Word} {s : State} {k : State → Host.Outcome State Fault Refusal}
  {f : Block → Group → State → Thread → Option (Word × Bool)} {i : Instr} {th : Thread} {acc : Acc} {who : Tref} {g : Group} {p : Pend}
  {id va op pkg code off n : Nat} {x : Word32} {e : EngBy} {xs : List Nat} {kind : PendKind} {l : BitVec 4}
  {dests : Nat → List (Reg × Word)} {bs : List Byte} {err : Byte}

@[simp] theorem targetLook_wf (h : s.mem.wf = true) : (targetLook s b user t).1.mem.wf = true := by
  unfold targetLook
  repeat' split
  all_goals grind [fetchWord_wf, translateCode_wf]

@[simp] theorem targetFault_wf (h : s.mem.wf = true) : (targetFault s b user t).1.mem.wf = true := by
  unfold targetFault
  repeat' split
  all_goals grind [targetLook_wf]

@[simp] theorem waitAccept_mem : (waitAccept s b).mem = s.mem := rfl

theorem withTargetsIn_wf {f : Block → Group → State → Thread → Option (Word × Bool)} {k : State → Host.Outcome State Fault Refusal}
    (hk : ∀ s, s.mem.wf = true → OutcomeWf (k s)) (h : s.mem.wf = true) : OutcomeWf (withTargetsIn i s f k) := by
  have hl (b : Block) (g : Group) (l : List (Member × Thread)) : (l.foldl (fun (p : State × Bool) m => match f b g p.1 m.2 with
      | none => (p.1, p.2)
      | some t => ((targetLook p.1 b t.2 t.1).1, p.2 && (targetLook p.1 b t.2 t.1).2.isSome)) (s, true)).1.mem.wf = true :=
    foldl_fst_wf (fun p m hp => by split <;> simp [hp]) l h
  simp only [withTargetsIn]
  repeat' split
  · exact hk _ h
  · exact hk _ h
  · exact hk _ (hl ..)
  · exact hl ..

theorem withTargets_wf {f : Block → Group → State → Thread → Option Word} {k : State → Host.Outcome State Fault Refusal}
    (hk : ∀ s, s.mem.wf = true → OutcomeWf (k s)) (h : s.mem.wf = true) : OutcomeWf (withTargets i s f k) := withTargetsIn_wf hk h

@[simp] theorem targetCheck_wf (h : s.mem.wf = true) : (targetCheck s b th acc).1.mem.wf = true := by
  unfold targetCheck
  repeat' split
  all_goals grind [targetFault_wf]

@[simp] theorem takeJump_wf (h : s.mem.wf = true) : (takeJump s b who acc).mem.wf = true := by
  simp only [takeJump]
  (repeat' split) <;> simp [h]

theorem runJump_wf {f : Group → Thread → Option Word} (h : s.mem.wf = true) : OutcomeWf (runJump i s f) :=
  withTargets_wf (fun _ hs => runLanes_wf hs (fun _ _ _ _ _ hs => by split <;> simp [hs]) fun _ _ _ _ _ hs => by split <;> simp [hs]) h

theorem runCall_wf {f : Group → Thread → Word} (h : s.mem.wf = true) : OutcomeWf (runCall i s f) := by
  refine withTargets_wf (fun _ hs => runLanes_wf hs (fun b g s _ th hs => ?_) fun _ _ _ _ _ hs => takeJump_wf hs) h
  split
  · exact hs
  · split
    next e => exact wf_of_eq e (accFaults_wf hs)
    next e => exact targetCheck_wf (wf_of_eq e (accFaults_wf hs))

@[simp] theorem popValue_wf (h : s.mem.wf = true) : (popValue s b th).1.mem.wf = true := by
  unfold popValue
  grind [performAcc_wf]

@[simp] theorem retWait_wf (h : s.mem.wf = true) : (retWait s b g th).1.mem.wf = true := by
  unfold retWait
  repeat' split
  all_goals grind [popValue_wf, takeJump_wf, addPend_mem]

theorem execRet_wf (h : s.mem.wf = true) : OutcomeWf (execRet s) := by
  refine withTargets_wf (fun _ hs => runLanes_wf hs (fun b g s _ th hs => ?_) fun _ _ _ _ _ hs => retWait_wf hs) h
  split
  · exact hs
  split
  next e => exact wf_of_eq e (accFaults_wf hs)
  next e =>
    have := wf_of_eq e (accFaults_wf hs)
    split
    · exact targetCheck_wf this
    · exact this

@[simp] theorem retArrived_wf (h : s.mem.wf = true) : (retArrived s p v).mem.wf = true := by
  unfold retArrived
  repeat' split
  all_goals grind [rung3Rec_wf, settleGroup_wf, takeJump_wf, openAll_wf, targetLook_wf, parkSub_mem]

@[simp] theorem returnsAgain_wf (h : s.mem.wf = true) : (returnsAgain s).mem.wf = true := by
  unfold returnsAgain
  exact foldl_wf (fun _ _ h => by (repeat' split) <;> simp [h]) _ h

theorem execLoadResult_wf (h : s.mem.wf = true) : OutcomeWf (execLoadResult id s) := by
  refine next_wf ?_
  repeat' split
  all_goals grind [complete_mem, retArrived_wf]

theorem execMpush_wf (h : s.mem.wf = true) : OutcomeWf (execMpush x s) :=
  runLanes_wf h (fun _ _ _ _ _ hs => by split <;> exact hs) fun _ _ _ _ _ hs => by simp [hs]

theorem execMpop_wf (h : s.mem.wf = true) : OutcomeWf (execMpop s) :=
  runLanes_wf h (fun _ _ _ _ _ hs => by split <;> exact hs) fun _ _ _ _ _ hs => by simp [hs]

theorem execExit_wf (h : s.mem.wf = true) : OutcomeWf (execExit s) := issue_wf h fun _ _ => by simp [h]

@[simp] theorem engLoc_wf (h : s.mem.wf = true) : (engLoc s e va write).1.mem.wf = true := by
  unfold engLoc
  repeat' split
  all_goals grind [translate_wf]

@[simp] theorem engGran_wf (h : s.mem.wf = true) : (engGran s e op va).1.mem.wf = true := by
  simp [engGran, h]

@[simp] theorem askLine_mem : (askLine s e op pkg va).mem = s.mem := by
  simp [askLine]

@[simp] theorem dropGot_mem : (dropGot s op).mem = s.mem := rfl

@[simp] theorem engGrans_wf (h : s.mem.wf = true) : (engGrans e op chk xs s).1.mem.wf = true := by
  induction xs generalizing s with
  | nil => exact h
  | cons q r ih =>
    simp only [engGrans]
    repeat' split
    any_goals simp [h]
    all_goals exact ih (by simp [h])

@[simp] theorem engFault_wf (h : s.mem.wf = true) : (engFault s e code va detail).1.mem.wf = true := by
  simp only [engFault]
  (repeat' split) <;> simp [h]

@[simp] theorem drainGroup_wf (h : s.mem.wf = true) : (drainGroup s b g).1.mem.wf = true := by
  unfold drainGroup
  exact foldl_wf (fun _ _ h => by simp [h]) _ h

theorem issueWhole_wf {k : Block → Group → Thread → State} (h : s.mem.wf = true) (hk : ∀ b g th, (k b g th).mem.wf = true) :
    OutcomeWf (issueWhole i s k) := by
  refine issue_wf h fun b g => ?_
  split
  · exact advance_wf h
  · split
    · exact threadFault_wf h
    · exact hk ..

@[simp] theorem refuse_wf (h : s.mem.wf = true) : (refuse s b g code va off).mem.wf = true := by
  simp [refuse, h]

@[simp] theorem parkAccept_wf (h : s.mem.wf = true) : (parkAccept s b g th code va detail).mem.wf = true := by
  simp [parkAccept, h]

theorem withDrain_wf {k : State → State} (hk : ∀ s, s.mem.wf = true → (k s).mem.wf = true) (h : s.mem.wf = true) :
    (withDrain s b g k).mem.wf = true := by
  unfold withDrain
  split
  next e => exact hk _ (wf_of_eq e (drainGroup_wf h))
  next e => simpa using wf_of_eq e (drainGroup_wf h)

theorem withRecord_wf {k : State → List Byte → State} (hk : ∀ s bs, s.mem.wf = true → (k s bs).mem.wf = true) (h : s.mem.wf = true) :
    (withRecord s b g th va n k).mem.wf = true := by
  unfold withRecord
  dsimp only
  split
  · simp [h]
  split
  next e => exact parkAccept_wf (wf_of_eq e (engGrans_wf h))
  next e => simpa using wf_of_eq e (engGrans_wf h)
  next e => exact hk _ _ (by simpa using wf_of_eq e (engGrans_wf h))

@[simp] theorem engIssue_wf {k : BitVec 3} (h : s.mem.wf = true) : (engIssue s b g i k l kind).mem.wf = true := by
  simp only [engIssue]
  split
  · exact advanceIn_wf (by split <;> simp [h])
  · exact advanceIn_wf (foldl_fst_wf (fun _ _ hp => by simpa using hp) _ (by split <;> simp [h]))

@[simp] theorem engDone_mem : (engDone s op dests).mem = s.mem := by
  unfold engDone
  exact foldl_mem (fun _ _ => by simp) _

@[simp] theorem engWrite_wf (h : s.mem.wf = true) : (engWrite s e op va bs).1.mem.wf = true := by
  have hl := engLoc_wf (e := e) (va := va) (write := true) h
  simp only [engWrite]
  repeat' split
  any_goals simp [hl]
  rw [foldl_mem fun _ _ => by simp]
  exact hl

@[simp] theorem engPut_wf (h : s.mem.wf = true) : (engPut s e op va bs err).1.mem.wf = true := by
  have hl := engLoc_wf (e := e) (va := va) (write := true) h
  simp only [engPut]
  repeat' split
  any_goals simp [h, hl]
  exact afterWrite_wf (Memory.putErr_wf (by simp [hl]) ..)

@[simp] theorem engPuts_wf {l : List (Nat × List Byte × Byte)} (h : s.mem.wf = true) : (engPuts e op l s).1.mem.wf = true := by
  induction l generalizing s with
  | nil => exact h
  | cons x r ih =>
    unfold engPuts
    split
    next e => exact ih (wf_of_eq e (engPut_wf h))
    next e => exact wf_of_eq e (engPut_wf h)

@[simp] theorem engWrites_wf {l : List (Nat × List Byte)} (h : s.mem.wf = true) : (engWrites e op l s).1.mem.wf = true := by
  induction l generalizing s with
  | nil => exact h
  | cons x r ih =>
    unfold engWrites
    split
    next e => exact ih (wf_of_eq e (engWrite_wf h))
    next e => exact wf_of_eq e (engWrite_wf h)

end Sys2Proof.Machine
end

section
/-! SUPPORT. Canonical memory: the matrix engine. -/

namespace Sys2Proof.Machine

open Sys2Proof

variable {e : MEntry} {s : State} {f : MEntry → MEntry} {dests : Nat → List (Reg × Word)} {t a : Tile}
  {n va code cluster id grid bidx : Nat} {detail : Word} {x : List MEntry} {put : List Byte → State} {m : Memory} {o : WalkOp}
  {anchor : Int} {el : Int × Nat} {i : Instr} {k : BitVec 3} {l db da : BitVec 4} {b : Block} {g : Group} {y z : Reg} {conv : Bool}

@[simp] theorem updEntry_mem : (updEntry s e f).mem = s.mem := rfl

@[simp] theorem mwaitsAgain_mem : (mwaitsAgain s).mem = s.mem := by
  simp only [mwaitsAgain]
  refine foldl_mem (fun _ _ => ?_) _
  repeat' split
  all_goals grind [complete_mem]

@[simp] theorem reenter_mem : (reenter s).mem = s.mem := by
  refine foldl_mem (fun _ _ => ?_) _
  (repeat' split) <;> simp [State.setTable]

@[simp] theorem entryDone_mem : (entryDone s e dests).mem = s.mem := by
  simp [entryDone, State.setTable]

@[simp] theorem setTile_mem : (setTile s e t).mem = s.mem := rfl

@[simp] theorem entryReads_wf (h : s.mem.wf = true) : (entryReads s e).1.mem.wf = true := by
  unfold entryReads
  repeat' split
  all_goals grind [engGrans_wf]

@[simp] theorem setProg_mem : (setProg s e n).mem = s.mem := rfl

@[simp] theorem entryFaulted_wf (h : s.mem.wf = true) : (entryFaulted s e code va detail).mem.wf = true := by
  unfold entryFaulted
  repeat' split
  all_goals grind [setProg_mem, updEntry_mem, engFault_wf, entryDone_mem]

@[simp] theorem lookTable_wf {es : List MEntry} (h : s.mem.wf = true) : (lookTable es s).mem.wf = true := by
  induction es generalizing s with
  | nil => exact h
  | cons e r ih =>
    unfold lookTable
    split
    · exact ih h
    split
    · exact ih (by simp [h])
    split
    next e => exact ih (by simpa using wf_of_eq e (entryReads_wf h))
    next e => exact ih (entryFaulted_wf (wf_of_eq e (entryReads_wf h)))
    next e => exact ih (by simpa using wf_of_eq e (entryReads_wf h))

@[simp] theorem emptyDone_mem : (emptyDone s cluster).mem = s.mem := by
  unfold emptyDone
  exact foldl_mem (fun _ _ => by simp) _

theorem execMatrixEntryStarving_wf (h : s.mem.wf = true) : OutcomeWf (execMatrixEntryStarving cluster id s) := next_wf (by simp [h])

@[simp] theorem leaveTable_mem : (leaveTable s grid bidx).mem = s.mem := by
  simp only [leaveTable]
  split
  · rfl
  split
  · rfl
  · simp [State.setTable, foldl_mem fun _ _ => setProg_mem]

@[simp] theorem afterGrant_mem : (afterGrant s e t).mem = s.mem := by
  simp only [afterGrant]
  split <;> simp

theorem combineHere_wf {m : Memory} {a : Nat} {put : List Byte → State} (hp : ∀ bs, (put bs).mem.wf = true) (h : s.mem.wf = true) :
    (combineHere o anchor el va n m a put s).1.mem.wf = true := by
  simp only [combineHere]
  split
  · exact h
  · exact hp _

@[simp] theorem combineOne_wf (h : s.mem.wf = true) : (combineOne e o anchor va el s).1.mem.wf = true := by
  have hl := engLoc_wf (e := e.by_) (va := va) (write := true) h
  unfold combineOne
  dsimp only
  split
  · exact hl
  · exact hl
  · split
    · exact hl
    · exact combineHere_wf (fun _ => memPut_wf (noteDsm_wf hl)) hl
  · exact combineHere_wf (fun _ => scratchPut_wf hl) hl
  · exact hl
  · simpa using hl

@[simp] theorem combineAll_wf {e : MEntry} {t : Tile} {l : List (Nat × Int × Nat)} (h : s.mem.wf = true) :
    (combineAll e o anchor l s t n).1.mem.wf = true := by
  induction l generalizing s t n with
  | nil => exact h
  | cons x r ih =>
    unfold combineAll
    split
    next e => exact wf_of_eq e (combineOne_wf h)
    next e => exact ih (wf_of_eq e (combineOne_wf h))

@[simp] theorem postEntry_wf {k : BitVec 3} {l : BitVec 4} {e : MEntry} (h : s.mem.wf = true) : (postEntry s b g i k l e).mem.wf = true := by
  simp only [postEntry]
  split <;> simp [h, State.setTable]

theorem enter_wf {k : BitVec 3} {l : BitVec 4} {f : Block → Group → Thread → MEntry} (h : s.mem.wf = true) : OutcomeWf (enter i k l s f) :=
  issueWhole_wf h fun _ _ _ => postEntry_wf h

theorem multiply_wf {t k : BitVec 3} {l : BitVec 4} {x y z : Reg} {n : Option Nat} (h : s.mem.wf = true) :
    OutcomeWf (multiply i conv t da db x y z n k l s) := by
  refine issueWhole_wf h fun b g th => ?_
  split
  · exact refuse_wf h
  · exact postEntry_wf h

theorem execMatrixGrant_wf {cluster : Nat} (h : s.mem.wf = true) : OutcomeWf (execMatrixGrant cluster s) := by
  have hs : (lookTable (tget [] (emptyDone s cluster).clusters cluster) (emptyDone s cluster)).mem.wf = true := lookTable_wf (by simp [h])
  change (State.mem _).wf = true
  dsimp only
  split
  · exact hs
  split
  · exact hs
  split
  next e => simpa [State.spend] using wf_of_eq e (entryReads_wf hs)
  next e => exact wf_of_eq e (entryReads_wf hs)

theorem execMatrixGrantComplete_wf {cluster : Nat} (h : s.mem.wf = true) : OutcomeWf (execMatrixGrantComplete cluster s) := by
  change (State.mem _).wf = true
  split
  · exact h
  split
  · exact h
  · simp [h]

theorem execDrainWritesComplete_wf {cluster id : Nat} (h : s.mem.wf = true) : OutcomeWf (execDrainWritesComplete cluster id s) := by
  change (State.mem _).wf = true
  split
  · exact h
  split
  · split
    next hw => exact entryFaulted_wf (by simpa using wf_of_eq hw (engWrites_wf h))
    next hw => simpa using wf_of_eq hw (engWrites_wf h)
    next hw =>
      have := wf_of_eq hw (engWrites_wf h)
      split <;> simpa
  · exact h

theorem execMwalkCombine_wf {cluster id : Nat} (h : s.mem.wf = true) : OutcomeWf (execMwalkCombine cluster id s) := by
  change (State.mem _).wf = true
  split
  · exact h
  split
  · have hc {e : MEntry} {o : WalkOp} := combineAll_wf (e := e) (o := o) (anchor := (tileOf s e).anchor) (t := tileOf s e)
      (l := (walkElems e (tileOf s e)).drop e.part) (n := e.part) h
    dsimp only
    split
    · split <;> simp [h]
    split
    · simp [hc]
    · simp [hc]
    · split
      · split <;> simp [hc]
      · simp [hc]
  · exact h

theorem execMwalk_wf {c : BitVec 10} {t k : BitVec 3} {l : BitVec 4} (h : s.mem.wf = true) : OutcomeWf (execMwalk o t da db dO c k l s) := by
  refine issueWhole_wf h fun b g th => ?_
  split
  · exact refuse_wf h
  dsimp only
  split
  · exact refuse_wf h
  split
  · exact refuse_wf h
  split
  · exact refuse_wf h
  · exact postEntry_wf h

theorem execMdrain_wf {rs z : Bool} {t k : BitVec 3} {x y : Reg} {l : BitVec 4} (h : s.mem.wf = true) :
    OutcomeWf (execMdrain rs z t dO x y k l s) := by
  refine issueWhole_wf h fun b g th => ?_
  dsimp only
  split
  · exact refuse_wf h
  split
  · exact refuse_wf h
  · exact postEntry_wf h

theorem execMwait_wf {t k : BitVec 3} {l : BitVec 4} (h : s.mem.wf = true) : OutcomeWf (execMwait t k l s) :=
  issueWhole_wf h fun _ _ _ => by simp [h]

theorem execMfence_wf (h : s.mem.wf = true) : OutcomeWf (execMfence s) :=
  issueWhole_wf h fun _ _ _ => advance_wf h

theorem execMdesc_wf {x : Reg} {k : BitVec 3} {l : BitVec 4} (h : s.mem.wf = true) : OutcomeWf (execMdesc da x k l s) :=
  issueWhole_wf h fun _ _ _ => withRecord_wf (fun _ _ hs => by split <;> simp [hs]) h

theorem execMshape_wf {x : Reg} {k : BitVec 3} {l : BitVec 4} (h : s.mem.wf = true) : OutcomeWf (execMshape da x k l s) :=
  issueWhole_wf h fun _ _ _ => withRecord_wf (fun _ _ hs => by split <;> simp [hs]) h

theorem execCbload_wf {n : BitVec 3} {x : Reg} {k : BitVec 3} {l : BitVec 4} (h : s.mem.wf = true) : OutcomeWf (execCbload n x k l s) :=
  issueWhole_wf h fun _ _ _ => engIssue_wf h

theorem execCodebookRebuild_wf {die : Nat} (h : s.mem.wf = true) : OutcomeWf (execCodebookRebuild die s) := by
  change (State.mem _).wf = true
  split
  · exact h
  next r _ =>
  have hr : (if r.va % 2 ^ 57 % 32 != 0 && r.va < 2 ^ 57 then (s, RRes.bad 0x0408 r.va (engDetail r.by_))
      else engGrans r.by_ r.op true (granRange r.va 32) s).1.mem.wf = true := by split <;> simp [h]
  dsimp only
  split
  next e => exact wf_of_eq e hr
  next e =>
    have := wf_of_eq e hr
    split
    next e => simpa using wf_of_eq e (engFault_wf this)
    next e => simpa using wf_of_eq e (engFault_wf this)
  next e => simpa using wf_of_eq e hr

end Sys2Proof.Machine
end

section
/-! SUPPORT. Canonical memory: copies. -/

namespace Sys2Proof.Machine

open Sys2Proof

variable {op status state va code id n kind : Nat} {f : Copy → Copy} {s : State} {c : Copy} {det : Word} {g : Group} {bs : List Byte}
  {e : EngBy} {x y z : Reg} {i : Instr} {k : BitVec 3} {l : BitVec 4} {a : Xfer} {b : Block}

@[simp] theorem updCopy_mem : (updCopy s op f).mem = s.mem := rfl

@[simp] theorem copyRead_wf (h : s.mem.wf = true) : (copyRead s c).1.mem.wf = true := by
  unfold copyRead
  repeat' split
  all_goals grind [engGrans_wf]

@[simp] theorem stopsDone_mem : (stopsDone s c).mem = s.mem := by
  unfold stopsDone
  exact foldl_mem (fun _ _ => by simp) _

@[simp] theorem copyOver_wf (h : s.mem.wf = true) : (copyOver s c status).mem.wf = true := by
  unfold copyOver
  exact signalDoneAt_wf (by
    rw [foldl_mem fun _ _ => engDone_mem]
    simpa using h)

@[simp] theorem copyEnd_mem : (copyEnd s c state status).mem = s.mem := rfl

@[simp] theorem copyFault_wf (h : s.mem.wf = true) : (copyFault s c code va det).mem.wf = true := by
  unfold copyFault
  repeat' split
  all_goals grind [updCopy_mem, engFault_wf, copyEnd_mem, copyOver_wf]

@[simp] theorem copyWritten_wf (h : s.mem.wf = true) : (copyWritten s c).mem.wf = true := by
  unfold copyWritten
  split
  · exact copyOver_wf h
  · simpa using h
  · rw [foldl_mem fun _ _ => engDone_mem]
    exact h

@[simp] theorem copyTailStep_wf (h : s.mem.wf = true) : (copyTailStep s c).mem.wf = true := by
  unfold copyTailStep
  repeat' split
  all_goals grind [updCopy_mem, copyFault_wf, copyWritten_wf, engPuts_wf]

@[simp] theorem copyWrite_wf (h : s.mem.wf = true) : (copyWrite s c).mem.wf = true := by
  unfold copyWrite
  repeat' split
  all_goals grind [updCopy_mem, dropGot_mem, copyFault_wf, engPuts_wf]

@[simp] theorem copyClose_wf (h : s.mem.wf = true) : (copyClose s c state status).mem.wf = true := by
  simp only [copyClose]
  split <;> simp [h]

@[simp] theorem copyStep_wf (h : s.mem.wf = true) : (copyStep s c).mem.wf = true := by
  unfold copyStep
  repeat' split
  all_goals grind [updCopy_mem, copyTailStep_wf, copyClose_wf, copyFault_wf, copyRead_wf, copyWrite_wf]

theorem execCopyChunk_wf (h : s.mem.wf = true) : OutcomeWf (execCopyChunk id s) := by
  refine next_wf ?_
  dsimp only
  (repeat' split) <;> simp [h]

@[simp] theorem copiesAgain_wf (h : s.mem.wf = true) : (copiesAgain s).mem.wf = true := by
  simp only [copiesAgain]
  refine foldl_wf (fun _ _ hs => ?_) _ h
  repeat' split
  all_goals grind [copyWritten_wf]

@[simp] theorem keepRecord_mem : (keepRecord s g va bs).mem = s.mem := rfl

@[simp] theorem stateStep_wf (h : s.mem.wf = true) : (stateStep s g e bs).1.mem.wf = true := by
  simp only [stateStep]
  (repeat' split) <;> simp [h]

theorem withCopy_wf {k : State → Block → Group → Thread → Nat → State} (hk : ∀ s b g th va, s.mem.wf = true → (k s b g th va).mem.wf = true)
    (h : s.mem.wf = true) : OutcomeWf (withCopy i x s k) := by
  refine issueWhole_wf h fun b g th => ?_
  dsimp only
  split
  · exact parkAccept_wf h
  · exact withDrain_wf (fun _ hs => hk _ _ _ _ _ hs) h

@[simp] theorem startTail_wf (h : s.mem.wf = true) : (startTail s op).mem.wf = true := by
  simp only [startTail]
  split <;> simp [h]

theorem execCpy_wf (h : s.mem.wf = true) : OutcomeWf (execCpy x k l s) := by
  refine withCopy_wf (fun _ _ _ _ _ hs => withRecord_wf (fun s bs hs => ?_) hs) h
  split
  · exact refuse_wf hs
  split
  next e => exact parkAccept_wf (wf_of_eq e (stateStep_wf hs))
  next e => simpa using wf_of_eq e (stateStep_wf hs)
  next e =>
    have := wf_of_eq e (stateStep_wf hs)
    split
    · exact refuse_wf this
    · exact startTail_wf (engIssue_wf this)

theorem execCpys_wf (h : s.mem.wf = true) : OutcomeWf (execCpys x k l s) := by
  refine withCopy_wf (fun s b g _ va hs => ?_) h
  (repeat' split) <;> simp [hs]

theorem execCpyr_wf (h : s.mem.wf = true) : OutcomeWf (execCpyr x k l s) := by
  refine withCopy_wf (fun s b g th va hs => ?_) h
  split
  · exact engIssue_wf hs
  split
  · exact engIssue_wf hs
  refine withRecord_wf (fun s bs hs => ?_) hs
  split
  · exact refuse_wf hs
  · exact startTail_wf (engIssue_wf hs)

theorem execCpyq_wf (h : s.mem.wf = true) : OutcomeWf (execCpyq x y z k l s) := by
  refine withCopy_wf (fun s b g _ va hs => ?_) h
  split
  · exact engIssue_wf hs
  · exact withRecord_wf (fun _ _ hs => engIssue_wf hs) hs

@[simp] theorem updXfer_mem {f : Xfer → Xfer} : (updXfer s op f).mem = s.mem := rfl

@[simp] theorem xferEnd_wf {x : Xfer} (h : s.mem.wf = true) : (xferEnd s x status).mem.wf = true := by
  simp only [xferEnd]
  split <;> simp [h]

@[simp] theorem xferFault_wf {x : Xfer} (h : s.mem.wf = true) : (xferFault s x code va det).mem.wf = true := by
  unfold xferFault
  repeat' split
  all_goals grind [updXfer_mem, engFault_wf, xferEnd_wf]

@[simp] theorem readVer_wf {x : Xfer} (h : s.mem.wf = true) : (readVer s x).1.mem.wf = true := by
  unfold readVer
  repeat' split
  all_goals grind [dropGot_mem, engGrans_wf]

@[simp] theorem runXfer_wf (h : s.mem.wf = true) : (runXfer n s a).mem.wf = true := by
  induction n generalizing s a with
  | zero => exact h
  | succ n ih =>
    have again {t : State} (ht : t.mem.wf = true) (f : Xfer → Xfer) : (runXfer n (updXfer t a.op f) (f a)).mem.wf = true := ih (by simpa)
    unfold runXfer
    dsimp only
    split
    · exact h
    split
    · split
      · split
        · exact h
        · exact xferEnd_wf h
      split
      · exact h
      split
      next e => exact xferFault_wf (wf_of_eq e (engLoc_wf h))
      next e => simpa using wf_of_eq e (engLoc_wf h)
      next e =>
        have hp := engPut_wf (e := a.by_) (op := a.op) (va := a.dst) (bs := leBytes a.want.toNat 8) (err := 0) (wf_of_eq e (engLoc_wf h))
        split
        next e => exact xferEnd_wf (wf_of_eq e hp)
        next e => exact wf_of_eq e hp
        next e => exact xferFault_wf (wf_of_eq e hp)
    split
    · split
      next e => exact wf_of_eq e (readVer_wf h)
      next e => exact xferFault_wf (wf_of_eq e (readVer_wf h))
      next e =>
        have := wf_of_eq e (readVer_wf h)
        split
        · exact again this _
        · exact again this _
    split
    · split
      next e =>
        have := wf_of_eq e (engPuts_wf h)
        split
        · simpa
        · exact xferEnd_wf this
      next e => exact wf_of_eq e (engPuts_wf h)
      next e => exact xferFault_wf (wf_of_eq e (engPuts_wf h))
    split
    · split
      · exact h
      · exact xferEnd_wf h
    split
    · split
      · exact h
      split
      · exact again (t := dropGot s a.op) h _
      · exact xferEnd_wf h
    split
    · exact xferFault_wf h
    split
    next e => exact wf_of_eq e (engGrans_wf h)
    next e => exact xferFault_wf (wf_of_eq e (engGrans_wf h))
    next e =>
      have := wf_of_eq e (engGrans_wf h)
      split
      · exact xferFault_wf this
      split
      next e => exact wf_of_eq e (engPuts_wf this)
      next e => exact xferFault_wf (wf_of_eq e (engPuts_wf this))
      next e => exact again (by simpa using wf_of_eq e (engPuts_wf this)) _

@[simp] theorem xfersAgain_wf (h : s.mem.wf = true) : (xfersAgain s).mem.wf = true := by
  simp only [xfersAgain]
  exact foldl_wf (fun _ _ hs => by simp [hs]) _ h

@[simp] theorem startXfer_wf {x : Xfer} (h : s.mem.wf = true) : (startXfer s b g i k l x).mem.wf = true := by
  cases hk : x.kind == 3 <;>
  · simp only [startXfer, hk, Bool.false_eq_true, reduceIte]
    refine advanceIn_wf (runXfer_wf ?_)
    split
    · exact h
    · exact foldl_fst_wf (fun _ _ hp => by simpa using hp) _ h

theorem oneSided_wf (h : s.mem.wf = true) : OutcomeWf (oneSided i kind x y z k l s) := by
  refine issueWhole_wf h fun b g th => ?_
  dsimp only
  split
  · exact refuse_wf h
  · exact withDrain_wf (fun _ hs => startXfer_wf hs) h

theorem execGetVer_wf (h : s.mem.wf = true) : OutcomeWf (execGetVer x y z k l s) := by
  refine issueWhole_wf h fun b g th => ?_
  dsimp only
  split
  · exact refuse_wf h
  · refine withDrain_wf (fun _ hs => withRecord_wf (fun s bs hs => ?_) hs) h
    (repeat' split) <;> simp [hs]

theorem execPutf_wf (h : s.mem.wf = true) : OutcomeWf (execPutf x y k l s) := by
  refine issueWhole_wf h fun b g th => ?_
  dsimp only
  split
  · exact engIssue_wf (engFault_wf h)
  · exact withDrain_wf (fun _ hs => startXfer_wf hs) h

theorem execWcflush_wf (h : s.mem.wf = true) : OutcomeWf (execWcflush k l s) :=
  runLanes_wf h (fun _ _ _ _ _ hs => hs) fun _ _ _ _ _ hs => by
    dsimp only
    split <;> simp [hs]

@[simp] theorem fenceacksAgain_mem : (fenceacksAgain s).mem = s.mem := by
  simp only [fenceacksAgain]
  refine foldl_mem (fun _ _ => ?_) _
  repeat' split
  all_goals grind [complete_mem]

theorem execFenceack_wf (h : s.mem.wf = true) : OutcomeWf (execFenceack k l s) :=
  runLanesThen_wf h (fun _ _ _ _ _ hs => hs) (fun _ _ _ _ _ hs => by simp [hs]) fun _ _ _ hs => by simpa using hs

end Sys2Proof.Machine
end

section
/-! SUPPORT. Canonical memory: lane operations. -/

namespace Sys2Proof.Machine

open Sys2Proof

variable {l n : BitVec 3} {a d b : Reg} {w : Nat} {f : Nat → Nat → Int × BitVec 6} {i : Instr} {s : State} {v : Word} {t : FpW}
  {np nc : Bool}

theorem intOp_wf (h : s.mem.wf = true) : OutcomeWf (intOp i f w d a b l s) := onLanes_wf h

theorem wordOp_wf {f : Word → Word → Word} (h : s.mem.wf = true) : OutcomeWf (wordOp i f d a b l s) := onLanes_wf h

theorem regOp_wf {f : Word → Word} (h : s.mem.wf = true) : OutcomeWf (regOp i f d a s) := onLanes_wf h

theorem ldi_wf (h : s.mem.wf = true) : OutcomeWf (ldi i d v s) := onLanes_wf h

theorem countOp_wf {f : Nat → Nat} (h : s.mem.wf = true) : OutcomeWf (countOp i f w d a s) := regOp_wf h

theorem fpOp_wf {f : Nat → Nat → Nat × BitVec 6} (h : s.mem.wf = true) : OutcomeWf (fpOp i t f d a b l s) := onLanes_wf h

theorem fpOp1_wf {f : Nat → Nat × BitVec 6} (h : s.mem.wf = true) : OutcomeWf (fpOp1 i t f d a s) := onLanes_wf h

theorem fmaOp_wf (h : s.mem.wf = true) : OutcomeWf (fmaOp i t np nc d a b l s) := onLanes_wf h

theorem sfuOp_wf {f : Nat → Word → Nat × BitVec 6} (h : s.mem.wf = true) : OutcomeWf (sfuOp i t f d a s) := onLanes_wf h

theorem execLpset_wf (h : s.mem.wf = true) : OutcomeWf (execLpset n a s) := issue_wf h fun _ _ => advance_wf h

end Sys2Proof.Machine
end

section
/-! SUPPORT. Canonical memory: collectives. -/

namespace Sys2Proof.Machine

open Sys2Proof

variable {f : Coll → Coll} {s : State} {op kind status code va n lo j chunk die id rank sbase grid bidx : Nat} {c a : Coll} {g : Group}
  {told fault : Bool} {det : Word} {gs : List (Nat × List Byte × Byte)} {p : Packet} {k : BitVec 3} {th : Thread} {b : Block}
  {l : BitVec 4} {i : Instr} {x y : Reg} {e : EngBy} {ranks aux : List Nat} {d : List Byte}

@[simp] theorem updColl_mem : (updColl s op f).mem = s.mem := rfl

@[simp] theorem collTell_mem : (collTell s c kind status).mem = s.mem := by
  unfold collTell
  exact foldl_mem (fun _ _ => by simp) _

@[simp] theorem collOpen_mem : (collOpen s c).mem = s.mem := by
  unfold collOpen
  exact foldl_mem (fun _ _ => by simp) _

@[simp] theorem segDone_wf {g : Nat} (h : s.mem.wf = true) : (segDone s c status g).mem.wf = true := by
  simp [segDone, h]

@[simp] theorem collEnd_wf (h : s.mem.wf = true) : (collEnd s c status).mem.wf = true := by
  simp only [collEnd]
  exact signalDoneAt_wf (by
    rw [engDone_mem]
    exact foldl_wf (fun _ _ hs => segDone_wf hs) _ h)

@[simp] theorem collFail_wf (h : s.mem.wf = true) : (collFail s c status).mem.wf = true := by
  simp [collFail, h]

@[simp] theorem collRec_wf (h : s.mem.wf = true) : (collRec s c code).mem.wf = true := by
  simp [collRec, h]

@[simp] theorem collDisagree_wf (h : s.mem.wf = true) : (collDisagree s c told).mem.wf = true := by
  simp [collDisagree, h]

@[simp] theorem collFault_wf (h : s.mem.wf = true) : (collFault s c code va det).mem.wf = true := by
  unfold collFault
  grind [updColl_mem, collFail_wf, engFault_wf]

@[simp] theorem segsLanded_wf (h : s.mem.wf = true) : (segsLanded s c).mem.wf = true := by
  unfold segsLanded
  extract_lets
  split
  · exact h
  · exact foldl_wf (fun _ _ hs => segDone_wf hs) _ h

@[simp] theorem collDeliver_mem : (collDeliver s c lo n gs).mem = s.mem := by
  unfold collDeliver
  exact foldl_mem (fun _ _ => by simp) _

@[simp] theorem collVersion_wf (h : s.mem.wf = true) : (collVersion s c).1.mem.wf = true := by
  unfold collVersion
  grind [dropGot_mem, engGrans_wf]

@[simp] theorem collRun_wf (h : s.mem.wf = true) : (collRun n s op).mem.wf = true := by
  induction n generalizing s with
  | zero => exact h
  | succ n ih =>
    have again {t : State} (ht : t.mem.wf = true) (f : Coll → Coll) : (collRun n (updColl t op f) op).mem.wf = true := ih (by simpa)
    unfold collRun
    split
    · exact h
    next c _ =>
    split
    · exact h
    split
    · split
      · exact h
      split
      · exact collEnd_wf h
      split
      · exact h
      dsimp only
      split
      · exact again h _
      · exact again (by simpa) _
    · split
      next e => exact wf_of_eq e (collVersion_wf h)
      next e => exact collFault_wf (wf_of_eq e (collVersion_wf h))
      next e => exact collFail_wf (wf_of_eq e (collVersion_wf h))
      next e => exact again (by simpa using wf_of_eq e (collVersion_wf h)) _
    · split
      · dsimp only
        split
        · exact again h _
        split
        next e => exact wf_of_eq e (engGrans_wf h)
        next e => exact collFault_wf (wf_of_eq e (engGrans_wf h))
        next e => exact again (by simpa using wf_of_eq e (engGrans_wf h)) _
      · dsimp only
        split
        · exact again (segsLanded_wf h) _
        · exact segsLanded_wf h
    · split
      next e => exact wf_of_eq e (collVersion_wf h)
      next e => exact collFault_wf (wf_of_eq e (collVersion_wf h))
      next e => exact again (wf_of_eq e (collVersion_wf h)) _
    · split
      · exact again (by simpa) _
      split
      · have hr : (if (c.kind != 2 && c.dtype == 7 && c.notices.foldl (fun a n => firstBad a n.2) c.status == 3) = true then
            collRec s c 0x0724 else s).mem.wf = true := by split <;> simp [h]
        dsimp only
        split
        · exact collEnd_wf hr
        · exact collEnd_wf hr
      · exact h

@[simp] theorem collsAgain_wf (h : s.mem.wf = true) : (collsAgain s).mem.wf = true := by
  simp only [collsAgain]
  exact foldl_wf (fun _ _ hs => collRun_wf hs) _ h

@[simp] theorem collTake_wf (h : s.mem.wf = true) : (collTake s c p).mem.wf = true := by
  unfold collTake
  repeat' split
  all_goals grind [collEnd_wf, collDisagree_wf, updColl_mem, collRun_wf]

@[simp] theorem collArrive_wf (h : s.mem.wf = true) : (collArrive s p).mem.wf = true := by
  simp only [collArrive]
  (repeat' split) <;> simp [h]

@[simp] theorem collEnter_mem : (collEnter s c).mem = s.mem := rfl

@[simp] theorem collEarly_wf (h : s.mem.wf = true) : (collEarly s c).mem.wf = true := by
  unfold collEarly
  exact foldl_wf (fun _ _ h => by (repeat' split) <;> simp [h]) _ h

@[simp] theorem collWrite_wf (h : s.mem.wf = true) : (collWrite s c).mem.wf = true := by
  unfold collWrite
  repeat' split
  all_goals grind [updColl_mem, collRun_wf, collFault_wf, engPuts_wf]

@[simp] theorem collChunk_wf (h : s.mem.wf = true) : (collChunk s c j).mem.wf = true := by
  unfold collChunk
  repeat' split
  all_goals grind [collWrite_wf, updColl_mem, engGrans_wf, collFault_wf]

theorem execCollChunkReduce_wf (h : s.mem.wf = true) : OutcomeWf (execCollChunkReduce die id chunk s) := by
  refine next_wf ?_
  dsimp only
  (repeat' split) <;> simp [h]

theorem execCollCheckNotice_wf (h : s.mem.wf = true) : OutcomeWf (execCollCheckNotice die id rank fault s) := by
  refine next_wf ?_
  repeat' split
  all_goals grind [updColl_mem, collRun_wf]

theorem withDescriptor_wf {k : State → Coll → State} (hk : ∀ s c, s.mem.wf = true → (k s c).mem.wf = true) (h : s.mem.wf = true) :
    (withDescriptor s b g th kind va k).mem.wf = true := by
  simp only [withDescriptor]
  split
  · exact refuse_wf h
  refine withRecord_wf (fun s bs hs => ?_) h
  split
  · exact refuse_wf hs
  refine withRecord_wf (fun s rb hs => ?_) hs
  split
  · refine withRecord_wf (fun s ab hs => ?_) hs
    (repeat' split) <;> simp [hs, hk]
  · (repeat' split) <;> simp [hs, hk]

@[simp] theorem startColl_wf (h : s.mem.wf = true) : (startColl s b g i k l c).mem.wf = true := by
  simp only [startColl]
  refine advanceIn_wf (collRun_wf (collEarly_wf ?_))
  split
  · exact h
  · exact foldl_fst_wf (fun _ _ hp => by simpa using hp) _ h

theorem execColl_wf (h : s.mem.wf = true) : OutcomeWf (execColl x k l s) :=
  issueWhole_wf h fun _ _ _ => withDrain_wf (fun _ hs => withDescriptor_wf (fun _ _ hs => startColl_wf hs) hs) h

theorem execCollVer_wf (h : s.mem.wf = true) : OutcomeWf (execCollVer x k l s) :=
  issueWhole_wf h fun _ _ _ => withDrain_wf (fun _ hs => withDescriptor_wf (fun _ _ hs => startColl_wf hs) hs) h

@[simp] theorem bindColl_wf (h : s.mem.wf = true) : (bindColl s e grid sbase d ranks aux).mem.wf = true := by
  unfold bindColl
  grind [collEnter_mem, collEarly_wf, collRun_wf]

@[simp] theorem segReady_wf (h : s.mem.wf = true) : (segReady s grid bidx).mem.wf = true := by
  simp only [segReady]
  refine foldl_wf (fun _ _ hs => ?_) _ h
  repeat' split
  all_goals grind [updColl_mem, collRun_wf]

theorem execReshard_wf (h : s.mem.wf = true) : OutcomeWf (execReshard x y k l s) := by
  refine issueWhole_wf h fun b g th => withDrain_wf (fun _ hs => withDescriptor_wf (fun s c hs => withRecord_wf (fun s mb hs => ?_) hs) hs) h
  dsimp only
  split
  · exact refuse_wf hs
  split
  · exact refuse_wf hs
  split
  · exact refuse_wf hs
  · exact startColl_wf hs

@[simp] theorem reshardMoves_wf (h : s.mem.wf = true) : (reshardMoves n s c).mem.wf = true := by
  induction n generalizing s c with
  | zero => exact h
  | succ n ih =>
    unfold reshardMoves
    split
    · exact h
    dsimp only
    split
    next e => exact wf_of_eq e (engGrans_wf h)
    next e => exact collFault_wf (wf_of_eq e (engGrans_wf h))
    next e =>
      have := wf_of_eq e (engGrans_wf h)
      split
      · exact collFault_wf this
      split
      next e => exact wf_of_eq e (engPuts_wf this)
      next e => exact collFault_wf (wf_of_eq e (engPuts_wf this))
      next e => exact ih (by simpa using wf_of_eq e (engPuts_wf this))

theorem execReshardComplete_wf (h : s.mem.wf = true) : OutcomeWf (execReshardComplete die id s) := by
  refine next_wf ?_
  split
  · exact h
  split
  · exact h
  split
  · exact h
  dsimp only
  split
  · split
    · exact collsAgain_wf (collRun_wf h)
    · exact collRun_wf h
  · split
    · exact collsAgain_wf (collRun_wf (reshardMoves_wf h))
    · exact collRun_wf (reshardMoves_wf h)

end Sys2Proof.Machine
end

section
/-! SUPPORT. Canonical memory: populations and resampling. -/

namespace Sys2Proof.Machine

open Sys2Proof

variable {s : State} {xs : List Nat} {op slot grid copy gen cause dst kind : Nat} {e : EngBy} {who : Tref} {parent lid detail : Word}
  {ws : List Word} {plan : List Child} {kids : List (Child × List Word × Word)} {x y z : Reg} {g : Grid} {p : Packet} {u : Option Reg}
  {k : BitVec 3} {i : Instr} {l : BitVec 4}

@[simp] theorem privGrans_wf (h : s.mem.wf = true) : (privGrans e op xs s).1.mem.wf = true := by
  induction xs generalizing s with
  | nil => exact h
  | cons q r ih =>
    simp only [privGrans]
    refine ih ?_
    split <;> simp [h]

@[simp] theorem privOf_wf (h : s.mem.wf = true) : (privOf s grid slot).1.mem.wf = true := by
  unfold privOf
  repeat' split
  all_goals grind [privGrans_wf]

@[simp] theorem imageOf_wf (h : s.mem.wf = true) : (imageOf s grid slot).1.mem.wf = true := by
  unfold imageOf
  repeat' split
  all_goals grind [privOf_wf]

@[simp] theorem leaveSlot_mem : (leaveSlot s who).mem = s.mem := rfl

@[simp] theorem placeThread_mem : (placeThread s grid slot ws copy lid parent).mem = s.mem := rfl

@[simp] theorem popDepart_wf (h : s.mem.wf = true) : (popDepart s grid gen plan kids).mem.wf = true := by
  unfold popDepart
  refine foldl_wf (fun _ _ hs => settleBlock_wf hs) _ ?_
  rw [State.updGrid_mem, foldl_mem fun _ _ => placeThread_mem]
  exact h

@[simp] theorem popRaise_wf (h : s.mem.wf = true) : (popRaise s grid cause detail).mem.wf = true := by
  unfold popRaise
  refine foldl_fst_wf (fun p x hp => ?_) _ h
  dsimp only
  split
  next e => exact settleGroup_wf (takeTrap_wf (by simpa using hp) e)
  next e =>
    refine settleGroup_wf ?_
    split <;> simp [hp]

@[simp] theorem gatherKids_wf {cs : List Child} (h : s.mem.wf = true) : (gatherKids grid cs s).1.mem.wf = true := by
  induction cs generalizing s with
  | nil => exact h
  | cons c r ih =>
    unfold gatherKids
    dsimp only
    split
    next e => exact wf_of_eq e (imageOf_wf h)
    next e =>
      have := ih (wf_of_eq e (imageOf_wf h))
      split
      next e => exact wf_of_eq e this
      next => exact this

@[simp] theorem dropPriv_mem : (dropPriv s).mem = s.mem := rfl

@[simp] theorem setExch_mem {e : Exch} : (setExch s e).mem = s.mem := rfl

@[simp] theorem sendWords_mem : (sendWords s grid dst kind slot ws).mem = s.mem := by
  unfold sendWords
  exact foldl_mem (fun _ _ => by simp) _

@[simp] theorem exchStep_wf (h : s.mem.wf = true) : (exchStep s grid).mem.wf = true := by
  unfold exchStep
  extract_lets ps root me g ws ws' x marked x' listed e got arrs plan planned told rooted
  have hl : listed.mem.wf = true := by
    dsimp only [listed, marked]
    (repeat' split) <;> simp [h]
  have ht : told.mem.wf = true := by
    dsimp only [told]
    clear_value plan
    split <;> exact hl
  have hr : rooted.mem.wf = true := by
    dsimp only [rooted]
    split
    · split
      · rwa [foldl_mem fun _ _ => sendWords_mem]
      · rwa [foldl_mem fun _ _ => sendWords_mem]
    · exact hl
  split
  · exact hr
  split
  · exact popRaise_wf (by simpa using hr)
  split
  next e => exact wf_of_eq e (gatherKids_wf hr)
  next e =>
    have := wf_of_eq e (gatherKids_wf hr)
    simpa [foldl_mem fun _ _ => sendWords_mem] using this

@[simp] theorem exchPuts_wf {xs : List (Nat × Nat × List Byte × Byte)} (h : s.mem.wf = true) : (exchPuts grid xs s).1.mem.wf = true := by
  induction xs generalizing s with
  | nil => exact h
  | cons x r ih =>
    unfold exchPuts
    split
    · exact ih h
    split
    next e => exact wf_of_eq e (engPut_wf h)
    next e => exact ih (wf_of_eq ‹engPut .. = _› (engPut_wf h))

@[simp] theorem exchWrite_wf (h : s.mem.wf = true) : (exchWrite s grid).mem.wf = true := by
  unfold exchWrite
  grind [setExch_mem, exchPuts_wf]

@[simp] theorem exchClose_wf (h : s.mem.wf = true) : (exchClose s grid).mem.wf = true := by
  simp [exchClose, h]

@[simp] theorem exchDepart_wf (h : s.mem.wf = true) : (exchDepart s grid).mem.wf = true := by
  simp [exchDepart, h]

@[simp] theorem exchAlone_wf (h : s.mem.wf = true) : (exchAlone s g).mem.wf = true := by
  unfold exchAlone
  repeat' split
  all_goals grind [exchDepart_wf, exchWrite_wf, setExch_mem, dropPriv_mem, popRaise_wf, gatherKids_wf]

@[simp] theorem resampleTry_wf (h : s.mem.wf = true) : (resampleTry s grid).mem.wf = true := by
  simp only [resampleTry]
  (repeat' split) <;> simp [h]

@[simp] theorem exchArrive_wf (h : s.mem.wf = true) : (exchArrive s p).mem.wf = true := by
  simp only [exchArrive]
  (repeat' split) <;> simp [h]

theorem execCloneImageCopy_wf (h : s.mem.wf = true) : OutcomeWf (execCloneImageCopy grid s) := next_wf (by simp [h])

theorem resampleOf_wf (h : s.mem.wf = true) : OutcomeWf (resampleOf i x y z u k s) := by
  refine issueWhole_wf h fun b g th => ?_
  split
  · simp [h]
  refine withDrain_wf (fun s hs => ?_) h
  dsimp only
  split
  · exact hs
  · exact resampleTry_wf (advanceIn_wf (by rwa [foldl_mem fun _ _ => State.updThread_mem ..]))

theorem execPopseed_wf (h : s.mem.wf = true) : OutcomeWf (execPopseed x k l s) := issueWhole_wf h fun _ _ _ => by simp [h]

end Sys2Proof.Machine
end

section
/-! SUPPORT. Canonical memory: dispatch and placement. -/

namespace Sys2Proof.Machine

open Sys2Proof

variable {job core o n grid size gang spec handle va id status pos cls kind : Nat} {s : State} {es exts : List Extent}
  {hd : Nat × Nat × Nat × Option Nat} {l : Launch} {cores xs : List Nat} {g : Grid} {x : Sub} {u : WUnit} {user : Bool}
  {f : Sub → Option Sub} {i : Instr} {k : BitVec 3} {y : Reg}

@[simp] theorem extentsDsm_wf (h : s.mem.wf = true) : (extentsDsm s job es).mem.wf = true :=
  foldl_wf (fun _ _ hs => foldl_wf (fun _ _ hs => noteDsm_wf hs) _ hs) _ h

@[simp] theorem carveWrite_wf (h : s.mem.wf = true) : (carveWrite s core o n).mem.wf = true := by
  simp only [carveWrite]
  split
  · exact s.mem.write_wf _ _ h
  · exact h

theorem holdEntry_wf {e : Nat × Nat × Nat × Option Nat} (h : s.mem.wf = true) : (match e.2.2.2 with
    | some o => carveWrite s core o e.2.2.1
    | none => s).mem.wf = true := by
  split
  · exact carveWrite_wf h
  · exact h

@[simp] theorem holdEntries_wf {es : List (Nat × Nat × Nat × Option Nat)} (h : s.mem.wf = true) : (holdEntries s core es).mem.wf = true := by
  unfold holdEntries
  exact foldl_wf (fun _ _ hs => holdEntry_wf hs) _ h

/-- The end of a shelf entry's move into the carve-out, apart from the carve-out's own write. -/
theorem heldEnd_wf {t : State} {p : Bool} {f : Core → Core} {f' : Block → Block} {i j : Nat} (h : s.mem.wf = true)
    (e : (if p then some (s.updCore core f) else some ((s.updCore core f).updBlock i j f')) = some t) : t.mem.wf = true := by
  split at e <;> cases e <;> simpa

theorem toCarve_wf {t : State} (h : s.mem.wf = true) (e : toCarve core s hd = some t) : t.mem.wf = true := by
  unfold toCarve at e
  dsimp only at e
  split at e
  · cases e
  · exact heldEnd_wf (carveWrite_wf (by simpa)) e

theorem foldlM_wf {α : Type} {f : State → α → Option State} (hf : ∀ s x t, s.mem.wf = true → f s x = some t → t.mem.wf = true) :
    ∀ (l : List α) {s t : State}, s.mem.wf = true → l.foldlM f s = some t → t.mem.wf = true
  | [], _, _, h, e => Option.some.inj e ▸ h
  | x :: r, s, t, h, e => by
    obtain ⟨u, hu, e⟩ := Option.bind_eq_some_iff.mp e
    exact foldlM_wf hf r (hf s x u h hu) e

theorem clearShelf_wf {t : State} (h : s.mem.wf = true) (e : clearShelf s core grid = some t) : t.mem.wf = true :=
  foldlM_wf (fun _ _ _ hs he => toCarve_wf hs he) _ h e

@[simp] theorem readyShelf_wf (h : s.mem.wf = true) : (readyShelf s l grid core).mem.wf = true := by
  simp only [readyShelf]
  split
  · cases e : clearShelf s core grid with
    | none => exact h
    | some t => exact clearShelf_wf h e
  · exact h

theorem placeGang_wf {bs : List (Nat × Nat)} {t : State} (h : s.mem.wf = true) (e : placeGang g exts cores gang size bs s = some t) :
    t.mem.wf = true := by
  induction bs generalizing s with
  | nil => exact Option.some.inj e ▸ h
  | cons x r ih =>
    unfold placeGang at e
    split at e
    · cases e
    · exact ih (by simpa using readyShelf_wf h) e

theorem tryGang_wf {t : State} (h : s.mem.wf = true) (e : tryGang s g exts spec = some t) : t.mem.wf = true := by
  obtain ⟨cores, -, e⟩ := List.exists_of_findSome?_eq_some e
  obtain ⟨u, hu, rfl⟩ := Option.map_eq_some_iff.mp e
  simpa using placeGang_wf h hu

@[simp] theorem nextGang_wf (h : s.mem.wf = true) : (nextGang s g exts).1.mem.wf = true := by
  unfold nextGang
  split
  next e =>
    split at e
    · cases e
    · exact tryGang_wf h e
  · dsimp only
    split
    next e => exact tryGang_wf (by simpa) e
    · simpa

@[simp] theorem gangsWhile_wf (h : s.mem.wf = true) : (gangsWhile exts handle n s).mem.wf = true := by
  induction n generalizing s with
  | zero => exact h
  | succ n ih =>
    unfold gangsWhile
    split
    · exact h
    split
    · exact h
    split
    next e => exact wf_of_eq e (nextGang_wf h)
    next e => exact ih (wf_of_eq e (nextGang_wf h))

@[simp] theorem dispatchBlocks_wf (h : s.mem.wf = true) : (dispatchBlocks s handle).mem.wf = true := by
  unfold dispatchBlocks
  split
  · exact h
  split
  · exact h
  dsimp only
  split
  · exact h
  split
  · exact gangsWhile_wf h
  · exact extentsDsm_wf (by simpa using gangsWhile_wf h)

@[simp] theorem dispatchAll_wf (h : s.mem.wf = true) : (dispatchAll s).mem.wf = true := by
  unfold dispatchAll
  exact foldl_wf (fun _ _ h => by simp [h]) _ h

@[simp] theorem takeBound_wf (h : s.mem.wf = true) : (takeBound s g).mem.wf = true := by
  unfold takeBound
  repeat' split
  all_goals grind [boundAt_wf, bindColl_wf]

@[simp] theorem admitGrid_wf (h : s.mem.wf = true) : (admitGrid s g).mem.wf = true := by
  simp [admitGrid, h]

@[simp] theorem unitCount_mem : (unitCount s id va).mem = s.mem := rfl

@[simp] theorem unitOver_wf (h : s.mem.wf = true) : (unitOver s u).mem.wf = true := by
  simp only [unitOver]
  split <;> simp [h]

@[simp] theorem unitsAgain_wf (h : s.mem.wf = true) : (unitsAgain s).mem.wf = true :=
  foldl_wf (fun _ _ hs => foldl_wf (fun _ _ hs => unitOver_wf hs) _ hs) _ h

@[simp] theorem unitMember_wf (h : s.mem.wf = true) : (unitMember s id va).mem.wf = true := by
  simp [unitMember, h]

@[simp] theorem decideRecord_wf (h : s.mem.wf = true) : (decideRecord s x status).mem.wf = true := by
  simp [decideRecord, h]

@[simp] theorem testWaits_wf (h : s.mem.wf = true) : (testWaits job user xs s).1.mem.wf = true := by
  induction xs generalizing s with
  | nil => exact h
  | cons va r ih =>
    have hrest {t : State} (ht : t.mem.wf = true) (w : WaitRes) : (match testWaits job user r t with
        | (s, .met) | (s, .err _) | (s, .failed _) => (s, w)
        | x => x).1.mem.wf = true := by
      split
      next e => exact wf_of_eq e (ih ht)
      next e => exact wf_of_eq e (ih ht)
      next e => exact wf_of_eq e (ih ht)
      next => exact ih ht
    unfold testWaits
    dsimp only
    split
    · exact hrest h _
    split
    next e =>
      have := wf_of_eq e (readAs_wf h)
      split
      · exact this
      split
      · exact this
      · exact hrest this _
    next e =>
      have := wf_of_eq e (readAs_wf h)
      split
      · exact hrest this _
      split
      · exact ih this
      · exact hrest this _

@[simp] theorem updQueue_mem : (updQueue s cls pos f).mem = s.mem := rfl

@[simp] theorem leaveQueue_wf (h : s.mem.wf = true) : (leaveQueue s x).mem.wf = true := by
  simp only [leaveQueue]
  (repeat' split) <;> simp [h]

@[simp] theorem testRecord_wf (h : s.mem.wf = true) : (testRecord s x).1.mem.wf = true := by
  unfold testRecord
  repeat' split
  all_goals grind [boundAt_wf, testWaits_wf]

theorem execDispatchRecord_wf (h : s.mem.wf = true) : OutcomeWf (execDispatchRecord cls pos s) := by
  refine next_wf ?_
  repeat' split
  all_goals grind [decideRecord_wf, testRecord_wf, queueRec_wf, updQueue_mem, dispAsk_mem, leaveQueue_wf, waitEntry_mem]

@[simp] theorem updPend_mem {f : Pend → Pend} : (updPend s id f).mem = s.mem := rfl

@[simp] theorem submitStatus_mem : (submitStatus s x n).mem = s.mem := by
  simp [submitStatus]

@[simp] theorem submitFor_wf (h : s.mem.wf = true) : (submitFor s x).mem.wf = true := by
  unfold submitFor
  repeat' split
  all_goals grind [signalDone_wf, submitStatus_mem, submitNow_wf]

@[simp] theorem subsAgain_wf (h : s.mem.wf = true) : (subsAgain s).mem.wf = true := by
  unfold subsAgain
  extract_lets ready done
  split
  · exact h
  have hd : done.mem.wf = true := foldl_wf (fun _ _ hs => submitFor_wf (by exact hs)) _ h
  split
  · exact hd
  · exact hd

theorem submitLanes_wf {x : Reg} {l : BitVec 4} (h : s.mem.wf = true) : OutcomeWf (submitLanes i kind x y k l s) := by
  refine issue_wf h fun _ _ => withDrain_wf (fun _ hs => ?_) h
  dsimp only
  refine advanceIn_wf (foldl_fst_wf (fun p m hp => ?_) _ hs)
  exact submitFor_wf (by simpa using hp)

theorem execHostSubmission_wf {kind : SubKind} {va : Va} (h : s.mem.wf = true) : OutcomeWf (execHostSubmission kind job va s) :=
  next_wf (by simp [h])

end Sys2Proof.Machine
end

section
/-! SUPPORT. Canonical memory: replay. -/

namespace Sys2Proof.Machine

open Sys2Proof

variable {acc : Acc} {s : State} {g : Group} {th : Thread} {b : Block} {tid grid bidx tok die : Nat} {closed : Nat → Bool} {p : Packet}
  {w : WaitEntry}

@[simp] theorem reCheck_wf (h : s.mem.wf = true) : (reCheck s b g th acc).1.mem.wf = true := by
  unfold reCheck
  split
  · exact h
  · split
    · split
      next e => exact wf_of_eq e (accFaults_wf h)
      next e =>
        have := wf_of_eq e (accFaults_wf h)
        split
        · exact targetCheck_wf this
        · exact this
    split
    · split
      next e => exact wf_of_eq e (accFaults_wf h)
      next e => exact targetCheck_wf (wf_of_eq e (accFaults_wf h))
    · exact targetCheck_wf h
  · split
    next e => exact wf_of_eq e (accCheck_wf h)
    next => exact accCheck_wf h
  · exact accCheck_wf h

@[simp] theorem reLook_wf (h : s.mem.wf = true) : (reLook s b th acc).1.mem.wf = true := by
  unfold reLook
  split
  · split
    · exact h
    · split
      next e => exact wf_of_eq e (targetLook_wf h)
      next e => exact wf_of_eq e (targetLook_wf h)
  · exact h

@[simp] theorem reAct_wf (h : s.mem.wf = true) : (reAct s b g th acc).1.mem.wf = true := by
  simp only [reAct]
  (repeat' split) <;> simp [h]

@[simp] theorem reexecLane_wf (h : s.mem.wf = true) : (reexecLane closed grid bidx g tid s).1.mem.wf = true := by
  unfold reexecLane
  dsimp only
  split
  · split
    · exact h
    split
    next e => simpa using wf_of_eq e (reLook_wf h)
    next e =>
      have hc := reCheck_wf (b := ‹Block›) (g := g) (th := ‹Thread›) (acc := ‹Acc›) (wf_of_eq e (reLook_wf h))
      split
      · exact trapOrPark_wf (by simpa using hc)
      · have hr (l l' : List LFault) := rung3Rec_wf (b := ‹Block›) (g := g) (fs := l') (openAll_wf (b := ‹Block›) (g := g) (fs := l) hc)
        (repeat' split) <;> simp [hr]
  · exact h

theorem reexecStep_wf {p : State × List (Nat × List Window)} (h : p.1.mem.wf = true) :
    (match reexecLane closed grid bidx g tid p.1 with
    | (s, some ws) => (s, p.2 ++ [(tid, ws)])
    | (s, none) => (s, p.2)).1.mem.wf = true := by
  split
  next e => exact wf_of_eq e (reexecLane_wf h)
  next e => exact wf_of_eq e (reexecLane_wf h)

@[simp] theorem reexecGroup_wf (h : s.mem.wf = true) : (reexecGroup closed grid bidx s g).mem.wf = true := by
  simp only [reexecGroup]
  split
  · exact foldl_fst_wf (fun _ _ hp => reexecStep_wf hp) _ h
  · exact settleGroup_wf (foldl_fst_wf (fun _ _ hp => reexecStep_wf hp) _ h)

@[simp] theorem reexecBlock_wf (h : s.mem.wf = true) : (reexecBlock closed s b).mem.wf = true := by
  unfold reexecBlock
  exact foldl_wf (fun _ _ h => by simp [h]) _ h

@[simp] theorem reexecAll_wf (h : s.mem.wf = true) : (reexecAll closed s).mem.wf = true := by
  unfold reexecAll
  exact foldl_wf (fun _ _ hs => by split <;> simp [hs]) _ h

@[simp] theorem looksAgain_wf (h : s.mem.wf = true) : (looksAgain s).mem.wf = true := by
  simp only [looksAgain]
  split <;> simp [h]

@[simp] theorem resendHeld_mem : (resendHeld s p).mem = s.mem := by
  simp [resendHeld]

@[simp] theorem wakeAll_wf (h : s.mem.wf = true) : (wakeAll s).mem.wf = true := by
  unfold wakeAll
  exact goOn_wf (unitsAgain_wf (xfersAgain_wf (collsAgain_wf (copiesAgain_wf (returnsAgain_wf (looksAgain_wf (by simpa)))))))

@[simp] theorem closeOthers_wf (h : s.mem.wf = true) : (closeOthers s tok).mem.wf = true := by
  unfold closeOthers
  extract_lets sigs subs pkts gone freed signalled submitted resent
  have hs : signalled.mem.wf = true := foldl_wf (fun _ _ hs => signalDoneAt_wf hs) _ h
  have hb : submitted.mem.wf = true := foldl_wf (fun _ _ hs => submitFor_wf hs) _ hs
  have hr : resent.mem.wf = true := by rwa [show resent.mem = submitted.mem from foldl_mem (fun _ _ => resendHeld_mem) _]
  exact wakeAll_wf hr

@[simp] theorem closeEntry_wf (h : s.mem.wf = true) : (closeEntry s die w).mem.wf = true := by
  unfold closeEntry
  exact closeOthers_wf (reexecAll_wf (closeOthers_wf (reexecAll_wf (by simpa))))

end Sys2Proof.Machine
end

section
/-! SUPPORT. Canonical memory: retirement. -/

namespace Sys2Proof.Machine

open Sys2Proof

variable {before s : State} {grid bidx hd status n va job : Nat} {g : Grid} {tell : Bool} {x : Sub} {p pq : Sub → Bool}
  {pg : Grid → Bool} {lv : Level} {k : BitVec 3} {l : BitVec 4}

@[simp] theorem freeEntries_mem : (freeEntries before s).mem = s.mem := foldl_mem (fun _ _ => State.updDie_mem ..) _

@[simp] theorem removeBlock_mem : (removeBlock s grid bidx).mem = s.mem := rfl

@[simp] theorem haltEnds_mem : (haltEnds s hd).mem = s.mem := rfl

@[simp] theorem originDecides_wf (h : s.mem.wf = true) : (originDecides s hd status).mem.wf = true := by
  unfold originDecides
  repeat' split
  all_goals grind [decideRecord_wf, signalDone_wf]

@[simp] theorem writeDigest_wf (h : s.mem.wf = true) : (writeDigest s g).1.mem.wf = true := by
  unfold writeDigest
  dsimp only
  split
  · exact h
  split
  · exact h
  split
  next e =>
    split
    · simpa using wf_of_eq e (engPuts_wf h)
    · exact wf_of_eq e (engPuts_wf h)
  next e => exact wf_of_eq e (engPuts_wf h)
  next e =>
    have := wf_of_eq e (engPuts_wf h)
    split
    next e => simpa using wf_of_eq e (engFault_wf this)
    next e => exact wf_of_eq e (engFault_wf this)

@[simp] theorem sendFinishes_mem : (sendFinishes s).mem = s.mem := by
  unfold sendFinishes
  exact foldl_mem (fun _ _ => by simp) _

theorem execGridCompletion_wf (h : s.mem.wf = true) : OutcomeWf (execGridCompletion grid s) := by
  refine next_wf ?_
  split
  · exact h
  split
  · exact h
  split
  next e => exact wf_of_eq e (writeDigest_wf h)
  next e =>
    have := wf_of_eq e (writeDigest_wf h)
    split
    · refine dispatchAll_wf ?_
      rw [sendFinishes_mem]
      exact unitMember_wf (signalDone_wf (by exact this))
    · refine dispatchAll_wf ?_
      rw [sendFinishes_mem, State.updGrid_mem]
      split
      · exact this
      · exact originDecides_wf this

@[simp] theorem dropOrder_mem : (dropOrder s hd).mem = s.mem := by
  simp only [dropOrder]
  split
  · rfl
  · exact foldl_mem (fun _ _ => by simp) _

@[simp] theorem stopGrid_wf (h : s.mem.wf = true) : (stopGrid s hd status).mem.wf = true := by
  unfold stopGrid
  extract_lets before unparked flushed emptied stopped told released ended failed failed'
  have hf : flushed.mem.wf = true := foldl_wf (fun _ _ hs => foldl_wf (fun _ _ hs => flushThread_wf hs) _ hs) _ h
  have ht : told.mem.wf = true := by
    dsimp only [told]
    rw [dropOrder_mem, tellReached_mem]
    exact hf
  rw [freeEntries_mem]
  exact foldl_wf (fun _ _ hs => collFail_wf hs) _ (foldl_wf (fun _ _ hs => collFail_wf hs) _
    (foldl_wf (fun _ _ hs => xferEnd_wf hs) _ (releaseAll_wf ht)))

@[simp] theorem stoppedAgain_wf (h : s.mem.wf = true) : (stoppedAgain s hd).mem.wf = true := by
  simp only [stoppedAgain]
  repeat' split
  all_goals simp [*]

@[simp] theorem cancelGrid_wf (h : s.mem.wf = true) : (cancelGrid s hd).mem.wf = true := by
  simp only [cancelGrid]
  repeat' split
  all_goals simp [*]

@[simp] theorem cancelSub_wf (h : s.mem.wf = true) : (cancelSub s x tell).mem.wf = true := by
  simp only [cancelSub]
  (repeat' split) <;> simp [h]

@[simp] theorem cancelQueued_wf (h : s.mem.wf = true) : (cancelQueued s p).mem.wf = true := by
  unfold cancelQueued
  exact foldl_wf (fun _ _ h => by simp [h]) _ h

@[simp] theorem cancelWork_wf (h : s.mem.wf = true) : (cancelWork s pq pg tell).mem.wf = true := by
  unfold cancelWork
  refine dispatchAll_wf ?_
  rw [sendFinishes_mem]
  exact foldl_wf (fun _ _ hs => cancelGrid_wf hs) _ (foldl_wf (fun _ _ hs => cancelSub_wf hs) _ (cancelQueued_wf h))

@[simp] theorem cancelUnit_wf {u : WUnit} (h : s.mem.wf = true) : (cancelUnit n s u).mem.wf = true := by
  induction n generalizing s u with
  | zero => exact h
  | succ n ih =>
    unfold cancelUnit
    exact cancelWork_wf (foldl_wf (fun _ _ hs => ih hs) _ h)

@[simp] theorem cancelThose_wf {p : WUnit → Bool} (h : s.mem.wf = true) : (cancelThose s p).mem.wf = true := by
  unfold cancelThose
  exact unitsAgain_wf (foldl_wf (fun _ _ hs => cancelUnit_wf hs) _ h)

@[simp] theorem cancelUnits_wf (h : s.mem.wf = true) : (cancelUnits s job va lv).mem.wf = true := by
  unfold cancelUnits
  split
  · exact cancelWork_wf h
  · exact cancelThose_wf h
  · exact cancelThose_wf h
  · refine foldl_wf (fun _ _ hs => unitsAgain_wf (cancelWork_wf ?_)) _ h
    rw [freeEntries_mem]
    exact cancelThose_wf hs

@[simp] theorem cancelDone_mem : (cancelDone s va lv).mem = s.mem := by
  simp only [cancelDone]
  split <;> simp

theorem execCancel_wf {x : Reg} (h : s.mem.wf = true) : OutcomeWf (execCancel lv x k l s) := runLanes_wf h (fun _ _ _ _ _ hs => by
    dsimp only
    split <;> exact hs) fun _ _ _ _ _ hs => by
    dsimp only
    split <;> simp [hs]

end Sys2Proof.Machine
end

section
/-! SUPPORT. Canonical memory: preemption. -/

namespace Sys2Proof.Machine

open Sys2Proof

variable {hd core grid code addr bidx toCore : Nat} {s : State} {b : Block} {detail : Word} {shelf carve : Bool} {slots : List Nat}
  {g : Grid}

@[simp] theorem startHalt_mem : (startHalt s hd).mem = s.mem := rfl

@[simp] theorem haltBlock_wf (h : s.mem.wf = true) : (haltBlock s b).mem.wf = true := by
  simp only [haltBlock]
  refine foldl_wf (fun s c hs => ?_) _ ?_
  · rw [updCopy_mem]
    split
    · exact hs
    · exact copyWrite_wf hs
  · rw [leaveTable_mem, State.updBlock_mem]
    exact foldl_wf (fun _ _ hs => flushThread_wf hs) _ h

@[simp] theorem coreHalt_wf (h : s.mem.wf = true) : (coreHalt core grid s).mem.wf = true := by
  unfold coreHalt
  split
  · exact h
  split
  · exact h
  dsimp only
  split
  · exact h
  · rw [State.updCore_mem]
    exact foldl_wf (fun _ _ hs => haltBlock_wf hs) _ h

theorem execHaltTimeout_wf (h : s.mem.wf = true) : OutcomeWf (execHaltTimeout core s) := by
  refine next_wf ?_
  dsimp only
  (repeat' split) <;> simp [h]

@[simp] theorem loseContext_wf (h : s.mem.wf = true) : (loseContext s b code addr detail).mem.wf = true := by
  simp [loseContext, h]

@[simp] theorem saveBlock_wf (h : s.mem.wf = true) : (saveBlock shelf s b).mem.wf = true := by
  simp only [saveBlock]
  split <;> simp [h]

@[simp] theorem moveFrames_wf (h : s.mem.wf = true) : (moveFrames s b slots).mem.wf = true := by
  unfold moveFrames
  dsimp only
  rw [State.updBlock_mem]
  refine foldl_wf (fun s f hs => ?_) _ h
  cases e : hwWrite s _ _ _ with
  | none => exact hs
  | some t => exact hwWrite_wf hs e

@[simp] theorem resumeBlock_wf (h : s.mem.wf = true) : (resumeBlock s b).mem.wf = true := by
  have hm : (moveFrames (readyShelf s (s.launchOf b.grid) b.grid b.core) b (slotsFor (readyShelf s (s.launchOf b.grid) b.grid b.core)
      (s.launchOf b.grid) b.core)).mem.wf = true := moveFrames_wf (readyShelf_wf h)
  unfold resumeBlock
  dsimp only
  split
  · exact reexecBlock_wf (by simpa using hm)
  · simpa using hm

theorem resumeGang_wf {bs : List Block} {t : State} (h : s.mem.wf = true) (e : resumeGang s g bs = some t) : t.mem.wf = true := by
  induction bs generalizing s with
  | nil => exact Option.some.inj e ▸ h
  | cons b r ih =>
    unfold resumeGang at e
    split at e
    · exact ih (resumeBlock_wf h) e
    · cases e

theorem resumeGang_getD_wf {bs : List Block} (h : s.mem.wf = true) : ((resumeGang s g bs).getD s).mem.wf = true := by
  cases e : resumeGang s g bs with
  | none => exact h
  | some t => exact resumeGang_wf h e

@[simp] theorem resumeGrid_wf (h : s.mem.wf = true) : (resumeGrid s hd).mem.wf = true := by
  unfold resumeGrid
  split
  · exact h
  split
  · exact h
  extract_lets saved gangs resumed woken
  split
  · exact loseContext_wf h
  · have hw : woken.mem.wf = true := by
      refine wakeAll_wf ?_
      dsimp only [resumed]
      split
      · exact resumeGang_getD_wf h
      · exact foldl_wf (fun _ _ hs => resumeGang_getD_wf hs) _ h
    split
    · exact hw
    · exact dispatchBlocks_wf (by simpa using hw)

@[simp] theorem resumeAll_wf (h : s.mem.wf = true) : (resumeAll s).mem.wf = true := by
  unfold resumeAll
  exact foldl_wf (fun _ _ h => by simp [h]) _ h

theorem execBlockRetire_wf (h : s.mem.wf = true) : OutcomeWf (execBlockRetire bidx grid s) := by
  refine next_wf ?_
  split
  · exact h
  next b _ =>
  have hf : (b.threads.foldl (fun s th => flushThread s b.core (trefOf b th)) s).mem.wf = true := foldl_wf (fun _ _ hs => flushThread_wf hs) _ h
  split
  · refine dispatchAll_wf ?_
    rw [sendFinishes_mem]
    exact stoppedAgain_wf (releaseAll_wf hf)
  split
  · exact h
  extract_lets flushed sampled m applied before freed
  have hs : sampled.mem.wf = true := by
    dsimp only [sampled]
    split
    · exact resampleTry_wf hf
    · exact hf
  have ha : applied.mem.wf = true := by
    dsimp only [applied]
    split
    · exact releaseAll_wf (applyBatches_wf hs)
    · exact hs
  split
  · exact ha
  · have hr : (freed.updGrid grid fun g => { g with retired := g.retired ++ [bidx] }).mem.wf = true := by simpa [freed] using ha
    exact dispatchAll_wf (resumeAll_wf (by simpa using barriersAgain_wf (segReady_wf hr)))

theorem execContextSaveComplete_wf (h : s.mem.wf = true) : OutcomeWf (execContextSaveComplete core grid s) := by
  refine next_wf ?_
  dsimp only
  split
  · exact h
  have hs (l : List Block) (b : Bool) : (l.foldl (saveBlock b) s).mem.wf = true := foldl_wf (fun _ _ hs => saveBlock_wf hs) _ h
  split
  · simp [hs]
  · simp [hs]

theorem execContextMove_wf (h : s.mem.wf = true) : OutcomeWf (execContextMove bidx grid toCore carve s) := by
  refine next_wf ?_
  split
  · split
    · exact h
    dsimp only
    split
    · split
      · exact h
      split
      next e => exact dispatchAll_wf (foldlM_wf (fun _ _ _ hs he => toCarve_wf hs he) _ h e)
      · exact h
    split
    · exact h
    split
    · exact h
    · exact resumeGrid_wf (by simpa using holdEntries_wf (by simpa))
  · exact h

end Sys2Proof.Machine
end

section
/-! SUPPORT. Canonical memory: the pod's events. -/

namespace Sys2Proof.Machine

open Sys2Proof

variable {i st hd cls c seq : Nat} {w : Word} {s : State} {p g : PodGrid} {cores : List (Nat × Nat)} {b : Bool} {f : PodGrid → PodGrid}
  {xs : List Nat}

@[simp] theorem setWord_mem : (setWord s i w).mem = s.mem := rfl

@[simp] theorem setRows_mem {p : Word → Bool} : (setRows s hd st p).mem = s.mem := by
  unfold setRows
  exact foldl_mem (fun _ _ => by simp) _

@[simp] theorem writeRows_mem : (writeRows s hd cls cores).mem = s.mem := by
  unfold writeRows
  refine foldl_mem (fun s p => foldl_mem (fun s r => ?_) _) _
  cases freeRow s with
  | none => rfl
  | some i => exact setWord_mem

@[simp] theorem setGridState_mem : (setGridState s hd st).mem = s.mem := by
  unfold setGridState
  grind [setWord_mem]

@[simp] theorem setBlocked_mem : (setBlocked s hd b).mem = s.mem := by
  unfold setBlocked
  grind [setWord_mem]

@[simp] theorem updPod_mem : (updPod s hd f).mem = s.mem := rfl

@[simp] theorem ringPut_mem : (ringPut s c hd).mem = s.mem := rfl

@[simp] theorem ringTake_mem : (ringTake s c hd).mem = s.mem := by
  simp only [ringTake]
  split
  · rfl
  · exact foldl_mem (fun _ _ => by simp) _

@[simp] theorem ringFirst_mem : (ringFirst s c hd).mem = s.mem := by
  simp only [ringFirst]
  split
  · rfl
  · exact foldl_mem (fun _ _ => by simp) _

@[simp] theorem countPkgs_mem : (countPkgs s hd).mem = s.mem := setWord_mem

@[simp] theorem enactPlace_mem : (enactPlace s hd cores).mem = s.mem := by
  unfold enactPlace
  rw [updPod_mem, countPkgs_mem, setGridState_mem, writeRows_mem, ringTake_mem]

@[simp] theorem shelveRows_mem : (shelveRows s hd seq).mem = s.mem := by
  unfold shelveRows
  rw [updPod_mem, setGridState_mem, setRows_mem]

theorem shelveFor_mem {t : State} (e : shelveFor seq g c xs s = some t) : t.mem = s.mem := by
  induction xs generalizing s with
  | nil => cases e
  | cons v r ih =>
    unfold shelveFor at e
    dsimp only at e
    split at e
    · cases e
      rw [enactPlace_mem, shelveRows_mem]
    · rw [ih e, shelveRows_mem]

@[simp] theorem placeGrid_mem : (placeGrid s seq g).mem = s.mem := by
  unfold placeGrid
  dsimp only
  split
  · exact enactPlace_mem
  split
  · cases e : shelveFor seq g (max 1 g.c) (victims s g) s with
    | none => rfl
    | some t => exact shelveFor_mem e
  · rfl

@[simp] theorem placeAgain_mem : (placeAgain s g).mem = s.mem := by
  unfold placeAgain
  extract_lets
  split
  · rfl
  split
  · rfl
  · rw [updPod_mem, countPkgs_mem, writeRows_mem]

@[simp] theorem returnRows_mem : (returnRows s hd).mem = s.mem := by
  unfold returnRows
  dsimp only
  split
  · rw [updPod_mem, setGridState_mem, setRows_mem]
  · rfl

@[simp] theorem considerWaiting_mem : (considerWaiting s seq).mem = s.mem := by
  unfold considerWaiting
  split
  · rfl
  refine foldl_mem (fun s c => ?_) _
  dsimp only
  rw [foldl_mem fun s p => ?_, foldl_mem fun _ _ => placeAgain_mem, foldl_mem fun _ _ => returnRows_mem]
  split
  · exact placeGrid_mem
  · rfl

@[simp] theorem freeGrid_mem : (freeGrid s hd).mem = s.mem := by
  simp [freeGrid]

@[simp] theorem loadGrid_wf (h : s.mem.wf = true) : (loadGrid s hd).mem.wf = true := by
  unfold loadGrid
  split
  · split
    · exact h
    extract_lets sub read fail
    have hr : read.1.mem.wf = true := by
      dsimp only [read]
      clear_value sub
      split
      · split
        · exact h
        split
        next e => exact wf_of_eq e (boundAt_wf h)
        next e => exact wf_of_eq e (boundAt_wf h)
      · exact launchAt_wf h
    have hf {t : State} (ht : t.mem.wf = true) : (fail t).mem.wf = true := by simpa [fail] using ht
    clear_value read
    split
    · split
      · simpa using hr
      split
      · dsimp only
        split
        · exact queueRec_wf (by simpa using hr)
        · simpa using hr
      · exact hf (queueRec_wf hr)
    · exact hf hr
    · split
      · exact cancelGrid_wf (by simpa using hr)
      · exact dispatchBlocks_wf (takeBound_wf (by simpa using hr))
  · exact h

@[simp] theorem loadGrids_wf (h : s.mem.wf = true) : (loadGrids s).mem.wf = true := by
  unfold loadGrids
  exact foldl_wf (fun _ _ h => by simp [h]) _ h

@[simp] theorem beginGrid_wf (h : s.mem.wf = true) : (beginGrid s p).mem.wf = true := by
  simp [beginGrid, h]

@[simp] theorem addShare_wf (h : s.mem.wf = true) : (addShare s p).mem.wf = true := by
  simp only [addShare]
  (repeat' split) <;> simp [h]

@[simp] theorem enact_wf (h : s.mem.wf = true) : (enact s).mem.wf = true := by
  unfold enact
  refine dispatchAll_wf (foldl_wf (fun s g hs => ?_) _ (foldl_wf (fun s p hs => ?_) _ h))
  · split
    · exact resumeGrid_wf hs
    · rwa [startHalt_mem]
  · split
    · split
      · exact hs
      · exact beginGrid_wf hs
    · split
      · exact hs
      · exact addShare_wf (resumeGrid_wf (by simpa using hs))
    · rwa [startHalt_mem]
    · exact hs

end Sys2Proof.Machine
end

section
/-! SUPPORT. Canonical memory: contexts and snapshots. -/

namespace Sys2Proof.Machine

open Sys2Proof

variable {s : State} {job epoch recVa asked snapper seq n va code manif idx align kind page core old : Nat} {v : Word} {y x : Reg}
  {k : BitVec 3} {l : BitVec 4} {f : Nat → Word → Option Word} {b : Block} {sn : Snap} {gs : List (List Byte × Byte)}

@[simp] theorem snapwaitsAgain_mem : (snapwaitsAgain s job).mem = s.mem := by
  unfold snapwaitsAgain
  exact foldl_mem (fun _ _ => by simp) _

@[simp] theorem snapDone_mem : (snapDone s job recVa epoch v).mem = s.mem := by
  simp only [snapDone]
  split <;> simp

@[simp] theorem snapRename_mem : (snapRename s job recVa asked epoch).mem = s.mem := rfl

theorem execSnap_wf (h : s.mem.wf = true) : OutcomeWf (execSnap x y k l s) := runLanes_wf h (fun _ _ _ _ _ hs => hs) fun _ _ _ _ _ hs => by
    dsimp only
    split
    · simpa using hs
    · simpa using drainThread_wf hs

theorem execSnapwait_wf (h : s.mem.wf = true) : OutcomeWf (execSnapwait x k l s) :=
  runLanes_wf h (fun _ _ _ _ _ hs => hs) fun _ _ _ _ _ hs => by simpa using hs

theorem execSnapstat_wf (h : s.mem.wf = true) : OutcomeWf (execSnapstat x k l s) :=
  runLanes_wf h (fun _ _ _ _ _ hs => hs) fun _ _ _ _ _ hs => by simpa using hs

@[simp] theorem setLeaves_wf (h : s.mem.wf = true) : (setLeaves s job f).mem.wf = true := by
  unfold setLeaves
  dsimp only
  rw [foldl_mem fun _ _ => State.updDie_mem ..]
  refine foldl_wf (fun s x hs => ?_) _ h
  cases f x.1 x.2.2 with
  | none => exact hs
  | some e => exact Memory.putLeaf_wf hs ..

@[simp] theorem snapLoad_wf (h : s.mem.wf = true) : (snapLoad s).mem.wf = true := by
  unfold snapLoad
  repeat' split
  all_goals grind [dropGot_mem, sendEvent_mem, engGrans_wf]

@[simp] theorem holdCtx_wf (h : s.mem.wf = true) : (holdCtx s b).mem.wf = true := by
  simp only [holdCtx]
  split <;> simp [h]

@[simp] theorem unhaltBlock_mem : (unhaltBlock s b).mem = s.mem := rfl

@[simp] theorem unhaltJob_wf (h : s.mem.wf = true) : (unhaltJob s job).mem.wf = true := by
  unfold unhaltJob
  refine dispatchAll_wf (wakeAll_wf ?_)
  rw [reenter_mem]
  refine foldl_wf (fun s g hs => ?_) _ h
  split
  · exact hs
  · rw [State.updGrid_mem]
    exact foldl_wf (fun _ _ hs => reexecBlock_wf hs) _ (by rwa [foldl_mem fun _ _ => unhaltBlock_mem])

@[simp] theorem takeCut_wf (h : s.mem.wf = true) : (takeCut s sn).mem.wf = true := by
  unfold takeCut
  extract_lets me old new others ct counts reset counted told ls cow leaves closed blank sent bs held
  have ht : told.mem.wf = true := by
    dsimp only [told]
    split
    · rwa [snapDone_mem]
    · exact h
  have hl : leaves.mem.wf = true := setLeaves_wf ht
  have hc : closed.mem.wf = true := hl
  have hs : sent.mem.wf = true := by rwa [show sent.mem = closed.mem from foldl_mem (fun _ _ => sendPacket_mem) _]
  have hh : held.mem.wf = true := foldl_wf (fun _ _ hs => holdCtx_wf hs) _ hs
  refine unhaltJob_wf ?_
  exact hh

@[simp] theorem cutStep_wf (h : s.mem.wf = true) : (cutStep s).mem.wf = true := by
  simp only [cutStep]
  (repeat' split) <;> simp [h]

@[simp] theorem startCut_wf (h : s.mem.wf = true) : (startCut s sn).mem.wf = true := by
  unfold startCut
  refine cutStep_wf ?_
  rw [foldl_mem fun _ _ => ?_]
  · exact h
  · split
    · exact State.updGrid_mem ..
    · rfl

@[simp] theorem openEpoch_wf (h : s.mem.wf = true) : (openEpoch s seq job recVa epoch snapper).mem.wf = true := by
  simp only [openEpoch]
  split <;> simp [h]

@[simp] theorem snapopen_wf (h : s.mem.wf = true) : (snapopen s seq job recVa epoch snapper).mem.wf = true := by
  simp only [snapopen]
  (repeat' split) <;> simp [h]

@[simp] theorem snapNext_wf (h : s.mem.wf = true) : (snapNext s seq).mem.wf = true := by
  simp only [snapNext]
  refine foldl_wf (fun _ _ hs => ?_) _ h
  repeat' split
  all_goals grind [openEpoch_wf]

@[simp] theorem slicePut_wf {fuel : Nat} (h : s.mem.wf = true) : (slicePut job epoch fuel va gs s).1.mem.wf = true := by
  induction fuel generalizing s va gs with
  | zero => exact h
  | succ n ih =>
    unfold slicePut
    dsimp only
    split
    · exact h
    split
    next e =>
      refine ih ?_
      split
      · exact noteDsm_wf (foldl_memory_wf (fun m _ hm => m.writeGranule_wf _ _ _ hm) _ (wf_of_eq e (translate_wf h)))
      · exact foldl_memory_wf (fun m _ hm => m.writeGranule_wf _ _ _ hm) _ (wf_of_eq e (translate_wf h))
    next e => exact ih (by simpa using wf_of_eq e (translate_wf h))
    next e => exact wf_of_eq e (translate_wf h)
    next e => exact wf_of_eq e (translate_wf h)

@[simp] theorem sliceFault_wf (h : s.mem.wf = true) : (sliceFault s sn code va).mem.wf = true := by
  simp only [sliceFault]
  split <;> simp [h]

@[simp] theorem snapRec_wf (h : s.mem.wf = true) : (snapRec s code manif epoch idx job).mem.wf = true := by
  simp [snapRec, h]

@[simp] theorem sliceTake_wf (h : s.mem.wf = true) : (sliceTake s sn n align).1.mem.wf = true := by
  simp only [sliceTake]
  split <;> simp [h]

@[simp] theorem putPart_wf (h : s.mem.wf = true) : (putPart s kind va align gs).1.mem.wf = true := by
  unfold putPart
  repeat' split
  all_goals grind [sliceFault_wf, slicePut_wf, sliceTake_wf]

@[simp] theorem preservationCopy_wf (h : s.mem.wf = true) : (preservationCopy job page s).mem.wf = true := by
  unfold preservationCopy
  repeat' split
  all_goals grind [setLeaves_wf, wakeAll_wf, putPart_wf]

/-- One captured context written to the slice, where those before it found room. -/
theorem contextPut_wf {p : State × Bool} {c : SnapCtx} (h : p.1.mem.wf = true) : (if !p.2 then p else
    let (s, ok) := putPart p.1 1 (c.block.grid <<< 32 + c.block.bidx) 8 (soundGrans (itemBytes (wCtx c)))
    (if ok then { s with snap := s.snap.map fun (y : Snap) => { y with ctxs := y.ctxs.map fun (d : SnapCtx) =>
      if d.block.grid == c.block.grid && d.block.bidx == c.block.bidx then { d with moved := true } else d } } else s, ok)).1.mem.wf = true := by
  split
  · exact h
  · dsimp only
    split <;> exact putPart_wf h

@[simp] theorem snapshotContextTransfer_wf (h : s.mem.wf = true) : (snapshotContextTransfer job core s).mem.wf = true := by
  unfold snapshotContextTransfer
  split
  · exact h
  split
  · exact h
  split
  · exact cutStep_wf h
  dsimp only
  split
  · refine dispatchAll_wf ?_
    rw [State.updCore_mem]
    exact foldl_fst_wf (fun _ _ hp => contextPut_wf hp) _ h
  · exact foldl_fst_wf (fun _ _ hp => contextPut_wf hp) _ h

@[simp] theorem snapCount_mem : (snapCount s old).mem = s.mem := by
  simp only [snapCount]
  split <;> simp

@[simp] theorem raiseBal_wf (h : s.mem.wf = true) : (raiseBal s sn).mem.wf = true := by
  unfold raiseBal
  grind [sliceFault_wf, sendPacket_mem, noteDsm_wf, translate_wf, memPut_wf, snapCount_mem]

@[simp] theorem putParts_wf {l : List (Nat × Nat × List Byte)} (h : s.mem.wf = true) : (putParts l s).1.mem.wf = true := by
  induction l generalizing s with
  | nil => exact h
  | cons x r ih =>
    unfold putParts
    split
    next e => exact ih (wf_of_eq e (putPart_wf h))
    next e => exact wf_of_eq e (putPart_wf h)

theorem execSnapshotDone_wf (h : s.mem.wf = true) : OutcomeWf (execSnapshotDone job s) := by
  refine next_wf ?_
  split
  · exact h
  next sn _ =>
  split
  · exact h
  extract_lets ps pos low image none_ items
  split
  next e => simpa using wf_of_eq e (putParts_wf h)
  next e =>
    have hp := wf_of_eq e (putParts_wf h)
    split
    · exact hp
    extract_lets bs
    split
    next e => exact wf_of_eq e (sliceTake_wf hp)
    next e =>
      have ht := wf_of_eq e (sliceTake_wf hp)
      have hl (c : Prop) [Decidable c] {t : State} (h : t.mem.wf = true) {fuel va : Nat} {gs : List (List Byte × Byte)} :
          (if c then slicePut job sn.epoch fuel va gs t else (t, none)).1.mem.wf = true := by split <;> simp [h]
      dsimp only
      split
      · exact sliceFault_wf (hl _ (slicePut_wf (slicePut_wf ht)))
      · exact raiseBal_wf (by exact hl _ (slicePut_wf (slicePut_wf ht)))

@[simp] theorem commitEpoch_wf (h : s.mem.wf = true) : (commitEpoch s seq job epoch).mem.wf = true := by
  unfold commitEpoch
  grind [setLeaves_wf, snapwaitsAgain_mem, setWord_mem, signalDone_wf, snapNext_wf]

@[simp] theorem abortEpoch_wf (h : s.mem.wf = true) : (abortEpoch s seq job epoch).mem.wf = true := by
  unfold abortEpoch
  grind [setLeaves_wf, wakeAll_wf, snapDone_mem, snapwaitsAgain_mem, setWord_mem, signalDone_wf, snapNext_wf, unhaltJob_wf, engPuts_wf, dispatchAll_wf]

end Sys2Proof.Machine
end

section
/-! SUPPORT. Canonical memory: packets that ask. -/

namespace Sys2Proof.Machine

open Sys2Proof

variable {s : State} {write touch : Bool} {va q pa e : Nat} {p : Packet} {ls : List (Nat × Nat × XRes × Bool)} {ps : List Packet}

@[simp] theorem ingressLoc_wf (h : s.mem.wf = true) : (ingressLoc s p va write).1.mem.wf = true := by
  unfold ingressLoc
  repeat' split
  all_goals grind [firstTouch_wf, translateGen_wf, agentLookup_mem]

@[simp] theorem reqLocs_wf (h : s.mem.wf = true) : (reqLocs s p).1.mem.wf = true := by
  unfold reqLocs
  refine foldl_fst_wf (fun _ _ hp => ?_) _ h
  exact ingressLoc_wf hp

@[simp] theorem forwardReq_mem : (forwardReq s p q touch).mem = s.mem := by
  simp [forwardReq]

@[simp] theorem writeEntry_wf (h : s.mem.wf = true) : (writeEntry s p e va pa).1.mem.wf = true := by
  unfold writeEntry
  extract_lets d m sl q tag old noted md det before
  split
  · exact h
  split
  · refine afterWrite_wf (Memory.putGranule_wf ?_ ..)
    simpa [noted] using h
  split
  · exact queueRec_wf h
  split
  · exact h
  · exact memPut_wf h

@[simp] theorem countReq_wf (h : s.mem.wf = true) : (countReq s p ls).mem.wf = true := by
  simp only [countReq]
  split <;> simp [h]

/-- One entry of a request that writes, at its place in this package. -/
theorem writeStep_wf {x : State × Tally} {l : Nat × Nat × XRes × Bool} (h : x.1.mem.wf = true) : (match l.2.2.1 with
    | .here pa _ =>
      if p.typ == 6 then
        (if l.2.1 % 8 != 0 then (x.1, x.2.fault l.1 0x0408) else (memPut x.1 pa (leBytes (tfield p 0 8) 8), x.2))
      else (match writeEntry x.1 p l.1 l.2.1 pa with
        | (s, some c, _) => (s, x.2.fault l.1 c)
        | (s, none, h) => (s, { x.2 with hold := x.2.hold || h }))
    | .bad c => (x.1, x.2.fault l.1 c)
    | _ => x).1.mem.wf = true := by
  split
  · split
    · split
      · exact h
      · exact memPut_wf h
    · split
      next e => exact wf_of_eq e (writeEntry_wf h)
      next e => exact wf_of_eq e (writeEntry_wf h)
  · exact h
  · exact h

@[simp] theorem performWrites_wf (h : s.mem.wf = true) : (performWrites s p ls).mem.wf = true := by
  unfold performWrites
  extract_lets noted
  have hn : noted.mem.wf = true := by
    dsimp only [noted]
    split
    · exact noteDsm_wf h
    · exact h
  split
  next e =>
    have hw := countReq_wf (p := p) (ls := ls) (wf_of_eq e (foldl_fst_wf (fun _ _ hx => writeStep_wf hx) _ hn))
    extract_lets
    split
    · simpa using hw
    split
    · exact hw
    · simpa using hw

@[simp] theorem performReads_wf (h : s.mem.wf = true) : (performReads s p ls).mem.wf = true := by
  simp only [performReads]
  split <;> simp [h]

@[simp] theorem performAtom_wf {e : Word} (h : s.mem.wf = true) : (performAtom s p va pa e).mem.wf = true := by
  unfold performAtom
  repeat' split
  all_goals grind [armEntry_wf, noteHeat_wf, answer_mem, noteDsm_wf, memPut_wf, signalPut_wf]

@[simp] theorem performMove_wf (h : s.mem.wf = true) : (performMove s p).mem.wf = true := by
  unfold performMove
  extract_lets page is repl taken
  have ht : taken.mem.wf = true := by
    dsimp only [taken]
    split
    · exact h
    split
    · exact h
    next e => simpa using takeFrame_wf h e
  clear_value taken
  split
  · rwa [answer_mem]
  · dsimp only
    rw [answer_mem]
    have hm {q0 : Nat} := foldl_memory_wf (f := fun m k => m.putGranule (q0 + k) (leBytes (p.data.getD k 0).toNat 8)
      (p.seals.getD k 0 ^^^ seal8 (leBytes (p.data.getD k 0).toNat 8) (p.base.toNat + 8 * k)))
      (fun _ _ hm => Memory.putGranule_wf hm ..) (List.range p.n) ht
    split
    · exact hm
    · rw [shootHere_mem]
      exact setLeaf_wf (by exact hm)

@[simp] theorem performLog_wf (h : s.mem.wf = true) : (performLog s p).mem.wf = true := by
  unfold performLog
  refine foldl_wf (fun s k hs => ?_) _ h
  dsimp only
  split
  next e => exact Memory.putGranule_wf (wf_of_eq e (translate_wf hs)) ..
  next e => exact wf_of_eq e (translate_wf hs)

theorem performReq_wf {t : State} (h : s.mem.wf = true) (e : performReq s p = some t) : t.mem.wf = true := by
  unfold performReq at e
  split at e
  · cases e
    rw [answer_mem]
    split
    · exact exchArrive_wf h
    · exact collArrive_wf h
  split at e
  · cases e
    exact performLog_wf h
  split at e
  · cases e
    rw [answer_mem, shootHere_mem]
    exact setLeaf_wf h
  split at e
  · cases e
    rwa [answer_mem, shootAny_mem]
  split at e
  · cases e
    exact performMove_wf h
  split at e
  next hl =>
  have hs := wf_of_eq hl (reqLocs_wf h)
  split at e
  · cases e
  split at e
  · cases e
    rwa [forwardReq_mem]
  split at e
  · cases e
  split at e
  · cases e
    exact performReads_wf hs
  split at e
  · cases e
    split
    · exact performAtom_wf hs
    · rwa [answer_mem]
    · exact hs
  · cases e
    exact performWrites_wf hs

theorem performReq_getD_wf (h : s.mem.wf = true) : ((performReq s p).getD s).mem.wf = true := by
  cases e : performReq s p with
  | none => exact h
  | some t => exact performReq_wf h e

@[simp] theorem inboxPass_wf {before : List Packet} (h : s.mem.wf = true) : (inboxPass ps before s).mem.wf = true := by
  induction ps generalizing before s with
  | nil => exact h
  | cons p r ih =>
    unfold inboxPass
    split
    · exact ih h
    split
    next e => exact ih (by simpa using performReq_wf h e)
    · exact ih h

end Sys2Proof.Machine
end

section
/-! SUPPORT. Canonical memory: packets that answer. -/

namespace Sys2Proof.Machine

open Sys2Proof

variable {p : Pend} {s : State} {k a : Packet} {det : Option Word} {mask code op flags : Nat} {asks : List (Nat × Nat)}
  {got : List (Nat × Byte)} {faulted : Bool} {f : Fwd}

@[simp] theorem countAck_mem {p : Packet} : (countAck s p).mem = s.mem := by
  simp [countAck]

@[simp] theorem installEntry_wf (h : s.mem.wf = true) : (installEntry s k a).mem.wf = true := by
  simp only [installEntry]
  split <;> simp [h]

@[simp] theorem storesDone_mem : (storesDone s k).mem = s.mem := by
  simp only [storesDone]
  split
  · rfl
  · exact foldl_mem (fun _ _ => by simp) _

@[simp] theorem storesLost_mem : (storesLost s k).mem = s.mem := by
  simp [storesLost]

@[simp] theorem holdRemote_wf (h : s.mem.wf = true) : (holdRemote s k code mask det).mem.wf = true := by
  simp only [holdRemote]
  (repeat' split) <;> simp [h]

@[simp] theorem opFail_wf (h : s.mem.wf = true) : (opFail s op).mem.wf = true := by
  simp only [opFail]
  (repeat' split) <;> simp [h]

@[simp] theorem askFailed_wf {a : EngAsk} (h : s.mem.wf = true) : (askFailed s a code).mem.wf = true := by
  simp only [askFailed]
  (repeat' split) <;> simp [h]

@[simp] theorem armRefused_wf (h : s.mem.wf = true) : (armRefused s p).mem.wf = true := by
  unfold armRefused
  repeat' split
  all_goals grind [settleGroup_wf, complete_mem, trapOrPark_wf]

@[simp] theorem dropRemote_wf (h : s.mem.wf = true) : (dropRemote s k code mask).mem.wf = true := by
  unfold dropRemote
  extract_lets die asks lanes ops isLine isRec flag arm rec_ recorded cleared stop ord stopped lost parked failed
  have hr : recorded.mem.wf = true := by
    dsimp only [recorded]
    split
    · exact queueRec_wf h
    · exact h
  have hl : lost.mem.wf = true := storesLost_mem.symm ▸ hr
  have hp : parked.mem.wf = true := foldl_wf (fun _ _ hs => by split <;> simp [hs]) _ hl
  have hf : failed.mem.wf = true := foldl_wf (fun _ _ hs => askFailed_wf hs) _ hp
  rw [countAck_mem]
  exact foldl_wf (fun _ _ hs => opFail_wf hs) _ hf

@[simp] theorem takeLoad_wf (h : s.mem.wf = true) : (takeLoad s k a p asks got).mem.wf = true := by
  simp only [takeLoad]
  (repeat' split) <;> simp [h]

@[simp] theorem takeAtom_mem : (takeAtom s a p).mem = s.mem := by
  simp only [takeAtom]
  split <;> simp

@[simp] theorem walkFlags_mem : (walkFlags s op flags).mem = s.mem := by
  simp only [walkFlags]
  split <;> simp

@[simp] theorem shootsAgain_mem : (shootsAgain s).mem = s.mem := by
  unfold shootsAgain
  exact foldl_mem (fun _ _ => by simp) _

@[simp] theorem requestDone_wf (h : s.mem.wf = true) : (requestDone s k a).mem.wf = true := by
  unfold requestDone
  extract_lets mine isLine gran got lineBytes asks ops taken flushed counted flagged
  have hf : flushed.mem.wf = true := by
    dsimp only [flushed]
    rw [flushAnswered_mem, storesDone_mem]
    exact h
  have hc : counted.mem.wf = true := by
    dsimp only [counted]
    split
    · rwa [snapCount_mem]
    · exact hf
  have hg : flagged.mem.wf = true := by
    dsimp only [flagged]
    split
    · rwa [foldl_mem fun _ _ => walkFlags_mem]
    · exact hc
  rw [shootsAgain_mem]
  refine foldl_wf (fun s p hs => ?_) _ hg
  split
  · split
    · rwa [takeAtom_mem]
    · exact takeLoad_wf hs
  · exact hs

@[simp] theorem forwardedDone_wf (h : s.mem.wf = true) : (forwardedDone s f a faulted).mem.wf = true := by
  simp only [forwardedDone]
  (repeat' split) <;> simp [h]

@[simp] theorem moveFailed_mem : (moveFailed s k).mem = s.mem := by
  simp [moveFailed]

@[simp] theorem recvAnswer_wf (h : s.mem.wf = true) : (recvAnswer s a).mem.wf = true := by
  simp only [recvAnswer]
  (repeat' split) <;> simp [h]

end Sys2Proof.Machine
end

section
/-! SUPPORT. Canonical memory: rollback. -/

namespace Sys2Proof.Machine

open Sys2Proof

variable {s : State} {job n va code last i seq p manif epoch : Nat} {x : Reg} {w : Word} {sn : Snap} {g : Grid} {ps : List Nat}
  {own : List Part} {table : List Byte} {r : Roll} {f : Roll → Roll} {a : Packet} {flight : List (Nat × Nat × WcLine)} {k : Kept}

@[simp] theorem rollRead_wf (h : s.mem.wf = true) : (rollRead s job va n).1.mem.wf = true := by
  unfold rollRead
  repeat' split
  all_goals grind [engGrans_wf]

@[simp] theorem rollFault_wf (h : s.mem.wf = true) : (rollFault s job code va).mem.wf = true := by
  simp only [rollFault]
  split <;> simp [h]

@[simp] theorem chainOk_wf (h : s.mem.wf = true) : (chainOk s job last n va).1.mem.wf = true := by
  induction n generalizing s va with
  | zero => exact h
  | succ n ih =>
    unfold chainOk
    split
    next e => exact wf_of_eq e (rollRead_wf h)
    next e =>
      have := wf_of_eq e (rollRead_wf h)
      split
      · exact this
      split
      · exact this
      · exact ih this

@[simp] theorem rollbacksAgain_wf (h : s.mem.wf = true) : (rollbacksAgain s).mem.wf = true := by
  simp only [rollbacksAgain]
  refine foldl_wf (fun _ _ hs => ?_) _ h
  repeat' split
  all_goals grind [chainOk_wf, rollFault_wf, rollRead_wf, sendEvent_mem, complete_mem, updPend_mem, snapRec_wf]

theorem execRollback_wf (h : s.mem.wf = true) : OutcomeWf (execRollback x s) :=
  runLanesThen_wf h (fun _ _ _ _ _ hs => hs) (fun _ _ _ _ _ hs => by simpa using hs) fun _ _ _ hs => rollbacksAgain_wf hs

@[simp] theorem discardJob_mem : (discardJob s job).mem = s.mem := rfl

@[simp] theorem freeJobRows_mem : (freeJobRows s job).mem = s.mem := by
  unfold freeJobRows
  exact foldl_mem (fun _ _ => by simp) _

@[simp] theorem putRow_mem : (putRow s i w).mem = s.mem := by
  simp only [putRow]
  (repeat' split) <;> simp

@[simp] theorem imageWords'_mem : (imageWords' s seq sn).mem = s.mem := by
  unfold imageWords'
  refine foldl_mem (fun s p => ?_) _
  split
  · rfl
  dsimp only
  rw [mem_ite, ringPut_mem, ite_self, foldl_mem fun _ _ => putRow_mem, setWord_mem, setWord_mem]

@[simp] theorem restoreCtx_wf {x : SnapCtx} (h : s.mem.wf = true) : (restoreCtx s x).mem.wf = true := by
  unfold restoreCtx
  dsimp only
  rw [foldl_mem fun _ _ => State.updDie_mem .., State.updCore_mem]
  exact holdEntries_wf h

@[simp] theorem restoreGrid_mem : (restoreGrid s g).mem = s.mem := by
  simp [restoreGrid]

@[simp] theorem restoreGrids_wf (h : s.mem.wf = true) : (restoreGrids s sn).mem.wf = true := by
  unfold restoreGrids
  refine foldl_wf (fun _ _ hs => restoreCtx_wf hs) _ ?_
  rwa [show State.mem _ = s.mem from foldl_mem (fun _ _ => restoreGrid_mem) sn.grids]

@[simp] theorem readParts_wf (h : s.mem.wf = true) : (readParts own s job ps table n).1.mem.wf = true := by
  induction n generalizing s with
  | zero => exact h
  | succ n ih =>
    have hr (c : Prop) [Decidable c] (va k : Nat) : (if c then (s, Except.ok []) else rollRead s job va k).1.mem.wf = true := by
      split <;> simp [h]
    unfold readParts
    dsimp only
    split
    next e => exact wf_of_eq e (hr ..)
    next e =>
      have := ih (wf_of_eq e (hr ..))
      split
      next e => exact wf_of_eq e this
      next e => exact wf_of_eq e this

@[simp] theorem readManifest_wf (h : s.mem.wf = true) : (readManifest s r).1.mem.wf = true := by
  unfold readManifest
  repeat' split
  all_goals grind [rollRead_wf, readParts_wf]

@[simp] theorem updRoll_mem : (updRoll s job f).mem = s.mem := rfl

@[simp] theorem putPage_wf {gs : List (Nat × List Byte × Byte)} (h : s.mem.wf = true) : (putPage n s job va gs).1.mem.wf = true := by
  induction n generalizing s va gs with
  | zero => exact h
  | succ n ih =>
    have hp {a pa k va' : Nat} {e : Word} {gs' : List (Nat × List Byte × Byte)} {t : State} (ht : t.mem.wf = true) :
        (putPage n (shootHere { t with mem := ((gs.take k).zipIdx.foldl (fun (m : Memory) x =>
          m.writeGranule (pa / 8 + x.2) x.1.2.1 x.1.2.2) t.mem).putLeaf a e } job (va / 2 ^ 16)) job va' gs').1.mem.wf = true :=
      ih (Memory.putLeaf_wf (foldl_memory_wf (fun m _ hm => m.writeGranule_wf _ _ _ hm) _ ht) ..)
    unfold putPage
    split
    · exact h
    split
    · exact h
    dsimp only
    split
    · exact hp h
    split
    next e => exact hp (takeFrame_wf h e)
    · exact h

@[simp] theorem rollEntry_wf {x : Nat × Part} (h : s.mem.wf = true) : (rollEntry s r i x).1.mem.wf = true := by
  unfold rollEntry
  repeat' split
  all_goals grind [putPage_wf, engGrans_wf, snapRec_wf, updRoll_mem]

@[simp] theorem dropPages_wf (h : s.mem.wf = true) : (dropPages s r sn).mem.wf = true := by
  simp [dropPages, h]

@[simp] theorem restoreOps_wf (h : s.mem.wf = true) : (restoreOps s sn).mem.wf = true := by
  unfold restoreOps
  exact foldl_wf (fun _ _ h => by simp [h]) _ h

@[simp] theorem rollLog_wf (h : s.mem.wf = true) : (rollLog s sn).mem.wf = true := by
  unfold rollLog
  refine wakeAll_wf (foldl_wf (fun s g hs => foldl_wf (fun _ _ hs => segReady_wf hs) _ (takeBound_wf hs)) _
    (restoreOps_wf (foldl_wf (fun s x hs => ?_) _ h)))
  split
  · exact recvAnswer_wf hs
  · exact performReq_getD_wf hs

@[simp] theorem farAnswer_wf {x : State × List Kept × List (Nat × Nat × WcLine)} (h : x.1.mem.wf = true) : (farAnswer x a).1.mem.wf = true := by
  unfold farAnswer
  exact recvAnswer_wf (by exact h)

@[simp] theorem farSend_mem : (farSend flight s k).mem = s.mem := by
  simp [farSend]

@[simp] theorem restoreFar_wf (h : s.mem.wf = true) : (restoreFar r s p).mem.wf = true := by
  unfold restoreFar
  dsimp only
  refine wakeAll_wf (restoreOps_wf (foldl_fst_wf (fun y q hy => ?_) _ ?_))
  · split
    · exact farAnswer_wf hy
    · exact performReq_getD_wf hy
  · dsimp only
    rw [foldl_mem fun _ _ => farSend_mem]
    exact restoreGrids_wf h

@[simp] theorem rollStep_wf (h : s.mem.wf = true) : (rollStep n s job).mem.wf = true := by
  induction n generalizing s with
  | zero => exact h
  | succ n ih =>
    unfold rollStep
    split
    · exact h
    next r _ =>
    split
    · split
      · exact ih h
      split
      next e => exact wf_of_eq e (readManifest_wf h)
      next e => exact rollFault_wf (wf_of_eq e (readManifest_wf h))
      next e => exact ih (by simpa using wf_of_eq e (readManifest_wf h))
    · split
      · exact ih h
      split
      next e => exact wf_of_eq e (rollEntry_wf h)
      next e => exact rollFault_wf (wf_of_eq e (rollEntry_wf h))
      next e => simpa using wf_of_eq e (rollEntry_wf h)
      next e => exact ih (by simpa using wf_of_eq e (rollEntry_wf h))
    · split
      · exact h
      next sn _ =>
      split
      · split
        next e => exact wf_of_eq e (rollRead_wf h)
        next e => exact rollFault_wf (wf_of_eq e (rollRead_wf h))
        next e => exact ih (by simpa using wf_of_eq e (rollRead_wf h))
      · have hf : (((r.bytes.map fun x => x.1).eraseDups).foldl (restoreFar r) (rollLog (dropPages s r sn) sn)).mem.wf = true :=
          foldl_wf (fun _ _ hs => restoreFar_wf hs) _ (rollLog_wf (dropPages_wf h))
        exact enact_wf (by exact hf)
    · exact h

@[simp] theorem rollsAgain_wf (h : s.mem.wf = true) : (rollsAgain s).mem.wf = true := by
  unfold rollsAgain
  exact foldl_wf (fun _ _ hs => rollStep_wf hs) _ (rollbacksAgain_wf h)

@[simp] theorem rollEpoch_wf (h : s.mem.wf = true) : (rollEpoch s seq job epoch manif).mem.wf = true := by
  unfold rollEpoch
  grind [sendWaiting_mem, abortEpoch_wf, discardJob_mem, rollsAgain_wf, restoreGrids_wf, freeJobRows_mem, imageWords'_mem]

end Sys2Proof.Machine
end

section
/-! SUPPORT. Canonical memory: the fabric. -/

namespace Sys2Proof.Machine

open Sys2Proof

variable {s : State} {code n idx line core grid job page : Nat} {p : Packet} {k : Kept}

@[simp] theorem wake_wf (h : s.mem.wf = true) : (wake s).mem.wf = true := by
  unfold wake
  extract_lets woken sampled rolled passed mine cleared isAns answered
  have hw : sampled.mem.wf = true := foldl_wf (fun _ _ hs => resampleTry_wf hs) _ (wakeAll_wf h)
  have hr : rolled.mem.wf = true := rollsAgain_wf (cutStep_wf (loadGrids_wf (subsAgain_wf hw)))
  have hp : passed.mem.wf = true := inboxPass_wf hr
  clear_value passed
  split
  · exact hp
  · have ha : answered.mem.wf = true := foldl_wf (fun _ _ hs => recvAnswer_wf hs) _ hp
    exact ha

@[simp] theorem dropPacket_wf (h : s.mem.wf = true) : (dropPacket s p code).mem.wf = true := by
  simp [dropPacket, h]

@[simp] theorem deliver_wf (h : s.mem.wf = true) : (deliver s p).mem.wf = true := by
  unfold deliver
  extract_lets key ck taken own
  have ht : taken.mem.wf = true := h
  clear_value taken
  split
  · exact dropPacket_wf ht
  split
  · exact dropPacket_wf ht
  split
  iterate 3 exact recvAnswer_wf ht
  all_goals exact ht

@[simp] theorem drainIngress_wf (h : s.mem.wf = true) : (drainIngress n s).mem.wf = true := by
  induction n generalizing s with
  | zero => exact h
  | succ n ih =>
    unfold drainIngress
    split
    · exact ih (deliver_wf h)
    · exact h

@[simp] theorem carryOn_wf (h : s.mem.wf = true) : (carryOn s).mem.wf = true := by
  unfold carryOn
  extract_lets woken
  split
  · exact wake_wf h
  · exact wake_wf (drainIngress_wf (wake_wf h))

@[simp] theorem recvPacket_wf (h : s.mem.wf = true) : (recvPacket s p).mem.wf = true := by
  simp only [recvPacket]
  repeat' split
  all_goals grind [dropPacket_wf, sendPacket_mem, carryOn_wf, drainIngress_wf]

@[simp] theorem resendKept_mem : (resendKept s k).mem = s.mem := rfl

theorem execAckTimeoutResend_wf (h : s.mem.wf = true) : OutcomeWf (execAckTimeoutResend idx s) := by
  refine next_wf ?_
  repeat' split
  all_goals grind [resendKept_mem, linkRec_wf]

theorem execWcLineTimeout_wf (h : s.mem.wf = true) : OutcomeWf (execWcLineTimeout core line s) := by
  refine next_wf ?_
  split <;> simp [h]

theorem execCoreHalt_wf (h : s.mem.wf = true) : OutcomeWf (execCoreHalt core grid s) := next_wf (by simp [h])

theorem execPreservationCopy_wf (h : s.mem.wf = true) : OutcomeWf (execPreservationCopy job page s) := next_wf (by simp [h])

theorem execSnapshotContextTransfer_wf (h : s.mem.wf = true) : OutcomeWf (execSnapshotContextTransfer job core s) := next_wf (by simp [h])

end Sys2Proof.Machine
end

section
/-! SUPPORT. Canonical memory: replicas of the pod's state. -/

namespace Sys2Proof.Machine

open Sys2Proof

variable
  {grid code pkg job rung n flags va c g seq j p ckpt q last reason kind f before bidx core nch rank0 dpkg slot0 spkg gen epoch cutSeq typ : Nat}
  {s : State} {hd : EvHdr} {lv : Level} {mine close en tell : Bool} {k : Kept} {h1 h0 addr : Word} {a e : Event} {manif : Va}

@[simp] theorem schedRec_wf (h : s.mem.wf = true) : (schedRec s code rung pkg n grid job).mem.wf = true := by
  simp [schedRec, h]

@[simp] theorem applySubmit_wf (h : s.mem.wf = true) : (applySubmit s hd va c flags).mem.wf = true := by
  unfold applySubmit
  grind [decideRecord_wf, queueRec_wf, sendEvent_mem, setWord_mem, ringPut_mem]

@[simp] theorem applyAdmit_mem : (applyAdmit s seq g).mem = s.mem := by
  simp only [applyAdmit]
  split <;> simp

@[simp] theorem finishIfOver_wf (h : s.mem.wf = true) : (finishIfOver s g).mem.wf = true := by
  simp only [finishIfOver]
  (repeat' split) <;> simp [h]

@[simp] theorem applyFinish_wf (h : s.mem.wf = true) : (applyFinish s seq g pkg).mem.wf = true := by
  simp only [applyFinish]
  split <;> simp [h]

@[simp] theorem applyBlock_mem : (applyBlock s seq g).mem = s.mem := by
  simp [applyBlock]

@[simp] theorem applyUnblock_mem : (applyUnblock s seq g).mem = s.mem := by
  simp [applyUnblock]

@[simp] theorem applyCancel_wf (h : s.mem.wf = true) : (applyCancel s hd va lv).mem.wf = true := by
  unfold applyCancel
  grind [cancelUnits_wf, considerWaiting_mem, cancelDone_mem]

@[simp] theorem applyFault_mem : (applyFault s hd g).mem = s.mem := rfl

@[simp] theorem applyJob_wf (h : s.mem.wf = true) : (applyJob s j va close mine).mem.wf = true := by
  unfold applyJob
  extract_lets at_ ended cleared coord opened
  split
  · exact h
  split
  · split
    · exact h
    · have he : ended.mem.wf = true := unitsAgain_wf (by exact h)
      have hc : cleared.mem = ended.mem := foldl_mem (fun _ _ => setWord_mem) _
      rwa [← hc] at he
  split
  · exact h
  · have ho : opened.mem = s.mem := by
      dsimp only [opened]
      split <;> rfl
    rwa [setWord_mem, setWord_mem, setWord_mem, setWord_mem, ho]

@[simp] theorem jobDone_mem : (jobDone s va close).mem = s.mem := by
  simp only [jobDone]
  split <;> simp

@[simp] theorem applyPreemptcfg_mem : (applyPreemptcfg s seq pkg en).mem = s.mem := by
  simp [applyPreemptcfg]

@[simp] theorem applyTicket_wf (h : s.mem.wf = true) : (applyTicket s hd).mem.wf = true := by
  unfold applyTicket
  repeat' split
  all_goals grind [setKind_mem, goOn_wf]

@[simp] theorem haltCores_mem : (haltCores s).mem = s.mem := rfl

@[simp] theorem withdrawSelf_wf (h : s.mem.wf = true) : (withdrawSelf s code n).mem.wf = true := by
  simp [withdrawSelf, h]

@[simp] theorem fencedRec_wf (h : s.mem.wf = true) : (fencedRec s p).mem.wf = true := by
  simp only [fencedRec]
  split <;> simp [h]

@[simp] theorem fenceNow_wf (h : s.mem.wf = true) : (fenceNow s p ckpt tell).mem.wf = true := by
  unfold fenceNow
  extract_lets rows marked noted field recorded
  have hn : noted.mem.wf = true := by
    dsimp only [noted, marked]
    rwa [foldl_mem fun _ _ => setWord_mem]
  have hr : recorded.mem.wf = true := by
    dsimp only [recorded]
    split
    · exact hn
    · exact fencedRec_wf hn
  split
  · exact hn
  split
  · rwa [sendEvent_mem]
  · exact hr

@[simp] theorem readdress_mem : (readdress s k q).mem = s.mem := by
  simp [readdress]

@[simp] theorem ownAfterLoss_wf (h : s.mem.wf = true) : (ownAfterLoss s p).mem.wf = true := by
  unfold ownAfterLoss
  extract_lets xs again readdressed moved cs
  have hr : readdressed.mem.wf = true := by
    refine foldl_wf (fun s k hs => ?_) _ h
    split
    · rwa [readdress_mem]
    · split
      · rwa [readdress_mem]
      · exact hs
  exact foldl_wf (fun _ _ hs => collEnd_wf hs) _ hr

@[simp] theorem aliasJob_wf (h : s.mem.wf = true) : (aliasJob s p q j).mem.wf = true := by
  unfold aliasJob
  split
  · exact h
  · dsimp only
    split
    · refine foldl_wf (fun s y hs => ?_) _ h
      split
      · exact s.mem.write_wf _ _ hs
      · exact hs
    · exact h

@[simp] theorem gridAfterLoss_wf {g : PodGrid} (h : s.mem.wf = true) : (gridAfterLoss q p s g).mem.wf = true := by
  unfold gridAfterLoss
  extract_lets rows moved placed faulted told ended n
  have hm : moved.mem.wf = true := by
    dsimp only [moved]
    split <;> exact h
  have hp : placed.mem.wf = true := by
    dsimp only [placed]
    split
    · split
      next e =>
        have hs := wf_of_eq e (launchAt_wf hm)
        exact hs
      next e => exact wf_of_eq e (launchAt_wf hm)
    · exact hm
  have ht : told.mem.wf = true := by
    dsimp only [told]
    split
    · exact schedRec_wf hp
    · exact hp
  have he : ended.mem.wf = true := by
    dsimp only [ended]
    split
    · exact cancelGrid_wf ht
    · exact originDecides_wf ht
  clear_value placed ended
  split
  · exact hp
  · split
    · exact finishIfOver_wf he
    · rwa [updPod_mem, countPkgs_mem]

@[simp] theorem epochAfterLoss_wf (h : s.mem.wf = true) : (epochAfterLoss seq p s j).mem.wf = true := by
  simp only [epochAfterLoss]
  (repeat' split) <;> simp [h]

@[simp] theorem lossNow_wf (h : s.mem.wf = true) : (lossNow s seq p).mem.wf = true := by
  unfold lossNow
  extract_lets fenced lost recorded js aged q qs q0 qOf aliased dead cleared grids placed
  have hf : lost.mem.wf = true := by
    dsimp only [lost, fenced]
    split
    · exact h
    · exact fenceNow_wf h
  have hr : recorded.mem.wf = true := by
    dsimp only [recorded]
    split
    · exact hf
    · exact fencedRec_wf hf
  have ha : aged.mem.wf = true := foldl_wf (fun _ _ hs => epochAfterLoss_wf hs) _ hr
  have hl : aliased.mem.wf = true := foldl_wf (fun _ _ hs => aliasJob_wf hs) _ ha
  have hg : grids.mem.wf = true := foldl_wf (fun _ _ hs => gridAfterLoss_wf hs) _ hl
  have hp : placed.mem.wf = true := by
    dsimp only [placed]
    split
    · exact hg
    · rwa [foldl_mem fun _ _ => placeAgain_mem]
  split
  · exact hp
  · exact ownAfterLoss_wf hp

@[simp] theorem applyFence_wf (h : s.mem.wf = true) : (applyFence s hd p ckpt).mem.wf = true := by
  simp only [applyFence]
  repeat' split
  all_goals grind [fenceNow_wf]

@[simp] theorem applyLoss_wf (h : s.mem.wf = true) : (applyLoss s hd p).mem.wf = true := by
  simp only [applyLoss]
  repeat' split
  all_goals grind [lossNow_wf]

@[simp] theorem applyJoin_mem : (applyJoin s hd p last).mem = s.mem := by
  unfold applyJoin
  split
  · rfl
  dsimp only
  split
  · rfl
  split <;> exact foldl_mem (fun _ _ => setWord_mem) _

@[simp] theorem divergent_wf (h : s.mem.wf = true) : (divergent s p ckpt reason).mem.wf = true := by
  simp only [divergent]
  (repeat' split) <;> simp [h]

@[simp] theorem applyDigest_wf (h : s.mem.wf = true) : (applyDigest s hd c h0 h1).mem.wf = true := by
  unfold applyDigest
  split
  · exact h
  extract_lets noted of_
  split
  · split
    · exact h
    · exact divergent_wf h
  split
  · exact foldl_wf (fun _ _ hs => divergent_wf hs) _ h
  split
  · split
    · exact h
    · exact schedRec_wf h
  · exact h

@[simp] theorem missingDigests_wf (h : s.mem.wf = true) : (missingDigests s seq).mem.wf = true := by
  unfold missingDigests
  extract_lets c
  split
  · exact h
  · exact foldl_wf (fun _ _ hs => divergent_wf hs) _ h

@[simp] theorem applyRebalance_wf (h : s.mem.wf = true) : (applyRebalance s g kind).mem.wf = true := by
  simp only [applyRebalance]
  split <;> simp [h]

@[simp] theorem effect_wf (h : s.mem.wf = true) : (effect s a).mem.wf = true := by
  simp only [effect]
  (repeat' split) <;> simp [h]

@[simp] theorem fireHook_mem : (fireHook s seq).mem = s.mem := by
  simp only [fireHook]
  split <;> simp

@[simp] theorem publish_mem : (publish s seq).mem = s.mem := by
  simp [publish]

@[simp] theorem releaseHeld_mem : (releaseHeld s).mem = s.mem := by
  unfold releaseHeld
  exact foldl_mem (fun _ _ => by simp) _

@[simp] theorem applyEvent_wf (h : s.mem.wf = true) : (applyEvent s e).mem.wf = true := by
  simp only [applyEvent]
  repeat' split
  all_goals grind [effect_wf, publish_mem, enact_wf, fireHook_mem, releaseHeld_mem, missingDigests_wf]

@[simp] theorem applyAll_wf (h : s.mem.wf = true) : (applyAll n s).mem.wf = true := by
  induction n generalizing s with
  | zero => exact h
  | succ n ih =>
    unfold applyAll
    split
    · exact h
    split
    · exact ih (applyEvent_wf h)
    · exact h

@[simp] theorem askImage_mem : (askImage s f n).mem = s.mem := rfl

@[simp] theorem joinIfCaught_mem : (joinIfCaught s).mem = s.mem := by
  simp only [joinIfCaught]
  split <;> simp

@[simp] theorem noteGap_mem : (noteGap before s).mem = s.mem := by
  simp only [noteGap]
  split <;> simp

@[simp] theorem runEvents_wf (h : s.mem.wf = true) : (runEvents s).mem.wf = true := by
  unfold runEvents
  extract_lets n applied noted
  have hn : noted.mem.wf = true := by
    dsimp only [noted, applied]
    rw [noteGap_mem, joinIfCaught_mem]
    exact applyAll_wf h
  split
  · exact hn
  · exact carryOn_wf hn

@[simp] theorem recvEvent_wf (h : s.mem.wf = true) : (recvEvent s e).mem.wf = true := by
  simp only [recvEvent]
  (repeat' split) <;> simp [h]

end Sys2Proof.Machine
end

section
/-! SUPPORT. Canonical memory: traps, special registers and control. -/

namespace Sys2Proof.Machine

open Sys2Proof

variable {v : Word} {s : State} {r core n target die id job pa ue stack ce nbits sel : Nat} {a : Reg} {st : Status} {g : Group}
  {b : Block} {p : Block → Thread → Bool} {tok resume close : Bool} {sc sl : BitVec 2} {d : BitVec 64}

@[simp] theorem writePreemptCtl_mem : (writePreemptCtl s v).mem = s.mem := by
  simp [writePreemptCtl]

@[simp] theorem writeSys_mem : (writeSys s core r v).mem = s.mem := by
  simp only [writeSys]
  split <;> simp

theorem execMts_wf {r : BitVec 9} (h : s.mem.wf = true) : OutcomeWf (execMts r a s) :=
  runLanes_wf h (fun _ _ _ _ _ hs => hs) fun _ _ _ _ _ hs => by simpa using hs

theorem execPreemptCtlWrite_wf (h : s.mem.wf = true) : OutcomeWf (execPreemptCtlWrite v s) := next_wf (by simp [h])

theorem execEret_wf (h : s.mem.wf = true) : OutcomeWf (execEret s) := by
  refine withTargetsIn_wf (fun _ hs => runLanes_wf hs (fun b g s _ th hs => ?_) fun b g s _ th hs => ?_) h
  · split
    · exact hs
    split
    next e => exact wf_of_eq e (targetFault_wf hs)
    next e => exact wf_of_eq e (targetFault_wf hs)
  · split
    · exact hs
    · simpa using hs

@[simp] theorem stopLanes_wf (h : s.mem.wf = true) : (stopLanes s b g n st).mem.wf = true := by
  simp [stopLanes, h]

theorem execBkpt_wf {n : BitVec 9} (h : s.mem.wf = true) : OutcomeWf (execBkpt n s) :=
  issue_wf h fun _ _ => stopLanes_wf (by split <;> simp [h])

theorem execHalt_wf (h : s.mem.wf = true) : OutcomeWf (execHalt s) := issue_wf h fun _ _ => stopLanes_wf h

@[simp] theorem releaseStops_wf (h : s.mem.wf = true) : (releaseStops s core p).mem.wf = true := by
  unfold releaseStops
  refine foldl_wf (fun s b hs => ?_) _ h
  extract_lets hit marked
  split
  · exact hs
  have hm : marked.mem.wf = true := by simpa [marked] using hs
  split
  · split
    · exact reexecBlock_wf hm
    · exact hm
  · exact hm

theorem execRelease_wf {a : Word} (h : s.mem.wf = true) : OutcomeWf (execRelease a target s) := by
  refine next_wf ?_
  split <;> simp [h]

theorem execReplay_wf (h : s.mem.wf = true) : OutcomeWf (execReplay a tok s) :=
  runLanesThen_wf h (fun _ _ _ _ _ hs => hs) (fun _ _ _ _ _ hs => foldl_wf (fun _ _ hs => closeEntry_wf hs) _ hs)
    fun _ _ _ hs => carryOn_wf hs

theorem execShoot_wf (h : s.mem.wf = true) : OutcomeWf (execShoot a sc s) := by
  refine runLanes_wf h (fun _ _ _ _ _ hs => hs) fun b g s _ th hs => ?_
  dsimp only
  rw [addPlain_mem]
  refine foldl_fst_wf (fun p x hp => ?_) _ hs
  rwa [sendPacket_mem]

theorem execShootdownAck_wf (h : s.mem.wf = true) : OutcomeWf (execShootdownAck die id s) := by
  refine next_wf ?_
  split <;> simp [h]

@[simp] theorem podCompl_wf {p : PodGrid} (h : s.mem.wf = true) : (podCompl s p).1.mem.wf = true := by
  unfold podCompl
  repeat' split
  all_goals grind [readAs_wf]

@[simp] theorem podCompls_wf (h : s.mem.wf = true) : (podCompls s job).1.mem.wf = true := by
  unfold podCompls
  refine foldl_fst_wf (fun x p hx => ?_) _ h
  split
  next e => exact wf_of_eq e (podCompl_wf hx)
  next e => simpa using wf_of_eq e (podCompl_wf hx)
  next e => exact wf_of_eq e (podCompl_wf hx)

@[simp] theorem dropAsked_mem : (dropAsked s).mem = s.mem := by
  simp [dropAsked]

theorem execPreempt_wf (h : s.mem.wf = true) : OutcomeWf (execPreempt a resume s) := by
  unfold execPreempt
  extract_lets go
  have hg {s : State} (hs : s.mem.wf = true) : OutcomeWf (go s) :=
    runLanesThen_wf hs (fun _ _ _ _ _ hs => hs) (fun b g s _ th hs => by
      dsimp only
      rw [foldl_mem fun _ _ => sendEvent_mem]
      exact podCompls_wf hs) fun _ _ _ hs => by rwa [dropAsked_mem]
  split
  · exact hg h
  split
  · exact hg h
  split
  next e =>
  have hp := wf_of_eq e (podCompls_wf h)
  split
  · exact next_wf (by simpa using hp)
  · exact hg hp

theorem execJobctl_wf (h : s.mem.wf = true) : OutcomeWf (execJobctl a close s) := by
  refine runLanes_wf h (fun b g s _ th hs => ?_) fun b g s _ th hs => by simpa using hs
  dsimp only
  split
  · exact hs
  · split <;> exact hs

@[simp] theorem poisonGranule_wf (h : s.mem.wf = true) : (poisonGranule s pa d).mem.wf = true := by
  unfold poisonGranule
  exact queueRec_wf (Memory.poison_wf _ _ _ (s.mem.writeGranule_wf _ _ _ h))

@[simp] theorem stackFound_mem : (stackFound s stack ce ue).mem = s.mem := rfl

@[simp] theorem rowErrors_wf (h : s.mem.wf = true) : (rowErrors s pa n nbits).mem.wf = true := by
  simp only [rowErrors]
  split <;> simp [h]

@[simp] theorem rawRead_wf (h : s.mem.wf = true) : (rawRead s pa sel).1.mem.wf = true := by
  simp only [rawRead]
  (repeat' split) <;> simp [h]

theorem execLdraw_wf {d : Reg} (h : s.mem.wf = true) : OutcomeWf (execLdraw d a sl s) := runLanesThen_wf h (fun _ _ _ _ _ hs => by
    dsimp only
    split <;> simp [hs]) (fun _ _ _ _ _ hs => by simp [hs]) fun _ _ _ hs => hs

end Sys2Proof.Machine
end

section
/-! SUPPORT. Canonical memory: upkeep. -/

namespace Sys2Proof.Machine

open Sys2Proof

variable {die dt job page : Nat} {s : State} {va : Va} {m : Move} {f : ScrubFindings}

theorem execFaultQueueWrite_wf (h : s.mem.wf = true) : OutcomeWf (execFaultQueueWrite die s) := by
  refine next_wf ?_
  dsimp only
  split
  · exact h
  split
  · exact h
  · exact carryOn_wf (signalDoneAt_wf (memPut_wf (memPut_wf (by simpa using h))))

theorem execWsRefreshWindow_wf (h : s.mem.wf = true) : OutcomeWf (execWsRefreshWindow die dt s) := by
  refine next_wf ?_
  dsimp only
  (repeat' split) <;> simp [h]

theorem execPageWalk_wf (h : s.mem.wf = true) : OutcomeWf (execPageWalk die job va s) := next_wf (by simp [h])

theorem execHeatWindow_wf (h : s.mem.wf = true) : OutcomeWf (execHeatWindow die s) := by
  by_cases hc : s.now < (s.die die).heatAt + 2 ^ 20
  · simp only [execHeatWindow, hc, if_true]
    exact h
  · simp only [execHeatWindow, hc, if_false]
    refine next_wf ?_
    rw [State.updDie_mem]
    exact foldl_wf (fun _ _ hs => setLeaf_wf hs) _ h

@[simp] theorem moveAbandoned_wf (h : s.mem.wf = true) : (moveAbandoned s m).mem.wf = true := by
  simp only [moveAbandoned]
  split <;> simp [h]

theorem execPageMigrationComplete_wf (h : s.mem.wf = true) : OutcomeWf (execPageMigrationComplete die page s) := by
  refine next_wf ?_
  dsimp only
  (repeat' split) <;> simp [h]

theorem execPageReplicationComplete_wf (h : s.mem.wf = true) : OutcomeWf (execPageReplicationComplete die page s) := by
  refine next_wf ?_
  repeat' split
  all_goals grind [carryOn_wf, moveAbandoned_wf]

theorem execScrubPass_wf (h : s.mem.wf = true) : OutcomeWf (execScrubPass f s) := by
  refine next_wf ?_
  extract_lets own counted found rows
  split
  · exact h
  have hf : found.mem.wf = true := h
  have hr : rows.mem.wf = true := foldl_wf (fun _ _ hs => rowErrors_wf hs) _ hf
  exact foldl_wf (fun _ _ hs => poisonGranule_wf hs) _ hr

end Sys2Proof.Machine
end

section
/-! SUPPORT. Canonical memory: links. -/

namespace Sys2Proof.Machine

open Sys2Proof

variable {s : State} {st j link seq pkg target first count origin f k chunk kind job : Nat} {ok close : Bool} {data : List (BitVec 64)}
  {m : Mgmt} {pkgs : List Nat} {va : Va} {lv : Level}

@[simp] theorem setLink_mem : (setLink s j st).mem = s.mem := rfl

theorem execHeartbeat_wf (h : s.mem.wf = true) : OutcomeWf (execHeartbeat link seq s) := next_wf (by simp [h])

theorem execHeartbeatTick_wf (h : s.mem.wf = true) : OutcomeWf (execHeartbeatTick link s) := next_wf (by simp [h])

@[simp] theorem floodDeath_mem : (floodDeath s pkg link).mem = s.mem := rfl

@[simp] theorem resendLink_mem : (resendLink s j).mem = s.mem := by
  unfold resendLink
  exact foldl_mem (fun _ _ => by simp) _

theorem execDeath_wf (h : s.mem.wf = true) : OutcomeWf (execDeath pkg link s) := by
  refine next_wf ?_
  dsimp only
  (repeat' split) <;> simp [h]

theorem execLinkSilent_wf (h : s.mem.wf = true) : OutcomeWf (execLinkSilent link s) := by
  refine next_wf ?_
  split <;> simp [h]

theorem execLinkTrainingAttempt_wf (h : s.mem.wf = true) : OutcomeWf (execLinkTrainingAttempt link ok s) := by
  refine next_wf ?_
  dsimp only
  (repeat' split) <;> simp [h]

theorem execManagementLinkRetrain_wf (h : s.mem.wf = true) : OutcomeWf (execManagementLinkRetrain link s) := next_wf (by simp [h])

@[simp] theorem askRun_mem {target : Option Nat} : (askRun s target).mem = s.mem := by
  unfold askRun
  exact foldl_mem (fun _ _ => by simp) _

theorem execGapLeafRetx_wf (h : s.mem.wf = true) : OutcomeWf (execGapLeafRetx s) := by
  refine next_wf ?_
  split <;> simp [h]

theorem execGapGroupRetx_wf (h : s.mem.wf = true) : OutcomeWf (execGapGroupRetx s) := by
  refine next_wf ?_
  split
  · split
    · exact h
    · rwa [foldl_mem fun _ _ => askRun_mem]
  · exact h

theorem execGapTimeout_wf (h : s.mem.wf = true) : OutcomeWf (execGapTimeout s) := by
  refine next_wf ?_
  dsimp only
  (repeat' split) <;> simp [h]

theorem execHretx_wf (h : s.mem.wf = true) : OutcomeWf (execHretx origin first count target s) := next_wf (by simp [h])

theorem execHalyardFailover_wf (h : s.mem.wf = true) : OutcomeWf (execHalyardFailover s) := next_wf (by simp [h])

theorem execManagementReset_wf (h : s.mem.wf = true) : OutcomeWf (execManagementReset s) := next_wf (by simp [h])

theorem execIreq_wf (h : s.mem.wf = true) : OutcomeWf (execIreq origin f target s) := next_wf (by simp [h])

theorem execImage_wf (h : s.mem.wf = true) : OutcomeWf (execImage origin k chunk target data s) := by
  refine next_wf ?_
  dsimp only
  (repeat' split) <;> simp [h]

theorem execNote_wf (h : s.mem.wf = true) : OutcomeWf (execNote m s) := by
  refine next_wf ?_
  split <;> simp [h]

theorem execPodFormation_wf (h : s.mem.wf = true) : OutcomeWf (execPodFormation pkgs s) := next_wf (by simp [h])

theorem execHostControlRequest_wf (h : s.mem.wf = true) : OutcomeWf (execHostControlRequest job kind va lv close s) := by
  refine next_wf ?_
  split <;> simp [h]

end Sys2Proof.Machine
end

section
/-! SUPPORT. Canonical memory: boot and lifetime. -/

namespace Sys2Proof.Machine

open Sys2Proof

variable {s t : State} {bs r : List Byte} {o hours cfgver fail stage die : Nat} {f : BootFindings} {cutShort : Bool} {xs : List Nat}

@[simp] theorem putPage0_wf (h : s.mem.wf = true) : (putPage0 s o bs).mem.wf = true := afterWrite_wf (s.mem.write_wf _ _ h)

@[simp] theorem writeField_wf (h : s.mem.wf = true) : (writeField s).mem.wf = true := by
  simp [writeField, h]

theorem execFieldRecordWrite_wf (h : s.mem.wf = true) : OutcomeWf (execFieldRecordWrite hours s) := next_wf (by simp [h])

@[simp] theorem keepPower_mem {t : State} : (keepPower s t).mem = t.mem := rfl

theorem State.reset_mem_wf : State.reset.mem.wf = true := rfl

@[simp] theorem bootFail_wf {f : BootFindings} {fail stage cfgver : Nat} : (bootFail s f fail stage cfgver).mem.wf = true :=
  putPage0_wf State.reset_mem_wf

@[simp] theorem bootDone_wf {f : BootFindings} {r : List Byte} : (bootDone s f r).mem.wf = true := by
  unfold bootDone
  refine putPage0_wf ?_
  split
  · exact State.reset_mem_wf
  · exact putPage0_wf State.reset_mem_wf

theorem execPowerOn_wf (h : s.mem.wf = true) : OutcomeWf (execPowerOn f s) := by
  refine next_wf ?_
  dsimp only
  (repeat' split) <;> simp [h]

theorem execPowerLoss_wf : OutcomeWf (execPowerLoss cutShort s) := by
  refine next_wf ?_
  dsimp only
  split <;> exact State.reset_mem_wf

theorem execAttestationRequest_wf (h : s.mem.wf = true) : OutcomeWf (execAttestationRequest s) := next_wf (by simp [h])

theorem execAttestationReportDone_wf (h : s.mem.wf = true) : OutcomeWf (execAttestationReportDone s) := by
  refine next_wf ?_
  split <;> simp [h]

@[simp] theorem stepMargin_wf {slack : Nat} (h : s.mem.wf = true) : (stepMargin die xs s slack).mem.wf = true := by
  induction xs generalizing s slack with
  | nil =>
    unfold stepMargin
    dsimp only
    split
    · exact h
    split
    · refine writeField_wf ?_
      exact h
    · dsimp only
      refine writeField_wf ?_
      exact h
  | cons x r ih =>
    unfold stepMargin
    dsimp only
    split
    · exact h
    split
    · refine writeField_wf ?_
      exact h
    · refine ih ?_
      dsimp only
      refine writeField_wf ?_
      exact h

theorem execMarginMonitor_wf {r : Readings} (h : s.mem.wf = true) : OutcomeWf (execMarginMonitor r s) := by
  refine next_wf (foldl_wf (fun _ _ hs => stepMargin_wf hs) _ (foldl_wf (fun _ _ hs => putPage0_wf hs) _ ?_))
  exact foldl_wf (fun _ _ hs => putPage0_wf (putPage0_wf hs)) _ h

end Sys2Proof.Machine
end

section
/-! SUPPORT. Canonical memory: one instruction or happening, and one step. -/

namespace Sys2Proof.Machine

open Sys2Proof

variable {s : State}

theorem exec_wf (i : Instr) (h : s.mem.wf = true) : OutcomeWf (exec i s) := by
  cases i
  case add | sub | mul | mulh | mulhu | div | divu | rem | remu | shl | shr | sra | rol | min | max | minu | maxu | adds | subs | addus |
    subus | rshr | rshrs | qmulr | cmpm => exact intOp_wf h
  case abs | neg | dot2s | dot4s | nrws | bfx | bfxS | bfi | cmp | bsel | fcmp | cvts | cvt | cvtRs | shfl | slide | push | bcast | vote |
    red | scan | redmaxi | prefL1Short | prefL1 | prefL2 | mft | movc | clrf | yield | nop | pand | por | pxor | pnot | pmov | trap |
    mfs => exact onLanes_wf h
  case lea | and | or | xor | andn =>
    dsimp only [exec, execLea, execAnd, execOr, execXor, execAndn]
    exact wordOp_wf h
  case addi | andi | ori | xori | shli | shri | srai =>
    dsimp only [exec, execAddi, execAndi, execOri, execXori, execShli, execShri, execSrai]
    exact regOp_wf h
  case ldiS | ldiW | ldiWu | ldiHi | ldiD =>
    dsimp only [exec, execLdiS, execLdiW, execLdiWu, execLdiHi, execLdiD]
    exact ldi_wf h
  case popc | clz | ctz | brev =>
    dsimp only [exec, execPopc, execClz, execCtz, execBrev]
    exact countOp_wf h
  case fadd | fsub | fmul | fmin | fmax | fminn | fmaxn | fdiv | scalex | fcmpm =>
    dsimp only [exec, execFadd, execFsub, execFmul, execFmin, execFmax, execFminn, execFmaxn, execFdiv, execScalex, execFcmpm]
    exact fpOp_wf h
  case fabs | fneg | fsqrt | frcp | frsq =>
    dsimp only [exec, execFabs, execFneg, execFsqrt, execFrcp, execFrsq]
    exact fpOp1_wf h
  case fma | fms | fnma =>
    dsimp only [exec, execFma, execFms, execFnma]
    exact fmaOp_wf h
  case fexp2 | flog2 | fsin | fcos =>
    dsimp only [exec, execFexp2, execFlog2, execFsin, execFcos]
    exact sfuOp_wf h
  case lpset => exact execLpset_wf h
  case lddShort | ldd | ldw | ldwu | ldh | ldhu | ldb | ldbu | stdShort | std | stw | sth | stb | ldfSShort | ldfS | ldfBf | ldwsDShort |
    ldwsD | ldwsW | aaddDShort | aadd | amin | amax | aand | aor | axor | axch | acas | fence | acq | rel | runbind | sigdecShort |
    sigdec | siginc | sigset | sigwait => exact runAcc_wf h
  case ldsShort | stsShort | lds | sts => exact runScratch_wf h
  case ldgDShort | ldgD | ldgW => exact runGather_wf h
  case stgDShort | stgD | stgW => exact runScatter_wf h
  case aaddf => exact runAaddf_wf h
  case rbind => exact execRbind_wf h
  case aflush => exact execAflush_wf h
  case digrd => exact execDigrd_wf h
  case sigarm => exact execSigarm_wf h
  case bar | gbar | grbar =>
    dsimp only [exec, execBar, execGbar, execGrbar]
    exact arriveWait_wf h
  case bara => exact execBara_wf h
  case barw => exact execBarw_wf h
  case mzero | mzeroExt | mrow | mstat | manchor =>
    dsimp only [exec, execMzero, execMzeroExt, execMrow, execMstat, execManchor]
    exact enter_wf h
  case mma | mmak | mconv =>
    dsimp only [exec, execMma, execMmak, execMconv]
    exact multiply_wf h
  case mwalk => exact execMwalk_wf h
  case mdrain => exact execMdrain_wf h
  case mwait => exact execMwait_wf h
  case mfence => exact execMfence_wf h
  case cbload => exact execCbload_wf h
  case mdesc => exact execMdesc_wf h
  case mshape => exact execMshape_wf h
  case cpy => exact execCpy_wf h
  case cpys => exact execCpys_wf h
  case cpyr => exact execCpyr_wf h
  case cpyq => exact execCpyq_wf h
  case put | get =>
    dsimp only [exec, execPut, execGet]
    exact oneSided_wf h
  case putf => exact execPutf_wf h
  case getVer => exact execGetVer_wf h
  case coll => exact execColl_wf h
  case collVer => exact execCollVer_wf h
  case reshard => exact execReshard_wf h
  case resample | resampleU =>
    dsimp only [exec, execResample, execResampleU]
    exact resampleOf_wf h
  case popseed => exact execPopseed_wf h
  case snap => exact execSnap_wf h
  case snapwait => exact execSnapwait_wf h
  case snapstat => exact execSnapstat_wf h
  case launch | phase | graphrun =>
    dsimp only [exec, execLaunch, execPhase, execGraphrun]
    exact submitLanes_wf h
  case cancel => exact execCancel_wf h
  case wcflush => exact execWcflush_wf h
  case fenceack => exact execFenceack_wf h
  case bra | jmp | brx =>
    dsimp only [exec, execBra, execJmp, execBrx]
    exact runJump_wf h
  case call | callx =>
    dsimp only [exec, execCall, execCallx]
    exact runCall_wf h
  case ret => exact execRet_wf h
  case mpush => exact execMpush_wf h
  case mpop => exact execMpop_wf h
  case exit => exact execExit_wf h
  case eret => exact execEret_wf h
  case mts => exact execMts_wf h
  case bkpt => exact execBkpt_wf h
  case halt => exact execHalt_wf h
  case replay => exact execReplay_wf h
  case shoot => exact execShoot_wf h
  case preempt => exact execPreempt_wf h
  case rollback => exact execRollback_wf h
  case ldraw => exact execLdraw_wf h
  case jobctl => exact execJobctl_wf h
  case preemptCtlWrite => exact execPreemptCtlWrite_wf h
  case issueCycle => exact execIssueCycle_wf h
  case starvation => exact execStarvation_wf h
  case yieldExpiry => exact execYieldExpiry_wf h
  case formationDeadlock => exact execFormationDeadlock_wf h
  case fullEmptyTimeLimit => exact execFullEmptyTimeLimit_wf h
  case loadResult => exact execLoadResult_wf h
  case storePerformed => exact execStorePerformed_wf h
  case wsRefreshWindow => exact execWsRefreshWindow_wf h
  case blockRetire => exact execBlockRetire_wf h
  case gridCompletion => exact execGridCompletion_wf h
  case stagedBatchApply => exact execStagedBatchApply_wf h
  case ordTicketRelease => exact execOrdTicketRelease_wf h
  case wcLineTimeout => exact execWcLineTimeout_wf h
  case pageWalk => exact execPageWalk_wf h
  case heatWindow => exact execHeatWindow_wf h
  case pageMigrationComplete => exact execPageMigrationComplete_wf h
  case pageReplicationComplete => exact execPageReplicationComplete_wf h
  case shootdownAck => exact execShootdownAck_wf h
  case writePacket | vwritePacket | readPacket | vreadPacket | dataPacket | flagPacket | ackPacket | atomPacket | atomrPacket |
    chunkPacket | swredPacket | burgeePacket | logPacket | reservedPacketType => exact recvPacket_wf h
  case ackTimeoutResend => exact execAckTimeoutResend_wf h
  case hostSubmission => exact execHostSubmission_wf h
  case submitEvent | admitEvent | finishEvent | blockEvent | unblockEvent | cancelEvent | faultEvent | lossEvent | joinEvent |
    fenceEvent | digestEvent | rebalanceEvent | snapcommitEvent | snapopenEvent | ticketEvent | jobEvent | preemptcfgEvent |
    reservedEventType => exact recvEvent_wf h
  case heartbeat => exact execHeartbeat_wf h
  case heartbeatTick => exact execHeartbeatTick_wf h
  case death => exact execDeath_wf h
  case hretx => exact execHretx_wf h
  case ireq => exact execIreq_wf h
  case image => exact execImage_wf h
  case note => exact execNote_wf h
  case release => exact execRelease_wf h
  case linkSilent => exact execLinkSilent_wf h
  case linkTrainingAttempt => exact execLinkTrainingAttempt_wf h
  case gapLeafRetx => exact execGapLeafRetx_wf h
  case gapGroupRetx => exact execGapGroupRetx_wf h
  case gapTimeout => exact execGapTimeout_wf h
  case halyardFailover => exact execHalyardFailover_wf h
  case managementReset => exact execManagementReset_wf h
  case dispatchRecord => exact execDispatchRecord_wf h
  case coreHalt => exact execCoreHalt_wf h
  case haltTimeout => exact execHaltTimeout_wf h
  case contextSaveComplete => exact execContextSaveComplete_wf h
  case contextMove => exact execContextMove_wf h
  case copyChunk => exact execCopyChunk_wf h
  case matrixGrant => exact execMatrixGrant_wf h
  case matrixGrantComplete => exact execMatrixGrantComplete_wf h
  case matrixEntryStarving => exact execMatrixEntryStarving_wf h
  case drainWritesComplete => exact execDrainWritesComplete_wf h
  case mwalkCombine => exact execMwalkCombine_wf h
  case codebookRebuild => exact execCodebookRebuild_wf h
  case collChunkReduce => exact execCollChunkReduce_wf h
  case collCheckNotice => exact execCollCheckNotice_wf h
  case reshardComplete => exact execReshardComplete_wf h
  case cloneImageCopy => exact execCloneImageCopy_wf h
  case preservationCopy => exact execPreservationCopy_wf h
  case snapshotDone => exact execSnapshotDone_wf h
  case faultQueueWrite => exact execFaultQueueWrite_wf h
  case scrubPass => exact execScrubPass_wf h
  case powerOn => exact execPowerOn_wf h
  case marginMonitor => exact execMarginMonitor_wf h
  case fieldRecordWrite => exact execFieldRecordWrite_wf h
  case attestationRequest => exact execAttestationRequest_wf h
  case podFormation => exact execPodFormation_wf h
  case managementLinkRetrain => exact execManagementLinkRetrain_wf h
  case powerLoss => exact execPowerLoss_wf
  case attestationReportDone => exact execAttestationReportDone_wf h
  case snapshotContextTransfer => exact execSnapshotContextTransfer_wf h
  case hostControlRequest => exact execHostControlRequest_wf h

theorem step_wf (h : s.mem.wf = true) : OutcomeWf (step s) := by
  unfold step
  split
  · split
    · split
      · exact exec_wf _ h
      · trivial
    · trivial
  · split
    · split
      · exact exec_wf _ h
      next e => exact issueNext_wf h e
    · split
      · split
        · exact h
        · exact exec_wf _ h
      · exact exec_wf _ (by rwa [turnCycle_mem])

end Sys2Proof.Machine
end

section
/-! PROOFS. Canonical memory (O55). -/

namespace Sys2Proof.Machine

open Sys2Proof

/-- Settles O55: every write of the model goes through `Memory.write`, `writeGranule`, `clear`, `copyRange` or a mark of the poison list, and
each of them keeps the canonical form; the rest of every instruction and happening leaves memory alone. -/
theorem stepKeepsMemoryCanonical : Obligations.StepKeepsMemoryCanonical := by
  intro s t h e
  have hs := step_wf h
  rwa [e] at hs

end Sys2Proof.Machine
end

section
/-! SUPPORT. An access of a thread whose earlier accesses are performed (R102): nothing is left to put before it. -/

namespace Sys2Proof.Machine

open Sys2Proof Sys2Proof.Rules

variable {s : State} {b : Block} {g : Group} {m : Member} {th : Thread} {i : Instr}

theorem ea_eq_eaLong (th : Thread) (r : Reg) (o : BitVec 26) : ea_ th r o.toInt = eaLong th r o := by
  rw [ea_, eaLong, BitVec.ofInt_add, BitVec.ofInt_toInt, BitVec.signExtend]

theorem flushBefore_drained (h : Drained s b th) (upTo va n : Nat) : flushBefore s (trefOf b th) upTo va n = false := by
  rw [flushBefore, List.any_eq_false]
  intro p hp
  by_cases hw : p.who = trefOf b th
  · have hk := (h.reads p hp hw).2
    split
    next k e => exact absurd e (hk k)
    next => simp
  · simp [hw]

theorem accBefore_drained (h : Drained s b th) (upTo va n : Nat) (tickets : Bool) :
    accBefore s (trefOf b th) upTo va n tickets = false := by
  have hpend : ∀ p ∈ s.pend, (p.who == trefOf b th && p.kind.unread) = false := by
    intro p hp
    by_cases hw : p.who = trefOf b th
    · simp [(h.reads p hp hw).1]
    · simp [hw]
  have htick : ∀ d, ∀ x ∈ (s.die d).tickets, (x.who == trefOf b th) = false := fun d x hx => beq_false_of_ne (h.tickets d x hx)
  simp only [accBefore, flushBefore_drained h, Bool.false_or, Bool.or_eq_false_iff, Bool.and_eq_false_iff, List.any_eq_false]
  refine ⟨fun p hp => ?_, .inr fun d _ => ?_⟩
  · have := hpend p hp
    grind
  · simp only [Bool.not_eq_true, List.any_eq_false]
    intro x hx
    simp [htick d x hx]

theorem lineBefore_drained (h : Drained s b th) (upTo job va n : Nat) : lineBefore s (trefOf b th) upTo job va n = false := by
  have hl : linesBefore s (trefOf b th) upTo = false := h.lines upTo
  simp only [linesBefore, Bool.or_eq_false_iff, List.any_eq_false, Bool.not_eq_true] at hl
  obtain ⟨hcores, hflight⟩ := hl
  simp only [lineBefore, Bool.or_eq_false_iff, List.any_eq_false, Bool.not_eq_true, Bool.and_eq_false_iff]
  exact ⟨fun c hc l hl => .inl (hcores c hc l hl), fun f hf => .inl (hflight f hf)⟩

theorem rangesBefore_drained (h : Drained s b th) (upTo job : Nat) (rs : List (Nat × Nat)) :
    rangesBefore s (trefOf b th) upTo job rs = false := by
  have hw : ∀ w ∈ s.writes, w.who ≠ trefOf b th := h.writes
  simp only [rangesBefore, Bool.or_eq_false_iff, List.any_eq_false, accBefore_drained h, lineBefore_drained h]
  exact ⟨fun w hmem => by simp [hw w hmem], fun _ _ => by simp⟩

theorem drainRanges_drained (h : Drained s b th) (job : Nat) (rs : List (Nat × Nat)) :
    drainRanges s b.core (trefOf b th) job rs = s := by
  have hw : (s.writes.filter fun w => w.who == trefOf b th && !w.place.isScratch && inRanges rs w.va w.bytes.length) = [] :=
    List.filter_eq_nil_iff.2 fun w hmem => by simp [show w.who ≠ trefOf b th from h.writes w hmem]
  have hl : ((s.core b.core).wc.filter fun l => (l.whos.any fun w => w.2 == trefOf b th) && l.inRanges job rs) = [] := by
    refine List.filter_eq_nil_iff.2 fun l hmem => ?_
    have hno : (l.whos.any fun w => w.2 == trefOf b th) = false :=
      List.any_eq_false.2 fun w hw => by simp [wc_of_drained h b.core l hmem w hw]
    simp [hno]
  simp only [drainRanges, sendLines, hw, hl, List.foldl_nil]

theorem settleBefore_drained (h : Drained s b th) (acc : Acc) (upTo : Nat) : settleBefore s b (trefOf b th) acc upTo = (s, true) := by
  simp only [settleBefore, flushThread_drained h, drainRanges_drained h, ite_self, storesBefore_drained h, rangesBefore_drained h,
    Bool.and_false, Bool.or_false, Bool.not_false]

/-- An instruction of one access, of a group with one active lane, whose access meets no fault. -/
theorem runAcc_alone {s2 : State} {ws : List Window} (h : IssuingAlone s b g m th i) (f : Thread → Acc)
    (hok : accFaults s b (!th.priv) (f th) = (s, [])) (ha : actAcc s (trefOf b th) g.hdr g.idx (!th.priv) (f th) = (s2, ws)) :
    runAcc i s f = .next (advanceIn s2 b.grid b.bidx g.gid (Instr.len i) ws) :=
  runLanes_alone h _ _ (by simp [accCheck, hok]) ha

end Sys2Proof.Machine
end

section
/-! SUPPORT. A write of a signal object that no wait and no armed entry watches (R231 to R233). -/

namespace Sys2Proof.Machine

open Sys2Proof Sys2Proof.Rules

variable {s : State} {b : Block} {g : Group} {m : Member} {th : Thread} {i : Instr}

theorem State.updDie_arms (s : State) (i d : Nat) {f : Die → Die} (hf : ∀ x, (f x).arms = x.arms) :
    ((s.updDie i f).die d).arms = (s.die d).arms := by
  rw [State.die_updDie]
  split
  next h => rw [h, hf]
  next => rfl

/-- An access of this package changes no more than what its die has counted of the page (R68). -/
theorem noteHeat_own (s : State) (job va pa : Nat) (e : Word) (write : Bool) :
    ∃ ds, noteHeat s job va pa e s.pkg write = { s with dies := ds } ∧ ∀ d, (State.die { s with dies := ds } d).arms = (s.die d).arms := by
  rw [noteHeat]
  split
  · exact ⟨s.dies, rfl, fun _ => rfl⟩
  · refine ⟨_, if_pos (beq_self_eq_true s.pkg), fun d => ?_⟩
    exact State.updDie_arms s (homeDie pa) d (f := fun x => { x with heat := countIn x.heat s.pkg job (va / 2 ^ 16) s.pkg write })
      fun _ => rfl

theorem wakeWaits_unwaited {pa : Nat} (h : ∀ p ∈ s.pend, ∀ q od sc x, p.kind = .signal q od sc x → q ≠ pa) : wakeWaits s pa = s := by
  refine foldl_fixed_of_mem fun p hp => ?_
  split
  next q od sc x hk => simp [h p hp q od sc x hk]
  next => rfl

theorem crossed_unarmed {as : List Arm} {pa : Nat} (h : ∀ a ∈ as, a.obj ≠ pa) (old new : Int) : crossed as pa old new = [] := by
  have hf : as.filter (fun a => a.obj == pa && a.t < old && new ≤ a.t) = [] := List.filter_eq_nil_iff.2 fun a ha => by simp [h a ha]
  rw [crossed, hf]
  rfl

theorem put_above {mem : Memory} {pa : Nat} (h : 0x10000 ≤ pa) (bs : List Byte) : mem.put pa bs = mem.write pa bs := by
  rw [Memory.put, Memory.kept, if_pos h]

theorem wordWrite_unwatched {pa : Nat} (habove : 0x10000 ≤ pa)
    (hw : ∀ p ∈ s.pend, ∀ q od sc x, p.kind = .signal q od sc x → q ≠ pa) (ha : ∀ d, ∀ a ∈ (s.die d).arms, a.obj ≠ pa)
    (fuel : Nat) (v : Word) :
    ∃ ds ws, wordWrite fuel s pa v = { s with mem := s.mem.write pa (leBytes v.toNat 8), dies := ds, opWrites := ws } := by
  obtain ⟨ws, hnote⟩ := noteOperand_frame s s.nextId (pa / 8) 1
  have hwake : wakeWaits { s with opWrites := ws, mem := s.mem.put pa (leBytes v.toNat 8) } pa =
      { s with opWrites := ws, mem := s.mem.write pa (leBytes v.toNat 8) } := by
    rw [put_above habove]
    exact wakeWaits_unwaited (s := { s with opWrites := ws, mem := s.mem.write pa (leBytes v.toNat 8) }) hw
  cases fuel with
  | zero => exact ⟨s.dies, ws, by rw [wordWrite, hnote]; exact hwake⟩
  | succ n =>
    have hc := crossed_unarmed (ha (homeDie pa)) (sigCount (BitVec.ofNat 64 (s.mem.num pa 8))) (sigCount v)
    refine ⟨(s.updDie (homeDie pa) fun d => { d with arms := d.arms.filter fun a => !([] : List Arm).contains a }).dies, ws, ?_⟩
    rw [wordWrite]
    simp only [hnote, hc, List.foldl_nil]
    rw [hwake]
    rfl

end Sys2Proof.Machine
end

section
/-! PROOFS. FENCE, ACQ and REL (O23). -/

namespace Sys2Proof.Machine

open Sys2Proof Sys2Proof.Rules

variable {s : State} {b : Block} {g : Group} {m : Member} {th : Thread} {i : Instr}

theorem performAcc_fence (h : Drained s b th) (user : Bool) (o : FenceO) (sc : Scope) (n : Nat) :
    performAcc s b (trefOf b th) user (mkAcc (.fence o sc) th 0 0 7 0) n = (s, .done) := by
  simp [performAcc, mkAcc, settleBefore_drained h]

theorem performAcc_acq {ea : Word} {d : Reg} {k : BitVec 3} {l : BitVec 4} {sc : Scope} {pa : Nat} {e : Word} (h : Drained s b th)
    (hr : Reaches s b th (mkAcc (.acq sc) th ea d k l) pa e) (n : Nat) :
    performAcc s b (trefOf b th) (!th.priv) (mkAcc (.acq sc) th ea d k l) n =
      (noteHeat s (s.jobOf b.grid) ea.toNat pa e s.pkg false,
        .value (BitVec.ofNat 64 ((noteHeat s (s.jobOf b.grid) ea.toNat pa e s.pkg false).mem.num pa 8)) 0) := by
  have hhere := hr.here
  simp only [mkAcc, AccOp.writes] at hhere
  simp [performAcc, mkAcc, settleBefore_drained h, AccOp.writes, hhere]

theorem performAcc_rel {ea : Word} {d : Reg} {sc : Scope} {pa : Nat} {e : Word} (h : Free s b th ea pa .rel sc)
    (hr : Reaches s b th (mkAcc (.rel sc) th ea d 7 0) pa e) (n : Nat) :
    performAcc s b (trefOf b th) (!th.priv) (mkAcc (.rel sc) th ea d 7 0) n =
      (signalPut (noteHeat s (s.jobOf b.grid) ea.toNat pa e s.pkg true) pa (th.reg d), .done) := by
  have hhere := hr.here
  simp only [mkAcc, AccOp.writes] at hhere
  simp [performAcc, mkAcc, settleBefore_drained h.drained, AccOp.writes, hhere, h.plain.free, h.plain.dsm]

/-- An access outside the SC order whose performing does not itself ask for a ticket: it is settled by what its performing answers. -/
theorem actAcc_plain {s2 : State} {who : Tref} {acc : Acc} {r : ActRes} (hb : s.block? who.grid who.bidx = some b) (hord : acc.op.scOrder = none)
    (hp : performAcc s b who user acc s.nextId = (s2, r)) (hr : r ≠ .wait .scTicket) (hdr : Va) (idx : Nat) :
    actAcc s who hdr idx user acc = settle s2 who hdr idx acc r := by
  simp only [actAcc, hb, hord, hp]

/-- The end of an instruction whose access has its value at once (R137): the value is in the register, or stands outstanding under the token. -/
theorem advanceIn_delivers {u : State} {k : BitVec 3} {acc : Acc} (h : IssuingAlone s b g m th i) (hblocks : u.blocks = s.blocks)
    (hpend : u.pend = s.pend) (hcounts : acc.op.counts = false) (hk : acc.k = k.toNat) (v : Word) (fl : BitVec 6) (n : Nat) :
    ∃ s2 ws, settle u (trefOf b th) g.hdr g.idx acc (.value v fl) = (s2, ws) ∧
      (advanceIn s2 b.grid b.bidx g.gid n ws).mem = u.mem ∧ (advanceIn s2 b.grid b.bidx g.gid n ws).writes = u.writes ∧
      Delivers s (advanceIn s2 b.grid b.bidx g.gid n ws) b g th acc.d k v fl := by
  by_cases h7 : k = 7
  · have hset : settle u (trefOf b th) g.hdr g.idx acc (.value v fl) =
        (u.updThread (trefOf b th) fun x => (x.setReg acc.d v).setFlags fl, []) := by
      simp [settle, hcounts, hk, h7]
    obtain ⟨b', he, hlane⟩ := advanceIn_lane h (s2 := u.updThread (trefOf b th) fun x => (x.setReg acc.d v).setFlags fl)
      (fun x => (x.setReg acc.d v).setFlags fl) (fun _ => rfl) (by rw [← hblocks]; rfl) n []
    refine ⟨_, _, hset, by rw [he]; rfl, by rw [he]; rfl, fun _ => ⟨?_, hlane⟩, fun hne => absurd h7 hne⟩
    rw [he]
    exact hpend
  · have hlt : k.toNat < 7 := by
      have := k.isLt
      have : k.toNat ≠ 7 := fun e => h7 (BitVec.eq_of_toNat_eq e)
      omega
    let p : Pend := { id := u.nextId, who := trefOf b th, tok := k.toNat, acc := acc, kind := .result v fl, hdr := g.hdr, idx := g.idx,
                      aged := 0, mem := acc.op.memWait }
    let held : State := { u with pend := u.pend ++ [p], nextId := u.nextId + 1 }
    have hset : settle u (trefOf b th) g.hdr g.idx acc (.value v fl) =
        (held.updThread (trefOf b th) (raise k), [{ id := u.nextId, left := acc.l }]) := by
      have hraise : raise k = fun x => x.setTok k.toNat (x.tok k.toNat + 1) := funext fun x => if_neg h7
      simp only [settle, hcounts, hk, Bool.false_eq_true, if_false, hlt, if_true, addPend, hraise]
      rfl
    obtain ⟨b', he, hlane⟩ := advanceIn_lane h (s2 := held.updThread (trefOf b th) (raise k)) (raise k)
      (fun _ => by rw [raise, if_neg h7]; rfl) (by rw [← hblocks]; rfl) n [{ id := u.nextId, left := acc.l }]
    refine ⟨_, _, hset, by rw [he]; rfl, by rw [he]; rfl, fun he7 => absurd he7 h7, fun _ => ⟨hlane, p, ?_, rfl, rfl, rfl, rfl⟩⟩
    rw [he, ← hpend]
    rfl

theorem exec_fence_drained {o : FenceO} {sc : Scope} (h : IssuingAlone s b g m th (.fence o sc)) (hd : Drained s b th) :
    ∃ t, exec (.fence o sc) s = .next t ∧ t.mem = s.mem ∧ t.writes = s.writes ∧ t.pend = s.pend ∧
      OneLane s t b g fun _ x x' => x'.content = x.content := by
  obtain ⟨hblock, -, -⟩ := State.cur?_block h.current
  have hact : actAcc s (trefOf b th) g.hdr g.idx (!th.priv) (mkAcc (.fence o sc) th 0 0 7 0) = (s, []) :=
    actAcc_plain hblock rfl (performAcc_fence hd ..) nofun ..
  obtain ⟨b', he, hlane⟩ := advanceIn_kept h rfl (Instr.len (.fence o sc)) []
  refine ⟨_, runAcc_alone h _ rfl hact, ?_, ?_, ?_, hlane⟩ <;> rw [he] <;> rfl

theorem exec_acq_reached {d r : Reg} {o : BitVec 26} {k : BitVec 3} {l : BitVec 4} {sc : Scope} {pa : Nat} {e : Word}
    (h : IssuingAlone s b g m th (.acq d r o k l sc)) (hd : Drained s b th)
    (hr : Reaches s b th (mkAcc (.acq sc) th (ea_ th r o.toInt) d k l) pa e) :
    ∃ t, exec (.acq d r o k l sc) s = .next t ∧ t.mem = s.mem ∧ t.writes = s.writes ∧
      Delivers s t b g th d k (BitVec.ofNat 64 (s.mem.num pa 8)) 0 := by
  obtain ⟨hblock, -, -⟩ := State.cur?_block h.current
  obtain ⟨ds, hheat, -⟩ := noteHeat_own s (s.jobOf b.grid) (ea_ th r o.toInt).toNat pa e false
  have hperf := performAcc_acq hd hr s.nextId
  rw [hheat] at hperf
  obtain ⟨s2, ws, hset, hmem, hwrites, hdel⟩ := advanceIn_delivers (u := { s with dies := ds }) (acc := mkAcc (.acq sc) th (ea_ th r o.toInt) d k l)
    h rfl rfl rfl rfl (BitVec.ofNat 64 (s.mem.num pa 8)) 0 (Instr.len (.acq d r o k l sc))
  have hact := (actAcc_plain hblock rfl hperf nofun g.hdr g.idx).trans hset
  rw [ea_eq_eaLong] at hact hr
  exact ⟨_, runAcc_alone h _ hr.sound hact, hmem, hwrites, hdel⟩

theorem exec_rel_free {d r : Reg} {o : BitVec 26} {sc : Scope} {pa : Nat} {e : Word} (h : IssuingAlone s b g m th (.rel d r o sc))
    (hf : Free s b th (ea_ th r o.toInt) pa .rel sc) (hr : Reaches s b th (mkAcc (.rel sc) th (ea_ th r o.toInt) d 7 0) pa e) :
    ∃ t, exec (.rel d r o sc) s = .next t ∧ t.mem = s.mem.write pa (leBytes (th.reg d).toNat 8) ∧ t.writes = s.writes ∧ t.pend = s.pend ∧
      OneLane s t b g fun _ x x' => x'.content = x.content := by
  obtain ⟨hblock, -, -⟩ := State.cur?_block h.current
  obtain ⟨ds, hheat, harms⟩ := noteHeat_own s (s.jobOf b.grid) (ea_ th r o.toInt).toNat pa e true
  obtain ⟨ds', ws, hput⟩ := wordWrite_unwatched (s := { s with dies := ds }) hf.plain.above
    (fun p hp q od sc x hk e => hf.plain.waits p hp q od sc x hk (by omega))
    (fun j a ha e => hf.plain.arms j a (by rwa [harms] at ha) (by omega)) (armCount { s with dies := ds }) (th.reg d)
  have hperf := performAcc_rel hf hr s.nextId
  rw [hheat, signalPut, hput] at hperf
  have hact := actAcc_plain hblock rfl hperf nofun g.hdr g.idx
  rw [ea_eq_eaLong] at hact hr
  obtain ⟨b', he, hlane⟩ := advanceIn_kept h
    (s2 := { s with mem := s.mem.write pa (leBytes (th.reg d).toNat 8), dies := ds', opWrites := ws }) rfl (Instr.len (.rel d r o sc)) []
  refine ⟨_, runAcc_alone h _ hr.sound hact, ?_, ?_, ?_, hlane⟩ <;> rw [he] <;> rfl

/-- Settles O23, clause by clause: FENCE, ACQ, REL. -/
theorem fenceAcquireReleaseResult : Obligations.FenceAcquireReleaseResult :=
  ⟨fun _ _ _ _ _ _ _ h hd => exec_fence_drained h hd, fun _ _ _ _ _ _ _ _ _ _ _ _ _ h hd hr => exec_acq_reached h hd hr,
   fun _ _ _ _ _ _ _ _ _ _ _ h hf hr => exec_rel_free h hf hr⟩

end Sys2Proof.Machine
end

section
/-! PROOFS. RBIND and RUNBIND (O24). -/

namespace Sys2Proof.Machine

open Sys2Proof Sys2Proof.Rules

variable {s : State} {b : Block} {g : Group} {m : Member} {th : Thread} {i : Instr}

/-- The state in which the block's bindings are bs. -/
def rebound (s : State) (b : Block) (bs : List Bind) : State := s.updBlock b.grid b.bidx fun _ => { b with binds := bs }

theorem rebound_block (h : s.block? b.grid b.bidx = some b) (bs : List Bind) :
    (rebound s b bs).block? b.grid b.bidx = some { b with binds := bs } :=
  State.block?_eq_of_blocks h rfl ⟨rfl, rfl⟩

/-- The end of an instruction that has changed its block's bindings alone. -/
theorem advanceIn_rebound (h : IssuingAlone s b g m th i) (bs : List Bind) (n : Nat) (ws : List Window) :
    LanesDid s (advanceIn (rebound s b bs) b.grid b.bidx g.gid n ws) { b with binds := bs } g fun _ y y' => y'.content = y.content := by
  have hid : ({ b with binds := bs } : Block).updThread th.tid id = { b with binds := bs } := congrFun (Block.updThread_id th.tid) _
  obtain ⟨b', he, hblocks, hshell, hw⟩ := advanceIn_laneWent (s2 := rebound s b bs) h bs id (fun _ => rfl) (by rw [hid]; rfl) n ws
  refine ⟨b', ?_, hshell, hw.mono fun _ _ _ hx => hx.1⟩
  rw [he]
  exact congrArg (fun l => ({ s with blocks := l, issuing := none } : State)) hblocks

/-- The binding an RBIND asks for (R109). -/
def askedBind (th : Thread) (acc : Acc) : Bind :=
  { base := acc.x.toNat, len := acc.y.toNat, obj := acc.ea.toNat, tid := th.tid, all := false, via := [], off := [], offVia := [] }

/-- The block's bindings once it has taken n for a thread. -/
def bindsWith (bs : List Bind) (n : Bind) (tid : Nat) : List Bind :=
  if (bs.filter fun y => !y.off.contains tid).any n.same then bs
  else (bs.filter fun y => !(n.same y && y.off.contains tid)) ++ [n]

theorem block_bindsWith (b : Block) (n : Bind) (tid : Nat) :
    (if (b.binds.filter fun y => !y.off.contains tid).any n.same then b
      else { b with binds := (b.binds.filter fun y => !(n.same y && y.off.contains tid)) ++ [n] }) =
    { b with binds := bindsWith b.binds n tid } := by
  rw [bindsWith]
  split <;> rfl

theorem bindCause_none {held : List Bind} {n : Bind} (hbase : n.base % 128 = 0) (hlen : n.len % 128 = 0) (hpos : n.len ≠ 0)
    (h : held.any n.same = true ∨ held.length < 16 ∧ ∀ y ∈ held, y.base + y.len ≤ n.base ∨ n.base + n.len ≤ y.base) :
    bindCause held n = none := by
  have hlines : (n.base % 128 != 0 || n.len % 128 != 0 || n.len == 0) = false := by simp [hbase, hlen, hpos]
  rw [bindCause, hlines, if_neg Bool.false_ne_true]
  by_cases hs : held.any n.same = true
  · rw [if_pos hs]
  · obtain ⟨hfew, hapart⟩ := h.resolve_left hs
    have hmeet : (held.any fun x => rangesMeet x n) = false := by
      rw [List.any_eq_false]
      intro y hy
      have := hapart y hy
      simp only [rangesMeet, Bool.and_eq_true, decide_eq_true_eq]
      omega
    rw [if_neg hs, hmeet, if_neg Bool.false_ne_true, if_neg (by omega)]

theorem bindLane_taken {acc : Acc} (hb : s.block? b.grid b.bidx = some b) (hok : accFaults s b (!th.priv) acc = (s, []))
    (hc : bindCause (b.binds.filter fun y => !y.off.contains th.tid) (askedBind th acc) = none) :
    bindLane b s th acc = (rebound s b (bindsWith b.binds (askedBind th acc) th.tid), .go) := by
  unfold askedBind at hc
  simp only [bindLane, accCheck, hok, List.isEmpty_nil, if_true, hb, Option.map_some, Option.getD_some, hc]
  rw [State.updBlock_found hb]
  exact congrArg (fun c : Block => (s.updBlock b.grid b.bidx fun _ => c, LaneCheck.go)) (block_bindsWith b (askedBind th acc) th.tid)

/-- An RBIND has taken effect at its check: what follows changes nothing (R230). -/
theorem actLane_rbind {acc : Acc} (hop : acc.op = .rbind) (hb : s.block? b.grid b.bidx = some c) : actLane b g s th acc = (s, []) := by
  have hperf : performAcc s c (trefOf b th) (!th.priv) acc s.nextId = (s, .done) := by simp only [performAcc, hop]
  exact actAcc_plain hb (by rw [hop]; rfl) hperf nofun ..

theorem exec_rbind_taken {d r : Reg} {o : BitVec 26} (h : IssuingAlone s b g m th (.rbind d r o))
    (hok : accFaults s b (!th.priv) (mkAcc .rbind th (ea_ th r o.toInt) d 7 0) = (s, []))
    (hc : bindCause (b.binds.filter fun y => !y.off.contains th.tid) (askedBind th (mkAcc .rbind th (ea_ th r o.toInt) d 7 0)) = none) :
    ∃ t, exec (.rbind d r o) s = .next t ∧
      LanesDid s t { b with binds := bindsWith b.binds (askedBind th (mkAcc .rbind th (ea_ th r o.toInt) d 7 0)) th.tid } g
        fun _ y y' => y'.content = y.content := by
  obtain ⟨hblock, -, -⟩ := State.cur?_block h.current
  have hcheck := bindLane_taken hblock hok hc
  have hact := actLane_rbind (b := b) (g := g) (th := th) (acc := mkAcc .rbind th (ea_ th r o.toInt) d 7 0) rfl
    (rebound_block hblock (bindsWith b.binds (askedBind th (mkAcc .rbind th (ea_ th r o.toInt) d 7 0)) th.tid))
  rw [ea_eq_eaLong] at hcheck hact ⊢
  exact ⟨_, runLanes_alone h (fun b _ s _ th => bindLane b s th (mkAcc .rbind th (eaLong th r o) d 7 0))
    (fun b g s _ th => actLane b g s th (mkAcc .rbind th (eaLong th r o) d 7 0)) hcheck hact, advanceIn_rebound h ..⟩

theorem performAcc_runbind {ea : Word} (hb : s.block? b.grid b.bidx = some b) (h : Drained s b th) (user : Bool) (n : Nat) :
    performAcc s b (trefOf b th) user (mkAcc .runbind th ea 0 7 0) n = (rebound s b (b.binds.map (Bind.drop th.tid ea.toNat)), .done) := by
  simp only [performAcc, mkAcc]
  refine (if_neg ?_).trans (by rw [State.updBlock_found hb]; rfl)
  rw [Bool.not_eq_true, List.any_eq_false]
  intro p hp
  by_cases hw : p.who = trefOf b th
  · simp [(h.reads p hp hw).1]
  · simp [hw]

theorem exec_runbind_drained {r : Reg} {o : BitVec 26} (h : IssuingAlone s b g m th (.runbind r o))
    (hok : accFaults s b (!th.priv) (mkAcc .runbind th (ea_ th r o.toInt) 0 7 0) = (s, [])) (hd : Drained s b th) :
    ∃ t, exec (.runbind r o) s = .next t ∧
      LanesDid s t { b with binds := b.binds.map (Bind.drop th.tid (ea_ th r o.toInt).toNat) } g fun _ y y' => y'.content = y.content := by
  obtain ⟨hblock, -, -⟩ := State.cur?_block h.current
  have hact := actAcc_plain hblock rfl (performAcc_runbind (ea := ea_ th r o.toInt) hblock hd (!th.priv) s.nextId) nofun g.hdr g.idx
  rw [ea_eq_eaLong] at hok hact ⊢
  exact ⟨_, runAcc_alone h _ hok hact, advanceIn_rebound h ..⟩

theorem drop_eq (tid obj : Nat) :
    Bind.drop tid obj = fun y => if y.obj = obj ∧ y.isFor tid then { y with off := y.off ++ [tid] } else y := by
  funext y
  simp [Bind.drop]

/-- Settles O24, clause by clause: RBIND by what its check answers (`bindCause_none`), RUNBIND by what its access leaves of each binding. -/
theorem bindingResult : Obligations.BindingResult := by
  refine ⟨?_, ?_⟩
  · intro s b g m th d r o h hok hbase hlen hpos x held same hfits
    exact exec_rbind_taken h hok (bindCause_none hbase hlen hpos hfits)
  · intro s b g m th r o h hok hd
    rw [← drop_eq]
    exact exec_runbind_drained h hok hd

end Sys2Proof.Machine
end

section
/-! SUPPORT. What the end of an engine operation leaves of the reservation tables, of the dies and of the rebuilds (R117, R137). -/

namespace Sys2Proof.Machine

open Sys2Proof Sys2Proof.Rules

variable {s t : State} {b : Block} {e x : MEntry} {c : Nat}

/-- t is s but for its blocks and for outstanding results that are gone. -/
def OnlyResults (s t : State) : Prop := ∃ bs ps, t = { s with blocks := bs, pend := ps } ∧ ∀ p ∈ ps, p ∈ s.pend

theorem OnlyResults.refl (s : State) : OnlyResults s s := ⟨s.blocks, s.pend, rfl, fun _ hp => hp⟩

theorem OnlyResults.trans {u : State} (h : OnlyResults s t) (h' : OnlyResults t u) : OnlyResults s u := by
  obtain ⟨_, _, rfl, hsub⟩ := h
  obtain ⟨bs, ps, rfl, hsub'⟩ := h'
  exact ⟨bs, ps, rfl, fun p hp => hsub p (hsub' p hp)⟩

theorem OnlyResults.foldl {f : State → Pend → State} (h : ∀ s p, OnlyResults s (f s p)) : ∀ (l : List Pend) (s : State), OnlyResults s (l.foldl f s)
  | [], s => .refl s
  | p :: r, s => (h s p).trans (OnlyResults.foldl h r (f s p))

theorem complete_onlyResults (s : State) (p : Pend) (dests : List (Reg × Word)) (f : BitVec 6) : OnlyResults s (complete s p dests f) :=
  ⟨_, _, rfl, fun _ hp => List.mem_of_mem_filter hp⟩

theorem engDone_onlyResults (s : State) (op : Nat) (dests : Nat → List (Reg × Word)) : OnlyResults (dropGot s op) (engDone s op dests) := by
  refine OnlyResults.foldl (fun s p => ?_) s.pend (dropGot s op)
  split
  · exact complete_onlyResults ..
  · exact .refl s

theorem mwaitsAgain_onlyResults (s : State) : OnlyResults s (mwaitsAgain s) := by
  refine OnlyResults.foldl (fun s p => ?_) s.pend s
  split
  · split
    · exact .refl s
    · exact complete_onlyResults ..
  · exact .refl s

theorem reenter_none (h : s.aside = []) : reenter s = s := by rw [reenter, h, List.foldl_nil]

/-- An entry that is done and stands alone leaves its table empty, and its token is down. -/
theorem entryDone_alone (htable : s.table e.core = [x]) (hx : x.id = e.id) (haside : s.aside = []) (dests : Nat → List (Reg × Word)) :
    (entryDone s e dests).table e.core = [] ∧ ∀ p ∈ (entryDone s e dests).pend, p.kind ≠ .engine e.id := by
  let u := s.setTable e.core ((s.table e.core).filter fun x => x.id != e.id)
  have hgone := (engDone_completed u e.id dests).2
  have hu : u.table e.core = [] := by
    refine (tget_tset ..).trans ((if_pos rfl).trans ?_)
    simp [htable, hx]
  obtain ⟨bs, ps, hdone, -⟩ := engDone_onlyResults u e.id dests
  obtain ⟨bs', ps', hwait, hsub⟩ := mwaitsAgain_onlyResults (engDone u e.id dests)
  have hall : mwaitsAgain (engDone u e.id dests) = { dropGot u e.id with blocks := bs', pend := ps' } := by rw [hwait, hdone]
  have hstay : entryDone s e dests = mwaitsAgain (engDone u e.id dests) := reenter_none (by rw [hall]; exact haside)
  refine ⟨?_, fun p hp => ?_⟩
  · rw [hstay, hall]
    exact hu
  · rw [hstay, hwait] at hp
    exact hgone p (hsub p hp)

theorem oneEntry_table (h : OneEntry s c e) : s.table e.core = [e] := by
  rw [State.table, h.core]
  exact h.table

/-- The one entry of its table after it was changed. -/
theorem updEntry_table (h : s.table e.core = [x]) (hx : x.id = e.id) (f : MEntry → MEntry) : (updEntry s e f).table e.core = [f x] := by
  refine (tget_tset ..).trans ((if_pos rfl).trans ?_)
  simp [h, replaceFirst, hx]

theorem tileOf_of_tileIs {tl : Tile} (h : TileIs s e tl) : tileOf s e = tl := by
  obtain ⟨b, hb, ht⟩ := h
  simp [tileOf, hb, ht]

/-- A tile that was set leaves its block where it is. -/
theorem setTile_runs (h : blockRuns s e.grid e.bidx = true) (tl : Tile) : blockRuns (setTile s e tl) e.grid e.bidx = true := by
  rw [blockRuns, setTile, State.block?_updBlock _ _ _ (fun b => { b with tiles := b.tiles.set e.tile tl }) fun _ hx => hx, Option.map_map]
  exact h

/-- A block that runs keeps its entries (R305). -/
theorem leaveTable_runs {grid bidx : Nat} (h : blockRuns s grid bidx = true) : leaveTable s grid bidx = s := by
  rw [leaveTable]
  cases hb : s.block? grid bidx with
  | none => rfl
  | some b =>
    have hplace : (b.place == 0) = true := by simpa [blockRuns, hb] using h
    simp [hplace]

end Sys2Proof.Machine
end

section
/-! PROOFS. Drains, walks and rebuilds write what they computed (O32). -/

namespace Sys2Proof.Machine

open Sys2Proof Sys2Proof.Rules

variable {s s' t : State} {b : Block} {e x : MEntry} {c : Nat}

/- A drain's run (R255). -/

theorem partGranules_meet {pa n q : Nat} (hn : 0 < n) (h : q ∈ partGranules pa n) : 8 * q < pa + n ∧ pa < 8 * q + 8 := by
  have hq : q = pa / 8 ∨ q = (pa + n - 1) / 8 := by
    rw [partGranules, List.mem_filter] at h
    have := h.1
    split at this
    · exact .inl (by simpa using this)
    · simpa using this
  omega

theorem oldSeal_sound {m : Memory} {pa va n : Nat} (hn : 0 < n) (h : ∀ q, 8 * q < pa + n → pa < 8 * q + 8 → m.err q = 0) :
    oldSeal m pa va n = none := by
  have hnone : ((partGranules pa n).find? fun q => m.err q != 0) = none := List.find?_eq_none.2 fun q hq => by
    obtain ⟨hlo, hhi⟩ := partGranules_meet hn hq
    simp [h q hlo hhi]
  rw [oldSeal, hnone]
  rfl

/-- Bytes put where nothing waits on them and nothing is read-only. -/
theorem memPut_plain {job va pa : Nat} {bs : List Byte} (h : Plain s job va pa bs.length) :
    ∃ ws, memPut s pa bs = { s with mem := s.mem.write pa bs, opWrites := ws } := by
  obtain ⟨ws, hnote⟩ := noteOperand_frame s s.nextId (pa / 8) ((pa + bs.length + 7) / 8 - pa / 8)
  refine ⟨ws, ?_⟩
  rw [memPut, memPutAs, hnote]
  dsimp only
  rw [put_above h.above]
  exact afterWrite_unwaited (s := { s with mem := s.mem.write pa bs, opWrites := ws }) s.mem h.waits h.arms

theorem engWrite_plain {by_ : EngBy} {op va pa : Nat} {bs : List Byte} {pte : Word} (hloc : engLoc s by_ va true = (s, .mem pa pte))
    (h : Plain s by_.job va pa bs.length) : ∃ ws, engWrite s by_ op va bs = ({ s with mem := s.mem.write pa bs, opWrites := ws }, .done) := by
  obtain ⟨ws, hput⟩ := memPut_plain h
  refine ⟨ws, ?_⟩
  simp only [engWrite, hloc, h.free, oldSeal_sound h.some_ h.seals, h.dsm, hput, Bool.false_eq_true, if_false]

theorem oneEntry_find (h : OneEntry s c e) (hphase : e.phase = 2) :
    (tget [] s.clusters c).find? (fun x => x.id == e.id && x.phase == 2) = some e := by
  simp [h.table, hphase]

theorem exec_drainWritesComplete_done {rs z : Bool} {va pa : Nat} {bs : List Byte} {pte : Word} (h : OneEntry s c e) (hphase : e.phase = 2)
    (hkind : e.kind = .mdrain rs z) (hrun : e.out = [(va, bs)]) (hloc : engLoc s e.by_ va true = (s, .mem pa pte))
    (hp : Plain s e.by_.job va pa bs.length) (hout : engOut s e.id = false) (haside : s.aside = []) :
    ∃ t, exec (.drainWritesComplete c e.id) s = .next t ∧ t.mem = s.mem.write pa bs ∧ tget [] t.clusters c = [] ∧
      ∀ p ∈ t.pend, p.kind ≠ .engine e.id := by
  obtain ⟨ws, hwrite⟩ := engWrite_plain (op := e.id) hloc hp
  let u : State := { s with mem := s.mem.write pa bs, opWrites := ws }
  have hwrites : engWrites e.by_ e.id e.out s = (u, [], .done) := by
    simp only [hrun, engWrites, hwrite]
    rfl
  have hexec : exec (.drainWritesComplete c e.id) s = .next (entryDone u e fun _ => []) := by
    have hnone : engOut u e.id = false := hout
    change execDrainWritesComplete c e.id s = _
    simp only [execDrainWritesComplete, oneEntry_find h hphase, hkind, hwrites, hnone, Bool.false_eq_true, if_false]
  have hone := oneEntry_table h
  obtain ⟨htable, hpend⟩ := entryDone_alone (s := u) hone rfl haside fun _ => []
  refine ⟨_, hexec, entryDone_mem, ?_, hpend⟩
  rw [← h.core]
  exact htable

/- A walk's chunk (R259). -/

/-- The state after a chunk's elements are combined and the tile is cleared for the next. -/
def walkedState (s : State) (e : MEntry) (tl : Tile) (k : Nat) : State :=
  setTile (updEntry (setTile s e tl) e fun x => { x with part := k }) e { tl with elems := [], prog := 0 }

theorem walkedState_table (h : OneEntry s c e) (tl : Tile) (k : Nat) : (walkedState s e tl k).table e.core = [{ e with part := k }] := by
  have hone := oneEntry_table h
  exact updEntry_table (s := setTile s e tl) hone rfl _

theorem exec_mwalkCombine_eq {o : WalkOp} {n cl k : Nat} {tl tl' : Tile} (h : OneEntry s cl e) (hphase : e.phase = 2)
    (hkind : e.kind = .mwalk o n) (htile : TileIs s e tl) (hnew : e.chunk ∉ e.chunks)
    (hcomb : combineAll e o tl.anchor ((walkElems e tl).drop e.part) s tl e.part = (s', tl', k, .done)) (hout : engOut s' e.id = false) :
    exec (.mwalkCombine cl e.id) s = .next
      (if walkChunks e.da e.db n (entryK e) ≤ e.chunks.length + 1 then
        entryDone (updEntry (walkedState s' e tl' k) e fun x => { x with chunks := e.chunks ++ [e.chunk] }) e fun _ => []
      else
        leaveTable (updEntry (walkedState s' e tl' k) e fun x =>
          { x with chunks := e.chunks ++ [e.chunk], chunk := e.chunk + 1, prog := 0, phase := 0, part := 0 }) e.grid e.bidx) := by
  have hfresh : e.chunks.contains e.chunk = false := by simpa using hnew
  have hnone : engOut (updEntry (walkedState s' e tl' k) e fun x => { x with chunks := e.chunks ++ [e.chunk] }) e.id = false := hout
  rw [walkedState] at hnone ⊢
  change execMwalkCombine cl e.id s = _
  simp only [execMwalkCombine, oneEntry_find h hphase, hkind, tileOf_of_tileIs htile, hfresh, Bool.false_eq_true, if_false, hcomb, ge_iff_le,
    List.length_append, List.length_singleton, hnone]

theorem exec_mwalkCombine_chunk {o : WalkOp} {n cl k : Nat} {tl tl' : Tile} (h : OneEntry s cl e) (hphase : e.phase = 2)
    (hkind : e.kind = .mwalk o n) (htile : TileIs s e tl) (hnew : e.chunk ∉ e.chunks)
    (hcomb : combineAll e o tl.anchor ((walkElems e tl).drop e.part) s tl e.part = (s', tl', k, .done)) (h' : OneEntry s' cl e)
    (hout : engOut s' e.id = false) (haside : s'.aside = []) (hruns : blockRuns s' e.grid e.bidx = true) :
    ∃ t, exec (.mwalkCombine cl e.id) s = .next t ∧ t.mem = s'.mem ∧
      (e.chunks.length + 1 < walkChunks e.da e.db n (entryK e) → ∃ e', OneEntry t cl e' ∧ e'.chunks = e.chunks ++ [e.chunk] ∧
        e'.chunk = e.chunk + 1 ∧ e'.phase = 0 ∧ e'.prog = 0 ∧ e'.part = 0) ∧
      (walkChunks e.da e.db n (entryK e) ≤ e.chunks.length + 1 → tget [] t.clusters cl = [] ∧ ∀ p ∈ t.pend, p.kind ≠ .engine e.id) := by
  have hexec := exec_mwalkCombine_eq h hphase hkind htile hnew hcomb hout
  have htab := walkedState_table h' tl' k
  by_cases hlast : walkChunks e.da e.db n (entryK e) ≤ e.chunks.length + 1
  · rw [if_pos hlast] at hexec
    have hone := updEntry_table htab rfl fun x => { x with chunks := e.chunks ++ [e.chunk] }
    obtain ⟨htable, hpend⟩ := entryDone_alone hone rfl haside fun _ => []
    refine ⟨_, hexec, entryDone_mem, fun hmore => absurd hlast (Nat.not_le.2 hmore), fun _ => ⟨?_, hpend⟩⟩
    rw [← h.core]
    exact htable
  · rw [if_neg hlast] at hexec
    let next (x : MEntry) : MEntry := { x with chunks := e.chunks ++ [e.chunk], chunk := e.chunk + 1, prog := 0, phase := 0, part := 0 }
    have hstays : blockRuns (updEntry (walkedState s' e tl' k) e next) e.grid e.bidx = true :=
      setTile_runs (s := updEntry (setTile s' e tl') e fun x => { x with part := k }) (setTile_runs hruns tl') _
    rw [leaveTable_runs hstays] at hexec
    refine ⟨_, hexec, rfl, fun _ => ⟨next { e with part := k }, ⟨h.core, ?_⟩, rfl, rfl, rfl, rfl, rfl⟩, fun hle => absurd hle hlast⟩
    rw [← h.core]
    exact updEntry_table htab rfl next

/- A rebuild (R260). -/

/-- The sixteen entries a rebuild has read. -/
def bookOf (gs : List (Nat × List Byte × Byte)) (va : Nat) : List (BitVec 16) :=
  (List.range 16).map fun c => BitVec.ofNat 16 (leNat (gBytes gs (va + 2 * c) 2))

theorem bookOf_getD {gs : List (Nat × List Byte × Byte)} {va c : Nat} (h : c < 16) :
    ((bookOf gs va).getD c 0).toNat = (gByte gs (va + 2 * c)).toNat + 256 * (gByte gs (va + 2 * c + 1)).toNat := by
  have hget : (bookOf gs va).getD c 0 = BitVec.ofNat 16 (leNat (gBytes gs (va + 2 * c) 2)) := by simp [bookOf, h]
  have hnum : leNat (gBytes gs (va + 2 * c) 2) = (gByte gs (va + 2 * c)).toNat + 256 * (gByte gs (va + 2 * c + 1)).toNat := by
    simp [gBytes, List.range_succ, leNat]
  have := (gByte gs (va + 2 * c)).isLt
  have := (gByte gs (va + 2 * c + 1)).isLt
  rw [hget, hnum, BitVec.toNat_ofNat, Nat.mod_eq_of_lt (by omega)]

theorem exec_codebookRebuild_eq {d : Nat} {r : Rebuild} {gs : List (Nat × List Byte × Byte)}
    (hfirst : s.rebuilds.find? (fun x => x.die == d && x.token.isNone) = some r) (hva : r.va % 32 = 0)
    (hread : engGrans r.by_ r.op true (granRange r.va 32) s = (s, .ok gs)) :
    exec (.codebookRebuild d) s = .next (engDone
      { s.updDie d fun x => { x with codebooks := x.codebooks.set r.slot (bookOf gs r.va) } with
        rebuilds := s.rebuilds.filter fun x => x.op != r.op } r.op fun _ => []) := by
  have haligned : (r.va % 2 ^ 57 % 32 != 0 && r.va < 2 ^ 57) = false := by simp [hva]
  change execCodebookRebuild d s = _
  simp only [execCodebookRebuild, hfirst, haligned, Bool.false_eq_true, if_false, hread]
  rfl

theorem exec_codebookRebuild_done {d : Nat} {r : Rebuild} {gs : List (Nat × List Byte × Byte)}
    (hfirst : s.rebuilds.find? (fun x => x.die == d && x.token.isNone) = some r) (hva : r.va % 32 = 0)
    (hslot : r.slot < (s.die d).codebooks.length) (hread : engGrans r.by_ r.op true (granRange r.va 32) s = (s, .ok gs)) :
    ∃ t book, exec (.codebookRebuild d) s = .next t ∧ t.mem = s.mem ∧ (t.die d).codebooks[r.slot]? = some book ∧ book.length = 16 ∧
      (∀ c < 16, (book.getD c 0).toNat = (gByte gs (r.va + 2 * c)).toNat + 256 * (gByte gs (r.va + 2 * c + 1)).toNat) ∧
      (∀ x ∈ t.rebuilds, x.op ≠ r.op) ∧ ∀ p ∈ t.pend, p.kind ≠ .engine r.op := by
  let u : State := { s.updDie d fun x => { x with codebooks := x.codebooks.set r.slot (bookOf gs r.va) } with
                     rebuilds := s.rebuilds.filter fun x => x.op != r.op }
  have hdie : u.die d = { s.die d with codebooks := (s.die d).codebooks.set r.slot (bookOf gs r.va) } :=
    (State.die_updDie s d d fun x => { x with codebooks := x.codebooks.set r.slot (bookOf gs r.va) }).trans (if_pos rfl)
  obtain ⟨bs, ps, hdone, -⟩ := engDone_onlyResults u r.op fun _ => []
  refine ⟨engDone u r.op fun _ => [], bookOf gs r.va, exec_codebookRebuild_eq hfirst hva hread, engDone_mem, ?_, by simp [bookOf],
    fun _ => bookOf_getD, ?_, (engDone_completed u r.op fun _ => []).2⟩
  · rw [hdone]
    change (u.die d).codebooks[r.slot]? = _
    rw [hdie]
    simp [hslot]
  · rw [hdone]
    intro x hx
    simpa using (List.mem_filter.1 hx).2

/-- Settles O32, clause by clause: a drain's run, a walk's chunk, a rebuild. -/
theorem matrixWritesComplete : Obligations.MatrixWritesComplete :=
  ⟨fun _ _ _ _ _ _ _ _ _ h hphase hkind hrun hloc hp hout haside => exec_drainWritesComplete_done h hphase hkind hrun hloc hp hout haside,
   fun _ _ _ _ _ _ _ _ _ h hphase hkind htile hnew hcomb h' hout haside hruns =>
     exec_mwalkCombine_chunk h hphase hkind htile hnew hcomb h' hout haside hruns,
   fun _ _ _ _ hfirst hva hslot hread => exec_codebookRebuild_done hfirst hva hslot hread⟩

end Sys2Proof.Machine
end

section
/-! SUPPORT. Packed results: what a lane that writes one register and its flags has written, element by element. -/

namespace Sys2Proof.Machine

open Sys2Proof Sys2Proof.Rules

theorem LanesDid.mono {s t : State} {b : Block} {g : Group} {r r' : Member → Thread → Thread → Prop} (h : LanesDid s t b g r)
    (hr : ∀ m x x', r m x x' → r' m x x') : LanesDid s t b g r' := by
  obtain ⟨b', ht, hshell, hw⟩ := h
  exact ⟨b', ht, hshell, hw.mono hr⟩

/-- A register value and flags whose n elements of width w are x, as `Writes` says it of a thread. -/
structure Packs (w n : Nat) (r : Word × BitVec 6) (x : Nat → Int × BitVec 6) : Prop where
  elts  : ∀ k < n, (elt w r.1 k : Int) = (x k).1 % (2 ^ w : Nat)
  above : r.1.toNat < 2 ^ (w * n)
  flags : ∀ j : Nat, r.2.getLsbD j = true ↔ ∃ k < n, (x k).2.getLsbD j = true

/-- A register-only instruction that writes a packed result to vd with its flags. -/
theorem onLanes_writes {s : State} {b : Block} {g : Group} {i : Instr} {w n : Nat} {d : Reg}
    {r : Block → Group → Member → Thread → Word × BitVec 6} {x : Member → Thread → Nat → Int × BitVec 6} (h : Issuing s b g i)
    (hr : ∀ m th, Packs w n (r b g m th) (x m th)) :
    ∃ t, onLanes i s (fun b g m th => putReg d (r b g m th) th) = .next t ∧
      LanesDid s t b g fun m th th' => Writes w n d (x m th) th th' := by
  obtain ⟨t, ht, hl⟩ := onLanes_did h (fun b g m th => putReg d (r b g m th) th) fun _ _ => rfl
  exact ⟨t, ht, hl.mono fun m th th' hc => ⟨_, _, (hr m th).elts, (hr m th).above, (hr m th).flags, hc⟩⟩

theorem getLsbD_foldl_or (f : Nat → BitVec 6) (j : Nat) : ∀ (l : List Nat) (a : BitVec 6),
    (l.foldl (fun acc k => acc ||| f k) a).getLsbD j = true ↔ a.getLsbD j = true ∨ ∃ k ∈ l, (f k).getLsbD j = true
  | [], a => by simp
  | k :: l, a => by rw [List.foldl_cons, getLsbD_foldl_or f j l]; simp [or_assoc]

theorem wrap_cast (w : Nat) (x : Int) : (wrap w x : Int) = x % (2 ^ w : Nat) :=
  Int.toNat_of_nonneg (Int.emod_nonneg x (by positivity))

theorem elt_lt (w : Nat) (v : Word) (k : Nat) : elt w v k < 2 ^ w := Nat.mod_lt _ (by positivity)

theorem elt_pack_wrap {w k : Nat} (hw : w * (64 / w) = 64) (hk : k < 64 / w) (f : Nat → Int) :
    (elt w (pack w fun i => wrap w (f i)) k : Int) = f k % (2 ^ w : Nat) := by
  rw [elt_pack w _ k hw hk, wrap_mod, wrap_cast]

/-- Two element functions give the same element and flags for all elements of width w. -/
def SameElt (w : Nat) (f f' : Nat → Nat → Int × BitVec 6) : Prop :=
  ∀ x y, x < 2 ^ w → y < 2 ^ w → (f x y).1 % (2 ^ w : Nat) = (f' x y).1 % (2 ^ w : Nat) ∧ (f x y).2 = (f' x y).2

theorem SameElt.of_eq {w : Nat} {f f' : Nat → Nat → Int × BitVec 6} (h : ∀ x y, x < 2 ^ w → y < 2 ^ w → f x y = f' x y) : SameElt w f f' :=
  fun x y hx hy => by rw [h x y hx hy]; exact ⟨rfl, rfl⟩

theorem mapEl_packs {w : Nat} (hw : w * (64 / w) = 64) {f f' : Nat → Nat → Int × BitVec 6} (h : SameElt w f f') (x y : Word) :
    Packs w (64 / w) (mapEl w f x y) fun k => f' (elt w x k) (elt w y k) where
  elts k hk := (elt_pack_wrap hw hk _).trans (h _ _ (elt_lt ..) (elt_lt ..)).1
  above := by rw [hw]; exact BitVec.isLt _
  flags j := by
    rw [mapEl, getLsbD_foldl_or]
    simp [(h _ _ (elt_lt ..) (elt_lt ..)).2]

/-- A packed two-operand instruction writes what its element function gives (R165). -/
theorem intOp_writes {s : State} {b : Block} {g : Group} {i : Instr} {w : Nat} {f f' : Nat → Nat → Int × BitVec 6} (h : Issuing s b g i)
    (hw : w * (64 / w) = 64) (hf : SameElt w f f') (d a c : Reg) (l : BitVec 3) :
    ∃ t, intOp i f w d a c l s = .next t ∧ LanesDid s t b g fun m th th' =>
      Writes w (64 / w) d (fun k => f' (elt w (th.reg a) k) (elt w (vbOf b g m th l c) k)) th th' :=
  onLanes_writes h fun _ _ => mapEl_packs hw hf _ _

end Sys2Proof.Machine
end

section
/-! PROOFS. The elementwise integer instructions and CMPM (O1). -/

namespace Sys2Proof.Machine

open Sys2Proof Sys2Proof.Rules

/- The model's signed reading, saturation and rounding shift are the rules' (R9, R166, R168). -/

theorem sgn_eq {w : Nat} (hw : 0 < w) (x : Nat) : sgn w x = s_ w x := by
  obtain ⟨n, rfl⟩ : ∃ n, w = n + 1 := ⟨w - 1, by omega⟩
  have h2 : 2 ^ (n + 1) = 2 * 2 ^ n := by rw [pow_succ, mul_comm]
  simp only [sgn, s_, Nat.add_sub_cancel, h2]
  exact if_congr (by omega) rfl rfl

theorem intBits_pos (w : IntW) : 0 < intBits w := by cases w <;> decide

@[simp] theorem sgn_intBits (w : IntW) (x : Nat) : sgn (intBits w) x = s_ (intBits w) x := sgn_eq (intBits_pos w) x

theorem satFlag_clamp {lo p : Int} (h : lo < p) (x : Int) :
    satFlag (if x < lo then (lo, true) else if x ≥ p then (p - 1, true) else (x, false)) = clampTo lo (p - 1) x := by
  unfold clampTo
  by_cases hlo : x < lo
  · rw [if_pos hlo, if_neg (by omega), min_eq_right (by omega), max_eq_left (by omega)]
    rfl
  · by_cases hhi : x ≥ p
    · rw [if_neg hlo, if_pos hhi, if_neg (by omega), min_eq_left (by omega), max_eq_right (by omega)]
      rfl
    · rw [if_neg hlo, if_neg hhi, if_pos (by omega), min_eq_right (by omega), max_eq_right (by omega)]
      rfl

@[simp] theorem satFlag_satS (w : Nat) (x : Int) : satFlag (satS w x) = sat_ w x := by
  have hp : (0 : Int) < ((2 ^ (w - 1) : Nat) : Int) := by positivity
  exact satFlag_clamp (by omega) x

@[simp] theorem satFlag_satU (w : Nat) (x : Int) : satFlag (satU w x) = satu_ w x :=
  satFlag_clamp (by positivity) x

theorem rshrBy_eq (x : Int) (n : Nat) : rshrBy x n = rshr_ x n := by
  simp only [rshrBy, rshr_, beq_iff_eq]

theorem condEl_eq (w : IntW) (c : Cond) (x y : Nat) : condEl (intBits w) c x y = holds_ (intBits w) c x y := by
  cases c <;> simp [condEl, holds_, bne, beq_eq_decide]

/-- A rotation's two parts share no bit. -/
theorem rol_or {w x r : Nat} (hx : x < 2 ^ w) (hr : r < w) : x <<< r ||| x >>> (w - r) = x * 2 ^ r + x / 2 ^ (w - r) := by
  have hsplit : 2 ^ w = 2 ^ r * 2 ^ (w - r) := by rw [← pow_add]; congr 1; omega
  have hlow : x / 2 ^ (w - r) < 2 ^ r := Nat.div_lt_of_lt_mul (by rwa [mul_comm, ← hsplit])
  rw [Nat.shiftRight_eq_div_pow, Nat.shiftLeft_eq, mul_comm, Nat.two_pow_add_eq_or_of_lt hlow]

/- The element functions that are not the rule's own expression (R166). -/

theorem remEl_eq (w x y : Nat) (hw : 0 < w) :
    remEl w x y = if y = 0 then ((x : Int), 8) else (s_ w x - s_ w y * (s_ w x).tdiv (s_ w y), 0) := by
  simp only [remEl, sgn_eq hw, beq_iff_eq, Int.tmod_def]
  rfl

theorem remuEl_eq (x y : Nat) : remuEl x y = if y = 0 then ((x : Int), 8) else ((x : Int) - y * (x / y : Nat), 0) := by
  have h : ((x % y : Nat) : Int) = (x : Int) - y * (x / y : Nat) := by
    have := Nat.div_add_mod x y
    have := congrArg (Nat.cast (R := Int)) this
    push_cast at this ⊢
    omega
  simp only [remuEl, beq_iff_eq, h]
  rfl

theorem s_emod (w x : Nat) : s_ w x % (2 ^ w : Nat) = x % (2 ^ w : Nat) := by
  unfold s_
  split
  · rfl
  · exact Int.sub_emod_right ..

theorem minEl_same (w : IntW) :
    SameElt (intBits w) (minEl (intBits w)) fun x y => (if s_ (intBits w) x ≤ s_ (intBits w) y then x else y, 0) := by
  refine fun x y _ _ => ⟨?_, rfl⟩
  simp only [minEl, sgn_intBits, min_def]
  split <;> exact s_emod ..

theorem maxEl_same (w : IntW) :
    SameElt (intBits w) (maxEl (intBits w)) fun x y => (if s_ (intBits w) x ≤ s_ (intBits w) y then y else x, 0) := by
  refine fun x y _ _ => ⟨?_, rfl⟩
  simp only [maxEl, sgn_intBits, max_def]
  split <;> exact s_emod ..

/-- Every elementwise instruction is a packed two-operand instruction whose element function is the rule's (R166, R168, R174). -/
theorem exec_packedInt {i : Instr} {w : IntW} {d a c : Reg} {l : BitVec 3} {f : Nat → Nat → Nat → Int × BitVec 6}
    (h : packedInt i = some (w, d, a, c, l, f)) (s : State) :
    ∃ f', exec i s = intOp i f' (intBits w) d a c l s ∧ SameElt (intBits w) f' (f (intBits w)) := by
  cases i <;> cases h
  case add | sub | mul => exact ⟨_, rfl, .of_eq fun _ _ _ _ => rfl⟩
  case mulh => exact ⟨mulhEl (intBits w), rfl, .of_eq fun x y _ _ => by simp only [mulhEl, sgn_intBits]⟩
  case mulhu => exact ⟨mulhuEl (intBits w), rfl, .of_eq fun x y _ _ => by simp [mulhuEl]⟩
  case div => exact ⟨divEl (intBits w), rfl, .of_eq fun x y _ _ => by simp [divEl, fDZ]⟩
  case divu => exact ⟨divuEl, rfl, .of_eq fun x y _ _ => by simp [divuEl, fDZ]⟩
  case rem => exact ⟨remEl (intBits w), rfl, .of_eq fun x y _ _ => remEl_eq _ x y (intBits_pos w)⟩
  case remu => exact ⟨remuEl, rfl, .of_eq fun x y _ _ => remuEl_eq x y⟩
  case shl => exact ⟨shlEl (intBits w), rfl, .of_eq fun x y _ _ => by simp [shlEl, Nat.shiftLeft_eq]⟩
  case shr => exact ⟨shrEl (intBits w), rfl, .of_eq fun x y _ _ => by simp [shrEl, Nat.shiftRight_eq_div_pow]⟩
  case sra => exact ⟨sraEl (intBits w), rfl, .of_eq fun x y _ _ => by simp only [sraEl, sgn_intBits]⟩
  case rol =>
    exact ⟨rolEl (intBits w), rfl, .of_eq fun x y hx _ => by simp [rolEl, rol_or hx (Nat.mod_lt y (intBits_pos w))]⟩
  case min => exact ⟨_, rfl, minEl_same w⟩
  case max => exact ⟨_, rfl, maxEl_same w⟩
  case minu => exact ⟨minuEl, rfl, .of_eq fun x y _ _ => by simp [minuEl, min_def]⟩
  case maxu => exact ⟨maxuEl, rfl, .of_eq fun x y _ _ => by simp [maxuEl, max_def]⟩
  case abs =>
    exact ⟨fun x _ => ((sgn (intBits w) x).natAbs, 0), rfl, .of_eq fun x _ _ _ => by
      simp only [sgn_intBits]
      congr 1
      split <;> omega⟩
  case neg => exact ⟨fun x _ => (-(x : Int), 0), rfl, .of_eq fun _ _ _ _ => rfl⟩
  case adds => exact ⟨addsEl (intBits w), rfl, .of_eq fun x y _ _ => by simp only [addsEl, sgn_intBits, satFlag_satS]⟩
  case subs => exact ⟨subsEl (intBits w), rfl, .of_eq fun x y _ _ => by simp only [subsEl, sgn_intBits, satFlag_satS]⟩
  case addus => exact ⟨addusEl (intBits w), rfl, .of_eq fun x y _ _ => satFlag_satU ..⟩
  case subus => exact ⟨subusEl (intBits w), rfl, .of_eq fun x y _ _ => satFlag_satU ..⟩
  case rshr => exact ⟨rshrEl (intBits w), rfl, .of_eq fun x y _ _ => by simp only [rshrEl, sgn_intBits, rshrBy_eq]⟩
  case rshrs =>
    exact ⟨rshrsEl (intBits w), rfl, .of_eq fun x y _ _ => by simp only [rshrsEl, sgn_intBits, rshrBy_eq, satFlag_satS, ge_iff_le]⟩
  case qmulr => exact ⟨qmulrEl (intBits w), rfl, .of_eq fun x y _ _ => by simp only [qmulrEl, sgn_intBits, satFlag_satS]⟩
  case cmpm => exact ⟨_, rfl, .of_eq fun x y _ _ => by simp only [condEl_eq]⟩

/-- Settles O1: every such instruction is a packed two-operand instruction (`exec_packedInt`), which writes what its element function gives. -/
theorem packedIntegerResult : Obligations.PackedIntegerResult := by
  intro s b g i w d a c l f hi h
  obtain ⟨f', hexec, hsame⟩ := exec_packedInt hi s
  rw [hexec]
  exact intOp_writes h (intBits_mul w) hsame d a c l

end Sys2Proof.Machine
end

section
/-! PROOFS. Bit counts and bit fields (O3). -/

namespace Sys2Proof.Machine

open Sys2Proof Sys2Proof.Rules

/- Counting forms (R172). -/

theorem bitAt_eq (x i : Nat) : bitAt x i = x.testBit i := Nat.testBit_eq_decide_div_mod_eq.symm

theorem bitOf_eq (x i : Nat) : bitOf x i = x.testBit i := by
  rw [bitOf, Nat.testBit_eq_decide_div_mod_eq, Nat.shiftRight_eq_div_pow, beq_eq_decide]

theorem popcN_eq (x : Nat) : ∀ n, popcN x n = ((List.range n).filter (bitAt x)).length
  | 0 => rfl
  | n + 1 => by
    rw [popcN, popcN_eq x n, List.range_succ, List.filter_append, List.length_append, bitOf_eq, Nat.add_comm]
    cases hb : x.testBit n <;> simp [bitAt_eq, hb, b2n]

theorem clzN_leads {w x : Nat} (hx : x < 2 ^ w) : leadsWith w x (clzN w x) := by
  unfold clzN
  by_cases h0 : x = 0
  · simp [h0, leadsWith]
  · have hlog : x.log2 < w := (Nat.log2_lt h0).2 hx
    have hlt : x < 2 ^ (x.log2 + 1) := Nat.lt_log2_self
    have hle : 2 ^ x.log2 ≤ x := Nat.log2_self_le h0
    have hsub : w - (w - 1 - x.log2) = x.log2 + 1 := by omega
    rw [if_neg (by simpa using h0), leadsWith, hsub, Nat.add_sub_cancel]
    exact ⟨by omega, hlt, fun _ => hle⟩

/-- Bit i decides whether the next power divides. -/
theorem testBit_iff_dvd {x i : Nat} (h : 2 ^ i ∣ x) : x.testBit i = true ↔ ¬ 2 ^ (i + 1) ∣ x := by
  obtain ⟨y, rfl⟩ := h
  rw [pow_succ, Nat.mul_dvd_mul_iff_left (by positivity), Nat.testBit_eq_decide_div_mod_eq, Nat.mul_div_cancel_left _ (by positivity)]
  simp only [decide_eq_true_eq]
  omega

theorem ctzN_ends (x : Nat) : ∀ n i, 2 ^ i ∣ x → endsWith (i + n) x (ctzN x n i)
  | 0, i, h => ⟨le_rfl, h, fun hlt => absurd hlt (lt_irrefl i)⟩
  | n + 1, i, h => by
    rw [ctzN, bitOf_eq]
    split
    case isTrue hb => exact ⟨by omega, h, fun _ => (testBit_iff_dvd h).1 hb⟩
    case isFalse hb =>
      rw [show i + (n + 1) = i + 1 + n by omega]
      exact ctzN_ends x n (i + 1) (by simpa [testBit_iff_dvd h] using hb)

theorem brevN_lt (x n : Nat) : brevN x n < 2 ^ n := by
  induction n generalizing x with
  | zero => simp [brevN]
  | succ n ih =>
    have hlow := ih (x / 2)
    have hbit : x % 2 ≤ 1 := by omega
    have htop : x % 2 * 2 ^ n ≤ 1 * 2 ^ n := Nat.mul_le_mul_right _ hbit
    rw [brevN, Nat.shiftLeft_eq, pow_succ]
    omega

theorem brevN_bit (n : Nat) : ∀ x i, i < n → (brevN x n).testBit i = x.testBit (n - 1 - i) := by
  induction n with
  | zero => exact fun _ _ h => absurd h (Nat.not_lt_zero _)
  | succ n ih =>
    intro x i hi
    rw [brevN, Nat.shiftLeft_eq, Nat.add_comm, mul_comm, Nat.testBit_two_pow_mul_add _ (brevN_lt _ _)]
    by_cases hin : i < n
    · rw [if_pos hin, ih _ _ hin, Nat.testBit_div_two, show n - 1 - i + 1 = n + 1 - 1 - i by omega]
    · obtain rfl : i = n := by omega
      simp [Nat.testBit_zero]

/-- A counting form writes vd, each element as its count says of the element of va. -/
theorem countOp_sets {s : State} {b : Block} {g : Group} {i : Instr} {w : Nat} {f : Nat → Nat} {r : Nat → Nat → Prop} (h : Issuing s b g i)
    (hw : w * (64 / w) = 64) (hlt : ∀ x < 2 ^ w, f x < 2 ^ w) (hr : ∀ x < 2 ^ w, r x (f x)) (d a : Reg) :
    ∃ t, countOp i f w d a s = .next t ∧ LanesDid s t b g fun _ th th' => ∃ v, SetsReg d v th th' ∧
      ∀ k < 64 / w, r (elt w (th.reg a) k) (elt w v k) := by
  obtain ⟨t, ht, hl⟩ := onLanes_did h (fun _ _ _ th => th.setReg d (pack w fun j => f (elt w (th.reg a) j))) fun _ _ => rfl
  refine ⟨t, ht, hl.mono fun _ th th' hc => ⟨_, hc, fun k hk => ?_⟩⟩
  rw [elt_pack w _ k hw hk, Nat.mod_eq_of_lt (hlt _ (elt_lt ..))]
  exact hr _ (elt_lt ..)

theorem exec_counting {i : Instr} {w : IntW} {d a : Reg} {r : Nat → Nat → Nat → Prop} (h : counting i = some (w, d, a, r)) (s : State) :
    ∃ f, exec i s = countOp i f (intBits w) d a s ∧ (∀ x < 2 ^ intBits w, f x < 2 ^ intBits w) ∧
      ∀ x < 2 ^ intBits w, r (intBits w) x (f x) := by
  have hself : ∀ {n}, n ≤ intBits w → n < 2 ^ intBits w := fun hn => lt_of_le_of_lt hn Nat.lt_two_pow_self
  cases i <;> cases h
  case popc =>
    refine ⟨fun x => popcN x (intBits w), rfl, fun x _ => hself ?_, fun x _ => popcN_eq x _⟩
    exact (popcN_eq x _).le.trans ((List.length_filter_le ..).trans_eq List.length_range)
  case clz => exact ⟨clzN (intBits w), rfl, fun x hx => hself (clzN_leads hx).1, fun x hx => clzN_leads hx⟩
  case ctz =>
    have hends (x : Nat) : endsWith (intBits w) x (ctzN x (intBits w) 0) := by
      simpa only [Nat.zero_add] using ctzN_ends x (intBits w) 0 (by simp)
    exact ⟨fun x => ctzN x (intBits w) 0, rfl, fun x _ => hself (hends x).1, fun x _ => hends x⟩
  case brev =>
    refine ⟨fun x => brevN x (intBits w), rfl, fun x _ => brevN_lt x _, fun x _ i hi => ?_⟩
    rw [bitAt_eq, bitAt_eq, brevN_bit _ x i hi]

/- Bit fields (R173). -/

theorem fieldPos_eq (y : Word) : fieldPos y = pos_ y := by simp [fieldPos, bits, pos_]

theorem fieldLen_eq (y : Word) : fieldLen y = len_ y := by
  simp [fieldLen, bits, len_, fieldPos_eq, Nat.shiftRight_eq_div_pow]

theorem len_le (y : Word) : pos_ y + len_ y ≤ 64 := by
  have : pos_ y < 64 := Nat.mod_lt _ (by decide)
  unfold len_
  omega

theorem fieldStray_iff (y : Word) : fieldStray y = true ↔ stray_ y := by
  have hmask : ∀ i < 64, (~~~0x7F3F#64).getLsbD i = decide (¬ i < 6 ∧ ¬ (8 ≤ i ∧ i < 15)) := by decide
  rw [fieldStray, bne_iff_ne, stray_, ← not_iff_not, not_not, not_exists]
  constructor
  · intro h i ⟨hi, hy, hfree⟩
    have hbit := congrArg (fun v : Word => v.getLsbD i) h
    rw [BitVec.getLsbD_and, hmask i hi, hy] at hbit
    simp [hfree] at hbit
  · intro h
    refine BitVec.eq_of_getLsbD_eq fun i hi => ?_
    rw [BitVec.getLsbD_and, hmask i hi]
    have := h i
    cases hy : y.getLsbD i <;> simp_all

theorem bfxVal_toNat (x y : Word) : (bfxVal x y).toNat = x.toNat / 2 ^ pos_ y % 2 ^ len_ y := by
  have hlt : x.toNat / 2 ^ pos_ y % 2 ^ len_ y < 2 ^ 64 :=
    ((Nat.mod_le _ _).trans (Nat.div_le_self _ _)).trans_lt x.isLt
  rw [bfxVal, fieldPos_eq, fieldLen_eq, Nat.shiftRight_eq_div_pow, BitVec.toNat_ofNat, Nat.mod_eq_of_lt hlt]

/-- A signed reading of at most 64 bits is a word's. -/
theorem toInt_ofInt_s_ {n x : Nat} (hn : n ≤ 64) (hx : x < 2 ^ n) : (BitVec.ofInt 64 (s_ n x)).toInt = s_ n x := by
  have hpow : 2 ^ n ≤ 18446744073709551616 := Nat.pow_le_pow_right (i := n) (j := 64) (by decide) hn
  have hrange : -9223372036854775808 ≤ s_ n x ∧ s_ n x < 9223372036854775808 := by
    unfold s_
    split <;> constructor <;> omega
  rw [BitVec.toInt_ofInt, Int.bmod_eq_of_le] <;> omega

theorem bfxsVal_toInt (x y : Word) :
    (bfxsVal x y).toInt = if len_ y = 0 then 0 else s_ (len_ y) (x.toNat / 2 ^ pos_ y % 2 ^ len_ y) := by
  rw [bfxsVal, fieldPos_eq, fieldLen_eq, Nat.shiftRight_eq_div_pow]
  by_cases h0 : len_ y = 0
  · simp [h0]
  · have hlen := len_le y
    rw [if_neg (by simpa using h0), if_neg h0, sgn_eq (by omega)]
    exact toInt_ofInt_s_ (by omega) (Nat.mod_lt _ (by positivity))

theorem bfiVal_bit (o x y : Word) {i : Nat} (hi : i < 64) :
    (bfiVal o x y).getLsbD i = if pos_ y ≤ i ∧ i < pos_ y + len_ y then x.getLsbD (i - pos_ y) else o.getLsbD i := by
  have hmask : (BitVec.ofNat 64 ((2 ^ len_ y - 1) <<< pos_ y)).getLsbD i = decide (pos_ y ≤ i ∧ i < pos_ y + len_ y) := by
    rw [BitVec.getLsbD_ofNat, Nat.testBit_shiftLeft, Nat.testBit_two_pow_sub_one]
    by_cases hp : pos_ y ≤ i <;> simp [hi, hp]
    omega
  rw [bfiVal, fieldPos_eq, fieldLen_eq]
  simp only [BitVec.getLsbD_or, BitVec.getLsbD_and, BitVec.getLsbD_not, BitVec.getLsbD_shiftLeft, hmask]
  by_cases hin : pos_ y ≤ i ∧ i < pos_ y + len_ y
  · simp [hin, hi, Nat.not_lt.2 hin.1]
  · simp [hin, hi]

theorem exec_bitField {i : Instr} {d a c : Reg} {r : Word → Word → Word → Word → Prop} (h : bitField i = some (d, a, c, r)) (s : State) :
    ∃ v : Word → Word → Word → Word, (∀ x y o, r x y o (v x y o)) ∧ exec i s = onLanes i s fun _ _ _ th =>
      if fieldStray (th.reg c) then th.setFlags fNV else th.setReg d (v (th.reg a) (th.reg c) (th.reg d)) := by
  cases i <;> cases h
  case bfx => exact ⟨fun x y _ => bfxVal x y, fun x y _ => bfxVal_toNat x y, rfl⟩
  case bfxS => exact ⟨fun x y _ => bfxsVal x y, fun x y _ => bfxsVal_toInt x y, rfl⟩
  case bfi => exact ⟨fun x y o => bfiVal o x y, fun x y o i hi => bfiVal_bit o x y hi, rfl⟩

/-- Settles O3: the counting forms by `countOp_sets`, the bit fields by `fieldStray_iff` and what each gives where no bit is stray. -/
theorem countAndFieldResult : Obligations.CountAndFieldResult := by
  refine ⟨fun s b g i w d a r hi h => ?_, fun s b g i d a c r hi h => ?_⟩
  · obtain ⟨f, hexec, hlt, hr⟩ := exec_counting hi s
    rw [hexec]
    exact countOp_sets h (intBits_mul w) hlt hr d a
  · obtain ⟨v, hv, hexec⟩ := exec_bitField hi s
    rw [hexec]
    obtain ⟨t, ht, hl⟩ := onLanes_did h
      (fun _ _ _ th => if fieldStray (th.reg c) then th.setFlags fNV else th.setReg d (v (th.reg a) (th.reg c) (th.reg d)))
      fun _ _ => by split <;> rfl
    refine ⟨t, ht, hl.mono fun _ th th' hc => ⟨fun hs => ?_, fun hs => ⟨_, ?_, hv ..⟩⟩⟩
    · rwa [if_pos ((fieldStray_iff _).2 hs)] at hc
    · rwa [if_neg (mt (fieldStray_iff _).1 hs)] at hc

end Sys2Proof.Machine
end

section
/-! PROOFS. DOT2S, DOT4S and NRWS (O4). -/

namespace Sys2Proof.Machine

open Sys2Proof Sys2Proof.Rules

theorem sat_eq (w : Nat) (x : Int) : sat_ w x = ((satS w x).1, flagIf (satS w x).2 fSAT) := (satFlag_satS w x).symm

theorem flagIf_getLsbD (c : Bool) (f : BitVec 6) (j : Nat) : (flagIf c f).getLsbD j = true ↔ c = true ∧ f.getLsbD j = true := by
  cases c <;> simp [flagIf]

/-- Saturated elements packed, SAT set where some element clamps. -/
theorem saturated_packs {w n : Nat} (hw : w * (64 / w) = 64) (hn : 64 / w = n) (e : Nat → Int) {c : Bool}
    (hc : c = true ↔ ∃ k < n, (satS w (e k)).2 = true) :
    Packs w n (pack w fun i => wrap w (satS w (e i)).1, flagIf c fSAT) fun k => sat_ w (e k) where
  elts k hk := by
    rw [sat_eq]
    exact elt_pack_wrap hw (hn ▸ hk) _
  above := by
    rw [← hn, hw]
    exact BitVec.isLt _
  flags j := by
    simp only [sat_eq, flagIf_getLsbD, hc]
    exact ⟨fun ⟨⟨k, hk, hs⟩, hj⟩ => ⟨k, hk, hs, hj⟩, fun ⟨k, hk, hs, hj⟩ => ⟨⟨k, hk, hs⟩, hj⟩⟩

theorem dotWord_packs {w : Nat} (hw : 0 < w) (acc x y : Word) :
    Packs 32 2 (dotWord w acc x y) fun i => sat_ 32 (s_ 32 (elt 32 acc i) +
      ((List.range (32 / w)).map fun j => s_ w (elt w x (32 / w * i + j)) * s_ w (elt w y (32 / w * i + j))).sum) := by
  simp only [← sgn_eq hw, ← sgn_eq (w := 32) (by decide)]
  refine saturated_packs (by decide) (by decide) _ ?_
  simp only [Nat.exists_lt_succ_right, Nat.not_lt_zero, false_and, exists_false, false_or, Bool.or_eq_true]

theorem nrwsWord_packs (w : IntW) (x y : Word) :
    Packs (intBits w / 2) (2 * (64 / intBits w)) (nrwsWord (intBits w) x y) fun k => sat_ (intBits w / 2)
      (s_ (intBits w) (if k < 64 / intBits w then elt (intBits w) x k else elt (intBits w) y (k - 64 / intBits w))) := by
  simp only [← sgn_intBits]
  refine saturated_packs (by cases w <;> decide) (by cases w <;> decide) _ ?_
  simp

theorem exec_gathered {i : Instr} {w n : Nat} {d a c : Reg} {l : BitVec 3} {f : Word → Word → Word → Nat → Int × BitVec 6}
    (h : gathered i = some (w, n, d, a, c, l, f)) (s : State) :
    ∃ r : Word → Word → Word → Word × BitVec 6, (∀ x y o, Packs w n (r x y o) (f x y o)) ∧
      exec i s = onLanes i s fun b g m th => putReg d (r (th.reg a) (vbOf b g m th l c) (th.reg d)) th := by
  cases i <;> cases h
  case dot2s =>
    refine ⟨fun x y o => dotWord 16 o x y, fun x y o => ?_, rfl⟩
    simpa [List.range_succ, add_assoc] using dotWord_packs (w := 16) (by decide) o x y
  case dot4s =>
    refine ⟨fun x y o => dotWord 8 o x y, fun x y o => ?_, rfl⟩
    simpa [List.range_succ, add_assoc] using dotWord_packs (w := 8) (by decide) o x y
  case nrws w => exact ⟨fun x y _ => nrwsWord (intBits w) x y, fun x y _ => nrwsWord_packs w x y, rfl⟩

/-- Settles O4: each instruction writes a packed, saturated result (`exec_gathered`). -/
theorem dotAndNarrowResult : Obligations.DotAndNarrowResult := by
  intro s b g i w n d a c l f hi h
  obtain ⟨r, hr, hexec⟩ := exec_gathered hi s
  rw [hexec]
  exact onLanes_writes h fun _ _ => hr ..

end Sys2Proof.Machine
end

section
/-! PROOFS. CMP, FCMP and the predicate instructions (O5). -/

namespace Sys2Proof.Machine

open Sys2Proof Sys2Proof.Rules

theorem Thread.setFlags_zero (th : Thread) : th.setFlags 0 = th := by
  rw [Thread.setFlags, show th.tstat ||| 0 = th.tstat from BitVec.or_zero]

theorem elt_zero (w : Nat) (v : Word) : elt w v 0 = v.toNat % 2 ^ w := rfl

theorem cmp_eq (f : FFmt) (c : FCond) (x y : Nat) : f.cmp c x y = fholds_ f c x y := by
  cases c <;> rfl

theorem Thread.setPred_seven (th : Thread) (v : Bool) : th.setPred 7 v = th := rfl

/-- The bit that a write of predicate p other than p7 changes. -/
theorem Thread.setPred_getLsbD (th : Thread) {p q : BitVec 3} (hp : p ≠ 7) (hq : q ≠ 7) (v : Bool) :
    (th.setPred p v).preds.getLsbD q.toNat = if q = p then v else th.preds.getLsbD q.toNat := by
  have hlt : q.toNat < 7 := by
    have := q.isLt
    have : q.toNat ≠ 7 := fun e => hq (BitVec.eq_of_toNat_eq e)
    omega
  have hbit : ∀ p q : BitVec 3, q ≠ 7 → ((1 : BitVec 7) <<< p.toNat).getLsbD q.toNat = decide (q = p) := by decide
  rw [Thread.setPred, if_neg (mt beq_iff_eq.1 hp)]
  cases v
  · simp only [Bool.false_eq_true, if_false, BitVec.getLsbD_and, BitVec.getLsbD_not, hbit p q hq, hlt]
    by_cases hqp : q = p <;> simp [hqp]
  · simp only [if_true, BitVec.getLsbD_or, hbit p q hq]
    by_cases hqp : q = p <;> simp [hqp]

/-- A predicate read after a write: p7 reads true and discards (R34, R174, R177). -/
theorem Thread.pred_setPred (th : Thread) (p q : BitVec 3) (v : Bool) :
    (th.setPred p v).pred q = if q = p ∧ p ≠ 7 then v else th.pred q := by
  by_cases hp : p = 7
  · rw [hp, Thread.setPred_seven, if_neg fun h => h.2 rfl]
  · by_cases hq : q = 7
    · rw [if_neg fun h : q = p ∧ p ≠ 7 => hp (h.1 ▸ hq), hq]
      rfl
    · rw [Thread.pred, Thread.pred, beq_false_of_ne hq, Bool.false_or, Bool.false_or, Thread.setPred_getLsbD th hp hq]
      exact if_congr (and_iff_left hp).symm rfl rfl

/-- An instruction that sets one predicate and flags, and nothing else. -/
theorem onLanes_setsPred {s : State} {b : Block} {g : Group} {i : Instr} (h : Issuing s b g i)
    (f : Block → Group → Member → Thread → BitVec 3 × Bool × BitVec 6) :
    ∃ t, (onLanes i s fun b g m th => (th.setPred (f b g m th).1 (f b g m th).2.1).setFlags (f b g m th).2.2) = .next t ∧
      LanesDid s t b g fun m th th' => SetsPred (f b g m th).1 (f b g m th).2.1 (th.setFlags (f b g m th).2.2) th' := by
  obtain ⟨t, ht, hl⟩ := onLanes_did h (fun b g m th => (th.setPred (f b g m th).1 (f b g m th).2.1).setFlags (f b g m th).2.2)
    fun _ _ => by simp
  refine ⟨t, ht, hl.mono fun m th th' hc => ⟨fun q => ?_, ?_⟩⟩
  · have hpreds := congrArg (fun x : Thread => x.pred q) hc
    exact Eq.trans hpreds (Thread.pred_setPred th (f b g m th).1 q (f b g m th).2.1)
  · have := congrArg (fun x : Thread => ({ x with preds := th.preds } : Thread)) hc
    refine Eq.trans (b := _) this ?_
    unfold Thread.setPred
    split <;> rfl

theorem exec_predicated {i : Instr} {f : Block → Group → Member → Thread → BitVec 3 × Bool × BitVec 6} (h : predicated i = some f)
    (s : State) :
    exec i s = onLanes i s fun b g m th => (th.setPred (f b g m th).1 (f b g m th).2.1).setFlags (f b g m th).2.2 := by
  cases i <;> cases h
  case fcmp =>
    simp only [← elt_zero, ← cmp_eq]
    rfl
  case cmp =>
    simp only [Thread.setFlags_zero, ← elt_zero, ← condEl_eq]
    rfl
  case pand | por | pxor | pnot | pmov =>
    simp only [Thread.setFlags_zero]
    rfl

/-- Settles O5: each instruction sets one predicate and flags (`exec_predicated`). -/
theorem predicateResult : Obligations.PredicateResult := by
  intro s b g i f hi h
  rw [exec_predicated hi s]
  exact onLanes_setsPred h f

end Sys2Proof.Machine
end

section
/-! SUPPORT. Translation reads nothing of the blocks and the numbers that an instruction's own progress changes (R62 to R66). The parts of the
state it reads are stated by `(rfl)`, so that simp rewrites them in the decisions of the conditions too. -/

namespace Sys2Proof.Machine

open Sys2Proof Sys2Proof.Rules

/-- The state with other blocks and another next number. -/
def State.withRun (s : State) (bs : List Block) (n : Nat) : State := { s with blocks := bs, nextId := n }

variable (s : State) (bs : List Block) (n : Nat)

@[simp] theorem State.withRun_die (d : Nat) : (s.withRun bs n).die d = s.die d := (rfl)
@[simp] theorem State.withRun_mem : (s.withRun bs n).mem = s.mem := (rfl)
@[simp] theorem State.withRun_pkg : (s.withRun bs n).pkg = s.pkg := (rfl)
@[simp] theorem State.withRun_aliases : (s.withRun bs n).aliases = s.aliases := (rfl)
@[simp] theorem State.withRun_ringOf : (s.withRun bs n).ringOf = s.ringOf := (rfl)
@[simp] theorem jobRoot_withRun (j : Nat) : jobRoot (s.withRun bs n) j = jobRoot s j := (rfl)
@[simp] theorem rootAt_withRun (j : Nat) : rootAt (s.withRun bs n) j = rootAt s j := (rfl)
@[simp] theorem jobPkgs_withRun (j : Nat) : jobPkgs (s.withRun bs n) j = jobPkgs s j := (rfl)
@[simp] theorem aliasOf_withRun (j p : Nat) : aliasOf (s.withRun bs n) j p = aliasOf s j p := (rfl)
@[simp] theorem atDirectory_withRun (j va : Nat) : atDirectory (s.withRun bs n) j va = atDirectory s j va := (rfl)
@[simp] theorem directoryOf_withRun (j va : Nat) : directoryOf (s.withRun bs n) j va = directoryOf s j va := (rfl)
@[simp] theorem pteRes_withRun (e : Word) (va : Nat) (w u : Bool) : pteRes (s.withRun bs n) e va w u = pteRes s e va w u := (rfl)

theorem takeFrame_withRun (ring : Ring) :
    takeFrame (s.withRun bs n) ring = (takeFrame s ring).map fun x => (x.1, x.2.withRun bs n) := by
  simp only [takeFrame, State.withRun_mem]
  split_ifs <;> rfl

@[simp] theorem agentLookup_withRun (die j va : Nat) :
    agentLookup (s.withRun bs n) die j va = ((agentLookup s die j va).1.withRun bs n, (agentLookup s die j va).2) := by
  simp only [agentLookup, State.withRun_die, State.withRun_mem, State.withRun_aliases, jobRoot_withRun]
  split
  · rfl
  · split
    · rfl
    · split
      · rfl
      · split_ifs <;> rfl

@[simp] theorem firstTouch_withRun (die j va : Nat) :
    firstTouch (s.withRun bs n) die j va = ((firstTouch s die j va).1.withRun bs n, (firstTouch s die j va).2) := by
  simp only [firstTouch, takeFrame_withRun, State.withRun_mem, State.withRun_pkg, State.withRun_ringOf, jobRoot_withRun]
  split
  · rfl
  · split
    · rfl
    · cases takeFrame s s.ringOf <;> rfl

theorem translate_withRun (die j : Nat) (exts : List Extent) (va : Nat) (write user : Bool) :
    translate (s.withRun bs n) die j exts va write user =
      ((translate s die j exts va write user).1.withRun bs n, (translate s die j exts va write user).2) := by
  simp only [translate, translateGen, State.withRun_mem, State.withRun_pkg, aliasOf_withRun, jobPkgs_withRun, rootAt_withRun,
    agentLookup_withRun, pteRes_withRun, atDirectory_withRun, directoryOf_withRun, firstTouch_withRun]
  cases exts.find? fun e => e.hit va write with
  | some e =>
    dsimp only
    split_ifs <;> rfl
  | none =>
    dsimp only
    by_cases haway : (va / 2 ^ 56 == 1 && (aliasOf s j (bits va 55 44)).1 != s.pkg) = true
    · simp only [if_pos haway]
      split_ifs <;> rfl
    simp only [if_neg haway]
    by_cases hlost : (va / 2 ^ 56 == 1 && (aliasOf s j (bits va 55 44)).2.isSome) = true
    · simp only [if_pos hlost]
      rcases ((aliasOf s j (bits va 55 44)).2.bind (rootAt s j)).map fun r => walk s.mem r va with _ | _ | _ <;> rfl
    simp only [if_neg hlost]
    cases (agentLookup s die j va).2 with
    | error c => rfl
    | ok e =>
      cases (firstTouch (agentLookup s die j va).1 die j va).2 <;> dsimp only <;> split_ifs <;> rfl

end Sys2Proof.Machine
end

section
/-! SUPPORT. The last instruction of a clause (R39): where its one active lane stands then. -/

namespace Sys2Proof.Machine

open Sys2Proof Sys2Proof.Rules

variable {s s2 : State} {b : Block} {g : Group} {m : Member} {th : Thread} {i : Instr} {f : Thread → Thread}

theorem LanesWent.mono_active {b' : Block} {r r' : Member → Thread → Thread → Prop} (h : LanesWent b b' g r)
    (hr : ∀ m x x', (m, x) ∈ activeLanes b g → r m x x' → r' m x x') : LanesWent b b' g r' := by
  obtain ⟨F, hF, hw⟩ := h
  refine ⟨F, hF, fun x hx => ?_⟩
  have hx' := hw x hx
  cases hm : g.member? x.tid with
  | none => simpa only [hm] using hx'
  | some m' =>
    simp only [hm] at hx' ⊢
    by_cases ha : m'.active = true
    · rw [if_pos ha] at hx' ⊢
      exact hr _ _ _ (List.mem_filterMap.2 ⟨x, hx, by simp [hm, ha]⟩) hx'
    · rwa [if_neg ha] at hx' ⊢

theorem activeLanes_updThread (h : activeLanes b g = [(m, th)]) (hf : ∀ x, (f x).tid = x.tid) :
    activeLanes (b.updThread th.tid f) g = [(m, f th)] := by
  have hmap : activeLanes (b.updThread th.tid f) g =
      (activeLanes b g).map fun l => (l.1, if l.2.tid == th.tid then f l.2 else l.2) := by
    rw [activeLanes, updThread_threads h, List.filterMap_map, activeLanes, List.map_filterMap]
    refine List.filterMap_congr fun x _ => ?_
    have htid : (if x.tid == th.tid then f x else x).tid = x.tid := by split <;> simp [hf]
    simp only [Function.comp_apply, htid]
    cases g.member? x.tid with
    | none => rfl
    | some m' => by_cases ha : m'.active = true <;> simp [ha]
  rw [hmap, h]
  simp

/-- What an act of a lane that still executes leaves alone of its thread, where it ends the clause. -/
structure KeepsRunning (f : Thread → Thread) : Prop where
  tid    : ∀ x, (f x).tid = x.tid
  trap   : ∀ x, (f x).trapAfter = x.trapAfter
  status : ∀ x, (f x).status = x.status
  yields : ∀ x, (f x).yieldAfter = x.yieldAfter

theorem clauseOver_last {n : Nat} (h : IssuingAlone s b g m th i) (hl : Last g th n) (hf : KeepsRunning f) :
    clauseOver s2 (b.updThread th.tid f) (stepGroup g n []) = true := by
  have hlanes : activeLanes (b.updThread th.tid f) (stepGroup g n []) = [(m, f th)] := activeLanes_updThread h.alone hf.tid
  have hcnt : (stepGroup g n []).cnt < (stepGroup g n []).idx := hl.idx
  have hgates : gates s2 (stepGroup g n []) = false := by simp [gates, stepGroup, hl.windows]
  have hall : allIssuing (b.updThread th.tid f) (stepGroup g n []) = true := by simp [allIssuing, hlanes, hf.status, hl.issuing]
  simp [clauseOver, hcnt, hgates, hall]

theorem clauseEndThread_ready {x : Thread} (hm : m.active = true) (hs : x.status = .issuing) (hy : x.yieldAfter = false) :
    (clauseEndThread s g m x).status = .ready ∧ (clauseEndThread s g m x).pc = x.goto.getD g.fall := by
  simp [clauseEndThread, hm, hs, hy]

/-- The last instruction of a clause whose act has changed its lane by f: the lane stands READY at its target, or at the fall-through header. -/
theorem advanceIn_ends {n : Nat} (h : IssuingAlone s b g m th i) (hl : Last g th n) (hf : KeepsRunning f)
    (hb : s2.blocks = replaceFirst (isBlock b.grid b.bidx) (fun _ => b.updThread th.tid f) s.blocks) :
    ∃ b', advanceIn s2 b.grid b.bidx g.gid n [] = (s2.updBlock b.grid b.bidx fun _ => b').idle ∧
      (s2.updBlock b.grid b.bidx fun _ => b').blocks = replaceFirst (isBlock b.grid b.bidx) (fun _ => b') s.blocks ∧
      b'.shell = b.shell ∧ LanesWent b b' g fun _ x x' => Goes ((f th).goto.getD g.fall) f x x' := by
  obtain ⟨hblock, -, -⟩ := State.cur?_block h.current
  have hgroup := State.cur?_group h.current
  obtain ⟨-, hmember, hactive⟩ := activeLanes_mem h.alone
  let c := b.updThread th.tid f
  have hcalm : ∀ x ∈ c.threads, x.trapAfter = none := by
    intro x hx
    rcases Block.mem_updThread hx with hx | ⟨y, hy, -, rfl⟩
    · exact h.calm x hx
    · rw [hf.trap]
      exact h.calm y hy
  have he : advanceIn s2 b.grid b.bidx g.gid n [] = (s2.updBlock b.grid b.bidx fun _ => advanceBlock s2 c g n []).idle :=
    advanceIn_found (b := c) (State.block?_eq_of_blocks hblock hb ⟨rfl, rfl⟩) hgroup hcalm n []
  refine ⟨advanceBlock s2 c g n [], he, ?_, advanceBlock_shell s2 c g n [], ?_⟩
  · exact (congrArg _ hb).trans (replaceFirst_replaceFirst _ (fun _ => c) _ (fun _ _ => isBlock_self c) s.blocks)
  · refine (updThread_lanesWent (s2 := s2) (c := c) h f rfl n []).mono_active ?_
    rintro m' x _ hx rfl
    rw [h.alone, List.mem_singleton] at hx
    obtain ⟨rfl, rfl⟩ := Prod.mk.inj hx
    have hmoved : movedThread s2 c g n [] (f x) = clauseEndThread s2 (stepGroup g n []) m' (f x) := by
      simp only [movedThread, hf.tid, hmember, c, clauseOver_last h hl hf, if_true]
    obtain ⟨hready, hpc⟩ := clauseEndThread_ready (s := s2) (g := stepGroup g n []) (x := f x) hactive
      ((hf.status x).trans hl.issuing) ((hf.yields x).trans hl.yield)
    exact ⟨movedThread_content .., hmoved ▸ hready, hmoved ▸ hpc⟩

/-- The same where the act has changed the lane's thread alone. -/
theorem advanceIn_updThread_ends {n : Nat} (h : IssuingAlone s b g m th i) (hl : Last g th n) (hf : KeepsRunning f) :
    LanesDid s (advanceIn (s.updThread (trefOf b th) f) b.grid b.bidx g.gid n []) b g
      fun _ x x' => Goes ((f th).goto.getD g.fall) f x x' := by
  obtain ⟨hblock, -, -⟩ := State.cur?_block h.current
  have hb : (s.updThread (trefOf b th) f).blocks = replaceFirst (isBlock b.grid b.bidx) (fun _ => b.updThread th.tid f) s.blocks :=
    replaceFirst_found hblock _
  obtain ⟨b', he, hblocks, hshell, hw⟩ := advanceIn_ends h hl hf hb
  refine ⟨b', ?_, hshell, hw⟩
  rw [he, ← hblocks]
  rfl

theorem IssuingAlone.thread?_eq (h : IssuingAlone s b g m th i) : s.thread? (trefOf b th) = some th := by
  obtain ⟨hblock, -, -⟩ := State.cur?_block h.current
  rw [State.thread?, show s.block? (trefOf b th).grid (trefOf b th).bidx = some b from hblock]
  exact h.thread

theorem State.updThread_updThread (s : State) (r : Tref) (f k : Thread → Thread) (hf : ∀ x, (f x).tid = x.tid) :
    (s.updThread r f).updThread r k = s.updThread r fun x => k (f x) := by
  have hblock : (fun c : Block => (c.updThread r.tid f).updThread r.tid k) = fun c => c.updThread r.tid fun x => k (f x) := by
    funext c
    exact congrArg (fun ts => { c with threads := ts })
      (replaceFirst_replaceFirst (fun x => x.tid == r.tid) f k (fun x hx => by simpa [hf] using hx) c.threads)
  simp only [State.updThread]
  rw [State.updBlock_updBlock]
  · exact congrArg (s.updBlock r.grid r.bidx) hblock
  · exact fun _ hx => hx

/-- The end of the last instruction where its act has changed more than the lane: what is not the block stays as the act left it. -/
theorem advanceIn_ends_oneLane {n : Nat} (h : IssuingAlone s b g m th i) (hl : Last g th n) (hf : KeepsRunning f)
    (hb : s2.blocks = (s.updThread (trefOf b th) f).blocks) :
    let t := advanceIn s2 b.grid b.bidx g.gid n []
    t.mem = s2.mem ∧ t.pend = s2.pend ∧ t.writes = s2.writes ∧
      OneLane s t b g fun _ x x' => Goes ((f th).goto.getD g.fall) f x x' := by
  obtain ⟨hblock, -, -⟩ := State.cur?_block h.current
  obtain ⟨b', he, hblocks, hshell, hw⟩ := advanceIn_ends h hl hf (hb.trans (replaceFirst_found hblock _))
  dsimp only
  rw [he]
  exact ⟨rfl, rfl, rfl, b', hblocks, rfl, hshell, hw⟩

end Sys2Proof.Machine
end

section
/-! SUPPORT. A store issued and a load performed within one page of this package (R102, R103, R207). -/

namespace Sys2Proof.Machine

open Sys2Proof Sys2Proof.Rules

variable {s : State} {b : Block} {th : Thread}

theorem pieces_page {va n : Nat} (h : va % 2 ^ 16 + n ≤ 2 ^ 16) : pieces va n = [(va, n)] := by
  have hmin : min n (2 ^ 16 - va % 2 ^ 16) = n := by omega
  simp only [pieces, hmin, beq_self_eq_true, if_true]

theorem leBytes_length (x : Nat) : ∀ n, (leBytes x n).length = n := by
  intro n
  induction n generalizing x with
  | zero => rfl
  | succ n ih => rw [leBytes, List.length_cons, ih]

/-- A store that its translation finds at this package enters the list of issued writes whole and counts once (R210). -/
theorem issueStore_here {who : Tref} {user : Bool} {va pa : Nat} {bs : List Byte} {e : Word} (hpage : va % 2 ^ 16 + bs.length ≤ 2 ^ 16)
    (hhere : translate s (dieOf b.core) (s.jobOf b.grid) b.extents va true user = (s, .here pa e)) :
    ∃ ds, issueStore s b who user va bs =
      { s.updThread who (fun x => { x with stores := x.stores + 1 }) with
        nextId := s.nextId + 1, dies := ds
        writes := s.writes ++ [{ id := s.nextId, who := who, job := s.jobOf b.grid, place := .pa pa, va := va, bytes := bs, set := false
                                 at_ := s.now, token := 0 }] } := by
  let s1 : State := s.withRun (s.updThread who fun x => { x with stores := x.stores + 1 }).blocks (s.nextId + 1)
  have h1 : translate s1 (dieOf b.core) (s.jobOf b.grid) b.extents va true user = (s1, .here pa e) := by
    rw [translate_withRun, hhere]
  obtain ⟨ds, hheat, -⟩ := noteHeat_own s1 (s.jobOf b.grid) va pa e true
  refine ⟨ds, ?_⟩
  have hs1 : ({ s.updThread who (fun x => { x with stores := x.stores + 1 }) with nextId := s.nextId + 1 } : State) = s1 := rfl
  simp only [issueStore, pieces_page hpage, List.foldl_cons, List.foldl_nil, hs1, h1, hheat, Nat.sub_self, List.drop_zero, List.take_length]
  rfl

theorem noteHeat_tickets (s : State) (job va pa : Nat) (e : Word) (write : Bool) (d : Nat) :
    ((noteHeat s job va pa e s.pkg write).die d).tickets = (s.die d).tickets := by
  rw [noteHeat]
  split
  · rfl
  · refine (congrArg (fun t : State => (t.die d).tickets) (if_pos (beq_self_eq_true s.pkg))).trans ?_
    rw [State.die_updDie]
    split
    next h => rw [h]
    next => rfl

/-- Bytes over which the thread has no store that is not yet performed. -/
theorem ownBytes_none {who : Tref} {die : Nat} (hw : ∀ w ∈ s.writes, w.who ≠ who) (ht : ∀ t ∈ (s.die die).tickets, t.who ≠ who)
    (upTo va : Nat) (bs : List Byte) : ownBytes s who die upTo va bs = bs := by
  have hplain : (s.writes.filter fun w => w.who == who && w.id < upTo && !w.place.isScratch) = [] :=
    List.filter_eq_nil_iff.2 fun w hmem => by simp [hw w hmem]
  have hord (p : Ticket → Bool) : ((s.die die).tickets.filter fun t => (t.who == who && t.id < upTo) && p t) = [] :=
    List.filter_eq_nil_iff.2 fun t hmem => by simp [ht t hmem]
  simp only [ownBytes, hplain, hord]
  rfl

/-- What a load's own access has counted of its page hides no store of its thread. -/
theorem ownBytes_noteHeat (h : Drained s b th) (job va pa : Nat) (e : Word) (die upTo ea : Nat) (bs : List Byte) :
    ownBytes (noteHeat s job va pa e s.pkg false) (trefOf b th) die upTo ea bs = bs := by
  refine ownBytes_none ?_ ?_ upTo ea bs
  · obtain ⟨ds, hheat, -⟩ := noteHeat_own s job va pa e false
    rw [hheat]
    exact h.writes
  · rw [noteHeat_tickets]
    exact h.tickets die

theorem zipIdx_map_snd {α : Type} (va : Nat) (l : List α) :
    (l.zipIdx.map fun y => (va + y.2, y.1)).map (fun y => y.2) = l := by
  rw [List.map_map]
  exact List.zipIdx_map_fst 0 l

/-- A load of a thread whose earlier accesses are performed has its value from memory at once. -/
theorem performAcc_ld {acc : Acc} {n pa : Nat} {sx ga : Bool} {e : Word} (hop : acc.op = .ld n sx ga) (hd : Drained s b th)
    (hr : Reaches s b th acc pa e) (upTo : Nat) :
    performAcc s b (trefOf b th) (!th.priv) acc upTo =
      (noteHeat s (s.jobOf b.grid) acc.ea.toNat pa e s.pkg false, .value (loadValue n sx (s.mem.read pa n)) 0) := by
  have hpage := hr.page
  have hhere := hr.here
  simp only [hop, AccOp.writes, AccOp.size] at hpage hhere
  simp only [performAcc, hop, hr.plain, accBefore_drained hd, pieces_page hpage, hhere, lineBefore_drained hd, List.foldl_cons, List.foldl_nil,
    List.nil_append, List.any_cons, List.any_nil, Bool.or_self, Bool.false_eq_true, if_false, List.isEmpty_nil, if_true, zipIdx_map_snd,
    ownBytes_noteHeat hd]

end Sys2Proof.Machine
end

section
/-! PROOFS. Transfers, calls and returns (O18). -/

namespace Sys2Proof.Machine

open Sys2Proof Sys2Proof.Rules

variable {s : State} {b : Block} {g : Group} {m : Member} {th : Thread} {i : Instr}

/- Targets (R178, R395). -/

/-- A target without a fault is known: its header is at this package. -/
theorem targetLook_of_sound {user : Bool} {w : Word} (h : targetFault s b user w = (s, none)) : targetLook s b user w = (s, some none) := by
  unfold targetFault at h
  split at h
  next u r heq => rw [heq]; cases h; rfl
  next => cases h

theorem withTargets_alone {f : Block → Group → State → Thread → Option Word} (k : State → Host.Outcome State Fault Refusal)
    (h : IssuingAlone s b g m th i) (ht : ∀ w, f b g s th = some w → targetFault s b (!th.priv) w = (s, none)) :
    withTargets i s f k = k s := by
  simp only [withTargets, withTargetsIn, h.current, h.admitted, h.alone, List.foldl_cons, List.foldl_nil, Option.isSome_none]
  cases hw : f b g s th with
  | none => rfl
  | some w => simp [targetLook_of_sound (ht w hw)]

theorem targetCheck_sound {w : Word} {kind : Nat} {ret : Va} (h : targetFault s b (!th.priv) w = (s, none)) :
    targetCheck s b th (jumpAcc w kind ret) = (s, .go) := by
  simp [targetCheck, jumpAcc, h]

/- Transfers without a call (R178, R179). -/

/-- A thread that takes a transfer to a target, or none. -/
def goesTo : Option Word → Thread → Thread
  | none => id
  | some w => fun x => { x with goto := some (w.extractLsb' 0 57) }

theorem goesTo_keeps (w : Option Word) : KeepsRunning (goesTo w) := by
  cases w <;> exact ⟨fun _ => rfl, fun _ => rfl, fun _ => rfl, fun _ => rfl⟩

theorem goesTo_content (w : Option Word) (x : Thread) : (goesTo w x).content = x.content := by
  cases w <;> rfl

theorem goesTo_goto (w : Option Word) {x : Thread} (h : x.goto = none) (fall : Va) :
    (goesTo w x).goto.getD fall = (w.map fun v => v.extractLsb' 0 57).getD fall := by
  cases w <;> simp [goesTo, h]

theorem State.updThread_id (s : State) (r : Tref) : s.updThread r id = s := by
  rw [State.updThread, Block.updThread_id, State.updBlock, replaceFirst_id]

theorem takeJump_plain (h : s.thread? (trefOf b th) = some th) (w : Word) :
    takeJump s b (trefOf b th) (jumpAcc w 0 0) = s.updThread (trefOf b th) (goesTo (some w)) := by
  simp [takeJump, h, jumpAcc, goesTo]

theorem runJump_goes {f : Group → Thread → Option Word} (h : IssuingAlone s b g m th i) (hl : Last g th (Instr.len i))
    (ht : ∀ w, f g th = some w → targetFault s b (!th.priv) w = (s, none)) :
    ∃ t, runJump i s f = .next t ∧ LanesDid s t b g fun _ x x' => Goes (((f g th).map fun w => w.extractLsb' 0 57).getD g.fall) id x x' := by
  have hrun : runJump i s f =
      .next (advanceIn (s.updThread (trefOf b th) (goesTo (f g th))) b.grid b.bidx g.gid (Instr.len i) []) := by
    rw [runJump, withTargets_alone _ h ht]
    refine runLanes_alone (s1 := s) h _ _ ?_ ?_ <;> cases hw : f g th
    case refine_1.none => rfl
    case refine_1.some w => exact targetCheck_sound (ht w hw)
    case refine_2.none => simp only [goesTo, State.updThread_id]
    case refine_2.some w => simp only [takeJump_plain h.thread?_eq]
  have hends := advanceIn_updThread_ends h hl (goesTo_keeps (f g th))
  rw [goesTo_goto _ hl.goto] at hends
  exact ⟨_, hrun, hends.mono fun _ x x' ⟨hc, hready, hpc⟩ => ⟨hc.trans (goesTo_content ..), hready, hpc⟩⟩

theorem aheadMod_eq (g : Group) (v : Word) : (g.fall + v.extractLsb' 0 57 * 4).zeroExtend 64 = aheadMod g v.toInt := by
  have hlow : BitVec.ofInt 57 v.toInt = v.extractLsb' 0 57 := by
    rw [← BitVec.signExtend, BitVec.signExtend_eq_setWidth_of_le _ (by decide)]
    exact BitVec.setWidth_eq_extractLsb' (by decide)
  have hsum : BitVec.ofInt 57 (g.fall.toNat + 4 * v.toInt) = g.fall + v.extractLsb' 0 57 * 4 := by
    rw [BitVec.ofInt_add, BitVec.ofInt_mul, hlow, BitVec.mul_comm]
    simp
  rw [aheadMod, hsum, BitVec.ofNat_toNat]

theorem cond_eq (th : Thread) (c : BitVec 4) : th.cond c = decide (th.pred (c.extractLsb' 0 3) ≠ c.getLsbD 3) := by
  rw [Thread.cond, bne, beq_eq_decide, decide_not]

theorem exec_transfer_eq {f : Group → Thread → Option Word} (h : transfers i = some f) (s : State) : exec i s = runJump i s f := by
  cases i <;> cases h
  case bra c o =>
    change execBra c o s = _
    simp only [execBra, cond_eq, decide_eq_true_eq]
    rfl
  case jmp => rfl
  case brx r =>
    change execBrx r s = _
    simp only [execBrx, aheadMod_eq]

/- Calls (R179, R180). -/

/-- A thread whose store count has risen by one (R210). -/
def storeCounted (x : Thread) : Thread := { x with stores := x.stores + 1 }

/-- A thread that takes a transfer to a target, its call depth changed. -/
def goesDeep (w : Word) (depth : Nat → Nat) (x : Thread) : Thread :=
  { x with goto := some (w.extractLsb' 0 57), callDepth := depth x.callDepth }

theorem goesDeep_keeps (w : Word) (depth : Nat → Nat) : KeepsRunning (goesDeep w depth) :=
  ⟨fun _ => rfl, fun _ => rfl, fun _ => rfl, fun _ => rfl⟩

theorem call_keeps (w : Word) (depth : Nat → Nat) : KeepsRunning fun x => goesDeep w depth (storeCounted x) :=
  ⟨fun _ => rfl, fun _ => rfl, fun _ => rfl, fun _ => rfl⟩

/-- The store of a return address at a PA, and the state after a call to w that has issued it. -/
def callWrite (s : State) (b : Block) (th : Thread) (ret : Va) (pa : Nat) : PWrite :=
  { id := s.nextId, who := trefOf b th, job := s.jobOf b.grid, place := .pa pa, va := (pushAcc s b th ret).ea.toNat
    bytes := leBytes ret.toNat 8, set := false, at_ := s.now, token := 0 }
def called (s : State) (b : Block) (th : Thread) (ret : Va) (pa : Nat) (w : Word) (ds : Tab Die) : State :=
  { s.updThread (trefOf b th) (fun x => goesDeep w (· + 1) (storeCounted x)) with
    nextId := s.nextId + 1, dies := ds, writes := s.writes ++ [callWrite s b th ret pa] }

theorem pushAcc_ea (s : State) (b : Block) (th : Thread) (ret : Va) :
    (pushAcc s b th ret).ea.toNat = (privBase s b th + (privSize s b th - 8 * (th.callDepth + 1))) % 2 ^ 64 := BitVec.toNat_ofNat ..

theorem takeJump_call {pa : Nat} {e : Word} {ret : Va} (h : s.thread? (trefOf b th) = some th) (hr : Reaches s b th (pushAcc s b th ret) pa e)
    (w : Word) : ∃ ds, takeJump s b (trefOf b th) (jumpAcc w 1 ret) = called s b th ret pa w ds := by
  obtain ⟨ds, hissue⟩ := issueStore_here (who := trefOf b th) (bs := leBytes ret.toNat 8) (by rw [leBytes_length]; exact hr.page) hr.here
  have hret : (jumpAcc w 1 ret).x.extractLsb' 0 57 = ret :=
    (BitVec.setWidth_eq_extractLsb' (by decide)).symm.trans (BitVec.setWidth_setWidth_of_le ret (by decide))
  have hbytes : (jumpAcc w 1 ret).x.toNat = ret.toNat := BitVec.toNat_setWidth_of_le (by decide)
  have hkind : (jumpAcc w 1 ret).y.toNat = 1 := rfl
  refine ⟨ds, ?_⟩
  rw [called, ← State.updThread_updThread s (trefOf b th) storeCounted (goesDeep w (· + 1)) fun _ => rfl]
  simp only [takeJump, h, hkind, beq_self_eq_true, if_true, hret, hbytes, hissue]
  rfl

/-- A call of the last instruction of its clause, whose slot is at this package (R180). -/
theorem runCall_goes {f : Group → Thread → Word} {pa : Nat} {e : Word} (h : IssuingAlone s b g m th i) (hl : Last g th (Instr.len i))
    (hdepth : th.callDepth < min 255 (privSize s b th / 8)) (hr : Reaches s b th (pushAcc s b th g.fall) pa e)
    (ht : targetFault s b (!th.priv) (f g th) = (s, none)) :
    ∃ t, runCall i s f = .next t ∧ t.mem = s.mem ∧ t.pend = s.pend ∧ t.writes = s.writes ++ [callWrite s b th g.fall pa] ∧
      OneLane s t b g fun _ x x' => Goes ((f g th).extractLsb' 0 57) (fun x => goesDeep (f g th) (· + 1) (storeCounted x)) x x' := by
  obtain ⟨ds, hjump⟩ := takeJump_call h.thread?_eq hr (f g th)
  have hroom : ¬ maxDepth s b th ≤ th.callDepth := Nat.not_le.2 hdepth
  have hrun : runCall i s f = .next (advanceIn (called s b th g.fall pa (f g th) ds) b.grid b.bidx g.gid (Instr.len i) []) := by
    rw [runCall, withTargets_alone _ h fun w hw => by cases hw; exact ht]
    refine runLanes_alone (s1 := s) h _ _ ?_ ?_
    · simp only [if_neg hroom, hr.sound, targetCheck_sound ht]
    · simp only [hjump]
  exact ⟨_, hrun, advanceIn_ends_oneLane h hl (call_keeps (f g th) (· + 1)) rfl⟩

theorem exec_call_eq {f : Group → Thread → Word} (h : calls i = some f) (s : State) : exec i s = runCall i s f := by
  cases i <;> cases h <;> rfl

/- Returns (R180). -/

theorem loadValue_unsigned (n : Nat) (bs : List Byte) : loadValue n false bs = BitVec.ofNat 64 (leNat bs) := rfl

/-- The return address in the slot of a thread whose earlier accesses are performed. -/
theorem popValue_here {pa : Nat} {e : Word} (hd : Drained s b th) (hr : Reaches s b th (popAcc s b th) pa e) :
    popValue s b th = (noteHeat s (s.jobOf b.grid) (popAcc s b th).ea.toNat pa e s.pkg false, .value (BitVec.ofNat 64 (s.mem.num pa 8)) 0) := by
  rw [popValue, performAcc_ld (n := 8) (sx := false) (ga := false) rfl hd hr, loadValue_unsigned, Memory.num]

theorem popTarget_here {pa : Nat} {e : Word} (hdepth : th.callDepth ≠ 0) (hd : Drained s b th) (hr : Reaches s b th (popAcc s b th) pa e) :
    popTarget s b th = some (BitVec.ofNat 64 (s.mem.num pa 8)) := by
  have hhere : popHere s b th = true := by
    have := hr.here
    simp only [popAcc, AccOp.writes] at this
    simp only [popHere, popAcc, this]
  simp [popTarget, hdepth, hr.sound, hhere, popValue_here hd hr]

theorem takeJump_return (h : s.thread? (trefOf b th) = some th) (w : Word) :
    takeJump s b (trefOf b th) (jumpAcc w 3 0) = s.updThread (trefOf b th) (goesDeep w (· - 1)) := by
  simp only [takeJump, h]
  rfl

theorem exec_ret_goes {pa : Nat} {e : Word} (h : IssuingAlone s b g m th .ret) (hl : Last g th 1) (hdepth : th.callDepth ≠ 0)
    (hd : Drained s b th) (hr : Reaches s b th (popAcc s b th) pa e)
    (ht : targetFault s b (!th.priv) (BitVec.ofNat 64 (s.mem.num pa 8)) = (s, none)) :
    ∃ t, exec .ret s = .next t ∧ t.mem = s.mem ∧ t.pend = s.pend ∧ t.writes = s.writes ∧
      OneLane s t b g fun _ x x' => Goes (BitVec.ofNat 57 (s.mem.num pa 8)) (fun y => { y with callDepth := y.callDepth - 1 }) x x' := by
  generalize hw : BitVec.ofNat 64 (s.mem.num pa 8) = w at ht ⊢
  obtain ⟨ds, hheat, -⟩ := noteHeat_own s (s.jobOf b.grid) (popAcc s b th).ea.toNat pa e false
  have htarget := popTarget_here hdepth hd hr
  rw [hw] at htarget
  have hact : retWait s b g th = (State.updThread { s with dies := ds } (trefOf b th) (goesDeep w (· - 1)), []) := by
    simp only [retWait, popValue_here hd hr, hheat, hw]
    rw [takeJump_return (s := { s with dies := ds }) h.thread?_eq]
  have hrun : execRet s = .next (advanceIn
      (State.updThread { s with dies := ds } (trefOf b th) (goesDeep w (· - 1)))
      b.grid b.bidx g.gid (Instr.len .ret) []) := by
    rw [execRet, withTargets_alone _ h fun v hv => by rw [htarget] at hv; cases hv; exact ht]
    refine runLanes_alone (s1 := s) h _ _ ?_ hact
    simp only [hr.sound, htarget, targetCheck_sound ht, beq_false_of_ne hdepth, Bool.false_eq_true, if_false]
  have hpc : w.extractLsb' 0 57 = BitVec.ofNat 57 (s.mem.num pa 8) := hw ▸
    (BitVec.setWidth_eq_extractLsb' (by decide)).symm.trans (BitVec.setWidth_ofNat_of_le (by decide) _)
  rw [← hpc]
  obtain ⟨hmem, hpend, hwrites, hlane⟩ := advanceIn_ends_oneLane (s2 := State.updThread { s with dies := ds } (trefOf b th) (goesDeep w (· - 1)))
    h hl (goesDeep_keeps w (· - 1)) rfl
  exact ⟨_, hrun, hmem, hpend, hwrites, hlane⟩

/-- Settles O18, clause by clause: BRA, JMP and BRX; CALL and CALLX; RET. -/
theorem transferCallAndReturnResult : Obligations.TransferCallAndReturnResult := by
  refine ⟨fun s b g m th i f hi h hl ht => ?_, fun s b g m th i f pa e hi h hl hdepth hr ht => ?_,
    fun s b g m th pa e h hl hdepth hd hr ht => ⟨rfl, exec_ret_goes h hl hdepth hd hr ht⟩⟩
  · rw [exec_transfer_eq hi]
    exact runJump_goes h hl ht
  · obtain ⟨t, ht, hmem, hpend, hwrites, hlane⟩ := runCall_goes h hl hdepth hr ht
    rw [callWrite, pushAcc_ea] at hwrites
    exact ⟨t, (exec_call_eq hi s).trans ht, hmem, hpend, hwrites, hlane⟩

end Sys2Proof.Machine
end

section
/-! SUPPORT. Packed results of any number of elements, and a predicate written beside other content. -/

namespace Sys2Proof.Machine

open Sys2Proof Sys2Proof.Rules

/-- The first n elements of width w packed, with the flags some element raises. -/
theorem packN_packs {w n : Nat} (hwn : w * n ≤ 64) (e : Nat → Nat × BitVec 6) :
    Packs w n (BitVec.ofNat 64 (packN w (fun i => (e i).1) n), (List.range n).foldl (fun acc i => acc ||| (e i).2) 0)
      fun k => ((e k).1, (e k).2) := by
  have hlt := packN_lt w (fun i => (e i).1) n
  have hval : (BitVec.ofNat 64 (packN w (fun i => (e i).1) n)).toNat = packN w (fun i => (e i).1) n := by
    rw [BitVec.toNat_ofNat, Nat.mod_eq_of_lt (hlt.trans_le (Nat.pow_le_pow_right (by decide) hwn))]
  refine ⟨fun k hk => ?_, by rwa [hval], fun j => ?_⟩
  · rw [elt, hval, Nat.shiftRight_eq_div_pow, packN_elt w _ n k hk, Int.natCast_mod]
  · rw [getLsbD_foldl_or]
    simp

theorem pack_packs {w : Nat} (hw : w * (64 / w) = 64) (e : Nat → Nat × BitVec 6) :
    Packs w (64 / w) (pack w fun i => (e i).1, (List.range (64 / w)).foldl (fun acc i => acc ||| (e i).2) 0) fun k => ((e k).1, (e k).2) :=
  packN_packs hw.le e

theorem packN_congr {w : Nat} {f f' : Nat → Nat} (h : ∀ i, f i % 2 ^ w = f' i % 2 ^ w) : ∀ n, packN w f n = packN w f' n
  | 0 => rfl
  | n + 1 => by rw [packN, packN, packN_congr h n, h n]

theorem setsPred_of_content {p : BitVec 3} {v : Bool} {x x' : Thread} (h : x'.content = (x.setPred p v).content) : SetsPred p v x x' := by
  refine ⟨fun q => ?_, ?_⟩
  · have hpreds := congrArg (fun y : Thread => y.pred q) h
    exact Eq.trans hpreds (Thread.pred_setPred x p q v)
  · have hrest := congrArg (fun y : Thread => ({ y with preds := x.preds } : Thread)) h
    refine Eq.trans (b := _) hrest ?_
    unfold Thread.setPred
    split <;> rfl

theorem LanesDid.mono_active {s t : State} {b : Block} {g : Group} {r r' : Member → Thread → Thread → Prop} (h : LanesDid s t b g r)
    (hr : ∀ m x x', (m, x) ∈ activeLanes b g → r m x x' → r' m x x') : LanesDid s t b g r' := by
  obtain ⟨b', ht, hshell, hw⟩ := h
  exact ⟨b', ht, hshell, hw.mono_active hr⟩

end Sys2Proof.Machine
end

section
/-! PROOFS. The elementwise floating-point instructions (O6). -/

namespace Sys2Proof.Machine

open Sys2Proof Sys2Proof.Rules

/-- A packed instruction of three sources, vd the third (R187): the shape every elementwise floating-point instruction has. -/
def fpOp3 (i : Instr) (t : FpW) (f : Nat → Nat → Nat → Nat × BitVec 6) (d a c : Reg) (l : BitVec 3) (s : State) :
    Host.Outcome State Fault Refusal :=
  onLanes i s fun b g m th => putReg d (mapEl3 (fpBits t) f (th.reg a) (vbOf b g m th l c) (th.reg d)) th

theorem mapEl_asInt (w : Nat) (f : Nat → Nat → Nat × BitVec 6) (x y z : Word) :
    mapEl w (asInt f) x y = mapEl3 w (fun a b _ => f a b) x y z := by
  have hwrap : ∀ n : Nat, wrap w n % 2 ^ w = n % 2 ^ w := fun n => by
    rw [wrap_mod, wrap, ← Int.natCast_mod, Int.toNat_natCast]
  simp only [mapEl, mapEl3, asInt, pack]
  rw [packN_congr fun i => hwrap (f (elt w x i) (elt w y i)).1]

theorem fpOp_eq (i : Instr) (t : FpW) (f : Nat → Nat → Nat × BitVec 6) (d a c : Reg) (l : BitVec 3) (s : State) :
    fpOp i t f d a c l s = fpOp3 i t (fun x y _ => f x y) d a c l s := by
  simp only [fpOp, fpOp3]
  congr 1
  funext b g m th
  rw [mapEl_asInt]

theorem fpOp1_eq (i : Instr) (t : FpW) (f : Nat → Nat × BitVec 6) (d a c : Reg) (l : BitVec 3) (s : State) :
    fpOp1 i t f d a s = fpOp3 i t (fun x _ _ => f x) d a c l s := by
  simp only [fpOp1, fpOp3]
  congr 1
  funext b g m th
  rw [mapEl_asInt _ _ _ _ 0]
  rfl

/-- What such an instruction writes, its element function known on the elements of va and vb (R165). -/
theorem fpOp3_writes {s : State} {b : Block} {g : Group} {i : Instr} {t : FpW}
    {f f' : Nat → Nat → Nat → Nat × BitVec 6} (h : Issuing s b g i)
    (hf : ∀ x y z, x < 2 ^ fpBits t → y < 2 ^ fpBits t → f x y z = f' x y z) (d a c : Reg) (l : BitVec 3) :
    ∃ s', fpOp3 i t f d a c l s = .next s' ∧ LanesDid s s' b g fun m th th' => Writes (fpBits t) (64 / fpBits t) d (fun k =>
      let r := f' (elt (fpBits t) (th.reg a) k) (elt (fpBits t) (vbOf b g m th l c) k) (elt (fpBits t) (th.reg d) k)
      ((r.1 : Nat), r.2)) th th' := by
  refine onLanes_writes h fun m th => ?_
  simp only [← hf _ _ _ (elt_lt ..) (elt_lt ..)]
  exact pack_packs (fpBits_mul t) fun k =>
    f (elt (fpBits t) (th.reg a) k) (elt (fpBits t) (vbOf b g m th l c) k) (elt (fpBits t) (th.reg d) k)

/- The element functions that are not the rule's own expression. -/

theorem fpFmt_width (w : FpW) : (fpFmt w).width = fpBits w := by cases w <;> rfl

theorem fpBits_pos (w : FpW) : 0 < fpBits w := by cases w <;> decide

theorem isSnan_of_not_nan {v : FVal} (h : v.isNan = false) : v.isSnan = false := by
  cases v
  case nan => cases h
  case inf | fin => rfl

/-- Without a NaN the key decides and no flag is set; with one, both sides name the same operand (R188). -/
theorem minmax_eq (f : FFmt) (mx num : Bool) (x y : Nat) : f.minmax mx num x y = pick_ f mx num x y := by
  simp only [FFmt.minmax, pick_]
  cases hx : (f.val x).isNan <;> cases hy : (f.val y).isNan
  case false.false => cases mx <;> simp [isSnan_of_not_nan hx, isSnan_of_not_nan hy]
  case false.true | true.false | true.true => simp [flagIf, fNV]

/-- Inverting the highest of w bits adds it modulo 2^w. -/
theorem xor_top_bit {w x : Nat} (hw : 0 < w) (hx : x < 2 ^ w) : x ^^^ 2 ^ (w - 1) = (x + 2 ^ (w - 1)) % 2 ^ w := by
  refine Nat.eq_of_testBit_eq fun i => ?_
  rw [Nat.testBit_xor, Nat.testBit_two_pow, Nat.testBit_mod_two_pow, Nat.add_comm x]
  rcases lt_trichotomy i (w - 1) with hi | rfl | hi
  · have hlt : i < w := by omega
    simp [Nat.testBit_two_pow_add_gt hi, hlt, hi.ne']
  · simp [Nat.testBit_two_pow_add_eq, hw]
  · have hge : w ≤ i := by omega
    simp [Nat.testBit_lt_two_pow (hx.trans_le (Nat.pow_le_pow_right (by decide) hge)), hge, hi.ne]

/-- Every elementwise instruction has that shape, and its element function is the rule's (R186 to R192). -/
theorem exec_packedFp {i : Instr} {w : FpW} {d a c : Reg} {l : BitVec 3} {f : FFmt → Nat → Nat → Nat → Nat × BitVec 6}
    (h : packedFp i = some (w, d, a, c, l, f)) (s : State) :
    ∃ f', exec i s = fpOp3 i w f' d a c l s ∧ ∀ x y z, x < 2 ^ fpBits w → y < 2 ^ fpBits w → f' x y z = f (fpFmt w) x y z := by
  cases i <;> cases h
  case fadd | fsub | fmul | fdiv => exact ⟨_, fpOp_eq .., fun _ _ _ _ _ => rfl⟩
  case fma => exact ⟨(fpFmt w).fma false false, rfl, fun _ _ _ _ _ => rfl⟩
  case fms => exact ⟨(fpFmt w).fma false true, rfl, fun _ _ _ _ _ => rfl⟩
  case fnma => exact ⟨(fpFmt w).fma true false, rfl, fun _ _ _ _ _ => rfl⟩
  case fsqrt | frcp | frsq => exact ⟨_, fpOp1_eq .., fun _ _ _ _ _ => rfl⟩
  case fmin | fmax | fminn | fmaxn => exact ⟨_, fpOp_eq .., fun x y _ _ _ => minmax_eq _ _ _ x y⟩
  case scalex => exact ⟨_, fpOp_eq .., fun x y _ _ _ => by simp only [fpFmt_width, sgn_eq (fpBits_pos w)]⟩
  case fabs => exact ⟨_, fpOp1_eq .., fun x _ _ _ _ => by simp only [fpFmt_width]⟩
  case fneg => exact ⟨_, fpOp1_eq .., fun x _ _ hx _ => by simp only [fpFmt_width, xor_top_bit (fpBits_pos w) hx]⟩
  case fcmpm => exact ⟨_, fpOp_eq .., fun x y _ _ _ => by simp only [fpFmt_width, cmp_eq]⟩

/-- Settles O6: every such instruction is a packed instruction of three sources (`exec_packedFp`), which writes what its element function
gives. -/
theorem packedFloatResult : Obligations.PackedFloatResult := by
  intro s b g i w d a c l f hi h
  obtain ⟨f', hexec, hsame⟩ := exec_packedFp hi s
  rw [hexec]
  exact fpOp3_writes h hsame d a c l

end Sys2Proof.Machine
end

section
/-! PROOFS. FEXP2, FLOG2, FSIN and FCOS (O7). -/

namespace Sys2Proof.Machine

open Sys2Proof Sys2Proof.Rules

/-- A special function writes its values; the free words it may draw are those from s.free on (log 10). -/
theorem sfuOp_done {s : State} {b : Block} {g : Group} {i : Instr} {w : FpW} (F : FFmt → Nat → Word → Nat × BitVec 6) (d a : Reg)
    (h : Issuing { s with free := s.free + 8192 } b g i) :
    ∃ t, sfuOp i w (F (fpFmt w)) d a s = .next t ∧ SpecialDone s t b g w d a F :=
  onLanes_writes h fun _ th => pack_packs (fpBits_mul w) fun k =>
    F (fpFmt w) (elt (fpBits w) (th.reg a) k) (Config.freeWord (s.free + 8 * th.tid + k))

/- The functions on the operands of R191's table, by the operand's value. -/

section

variable {f : FFmt} {x : Nat} (q : Word)

theorem special_nan {sg : Bool} (hv : f.val x = .nan sg) :
    ∀ h ∈ [(f.exp2 · q), (f.log2 · q), (f.sinpi · q), (f.cospi · q)], h x = (f.nanC, if sg then 16 else 0) := by
  simp only [List.forall_mem_cons, FFmt.exp2, FFmt.log2, FFmt.sinpi, FFmt.cospi, hv]
  exact ⟨rfl, rfl, rfl, rfl, by simp⟩

theorem special_inf {n : Bool} (hv : f.val x = .inf n) :
    f.exp2 x q = (if n then 0 else f.infC, 0) ∧ f.log2 x q = (if n then (f.nanC, 16) else (f.infC, 0)) ∧
      f.sinpi x q = (f.nanC, 16) ∧ f.cospi x q = (f.nanC, 16) := by
  simp only [FFmt.exp2, FFmt.log2, FFmt.sinpi, FFmt.cospi, hv]
  cases n
  case false | true => exact ⟨rfl, rfl, rfl, rfl⟩

theorem width_pred (f : FFmt) : f.width - 1 = f.eb + f.fb := by
  unfold FFmt.width
  omega

theorem signed_zero (f : FFmt) (n : Bool) : f.signed n 0 = if n then 2 ^ (f.width - 1) else 0 := by
  rw [FFmt.signed, width_pred, Nat.zero_add]

theorem round_one (w : FpW) : (fpFmt w).round .ne false 1 0 false = (one_ w, 0) := by cases w <;> decide

theorem exp2_zero {n : Bool} {e : Int} (hv : f.val x = .fin n 0 e) : f.exp2 x q = f.round .ne false 1 0 false := by
  simp [FFmt.exp2, hv]

theorem log2_zero {n : Bool} {e : Int} (hv : f.val x = .fin n 0 e) : f.log2 x q = (f.infC + 2 ^ (f.width - 1), 8) := by
  rw [width_pred]
  simp [FFmt.log2, hv, FFmt.signed, fDZ]

theorem log2_negative {m : Nat} {e : Int} (hv : f.val x = .fin true m e) (hm : m ≠ 0) : f.log2 x q = (f.nanC, 16) := by
  simp [FFmt.log2, hv, hm, fNV]

theorem log2_one (w : FpW) : (fpFmt w).log2 (one_ w) q = (0, 0) := by cases w <;> rfl

theorem sinpi_zero {n : Bool} {e : Int} (hv : f.val x = .fin n 0 e) : f.sinpi x q = (f.signed n 0, 0) := by
  simp [FFmt.sinpi, hv]

theorem sinpi_integer {n : Bool} {m : Nat} {e : Int} (hv : f.val x = .fin n m e) (hint : 0 ≤ e ∨ (splitFx m e).2 = 0) :
    f.sinpi x q = (f.signed n 0, 0) := by
  rw [FFmt.sinpi, hv]
  by_cases he : 0 ≤ e
  · simp [he]
  · simp [he, hint.resolve_left he]

theorem cospi_half {n : Bool} {m : Nat} {e : Int} (hv : f.val x = .fin n m e) (he : e < 0) (hhalf : (splitFx m e).2 = 2 ^ (fxP - 1)) :
    f.cospi x q = (0, 0) := by
  have hne : ¬ e = 0 := by omega
  rw [FFmt.cospi, hv]
  simp [he.le.not_gt, hne, hhalf]

end

/- The fraction of an operand m · 2^(−k) in the fixed point of the enclosure, which holds it exactly. -/

theorem val_exp {w : FpW} {x m : Nat} {n : Bool} {e : Int} (h : (fpFmt w).val x = .fin n m e) : -(fxP : Int) ≤ e := by
  have hfmt : (fpFmt w).bias + (fpFmt w).fb ≤ 320 := by cases w <;> decide
  have hP : fxP = 320 := rfl
  unfold FFmt.val at h
  dsimp only at h
  generalize (x % 2 ^ ((fpFmt w).eb + (fpFmt w).fb)) >>> (fpFmt w).fb = c at h
  split_ifs at h
  all_goals cases h
  all_goals omega

theorem splitFx_frac (m : Nat) {k : Nat} (hk : k ≤ fxP) : (splitFx m (-(k : Int))).2 = m * 2 ^ (fxP - k) % 2 ^ fxP := by
  have hpos : -(k : Int) + fxP ≥ 0 := by omega
  have hexp : (-(k : Int) + fxP).toNat = fxP - k := by omega
  rw [splitFx, toFx, if_pos hpos, hexp, Nat.shiftLeft_eq]

theorem splitFx_integer {m k : Nat} (hk : k ≤ fxP) (h : 2 ^ k ∣ m) : (splitFx m (-(k : Int))).2 = 0 := by
  obtain ⟨j, rfl⟩ := h
  have hpow : 2 ^ k * j * 2 ^ (fxP - k) = 2 ^ fxP * j := by
    rw [mul_right_comm, ← pow_add, Nat.add_sub_cancel' hk]
  rw [splitFx_frac _ hk, hpow, Nat.mul_mod_right]

theorem splitFx_half {j k : Nat} (hk : k < fxP) : (splitFx ((2 * j + 1) * 2 ^ k) (-((k + 1 : Nat) : Int))).2 = 2 ^ (fxP - 1) := by
  have hpow : (2 * j + 1) * 2 ^ k * 2 ^ (fxP - (k + 1)) = 2 ^ (fxP - 1) + 2 ^ fxP * j := by
    rw [mul_assoc, ← pow_add, show k + (fxP - (k + 1)) = fxP - 1 by omega,
      show 2 ^ fxP = 2 * 2 ^ (fxP - 1) by rw [← pow_succ', Nat.sub_add_cancel (by omega)]]
    ring
  rw [splitFx_frac _ hk, hpow, Nat.add_mul_mod_self_left, Nat.mod_eq_of_lt (Nat.pow_lt_pow_right (by decide) (by decide))]

theorem special_table (w : FpW) (x : Nat) (q : Word) :
    table191 w ((fpFmt w).exp2 · q) ((fpFmt w).log2 · q) ((fpFmt w).sinpi · q) ((fpFmt w).cospi · q) x := by
  rw [table191]
  cases hv : (fpFmt w).val x with
  | nan sg => exact special_nan q hv
  | inf n => exact special_inf q hv
  | fin n m e =>
    have hexp := val_exp hv
    refine ⟨?zero, ?negative, ?one, ?integer, ?half⟩
    case zero =>
      rintro rfl
      exact ⟨(exp2_zero q hv).trans (round_one w), log2_zero q hv, by rw [sinpi_zero q hv, signed_zero]⟩
    case negative =>
      rintro hm rfl
      exact log2_negative q hv hm
    case one =>
      rintro rfl
      exact log2_one q w
    case integer =>
      intro _ hint
      rw [← signed_zero]
      refine sinpi_integer q hv (or_iff_not_imp_left.2 fun he => ?_)
      obtain ⟨k, rfl⟩ := Int.exists_eq_neg_ofNat (by omega : e ≤ 0)
      exact splitFx_integer (by omega) (by simpa using hint.resolve_left he)
    case half =>
      rintro he ⟨j, rfl⟩
      obtain ⟨k, rfl⟩ : ∃ k : Nat, e = -((k + 1 : Nat) : Int) := ⟨(-e).toNat - 1, by omega⟩
      refine cospi_half q hv he ?_
      rw [show (-(-((k + 1 : Nat) : Int))).toNat - 1 = k by omega]
      exact splitFx_half (by omega)

/-- Settles O7: each function completes by `sfuOp_done`, whatever the counter of free values, and R191's table is `special_table`. -/
theorem specialFunctionResult : Obligations.SpecialFunctionResult :=
  ⟨fun _ _ _ _ d a h => sfuOp_done FFmt.exp2 d a ⟨h.current, h.admitted, h.calm⟩,
   fun _ _ _ _ d a h => sfuOp_done FFmt.log2 d a ⟨h.current, h.admitted, h.calm⟩,
   fun _ _ _ _ d a h => sfuOp_done FFmt.sinpi d a ⟨h.current, h.admitted, h.calm⟩,
   fun _ _ _ _ d a h => sfuOp_done FFmt.cospi d a ⟨h.current, h.admitted, h.calm⟩,
   fun w x q _ => special_table w x q⟩

end Sys2Proof.Machine
end

section
/-! PROOFS. CVT, CVT.rs and CVTS (O8). -/

namespace Sys2Proof.Machine

open Sys2Proof Sys2Proof.Rules

theorem fmtBits_mul_le (y x : Fmt) : fmtBits y * (64 / max (fmtBits x) (fmtBits y)) ≤ 64 :=
  (Nat.mul_le_mul_right _ (le_max_right ..)).trans (Nat.mul_div_le ..)

theorem cvtWord_packs (r : Nat → Rnd) (y x : Fmt) (v : Word) :
    Packs (fmtBits y) (64 / max (fmtBits x) (fmtBits y)) (cvtWord r y x v) fun k =>
      ((cvtEl (r k) y x (elt (fmtBits x) v k)).1, (cvtEl (r k) y x (elt (fmtBits x) v k)).2) :=
  packN_packs (fmtBits_mul_le y x) fun k => cvtEl (r k) y x (elt (fmtBits x) v k)

/-- Element k of a CVTS of v with the scale byte of c, as a code and flags. -/
def cvtsCodeEl (y : CvtsT) (v c : Word) (k : Nat) : Nat × BitVec 6 :=
  ((cvtsEl y (c.toNat % 256) (elt 32 v k)).1.toNat, (cvtsEl y (c.toNat % 256) (elt 32 v k)).2)

theorem cvtsWord_packs (y : CvtsT) (v c : Word) :
    Packs 8 2 (cvtsWord y v c) fun k => ((cvtsCodeEl y v c k).1, (cvtsCodeEl y v c k).2) := by
  have hflags : (List.range 2).foldl (fun acc k => acc ||| (cvtsCodeEl y v c k).2) 0 = (cvtsCodeEl y v c 0).2 ||| (cvtsCodeEl y v c 1).2 :=
    congrArg (· ||| (cvtsCodeEl y v c 1).2) BitVec.zero_or
  have hpacks := packN_packs (w := 8) (n := 2) (by decide) (cvtsCodeEl y v c)
  rwa [hflags] at hpacks

theorem rsRow_eq (e : Word) (n tid : Nat) :
    rsRow e n (tid / 32) = (m64 (e ^^^ BitVec.ofNat 64 (n * 32 ||| tid / 32))).toNat % 2 ^ 32 := by
  rw [rsRow, Nat.shiftLeft_eq]

/-- Settles O8: each form writes packed elements and their flags (`cvtWord_packs`, `cvtsWord_packs`). -/
theorem conversionResult : Obligations.ConversionResult := by
  refine ⟨fun s b g y x d a h => ?_, fun s b g y x d a e h => ?_, fun s b g y d a c h => ?_⟩
  · exact onLanes_writes h fun _ _ => cvtWord_packs ..
  · simp only [← rsRow_eq]
    exact onLanes_writes h fun _ th => cvtWord_packs (fun k => .st (rsRow (th.reg e) b.bidx th.htroop) (th.tid % 32 + 32 * k)) ..
  · exact onLanes_writes h fun _ th => cvtsWord_packs y (th.reg a) (th.reg c)

end Sys2Proof.Machine
end

section
/-! PROOFS. LPSET, PUSH and VOTE (O10). -/

namespace Sys2Proof.Machine

open Sys2Proof Sys2Proof.Rules

section

variable {s : State} {b : Block} {g : Group} {i : Instr}

/-- The end of an instruction that has changed the block's lane patterns and no thread. -/
theorem advance_lps_did (h : Issuing s b g i) (ps : List (List (BitVec 6))) (n : Nat) :
    LanesDid s (advance s { b with lps := ps } g n []) { b with lps := ps } g fun _ th th' => th'.content = th.content := by
  rw [advance_calm s { b with lps := ps } g n [] h.calm]
  refine ⟨_, rfl, advanceBlock_shell .., movedThread s { b with lps := ps } g n [], advanceBlock_threads .., fun th _ => ?_⟩
  cases hm : g.member? th.tid with
  | none => simp [movedThread, hm]
  | some m => simp

theorem lpset_did {n : BitVec 3} {a : Reg} (h : Issuing s b g (.lpset n a)) :
    ∃ t, exec (.lpset n a) s = .next t ∧ LanesDid s t { b with lps := b.lps.set (n.toNat - 1) ((List.range 32).map fun l =>
        ((laneThread b g l).map fun th => (th.reg a).extractLsb' 0 6).getD 32) } g fun _ th th' => th'.content = th.content := by
  refine ⟨_, issue_next h _, ?_⟩
  simp only [laneReg, Option.map_map]
  exact advance_lps_did h _ 1

theorem senders_eq (b : Block) (g : Group) (c : Reg) (e : Nat) : senders b g c e = pushers b g c e := by
  refine List.filter_congr fun l _ => ?_
  cases h : laneThread b g l <;> simp [laneReg, h, beq_eq_decide]

theorem push_did {d a c : Reg} {p : BitVec 3} (h : Issuing s b g (.push d a c p)) :
    ∃ t, exec (.push d a c p) s = .next t ∧ LanesDid s t b g fun m th th' =>
      match (pushers b g c m.lane).getLast? with
      | none => SetsPred p false th th'
      | some l => SetsPred p (2 ≤ (pushers b g c m.lane).length) (th.setReg d (laneVal b g a l)) th' := by
  obtain ⟨t, ht, hl⟩ := onLanes_did h (fun b g m th =>
    match (senders b g c m.lane).getLast? with
    | none => th.setPred p false
    | some l => (th.setReg d ((laneReg b g a l).getD 0)).setPred p ((senders b g c m.lane).length ≥ 2)) fun m th => by split <;> simp
  refine ⟨t, ht, hl.mono fun m th th' hc => ?_⟩
  rw [senders_eq] at hc
  cases hlast : (pushers b g c m.lane).getLast? with
  | none => rw [hlast] at hc; exact setsPred_of_content hc
  | some l => rw [hlast] at hc; exact setsPred_of_content hc

/-- Whether the active lanes' votes meet a mode other than .ballot (R203). -/
def voteFinds (md : VoteMode) (neg : Bool) (p : BitVec 3) (b : Block) (g : Group) : Bool :=
  let vs := (activeLanes b g).map fun x => (x.1.lane, x.2.pred p != neg)
  match md with
  | .all => vs.all fun v => v.2
  | .any => vs.any fun v => v.2
  | _ => vs.all (fun v => v.2) || vs.all fun v => !v.2

theorem voteFinds_iff {md : VoteMode} (hmd : md ≠ .ballot) (neg : Bool) (p : BitVec 3) (b : Block) (g : Group) :
    voteFinds md neg p b g = true ↔ voted md neg p b g := by
  cases md
  case ballot => exact absurd rfl hmd
  case all => simp only [voteFinds, voted, actives, List.all_map, List.all_eq_true, Function.comp_apply, List.forall_mem_map]
  case any =>
    simp only [voteFinds, voted, actives, List.any_map, List.any_eq_true, Function.comp_apply, List.mem_map, exists_exists_and_eq_and]
  case eq =>
    change _ ↔ ∃ v, _
    rw [Bool.exists_bool, or_comm]
    simp only [voteFinds, actives, List.all_map, Bool.or_eq_true, List.all_eq_true, Function.comp_apply, List.forall_mem_map,
      Bool.not_eq_true']

theorem exec_vote_eq {md : VoteMode} (hmd : md ≠ .ballot) (d : Reg) (neg : Bool) (p : BitVec 3) (s : State) :
    exec (.vote md d neg p) s =
      onLanes (.vote md d neg p) s fun b g _ th => th.setPred (d.extractLsb' 0 3) (voteFinds md neg p b g) := by
  cases md
  case ballot => exact absurd rfl hmd
  case all | any | eq => rfl

theorem vote_did {md : VoteMode} {d : Reg} {neg : Bool} {p : BitVec 3} (hmd : md ≠ .ballot) (h : Issuing s b g (.vote md d neg p)) :
    ∃ t, exec (.vote md d neg p) s = .next t ∧ LanesDid s t b g fun _ th th' =>
      ∃ v : Bool, (v = true ↔ voted md neg p b g) ∧ SetsPred (d.extractLsb' 0 3) v th th' := by
  rw [exec_vote_eq hmd]
  obtain ⟨t, ht, hl⟩ := onLanes_did h (fun b g _ th => th.setPred (d.extractLsb' 0 3) (voteFinds md neg p b g)) fun _ _ => by simp
  exact ⟨t, ht, hl.mono fun _ _ _ hc => ⟨_, voteFinds_iff hmd neg p b g, setsPred_of_content hc⟩⟩

end

/-- Settles O10, clause by clause: LPSET, PUSH and VOTE. -/
theorem lanePatternPushVoteResult : Obligations.LanePatternPushVoteResult :=
  ⟨fun _ _ _ _ _ h => lpset_did h, fun _ _ _ _ _ _ _ h => push_did h, fun _ _ _ _ _ _ _ hmd h => vote_did hmd h⟩

end Sys2Proof.Machine
end

section
/-! PROOFS. RED, SCAN and REDMAXI (O11). -/

namespace Sys2Proof.Machine

open Sys2Proof Sys2Proof.Rules

/- The levels of the tree are the rule's nodes (R204). -/

section

variable (f : Nat → Nat → Nat × BitVec 6)

theorem treeLevel_pair (x y : Nat) (r : List Nat) : (treeLevel f (x :: y :: r)).1 = (f x y).1 :: (treeLevel f r).1 := rfl

theorem treeLevels_succ (n : Nat) (l : List Nat) : (treeLevels f (n + 1) l).1 = l :: (treeLevels f n (treeLevel f l).1).1 := rfl

theorem treeLevel_nodes : ∀ (n : Nat) (x : Nat → Nat),
    (treeLevel f ((List.range (2 * n)).map x)).1 = (List.range n).map (node f x 1)
  | 0, _ => rfl
  | n + 1, x => by
    have hrange : (List.range (2 * (n + 1))).map x = x 0 :: x 1 :: (List.range (2 * n)).map fun i => x (i + 2) := by
      rw [show 2 * (n + 1) = 2 * n + 1 + 1 by omega, List.range_succ_eq_map, List.range_succ_eq_map]
      simp
    rw [hrange, treeLevel_pair, treeLevel_nodes n, List.range_succ_eq_map, List.map_cons, List.map_map]
    rfl

/-- Level k of the tree over level 1 is level k + 1. -/
theorem node_node (x : Nat → Nat) : ∀ k, node f (node f x 1) k = node f x (k + 1)
  | 0 => rfl
  | k + 1 => by
    funext i
    rw [node, node_node x k]
    rfl

theorem treeLevels_nodes : ∀ (n : Nat) (x : Nat → Nat),
    (treeLevels f n ((List.range (2 ^ n)).map x)).1 = (List.range (n + 1)).map fun k => (List.range (2 ^ (n - k))).map (node f x k)
  | 0, _ => rfl
  | n + 1, x => by
    rw [treeLevels_succ, pow_succ', treeLevel_nodes, treeLevels_nodes n, List.range_succ_eq_map (n := n + 1), List.map_cons, List.map_map]
    simp only [Function.comp_def, node_node, Nat.succ_eq_add_one, Nat.add_sub_add_right, Nat.sub_zero, pow_succ']
    rfl

theorem treeLevels_root (x : Nat → Nat) : ((treeLevels f 5 ((List.range 32).map x)).1.getLastD []).headD 0 = node f x 5 0 := by
  rw [show 32 = 2 ^ 5 from rfl, treeLevels_nodes]
  rfl

theorem treeLevels_getD (x : Nat → Nat) {k i : Nat} (hk : k ≤ 5) (hi : i < 2 ^ (5 - k)) :
    ((treeLevels f 5 ((List.range 32).map x)).1.getD k []).getD i 0 = node f x k i := by
  rw [show 32 = 2 ^ 5 from rfl, treeLevels_nodes]
  simp [List.getD_eq_getElem?_getD, Nat.lt_succ_of_le hk, hi]

/- What SCAN combines for a lane (R205). -/

theorem bitOf_iff (n k : Nat) : bitOf n k = true ↔ n / 2 ^ k % 2 = 1 := by
  rw [bitOf, Nat.shiftRight_eq_div_pow, beq_iff_eq]

section

variable (x : Nat → Nat) {n k : Nat} (base : Nat) (acc : Option Nat)

theorem scanNodes_set (h : n / 2 ^ k % 2 = 1) : scanNodes f x n (k + 1) base acc = scanNodes f x n k (base + 2 ^ k)
    (some (acc.elim (node f x k (base / 2 ^ k)) fun y => (f y (node f x k (base / 2 ^ k))).1)) := by
  cases acc
  case none | some => exact if_pos h

theorem scanNodes_clear (h : ¬ n / 2 ^ k % 2 = 1) : scanNodes f x n (k + 1) base acc = scanNodes f x n k base acc := if_neg h

end

/-- The model's scan of at most 32 lanes is the rule's, from any bit of the count downwards: every node it reads lies in the tree. -/
theorem scanFrom_nodes (x : Nat → Nat) (n : Nat) : ∀ (k base : Nat) (acc : Option Nat) (fl : BitVec 6), k ≤ 6 → base + n % 2 ^ k ≤ 32 →
    (scanFrom f (treeLevels f 5 ((List.range 32).map x)).1 n k base acc fl).1 = scanNodes f x n k base acc
  | 0, _, _, _, _, _ => rfl
  | k + 1, base, acc, fl, hk, hle => by
    have hmod : n % 2 ^ (k + 1) = n % 2 ^ k + 2 ^ k * (n / 2 ^ k % 2) := Nat.mod_pow_succ
    rw [scanFrom]
    by_cases hbit : n / 2 ^ k % 2 = 1
    · have hpos : 0 < 2 ^ k := by positivity
      have hprod : 2 ^ k * 2 ^ (5 - k) = 32 := by rw [← pow_add, show k + (5 - k) = 5 by omega]; rfl
      rw [hbit] at hmod
      have hnode := treeLevels_getD f x (k := k) (i := base / 2 ^ k) (by omega) (Nat.div_lt_of_lt_mul (by omega))
      rw [if_pos ((bitOf_iff n k).2 hbit), scanNodes_set f x base acc hbit, Nat.shiftRight_eq_div_pow, hnode]
      cases acc
      case none => exact scanFrom_nodes x n k _ _ _ (by omega) (by omega)
      case some y => exact scanFrom_nodes x n k _ _ _ (by omega) (by omega)
    · rw [if_neg (mt (bitOf_iff n k).1 hbit), scanNodes_clear f x base acc hbit]
      exact scanFrom_nodes x n k _ _ _ (by omega) (by omega)

theorem scanNodes_some (x : Nat → Nat) (n : Nat) : ∀ (k base : Nat) (acc : Option Nat), acc.isSome ∨ n % 2 ^ k ≠ 0 →
    ∃ y, scanNodes f x n k base acc = some y
  | 0, _, acc, h => Option.isSome_iff_exists.1 (h.resolve_right fun hn => hn (Nat.mod_one n))
  | k + 1, base, acc, h => by
    by_cases hbit : n / 2 ^ k % 2 = 1
    · rw [scanNodes_set f x base acc hbit]
      exact scanNodes_some x n k _ _ (.inl rfl)
    · have hmod : n % 2 ^ (k + 1) = n % 2 ^ k + 2 ^ k * (n / 2 ^ k % 2) := Nat.mod_pow_succ
      rw [hmod, Nat.mod_two_ne_one.1 hbit] at h
      rw [scanNodes_clear f x base acc hbit]
      exact scanNodes_some x n k _ _ h

theorem scanFrom_lane (x : Nat → Nat) {lane : Nat} (h : lane < 32) :
    some ((scanFrom f (treeLevels f 5 ((List.range 32).map x)).1 (lane + 1) 6 0 none 0).1.getD 0) = scanNodes f x (lane + 1) 6 0 none := by
  have hmod : (lane + 1) % 2 ^ 6 = lane + 1 := Nat.mod_eq_of_lt (by omega)
  rw [scanFrom_nodes f x (lane + 1) 6 0 none 0 le_rfl (by omega)]
  obtain ⟨y, hy⟩ := scanNodes_some f x (lane + 1) 6 0 none (.inr (by omega))
  rw [hy]
  rfl

end

/- RED and SCAN. -/

section

variable {s : State} {b : Block} {g : Group}

theorem redInputs_eq (b : Block) (g : Group) (y : RedT) (o : RedOp) (a : Reg) (e : Nat) :
    redInputs b g y o a e = (List.range 32).map (redLane y o b g a e) := by
  refine List.map_congr_left fun l _ => ?_
  rw [laneReg, Option.map_map]
  rfl

theorem redBits_mul (y : RedT) : redBits y * (64 / redBits y) = 64 := by cases y <;> rfl

theorem red_did {y : RedT} {o : RedOp} {d a : Reg} (h : Issuing s b g (.red y o d a)) :
    ∃ t, exec (.red y o d a) s = .next t ∧ LanesDid s t b g fun _ th th' => ∃ v fl, th'.content = ((th.setReg d v).setFlags fl).content ∧
      ∀ e < 64 / redBits y, elt (redBits y) v e = node (redComb y o) (redLane y o b g a e) 5 0 % 2 ^ redBits y := by
  refine (onLanes_did h _ fun _ _ => rfl).imp fun t ⟨ht, hl⟩ => ⟨ht, hl.mono fun m th th' hc => ⟨_, _, hc, fun e he => ?_⟩⟩
  simp only [elt_pack _ _ _ (redBits_mul y) he, redInputs_eq, treeLevels_root]

theorem scan_did {y : RedT} {o : RedOp} {d a : Reg} (h : Issuing s b g (.scan y o d a)) :
    ∃ t, exec (.scan y o d a) s = .next t ∧ LanesDid s t b g fun m th th' => ∃ v fl, th'.content = ((th.setReg d v).setFlags fl).content ∧
      (m.lane < 32 → ∀ e < 64 / redBits y,
        some (elt (redBits y) v e) = (scanNodes (redComb y o) (redLane y o b g a e) (m.lane + 1) 6 0 none).map (· % 2 ^ redBits y)) := by
  refine (onLanes_did h _ fun _ _ => rfl).imp fun t ⟨ht, hl⟩ => ⟨ht, hl.mono fun m th th' hc => ⟨_, _, hc, fun hlane e he => ?_⟩⟩
  simp only [elt_pack _ _ _ (redBits_mul y) he, redInputs_eq, ← scanFrom_lane _ _ hlane, Option.map_some]

/- REDMAXI (R206). -/

/-- Pair q ranks at least as high as pair z: a greater key, or the same and an index no greater. -/
def ranksOver (q z : Int × Nat × Nat) : Prop := z.1 < q.1 ∨ (z.1 = q.1 ∧ q.2.1 ≤ z.2.1)

theorem bestPair_ranks : ∀ {l : List (Int × Nat × Nat)}, l ≠ [] → ∃ q ∈ l, bestPair l = some q ∧ ∀ z ∈ l, ranksOver q z
  | [], h => absurd rfl h
  | [x], _ => ⟨x, List.mem_singleton_self x, rfl, List.forall_mem_singleton.2 (.inr ⟨rfl, le_rfl⟩)⟩
  | x :: y :: r, _ => by
    obtain ⟨q, hq, hbest, hrank⟩ := bestPair_ranks (l := y :: r) (List.cons_ne_nil y r)
    have hpick : bestPair (x :: y :: r) = if x.1 < q.1 ∨ (q.1 = x.1 ∧ q.2.1 < x.2.1) then some q else some x := by
      rw [bestPair, hbest]
      simp
    rw [hpick]
    split
    case isTrue hover =>
      refine ⟨q, List.mem_cons_of_mem _ hq, rfl, List.forall_mem_cons.2 ⟨?_, hrank⟩⟩
      unfold ranksOver
      omega
    case isFalse hover =>
      refine ⟨x, List.mem_cons_self, rfl, List.forall_mem_cons.2 ⟨.inr ⟨rfl, le_rfl⟩, fun z hz => ?_⟩⟩
      have := hrank z hz
      unfold ranksOver at this ⊢
      omega

/-- The key and the index that an active lane offers, with its value. -/
def offered (y : MaxT) (a c : Reg) (x : Member × Thread) : Int × Nat × Nat :=
  (maxKey y (elt (maxBits y) (x.2.reg a) 0), (x.2.reg c).toNat, elt (maxBits y) (x.2.reg a) 0)

theorem redmaxi_did {y : MaxT} {d a c : Reg} (h : Issuing s b g (.redmaxi y d a c)) :
    ∃ t, exec (.redmaxi y d a c) s = .next t ∧ LanesDid s t b g fun _ th th' =>
      ∃ x ∈ activeLanes b g, (∀ z ∈ activeLanes b g, ranksOver (offered y a c x) (offered y a c z)) ∧
        th'.content = ((th.setReg d (BitVec.ofNat 64 (maxValue y (elt (maxBits y) (x.2.reg a) 0)))).setReg (d + 1) (x.2.reg c)).content := by
  obtain ⟨t, ht, hl⟩ := onLanes_did h (fun b g _ th =>
    match bestPair ((activeLanes b g).map (offered y a c)) with
    | none => th
    | some (_, i, v) => (th.setReg d (BitVec.ofNat 64 (maxValue y v))).setReg (nextReg d) (BitVec.ofNat 64 i))
    fun _ _ => by split <;> rfl
  refine ⟨t, ht, hl.mono_active fun m th th' hact hc => ?_⟩
  have hsome : (activeLanes b g).map (offered y a c) ≠ [] := by simpa using List.ne_nil_of_mem hact
  obtain ⟨q, hq, hbest, hrank⟩ := bestPair_ranks hsome
  obtain ⟨x, hx, rfl⟩ := List.mem_map.1 hq
  rw [hbest] at hc
  exact ⟨x, hx, fun z hz => hrank _ (List.mem_map_of_mem hz), by simpa [offered, nextReg] using hc⟩

end

/-- Settles O11, clause by clause: RED from the tree's root, SCAN from its nodes, REDMAXI by `bestPair_ranks`. -/
theorem laneReductionResult : Obligations.LaneReductionResult :=
  ⟨fun _ _ _ _ _ _ _ h => red_did h, fun _ _ _ _ _ _ _ h => scan_did h, fun _ _ _ _ _ _ _ h => redmaxi_did h⟩

end Sys2Proof.Machine
end

section
/-! PROOFS. SHFL's word and result (O57). -/

namespace Sys2Proof.Machine

open Sys2Proof Sys2Proof.Rules

theorem extractLsb'_ofNat_eq {w lo k n : Nat} {x : BitVec k} (hn : n < 2 ^ w) (h : n / 2 ^ lo % 2 ^ k = x.toNat) :
    (BitVec.ofNat w n).extractLsb' lo k = x := by
  refine BitVec.eq_of_toNat_eq ?_
  rw [BitVec.extractLsb'_toNat, BitVec.toNat_ofNat, Nat.mod_eq_of_lt hn, Nat.shiftRight_eq_div_pow, h]

theorem decode_lane {w : Word32} (h : fOp w = 0x0F) (rest : List Word32) : decode (w :: rest) = decodeLane w := by
  simp [decode, h]

theorem decodeLane_shfl {w : Word32} (hfn : fFn w = 1) (hl : fL w = 0) : decodeLane w = .ok (.shfl (fD w) (fA w) (fB w), 1) := by
  simp [decodeLane, hfn, hl, noPattern, verdict]

theorem decode_shfl (d a c : Reg) (rest : List Word32) :
    decode (BitVec.ofNat 32 (0x0F * 2 ^ 26 + d.toNat * 2 ^ 20 + a.toNat * 2 ^ 14 + c.toNat * 2 ^ 8 + 1) :: rest) = .ok (.shfl d a c, 1) := by
  have hd := d.isLt
  have ha := a.isLt
  have hc := c.isLt
  generalize hn : 0x0F * 2 ^ 26 + d.toNat * 2 ^ 20 + a.toNat * 2 ^ 14 + c.toNat * 2 ^ 8 + 1 = n
  have hfield {k : Nat} (lo : Nat) (x : BitVec k) (h : n / 2 ^ lo % 2 ^ k = x.toNat) : (BitVec.ofNat 32 n).extractLsb' lo k = x :=
    extractLsb'_ofNat_eq (by omega) h
  have hop : fOp (BitVec.ofNat 32 n) = 0x0F := hfield 26 0x0F (show n / 2 ^ 26 % 2 ^ 6 = 15 by omega)
  have hfn : fFn (BitVec.ofNat 32 n) = 1 := hfield 0 1 (show n / 2 ^ 0 % 2 ^ 5 = 1 by omega)
  have hl : fL (BitVec.ofNat 32 n) = 0 := hfield 5 0 (show n / 2 ^ 5 % 2 ^ 3 = 0 by omega)
  have hfd : fD (BitVec.ofNat 32 n) = d := hfield 20 _ (by omega)
  have hfa : fA (BitVec.ofNat 32 n) = a := hfield 14 _ (by omega)
  have hfb : fB (BitVec.ofNat 32 n) = c := hfield 8 _ (by omega)
  rw [decode_lane hop, decodeLane_shfl hfn hl, hfd, hfa, hfb]

/-- Settles O57: SHFL's word decodes field by field, and each active lane writes what the lane it names holds. -/
theorem shuffleRule : Obligations.ShuffleRule :=
  ⟨decode_shfl, fun _ _ _ d a c h =>
    onLanes_did h (fun b g _ th => th.setReg d (if (th.reg c).toNat % 64 < 32 then (laneReg b g a ((th.reg c).toNat % 64)).getD 0 else 0))
      fun _ _ => rfl⟩

end Sys2Proof.Machine
end

section
/-! SUPPORT. One access of one lane (R207): its effective address, the end of its instruction with what became of its lane, a value and a wait
settled, an access in its turn of the SC order. -/

namespace Sys2Proof.Machine

open Sys2Proof Sys2Proof.Rules

variable {s u : State} {b : Block} {g : Group} {m : Member} {th : Thread} {i : Instr}

/- Effective addresses (R132, R134, R207). -/

theorem ea_eq_short {n : Nat} (th : Thread) (r : Reg) (o : BitVec n) : ea_ th r (8 * o.toInt) = th.reg r + (o.signExtend 64 <<< 3) := by
  rw [ea_, BitVec.ofInt_add, BitVec.ofInt_toInt, BitVec.ofInt_mul, ← BitVec.signExtend]
  congr 1
  refine BitVec.eq_of_toNat_eq ?_
  rw [BitVec.toNat_mul, BitVec.toNat_shiftLeft, Nat.shiftLeft_eq, Nat.mul_comm]
  rfl

theorem access_long (op : AccOp) (r d : Reg) (o : BitVec 26) (k : BitVec 3) (l : BitVec 4) :
    Access.of ⟨op, fun th => ea_ th r o.toInt, d, k, l⟩ = fun th => mkAcc op th (eaLong th r o) d k l :=
  funext fun th => congrArg (mkAcc op th · d k l) (ea_eq_eaLong th r o)

theorem access_short (op : AccOp) (r d : Reg) (o : BitVec 6) (k : BitVec 3) (l : BitVec 4) :
    Access.of ⟨op, fun th => ea_ th r (8 * o.toInt), d, k, l⟩ = fun th => mkAcc op th (eaShort th r o) d k l :=
  funext fun th => congrArg (mkAcc op th · d k l) (ea_eq_short th r o)

theorem access_short5 (op : AccOp) (r d : Reg) (o : BitVec 5) (k : BitVec 3) (l : BitVec 4) :
    Access.of ⟨op, fun th => ea_ th r (8 * o.toInt), d, k, l⟩ = fun th => mkAcc op th (eaShort5 th r o) d k l :=
  funext fun th => congrArg (mkAcc op th · d k l) (ea_eq_short th r o)

theorem leNat_lt : ∀ bs : List Byte, leNat bs < 2 ^ (8 * bs.length)
  | [] => Nat.one_pos
  | x :: r => by
    have hx := x.isLt
    have hr := leNat_lt r
    have hpow : 2 ^ (8 * (x :: r).length) = 256 * 2 ^ (8 * r.length) := by rw [List.length_cons, Nat.mul_add, pow_add]; omega
    rw [leNat, hpow]
    omega

theorem Memory.num_lt (mem : Memory) (a n : Nat) : mem.num a n < 2 ^ (8 * n) := by
  have h := leNat_lt (mem.read a n)
  rwa [Memory.read_length] at h

/- The end of the instruction. -/

/-- The end of an instruction whose act has changed its lane by f and the block's full bits: the state but for the block's progress. The lane
keeps the content f gives it, and its status where it waits. -/
theorem advanceIn_went (h : IssuingAlone s b g m th i) (fl : List Nat) (f : Thread → Thread) (hf : ∀ x, (f x).trapAfter = x.trapAfter)
    (hb : u.blocks = replaceFirst (isBlock b.grid b.bidx) (fun _ => ({ b with full := fl } : Block).updThread th.tid f) s.blocks)
    (n : Nat) (ws : List Window) :
    (∃ bs, advanceIn u b.grid b.bidx g.gid n ws = { u with blocks := bs, issuing := none }) ∧
      OneLane s (advanceIn u b.grid b.bidx g.gid n ws) { b with full := fl } g fun _ x x' =>
        x'.content = (f x).content ∧ ((f x).status ≠ .issuing → x'.status = (f x).status) := by
  obtain ⟨hblock, -, -⟩ := State.cur?_block h.current
  have hgroup := State.cur?_group h.current
  let c := ({ b with full := fl } : Block).updThread th.tid f
  have hcalm : ∀ x ∈ c.threads, x.trapAfter = none := by
    intro x hx
    rcases Block.mem_updThread hx with hx | ⟨y, hy, -, rfl⟩
    · exact h.calm x hx
    · rw [hf]
      exact h.calm y hy
  have he : advanceIn u b.grid b.bidx g.gid n ws = (u.updBlock b.grid b.bidx fun _ => advanceBlock u c g n ws).idle :=
    advanceIn_found (b := c) (State.block?_eq_of_blocks hblock hb ⟨rfl, rfl⟩) hgroup hcalm n ws
  refine ⟨⟨_, he⟩, advanceBlock u c g n ws, ?_, by rw [he]; rfl, advanceBlock_shell u c g n ws, ?_⟩
  · rw [he]
    exact (congrArg _ hb).trans (replaceFirst_replaceFirst _ (fun _ => c) _ (fun _ _ => isBlock_self c) s.blocks)
  · have hw : LanesWent b (advanceBlock u c g n ws) g fun _ x x' =>
        x'.content = (f x).content ∧ ((f x).status ≠ .issuing → x'.status = (f x).status) :=
      (updThread_lanesWent (s2 := u) (c := c) h f rfl n ws).mono fun _ _ _ hx => hx ▸ ⟨movedThread_content .., movedThread_status⟩
    exact hw

theorem updThread_found (h : IssuingAlone s b g m th i) (f : Thread → Thread) :
    (s.updThread (trefOf b th) f).blocks = replaceFirst (isBlock b.grid b.bidx) (fun _ => b.updThread th.tid f) s.blocks :=
  replaceFirst_found (State.cur?_block h.current).1 _

theorem blocks_found (h : IssuingAlone s b g m th i) : s.blocks = replaceFirst (isBlock b.grid b.bidx) (fun _ => b) s.blocks :=
  (congrArg State.blocks (State.updBlock_self (State.cur?_block h.current).1)).symm

/-- The same where the lane alone has changed. -/
theorem advanceIn_wentAlone (h : IssuingAlone s b g m th i) (f : Thread → Thread) (hf : ∀ x, (f x).trapAfter = x.trapAfter)
    (hb : u.blocks = (s.updThread (trefOf b th) f).blocks) (n : Nat) (ws : List Window) :
    (∃ bs, advanceIn u b.grid b.bidx g.gid n ws = { u with blocks := bs, issuing := none }) ∧
      OneLane s (advanceIn u b.grid b.bidx g.gid n ws) b g fun _ x x' =>
        x'.content = (f x).content ∧ ((f x).status ≠ .issuing → x'.status = (f x).status) :=
  advanceIn_went h b.full f hf (hb.trans (updThread_found h f)) n ws

/- What an access leaves with its thread (R137, R138, R210). -/

/-- A thread whose result of a token stays outstanding: its token count, or its store count where the access has no register result. -/
def raised (tok : Nat) (x : Thread) : Thread :=
  if tok < 7 then x.setTok tok (x.tok tok + 1) else if tok = 8 then { x with stores := x.stores + 1 } else x

theorem raised_token (k : BitVec 3) : raised k.toNat = raise k := by
  funext x
  have hlt := k.isLt
  by_cases h7 : k = 7
  · rw [h7]
    rfl
  · have hne : k.toNat ≠ 7 := fun e => h7 (BitVec.eq_of_toNat_eq e)
    rw [raised, if_pos (by omega), raise, if_neg h7]

theorem raised_trap (tok : Nat) (x : Thread) : (raised tok x).trapAfter = x.trapAfter := by
  rw [raised]
  split_ifs <;> rfl

theorem raised_tid (tok : Nat) (x : Thread) : (raised tok x).tid = x.tid := by
  rw [raised]
  split_ifs <;> rfl

theorem addPend_eq (s : State) (p : Pend) : addPend s p =
    { s.updThread p.who (raised p.tok) with pend := s.pend ++ [p], nextId := s.nextId + 1 } := by
  by_cases h7 : p.tok < 7
  · have hr : raised p.tok = fun x => x.setTok p.tok (x.tok p.tok + 1) := funext fun x => if_pos h7
    rw [addPend, hr]
    exact if_pos h7
  · by_cases h8 : p.tok = 8
    · have hr : raised p.tok = fun x => { x with stores := x.stores + 1 } := funext fun x => by rw [raised, if_neg h7, if_pos h8]
      rw [addPend, hr]
      exact (if_neg h7).trans (if_pos (by simp [h8]))
    · have hr : raised p.tok = id := funext fun x => by rw [raised, if_neg h7, if_neg h8, id]
      rw [addPend, hr, State.updThread_id]
      exact (if_neg h7).trans (if_neg (by simp [h8]))

/-- The end of an instruction whose lane has one more result outstanding. -/
theorem advanceIn_addPend {p : Pend} (h : IssuingAlone s b g m th i) (hb : u.blocks = s.blocks) (hwho : p.who = trefOf b th) (n : Nat)
    (ws : List Window) :
    (∃ bs, advanceIn (addPend u p) b.grid b.bidx g.gid n ws =
      { u with blocks := bs, pend := u.pend ++ [p], nextId := u.nextId + 1, issuing := none }) ∧
    OneLane s (advanceIn (addPend u p) b.grid b.bidx g.gid n ws) b g fun _ x x' => x'.content = (raised p.tok x).content := by
  obtain ⟨⟨bs, he⟩, hlane⟩ := advanceIn_wentAlone (u := addPend u p) h (raised p.tok) (raised_trap _)
    (by rw [addPend_eq, hwho]; exact congrArg (replaceFirst _ _) hb) n ws
  exact ⟨⟨bs, he.trans (by rw [addPend_eq]; rfl)⟩, hlane.mono fun _ _ _ hx => hx.1⟩

/- A result written (R137, R182). -/

/-- The thread with a result's registers and flags; of an exited one they are discarded (R182). -/
def resultIn (dests : List (Reg × Word)) (f : BitVec 6) (x : Thread) : Thread :=
  if x.status = .exited then x else dests.foldl (fun t r => t.setReg r.1 r.2) (x.setFlags f)

theorem setRegs_status (dests : List (Reg × Word)) : ∀ x : Thread, (dests.foldl (fun t r => t.setReg r.1 r.2) x).status = x.status := by
  induction dests with
  | nil => exact fun _ => rfl
  | cons r rs ih => exact fun x => ih (x.setReg r.1 r.2)

/-- A result under a token, to a thread that is not put aside. -/
theorem finishThread_token {p : Pend} {x : Thread} (htok : p.tok < 7) (hx : x.status ≠ .shelved) (dests : List (Reg × Word)) (f : BitVec 6) :
    finishThread p dests f x = (resultIn dests f x).setTok p.tok ((resultIn dests f x).tok p.tok - 1) := by
  have h7 : (p.tok == 7) = false := by simp [htok.ne]
  have hsh : (x.status == .shelved) = false := by simp [hx]
  by_cases hgone : x.status = .exited
  · simp [finishThread, resultIn, hgone, htok]
  · simp [finishThread, resultIn, hgone, htok, h7, hsh]

/-- A result of tok = 7 to a thread that is running. -/
theorem finishThread_untracked {p : Pend} {x : Thread} (htok : p.tok = 7) (hx : x.status = .issuing) (dests : List (Reg × Word))
    (f : BitVec 6) : finishThread p dests f x = resultIn dests f x := by
  have hs := setRegs_status dests (x.setFlags f)
  rw [Thread.setFlags_status, hx] at hs
  simp [finishThread, resultIn, hx, htok, hs]

theorem finishThread_trapAfter (p : Pend) (dests : List (Reg × Word)) (f : BitVec 6) (x : Thread) :
    (finishThread p dests f x).trapAfter = x.trapAfter := by
  have hregs (rs : List (Reg × Word)) : ∀ y : Thread, (rs.foldl (fun t r => t.setReg r.1 r.2) y).trapAfter = y.trapAfter := by
    induction rs with
    | nil => exact fun _ => rfl
    | cons r rs ih => exact fun y => ih (y.setReg r.1 r.2)
  simp only [finishThread, apply_ite Thread.trapAfter, Thread.setTok_trapAfter, hregs, Thread.setFlags_trapAfter, ite_self]

/-- The outstanding result of an access. -/
def pendOf (s : State) (who : Tref) (hdr : Va) (idx : Nat) (acc : Acc) (k : PendKind) : Pend :=
  { id := s.nextId, who := who, tok := if acc.op.counts then 8 else acc.k, acc := acc, kind := k, hdr := hdr, idx := idx, aged := 0
    mem := acc.op.memWait }

/-- An access that has to wait, in no status of its own. -/
theorem settle_wait {k : PendKind} (hk : waitStatus k = none) (ht : k ≠ .ticket) (s : State) (who : Tref) (hdr : Va) (idx : Nat) (acc : Acc) :
    ∃ ws, settle s who hdr idx acc (.wait k) = (addPend s (pendOf s who hdr idx acc k), ws) := by
  cases k
  case ticket => exact absurd rfl ht
  case signal | fullEmpty => cases hk
  all_goals exact ⟨_, rfl⟩

/-- The end of an instruction whose access has its value at once (R137): the value is in the register, or stands outstanding under the token. -/
theorem settle_delivers {acc : Acc} {k : BitVec 3} (h : IssuingAlone s b g m th i) (fl : List Nat)
    (hblocks : u.blocks = replaceFirst (isBlock b.grid b.bidx) (fun _ => { b with full := fl }) s.blocks) (hpend : u.pend = s.pend)
    (hcounts : acc.op.counts = false) (hk : acc.k = k.toNat) (v : Word) (f : BitVec 6) (n : Nat) :
    ∃ bs ps id ws, settle u (trefOf b th) g.hdr g.idx acc (.value v f) = ({ u with blocks := bs, pend := ps, nextId := id }, ws) ∧
      ∀ w : State, w.blocks = bs → w.pend = ps →
        (∃ bs', advanceIn w b.grid b.bidx g.gid n ws = { w with blocks := bs', issuing := none }) ∧
        Delivers s (advanceIn w b.grid b.bidx g.gid n ws) { b with full := fl } g th acc.d k v f := by
  have hset (x : Thread → Thread) : (u.updThread (trefOf b th) x).blocks =
      replaceFirst (isBlock b.grid b.bidx) (fun _ => ({ b with full := fl } : Block).updThread th.tid x) s.blocks := by
    change replaceFirst _ _ u.blocks = _
    rw [hblocks]
    exact replaceFirst_replaceFirst _ _ (fun c : Block => c.updThread th.tid x) (fun _ _ => isBlock_self { b with full := fl }) _
  by_cases h7 : k = 7
  · refine ⟨(u.updThread (trefOf b th) fun x => (x.setReg acc.d v).setFlags f).blocks, u.pend, u.nextId, [], ?_, fun w hwb hwp => ?_⟩
    · simp only [settle, hcounts, hk, h7]
      rfl
    · obtain ⟨⟨bs', he⟩, hlane⟩ := advanceIn_went h fl (fun x => (x.setReg acc.d v).setFlags f) (fun _ => rfl) (hwb.trans (hset _)) n []
      refine ⟨⟨bs', he⟩, fun _ => ⟨?_, hlane.mono fun _ _ _ hx => hx.1⟩, fun hne => absurd h7 hne⟩
      rw [he]
      exact hwp.trans hpend
  · have hlt : k.toNat < 7 := by
      have := k.isLt
      have : k.toNat ≠ 7 := fun e => h7 (BitVec.eq_of_toNat_eq e)
      omega
    let p := pendOf u (trefOf b th) g.hdr g.idx acc (.result v f)
    have htok : p.tok = k.toNat := by simp [p, pendOf, hcounts, hk]
    refine ⟨(u.updThread (trefOf b th) (raise k)).blocks, u.pend ++ [p], u.nextId + 1, [{ id := u.nextId, left := acc.l }], ?_,
      fun w hwb hwp => ?_⟩
    · have hadd : settle u (trefOf b th) g.hdr g.idx acc (.value v f) = (addPend u p, [{ id := u.nextId, left := acc.l }]) := by
        simp only [settle, hcounts, hk, Bool.false_eq_true, if_false, hlt, if_true]
        simp only [p, pendOf, hcounts, hk, Bool.false_eq_true, if_false]
      rw [hadd, addPend_eq, htok, raised_token]
      rfl
    · obtain ⟨⟨bs', he⟩, hlane⟩ := advanceIn_went h fl (raise k) (raised_token k ▸ raised_trap _) (hwb.trans (hset _)) n
        [{ id := u.nextId, left := acc.l }]
      refine ⟨⟨bs', he⟩, fun he7 => absurd he7 h7, fun _ => ⟨hlane.mono fun _ _ _ hx => hx.1, p, ?_, rfl, htok, rfl, rfl⟩⟩
      rw [he, ← hpend]
      exact hwp

/-- An instruction of one access that has its value at once. -/
theorem runAcc_delivers {f : Thread → Acc} {v : Word} {fl : BitVec 6} {k : BitVec 3} (h : IssuingAlone s b g m th i)
    (hok : accFaults s b (!th.priv) (f th) = (s, [])) (hord : (f th).op.scOrder = none) (hcounts : (f th).op.counts = false)
    (hk : (f th).k = k.toNat) (hp : performAcc s b (trefOf b th) (!th.priv) (f th) s.nextId = (u, .value v fl))
    (hblocks : u.blocks = s.blocks) (hpend : u.pend = s.pend) :
    ∃ t, runAcc i s f = .next t ∧ t.mem = u.mem ∧ t.writes = u.writes ∧ t.cores = u.cores ∧ Delivers s t b g th (f th).d k v fl := by
  obtain ⟨bs, ps, id, ws, hset, hend⟩ := settle_delivers h b.full (hblocks.trans (blocks_found h)) hpend hcounts hk v fl (Instr.len i)
  have hact := (actAcc_plain (State.cur?_block h.current).1 hord hp nofun g.hdr g.idx).trans hset
  obtain ⟨⟨bs', he⟩, hdel⟩ := hend { u with blocks := bs, pend := ps, nextId := id } rfl rfl
  exact ⟨_, runAcc_alone h f hok hact, by rw [he], by rw [he], by rw [he], hdel⟩

/- An access in its turn of the SC order (R112). -/

theorem scTurn_first (h : ∀ x ∈ s.scOut, x.1 = false → s.waitsOn x.2.2 = false) (n : Nat) : scTurn s false n = true := by
  rw [scTurn, Bool.not_eq_true', List.any_eq_false]
  intro x hx
  by_cases hpod : x.1 = false
  · simp [h x hx hpod]
  · simp [hpod]

/-- The SC order of an access of an order and a scope. -/
def scOrderOf (od : Order) (sc : Scope) : Option Bool := if od = .sc then some (sc = .pod) else none

theorem scOrder_atom (o : AtomOp) (y : AtomTy) (od : Order) (sc : Scope) : (AccOp.atom o y od sc).scOrder = scOrderOf od sc := by
  cases od <;> rfl

theorem scOrder_sig (o : SigOp) (od : Order) (sc : Scope) : (AccOp.sig o od sc).scOrder = scOrderOf od sc := by
  cases od <;> rfl

theorem scOrder_sigarm (od : Order) (sc : Scope) : (AccOp.sigarm od sc).scOrder = scOrderOf od sc := by
  cases od <;> rfl

/-- An access of the thread that has to await no ticket is performed and settled; of the SC order it takes the package's next ticket. -/
theorem actAcc_inTurn {acc : Acc} {r : ActRes} {v w : State} {user : Bool} {hdr : Va} {idx : Nat} {ws : List Window} {od : Order} {sc : Scope}
    (hb : s.block? b.grid b.bidx = some b) (hd : Drained s b th) (hord : acc.op.scOrder = scOrderOf od sc) (hticket : ¬(od = .sc ∧ sc = .pod))
    (hturn : od = .sc → ∀ x ∈ s.scOut, x.1 = false → s.waitsOn x.2.2 = false)
    (hp : performAcc s b (trefOf b th) user acc s.nextId = (v, r)) (hr : r ≠ .wait .scTicket)
    (hset : settle v (trefOf b th) hdr idx acc r = (w, ws)) :
    ∃ n l, actAcc s (trefOf b th) hdr idx user acc = ({ w with scNext := n, scOut := l }, ws) := by
  by_cases hsc : od = .sc
  · have hpod : sc ≠ .pod := fun e => hticket ⟨hsc, e⟩
    rw [scOrderOf, if_pos hsc, decide_eq_false hpod] at hord
    refine ⟨(drawTicket w s.nextId).scNext, (drawTicket w s.nextId).scOut, ?_⟩
    simp only [actAcc, show s.block? (trefOf b th).grid (trefOf b th).bidx = some b from hb, hord, settleBefore_drained hd,
      scTurn_first (hturn hsc), hp, hset, Bool.not_true, Bool.false_eq_true, if_false]
    rfl
  · rw [scOrderOf, if_neg hsc] at hord
    exact ⟨w.scNext, w.scOut, (actAcc_plain hb hord hp hr hdr idx).trans hset⟩

/-- One of the Halyard's SC order asks for its ticket and stays outstanding. -/
theorem actAcc_pod {acc : Acc} {user : Bool} (hb : s.block? b.grid b.bidx = some b) (hd : Drained s b th) (hord : acc.op.scOrder = some true)
    (hdr : Va) (idx : Nat) :
    actAcc s (trefOf b th) hdr idx user acc =
      settle (sendEvent s (.ticket (evHdr s (s.jobOf b.grid)))) (trefOf b th) hdr idx acc (.wait .scTicket) := by
  simp only [actAcc, show s.block? (trefOf b th).grid (trefOf b th).bidx = some b from hb, hord, settleBefore_drained hd, Bool.not_true,
    Bool.false_eq_true, if_false, if_true]
  rfl

/-- An access in its turn of the SC order that has its value at once. -/
theorem actAcc_inTurn_delivers {u : State} {acc : Acc} {k : BitVec 3} {v : Word} {f : BitVec 6} {od : Order} {sc : Scope}
    (h : IssuingAlone s b g m th i) (hd : Drained s b th) (hord : acc.op.scOrder = scOrderOf od sc) (hticket : ¬(od = .sc ∧ sc = .pod))
    (hturn : od = .sc → ∀ x ∈ s.scOut, x.1 = false → s.waitsOn x.2.2 = false) (hcounts : acc.op.counts = false) (hk : acc.k = k.toNat)
    (hp : performAcc s b (trefOf b th) (!th.priv) acc s.nextId = (u, .value v f)) (hblocks : u.blocks = s.blocks) (hpend : u.pend = s.pend)
    (n : Nat) :
    ∃ w ws, actAcc s (trefOf b th) g.hdr g.idx (!th.priv) acc = (w, ws) ∧
      (advanceIn w b.grid b.bidx g.gid n ws).mem = u.mem ∧ Delivers s (advanceIn w b.grid b.bidx g.gid n ws) b g th acc.d k v f := by
  obtain ⟨bs, ps, id, ws, hset, hend⟩ := settle_delivers h b.full (hblocks.trans (blocks_found h)) hpend hcounts hk v f n
  obtain ⟨x, l, hact⟩ := actAcc_inTurn (State.cur?_block h.current).1 hd hord hticket hturn hp nofun hset
  obtain ⟨⟨bs', he⟩, hdel⟩ := hend { u with blocks := bs, pend := ps, nextId := id, scNext := x, scOut := l } rfl rfl
  exact ⟨_, _, hact, by rw [he], hdel⟩

/-- An access in its turn of the SC order that is over at once. -/
theorem actAcc_inTurn_done {acc : Acc} {od : Order} {sc : Scope}
    (h : IssuingAlone s b g m th i) (hd : Drained s b th) (hord : acc.op.scOrder = scOrderOf od sc) (hticket : ¬(od = .sc ∧ sc = .pod))
    (hturn : od = .sc → ∀ x ∈ s.scOut, x.1 = false → s.waitsOn x.2.2 = false)
    (hp : performAcc s b (trefOf b th) (!th.priv) acc s.nextId = (u, .done)) (hblocks : u.blocks = s.blocks) (n : Nat) :
    ∃ w ws, actAcc s (trefOf b th) g.hdr g.idx (!th.priv) acc = (w, ws) ∧
      (∃ bs x l, advanceIn w b.grid b.bidx g.gid n ws = { u with blocks := bs, scNext := x, scOut := l, issuing := none }) ∧
      OneLane s (advanceIn w b.grid b.bidx g.gid n ws) b g fun _ x x' => x'.content = x.content := by
  obtain ⟨x, l, hact⟩ := actAcc_inTurn (State.cur?_block h.current).1 hd hord hticket hturn hp nofun (hdr := g.hdr) (idx := g.idx) rfl
  obtain ⟨b', he, hlane⟩ := advanceIn_kept (s2 := { u with scNext := x, scOut := l }) h hblocks n []
  exact ⟨_, _, hact, ⟨_, x, l, he⟩, hlane⟩

/-- One of the Halyard's SC order leaves its request and stays outstanding. -/
theorem actAcc_pod_waits {acc : Acc} (h : IssuingAlone s b g m th i) (hd : Drained s b th) (hord : acc.op.scOrder = some true) (n : Nat) :
    ∃ w ws p, actAcc s (trefOf b th) g.hdr g.idx (!th.priv) acc = (w, ws) ∧ p = pendOf s (trefOf b th) g.hdr g.idx acc .scTicket ∧
      (advanceIn w b.grid b.bidx g.gid n ws).mem = s.mem ∧ (advanceIn w b.grid b.bidx g.gid n ws).pend = s.pend ++ [p] ∧
      (advanceIn w b.grid b.bidx g.gid n ws).outEvents =
        s.outEvents ++ [.ticket { seq := 0, origin := s.pkg, job := s.jobOf b.grid }] ∧
      OneLane s (advanceIn w b.grid b.bidx g.gid n ws) b g fun _ x x' => x'.content = (raised p.tok x).content := by
  let u := sendEvent s (.ticket (evHdr s (s.jobOf b.grid)))
  let p := pendOf s (trefOf b th) g.hdr g.idx acc .scTicket
  obtain ⟨ws, hset⟩ := settle_wait (k := .scTicket) rfl nofun u (trefOf b th) g.hdr g.idx acc
  obtain ⟨⟨bs, he⟩, hlane⟩ := advanceIn_addPend (u := u) (p := p) h rfl rfl n ws
  refine ⟨_, ws, p, (actAcc_pod (State.cur?_block h.current).1 hd hord g.hdr g.idx).trans hset, rfl, ?_⟩
  change (advanceIn (addPend u p) b.grid b.bidx g.gid n ws).mem = _ ∧ (advanceIn (addPend u p) b.grid b.bidx g.gid n ws).pend = _ ∧
    (advanceIn (addPend u p) b.grid b.bidx g.gid n ws).outEvents = _ ∧ _
  rw [he]
  exact ⟨rfl, rfl, rfl, he ▸ hlane⟩

end Sys2Proof.Machine
end

section
/-! PROOFS. LDF of a page that is here (O13). -/

namespace Sys2Proof.Machine

open Sys2Proof Sys2Proof.Rules

variable {s : State} {b : Block} {g : Group} {m : Member} {th : Thread} {i : Instr}

theorem exec_formatLoad_eq {a : Access} (h : formatLoads i = some a) (s : State) :
    exec i s = runAcc i s a.of := by
  unfold formatLoads at h
  split at h <;> cases h
  · rw [access_short]; rfl
  · rw [access_long]; rfl
  · rw [access_long]; rfl

/-- What a formatted load of a thread with nothing outstanding reads at a PA of its page (R214, R215). -/
def ldfHere (s : State) (b : Block) (bf : Bool) (va pa : Nat) (e : Word) : Word × BitVec 6 :=
  ldfValue s (dieOf b.core) (pteFmt e) (pteCb e) bf (s.mem.read pa (((ldfReads (pteFmt e) bf va).headD (0, 0)).2))
    (match ldfReads (pteFmt e) bf va with
     | _ :: x :: _ => s.mem.num (pa + x.1 - va) 1
     | _ => 127)

theorem performAcc_ldf {acc : Acc} {bf : Bool} {pa : Nat} {e : Word} (hop : acc.op = .ldf bf) (hd : Drained s b th)
    (hr : Reaches s b th acc pa e) (upTo : Nat) :
    performAcc s b (trefOf b th) (!th.priv) acc upTo =
      (noteHeat s (s.jobOf b.grid) acc.ea.toNat pa e s.pkg false,
        .value (ldfHere s b bf acc.ea.toNat pa e).1 (ldfHere s b bf acc.ea.toNat pa e).2) := by
  have hhere := hr.here
  simp only [hop, AccOp.writes] at hhere
  have hown (va : Nat) (bs : List Byte) : ownBytes s (trefOf b th) (dieOf b.core) upTo va bs = bs :=
    ownBytes_none hd.writes (hd.tickets (dieOf b.core)) upTo va bs
  simp only [performAcc, hop, accBefore_drained hd, lineBefore_drained hd, hhere, Bool.false_eq_true, if_false]
  rw [ldfHere]
  rcases ldfReads (pteFmt e) bf acc.ea.toNat with _ | ⟨x, _ | ⟨y, r⟩⟩ <;>
    simp only [List.drop_nil, List.drop_succ_cons, List.drop_zero, Memory.num, hown]

theorem exec_formatLoad_reached {a : Access} {bf : Bool} {pa : Nat} {e : Word} (hi : formatLoads i = some a) (hop : a.op = .ldf bf)
    (h : IssuingAlone s b g m th i) (hd : Drained s b th) (hr : Reaches s b th (a.of th) pa e) :
    ∃ t, exec i s = .next t ∧ t.mem = s.mem ∧ t.writes = s.writes ∧ t.cores = s.cores ∧
      Delivers s t b g th a.d a.k (ldfHere s b bf (a.ea th).toNat pa e).1 (ldfHere s b bf (a.ea th).toNat pa e).2 := by
  have hop' : (a.of th).op = .ldf bf := hop
  obtain ⟨ds, hheat, -⟩ := noteHeat_own s (s.jobOf b.grid) (a.of th).ea.toNat pa e false
  have hperf := performAcc_ldf hop hd hr s.nextId
  rw [hheat] at hperf
  rw [exec_formatLoad_eq hi]
  exact runAcc_delivers (u := { s with dies := ds }) (f := a.of) h hr.sound (by rw [hop']; rfl) (by rw [hop']; rfl) rfl hperf rfl rfl

/-- Settles O13: the page's elements and scale are read whole (`performAcc_ldf`), and the value is delivered (`settle_delivers`). -/
theorem formattedLoadResult : Obligations.FormattedLoadResult :=
  fun _ _ _ _ _ _ _ _ _ _ hi hop h hd hr => exec_formatLoad_reached hi hop h hd hr

end Sys2Proof.Machine
end

section
/-! PROOFS. Scratchpad and weight-store loads (O14). -/

namespace Sys2Proof.Machine

open Sys2Proof Sys2Proof.Rules

variable {s : State} {b : Block} {g : Group} {m : Member} {th : Thread} {i : Instr}

theorem exec_scratchLoad_eq {n : Nat} {q : FeL} {a : Access} (h : scratchLoads i = some (n, q, a)) (s : State) :
    exec i s = runScratch i s a.of ∧ a.op = .lds n q := by
  unfold scratchLoads at h
  split at h <;> cases h
  · exact ⟨by rw [access_short5]; rfl, rfl⟩
  · exact ⟨by rw [access_long]; rfl, rfl⟩

theorem exec_weightLoad_eq {n : Nat} {a : Access} (h : weightLoads i = some (n, a)) (s : State) :
    exec i s = runAcc i s a.of ∧ a.op = .ldws n := by
  unfold weightLoads at h
  split at h <;> cases h
  · exact ⟨by rw [access_short]; rfl, rfl⟩
  · exact ⟨by rw [access_long]; rfl, rfl⟩
  · exact ⟨by rw [access_long]; rfl, rfl⟩

/-- Scratchpad bytes over which the thread has no store that is not yet performed. -/
theorem ownScratch_none {who : Tref} (hw : ∀ w ∈ s.writes, w.who ≠ who) (upTo off : Nat) (bs : List Byte) :
    ownScratch s who upTo off bs = bs := by
  have hnone : (s.writes.filter fun w => w.who == who && w.id < upTo && w.place.isScratch) = [] :=
    List.filter_eq_nil_iff.2 fun w hmem => by simp [hw w hmem]
  rw [ownScratch, hnone, List.foldl_nil]

/-- The full bits after a load of a qualifier has taken its granule (R73, R217). -/
def fullAfter (b : Block) (q : FeL) (off : Nat) : List Nat := if q = .wfc then markSet b.full (off / 16) false else b.full

/-- A scratchpad load whose granule is full, or that asks for no full bit, has its bytes at once. -/
theorem performAcc_lds {acc : Acc} {n : Nat} {q : FeL} {off : Nat} (hop : acc.op = .lds n q) (hoff : acc.ea.toNat % 2 ^ 57 = off)
    (hb : s.block? b.grid b.bidx = some b) (hd : Drained s b th) (hfull : q = .none ∨ b.full.contains (off / 16) = true) (user : Bool)
    (upTo : Nat) :
    performAcc s b (trefOf b th) user acc upTo =
      (s.updBlock b.grid b.bidx fun _ => { b with full := fullAfter b q off }, .value (BitVec.ofNat 64 (b.scratch.num off n)) 0) := by
  have hval : loadValue n false (ownScratch s (trefOf b th) upTo off (b.scratch.read off n)) = BitVec.ofNat 64 (b.scratch.num off n) := by
    rw [ownScratch_none (who := trefOf b th) hd.writes, loadValue_unsigned, Memory.num]
  have hkept (hq : q ≠ .wfc) : (s.updBlock b.grid b.bidx fun _ => { b with full := fullAfter b q off }) = s := by
    rw [fullAfter, if_neg hq]
    exact State.updBlock_self hb
  simp only [performAcc, hop, hoff, hval]
  cases q with
  | none => rw [hkept nofun]
  | wf => simp only [hfull.resolve_left nofun, if_true, reduceCtorEq, if_false, hkept nofun]
  | wfc =>
    simp only [hfull.resolve_left nofun, if_true]
    rw [State.updBlock_found hb]
    rfl

theorem exec_scratchLoad_full {n : Nat} {q : FeL} {a : Access} (hi : scratchLoads i = some (n, q, a)) (h : IssuingAlone s b g m th i)
    (hd : Drained s b th) (hok : accFaults s b (!th.priv) (a.of th) = (s, []))
    (hfull : q = .none ∨ b.full.contains ((a.ea th).toNat % 2 ^ 57 / 16) = true) :
    ∃ t, exec i s = .next t ∧ t.mem = s.mem ∧ t.writes = s.writes ∧
      Delivers s t { b with full := fullAfter b q ((a.ea th).toNat % 2 ^ 57) } g th a.d a.k
        (BitVec.ofNat 64 (b.scratch.num ((a.ea th).toNat % 2 ^ 57) n)) 0 := by
  obtain ⟨hblock, -, -⟩ := State.cur?_block h.current
  obtain ⟨hexec, hop⟩ := exec_scratchLoad_eq hi s
  have hop' : (a.of th).op = .lds n q := hop
  let full := fullAfter b q ((a.ea th).toNat % 2 ^ 57)
  let u := s.updBlock b.grid b.bidx fun _ => { b with full := full }
  have hperf := performAcc_lds (acc := a.of th) hop rfl hblock hd hfull (!th.priv) s.nextId
  obtain ⟨bs, ps, id, ws, hset, hend⟩ := settle_delivers (u := u) (acc := a.of th) (k := a.k) h full rfl rfl
    (by rw [hop']; rfl) rfl (BitVec.ofNat 64 (b.scratch.num ((a.ea th).toNat % 2 ^ 57) n)) 0 (Instr.len i)
  have hact := (actAcc_plain hblock (by rw [hop']; rfl) hperf nofun g.hdr g.idx).trans hset
  rw [hexec, runScratch, runLanesThen_alone (s1 := s) h _ _ _ (by simp only [accCheck, hok, List.isEmpty_nil, if_true]) hact]
  obtain ⟨⟨bs', he⟩, hdel⟩ := hend (State.updCore { u with blocks := bs, pend := ps, nextId := id } b.core _) rfl rfl
  exact ⟨_, rfl, by rw [he]; rfl, by rw [he]; rfl, hdel⟩

theorem exec_weightLoad_free {n : Nat} {a : Access} (hi : weightLoads i = some (n, a)) (h : IssuingAlone s b g m th i)
    (hok : accFaults s b (!th.priv) (a.of th) = (s, []))
    (hfree : wsBusy s (dieOf b.core) ((a.ea th).toNat % 2 ^ 57 / 2 ^ 16 % 8) = false) :
    ∃ t, exec i s = .next t ∧ t.mem = s.mem ∧ t.writes = s.writes ∧ t.cores = s.cores ∧
      Delivers s t b g th a.d a.k (BitVec.ofNat 64 ((s.die (dieOf b.core)).ws.num ((a.ea th).toNat % 2 ^ 57) n)) 0 := by
  obtain ⟨hexec, hop⟩ := exec_weightLoad_eq hi s
  have hop' : (a.of th).op = .ldws n := hop
  have hperf : performAcc s b (trefOf b th) (!th.priv) (a.of th) s.nextId =
      (s, .value (BitVec.ofNat 64 ((s.die (dieOf b.core)).ws.num ((a.ea th).toNat % 2 ^ 57) n)) 0) := by
    have hfree' : wsBusy s (dieOf b.core) ((a.of th).ea.toNat % 2 ^ 57 / 2 ^ 16 % 8) = false := hfree
    simp only [performAcc, hop', hfree', Bool.false_eq_true, if_false]
    rfl
  rw [hexec]
  exact runAcc_delivers (f := a.of) h hok (by rw [hop']; rfl) (by rw [hop']; rfl) rfl hperf rfl rfl

/-- Settles O14, clause by clause: scratchpad loads by `performAcc_lds`, weight-store loads. -/
theorem scratchAndWeightLoadResult : Obligations.ScratchAndWeightLoadResult :=
  ⟨fun _ _ _ _ _ _ _ _ _ hi h hd hok hfull => exec_scratchLoad_full hi h hd hok hfull,
   fun _ _ _ _ _ _ _ _ hi h hok hfree => exec_weightLoad_free hi h hok hfree⟩

end Sys2Proof.Machine
end

section
/-! PROOFS. Atomics (O17). -/

namespace Sys2Proof.Machine

open Sys2Proof Sys2Proof.Rules

variable {s : State} {b : Block} {g : Group} {m : Member} {th : Thread} {i : Instr}

/-- Bytes put where no wait and no armed entry stands. -/
theorem memPutAs_unwatched {pa : Nat} {bs : List Byte} (habove : 0x10000 ≤ pa)
    (hw : ∀ p ∈ s.pend, ∀ q od sc x, p.kind = .signal q od sc x → ¬(q / 8 * 8 < pa + bs.length ∧ pa < q / 8 * 8 + 8))
    (ha : ∀ d, ∀ a ∈ (s.die d).arms, ¬(a.obj / 8 * 8 < pa + bs.length ∧ pa < a.obj / 8 * 8 + 8)) (num : Nat) :
    ∃ ws, memPutAs s num pa bs = { s with mem := s.mem.write pa bs, opWrites := ws } := by
  obtain ⟨ws, hnote⟩ := noteOperand_frame s num (pa / 8) ((pa + bs.length + 7) / 8 - pa / 8)
  refine ⟨ws, ?_⟩
  rw [memPutAs, hnote]
  dsimp only
  rw [put_above habove]
  exact afterWrite_unwaited (s := { s with mem := s.mem.write pa bs, opWrites := ws }) s.mem hw ha

theorem atomBytes (y : AtomTy) (o : AtomOp) (od : Order) (sc : Scope) : (AccOp.atom o y od sc).size = atomBits y / 8 := by
  cases y <;> rfl

theorem atomBits_bytes (y : AtomTy) : 8 * (atomBits y / 8) = atomBits y ∧ 0 < atomBits y := by
  cases y <;> decide

theorem atomNew_eq (o : AtomOp) (y : AtomTy) (old x z : Nat) :
    atomNew o y old x z = atomResult o (atomSigned y) (atomBits y) old x z := by
  have hw := (atomBits_bytes y).2
  simp only [atomNew, sgn_eq hw]
  cases o <;> simp only [atomResult, beq_iff_eq]
  rfl

theorem atomOld_eq (o : AtomOp) (y : AtomTy) (old : Nat) :
    atomOld o y old = if o ≠ .addf ∧ atomSigned y then BitVec.ofInt 64 (s_ (atomBits y) old) else BitVec.ofNat 64 old := by
  simp only [atomOld, sgn_eq (atomBits_bytes y).2, bne_iff_ne, Bool.and_eq_true]

/-- An atomic that is neither staged nor held for the ticket unit takes its word at this package (R221, R222). -/
theorem performAcc_atom {acc : Acc} {o : AtomOp} {y : AtomTy} {od : Order} {sc : Scope} {pa : Nat} {e : Word}
    (hop : acc.op = .atom o y od sc) (hd : Drained s b th) (hr : Reaches s b th acc pa e)
    (hp : Plain s (s.jobOf b.grid) acc.ea.toNat pa (atomBits y / 8))
    (hord : od = .ord ∨ (od = .none ∧ o = .addf) → s.ordered b.grid = false) (upTo : Nat) :
    ∃ ds ws, performAcc s b (trefOf b th) (!th.priv) acc upTo =
      ({ s with
          mem := s.mem.write pa (leBytes (atomResult o (atomSigned y) (atomBits y) (s.mem.num pa (atomBits y / 8))
            (acc.x.toNat % 2 ^ atomBits y) (acc.y.toNat % 2 ^ atomBits y)) (atomBits y / 8))
          dies := ds, opWrites := ws },
        .value (atomOld o y (s.mem.num pa (atomBits y / 8))) 0) := by
  obtain ⟨ds, hheat, harms⟩ := noteHeat_own s (s.jobOf b.grid) acc.ea.toNat pa e true
  let n := atomBits y / 8
  let new := atomNew o y (s.mem.num pa n) (acc.x.toNat % 2 ^ atomBits y) (acc.y.toNat % 2 ^ atomBits y)
  have hlen : (leBytes new n).length = n := leBytes_length ..
  obtain ⟨ws, hput⟩ := memPutAs_unwatched (s := { s with dies := ds }) (bs := leBytes new n) hp.above (by rw [hlen]; exact hp.waits)
    (by rw [hlen]; exact fun d a ha => hp.arms d a (by rwa [harms] at ha)) s.nextId
  refine ⟨ds, ws, ?_⟩
  have hhere := hr.here
  rw [hop, AccOp.writes] at hhere
  rw [← atomNew_eq]
  simp only [performAcc, hop]
  refine (if_neg ?_).trans ((if_neg ?_).trans ?_)
  · intro hstaged
    split at hstaged
    next heq => cases heq; rw [hord (.inr ⟨rfl, rfl⟩)] at hstaged; cases hstaged
    next => cases hstaged
  · intro hheld
    split at hheld
    next heq => cases heq; rw [hord (.inl rfl)] at hheld; cases hheld
    next => cases hheld
  · simp only [settleBefore_drained hd, Bool.not_true, Bool.false_eq_true, if_false, AccOp.writes, hhere, hp.free, Bool.and_false,
      if_true, hp.dsm, hheat, atomBytes, (atomBits_bytes y).1, memPut]
    rw [hput]

/-- The execution of an atomic: its lanes' accesses, and room for a staged one (R221, R223). -/
theorem exec_atomic_eq {o : AtomOp} {y : AtomTy} {od : Order} {sc : Scope} {a : Access} (h : atomics i = some (o, y, od, sc, a)) (s : State) :
    a.op = .atom o y od sc ∧ (exec i s = runAcc i s a.of ∨ o = .addf ∧ exec i s = runAaddf i s a.of) := by
  unfold atomics at h
  split at h <;> cases h
  · exact ⟨rfl, .inl (by rw [access_short]; rfl)⟩
  all_goals rw [access_long]
  on_goal 9 => exact ⟨rfl, .inr ⟨rfl, rfl⟩⟩
  all_goals exact ⟨rfl, .inl rfl⟩

/-- The group's one active lane has no other below it. -/
theorem lowerGood_alone (h : IssuingAlone s b g m th i) (f : Thread → Acc) : lowerGood b g s th f = [] := by
  simp [lowerGood, h.alone]

/-- An atomic that is not staged goes by its one lane's access. -/
theorem exec_atomic_alone {o : AtomOp} {y : AtomTy} {od : Order} {sc : Scope} {a : Access} {u : State} {ws : List Window}
    (hi : atomics i = some (o, y, od, sc, a)) (h : IssuingAlone s b g m th i) (hok : accFaults s b (!th.priv) (a.of th) = (s, []))
    (hstaged : od = .none ∧ o = .addf → s.ordered b.grid = false)
    (hact : actAcc s (trefOf b th) g.hdr g.idx (!th.priv) (a.of th) = (u, ws)) :
    exec i s = .next (advanceIn u b.grid b.bidx g.gid (Instr.len i) ws) := by
  obtain ⟨hop, hexec | ⟨ho, hexec⟩⟩ := exec_atomic_eq hi s
  · rw [hexec, runAcc_alone h a.of hok hact]
  · rw [hexec, runAaddf]
    refine runLanes_alone h _ _ ?_ hact
    have hop' : (a.of th).op = .atom o y od sc := hop
    by_cases hn : od = .none
    · simp [aaddfCheck, accCheck, hok, hstaged ⟨hn, ho⟩]
    · cases od
      case none => exact absurd rfl hn
      all_goals simp [aaddfCheck, accCheck, hok, hop']

theorem exec_atomic_here {o : AtomOp} {y : AtomTy} {od : Order} {sc : Scope} {a : Access} {pa : Nat} {e : Word}
    (hi : atomics i = some (o, y, od, sc, a)) (h : IssuingAlone s b g m th i) (hd : Drained s b th) (hr : Reaches s b th (a.of th) pa e)
    (hp : Plain s (s.jobOf b.grid) (a.ea th).toNat pa (atomBits y / 8))
    (hord : od = .ord ∨ (od = .none ∧ o = .addf) → s.ordered b.grid = false) (hticket : ¬(od = .sc ∧ sc = .pod))
    (hturn : od = .sc → ∀ x ∈ s.scOut, x.1 = false → s.waitsOn x.2.2 = false) :
    ∃ t, exec i s = .next t ∧
      t.mem = s.mem.write pa (leBytes (atomResult o (atomSigned y) (atomBits y) (s.mem.num pa (atomBits y / 8))
        ((th.reg a.d).toNat % 2 ^ atomBits y) ((th.reg (a.d + 1)).toNat % 2 ^ atomBits y)) (atomBits y / 8)) ∧
      Delivers s t b g th a.d a.k (atomOld o y (s.mem.num pa (atomBits y / 8))) 0 := by
  have hop : (a.of th).op = .atom o y od sc := (exec_atomic_eq hi s).1
  obtain ⟨ds, ws', hperf⟩ := performAcc_atom hop hd hr hp hord s.nextId
  obtain ⟨w, ws, hact, hmem, hdel⟩ := actAcc_inTurn_delivers (k := a.k) h hd (by rw [hop, scOrder_atom]) hticket hturn (by rw [hop]; rfl) rfl
    hperf rfl rfl (Instr.len i)
  exact ⟨_, exec_atomic_alone hi h hr.sound (fun hs => hord (.inr hs)) hact, hmem, hdel⟩

theorem exec_atomic_ticket {o : AtomOp} {y : AtomTy} {a : Access} (hi : atomics i = some (o, y, .sc, .pod, a)) (h : IssuingAlone s b g m th i)
    (hd : Drained s b th) (hok : accFaults s b (!th.priv) (a.of th) = (s, [])) :
    ∃ t p, exec i s = .next t ∧ t.mem = s.mem ∧ t.pend = s.pend ++ [p] ∧ p.kind = .scTicket ∧ p.acc = a.of th ∧ p.who = me b th ∧
      p.tok = a.k.toNat ∧ t.outEvents = s.outEvents ++ [.ticket { seq := 0, origin := s.pkg, job := s.jobOf b.grid }] ∧
      OneLane s t b g fun _ x x' => x'.content = (raise a.k x).content := by
  have hop : (a.of th).op = .atom o y .sc .pod := (exec_atomic_eq hi s).1
  obtain ⟨w, ws, p, hact, hp, hmem, hpend, hev, hlane⟩ := actAcc_pod_waits h hd (by rw [hop]; rfl) (Instr.len i)
  have htok : p.tok = a.k.toNat := by rw [hp, pendOf, hop]; rfl
  rw [htok, raised_token] at hlane
  exact ⟨_, p, exec_atomic_alone hi h hok (fun hs => absurd hs.1 nofun) hact, hmem, hpend, by rw [hp]; rfl, by rw [hp]; rfl, by rw [hp]; rfl,
    htok, hev, hlane⟩

/-- An .ord atomic of an ordered grid awaits its release (R225). -/
theorem performAcc_ord {acc : Acc} {o : AtomOp} {y : AtomTy} {sc : Scope} (hop : acc.op = .atom o y .ord sc) (ho : s.ordered b.grid = true)
    (who : Tref) (user : Bool) (upTo : Nat) : performAcc s b who user acc upTo = (s, .wait .ticket) := by
  simp only [performAcc, hop]
  exact (if_neg Bool.false_ne_true).trans (if_pos ho)

/-- What an entry in the ticket unit changes of its thread (R55, R210). -/
def ticketed (x : Thread) : Thread := { x with stores := x.stores + 1, order := x.order + 1 }

/-- The entry of a thread's .ord access. -/
def ticketOf (who : Tref) (th : Thread) (acc : Acc) (id : Nat) : Ticket :=
  { id := id, seg := th.segment, who := who, order := th.order, acc := acc }

theorem enterTicket_eq {who : Tref} (hth : s.thread? who = some th) (b : Block) (acc : Acc) (id : Nat) :
    enterTicket s b who acc id = { s.updThread who ticketed with
      dies := (s.updDie (dieOf b.core) fun d => { d with tickets := d.tickets ++ [ticketOf who th acc id] }).dies } := by
  have hseq := State.updThread_updThread s who (fun x => { x with stores := x.stores + 1 }) (fun x => { x with order := x.order + 1 }) fun _ => rfl
  have horder : s.orderOf who = th.order := by rw [State.orderOf, hth]; rfl
  rw [enterTicket, horder, hth]
  exact congrArg (fun t : State => { t with
    dies := (s.updDie (dieOf b.core) fun d => { d with tickets := d.tickets ++ [ticketOf who th acc id] }).dies }) hseq

theorem raised_segment (tok : Nat) (x : Thread) : (raised tok x).segment = x.segment := by
  rw [raised]
  split_ifs <;> rfl

theorem raised_order (tok : Nat) (x : Thread) : (raised tok x).order = x.order := by
  rw [raised]
  split_ifs <;> rfl

/-- An access that waits in the ticket unit is outstanding, and its entry stands in the unit of its die. -/
theorem settle_ticket {acc : Acc} (h : IssuingAlone s b g m th i) (n : Nat) :
    let p := pendOf s (trefOf b th) g.hdr g.idx acc .ticket
    ∃ w ws, settle s (trefOf b th) g.hdr g.idx acc (.wait .ticket) = (w, ws) ∧
      (advanceIn w b.grid b.bidx g.gid n ws).mem = s.mem ∧ (advanceIn w b.grid b.bidx g.gid n ws).pend = s.pend ++ [p] ∧
      ((advanceIn w b.grid b.bidx g.gid n ws).die (dieOf b.core)).tickets =
        (s.die (dieOf b.core)).tickets ++ [ticketOf (trefOf b th) th acc p.id] ∧
      OneLane s (advanceIn w b.grid b.bidx g.gid n ws) b g fun _ x x' => x'.content = (ticketed (raised p.tok x)).content := by
  intro p
  let f := raised p.tok
  have hblock := (State.cur?_block h.current).1
  have hadd : addPend s p = { s.updThread (trefOf b th) f with pend := s.pend ++ [p], nextId := s.nextId + 1 } := addPend_eq s p
  have hblock' : (addPend s p).block? b.grid b.bidx = some (b.updThread th.tid f) := by
    rw [hadd]
    exact State.block?_eq_of_blocks hblock (updThread_found h f) ⟨rfl, rfl⟩
  have hth : (addPend s p).thread? (trefOf b th) = some (f th) := by
    rw [hadd]
    exact (State.thread?_updThread (raised_tid p.tok)).trans (congrArg (Option.map f) h.thread?_eq)
  have hent := enterTicket_eq hth (b.updThread th.tid f) acc p.id
  have hseq := State.updThread_updThread s (trefOf b th) f ticketed (raised_tid p.tok)
  obtain ⟨ws, hset⟩ : ∃ ws, settle s (trefOf b th) g.hdr g.idx acc (.wait .ticket) =
      (enterTicket (addPend s p) (b.updThread th.tid f) (trefOf b th) acc p.id, ws) := by
    refine ⟨_, Prod.ext ?_ rfl⟩
    change (match (addPend s p).block? b.grid b.bidx with
      | some c => enterTicket (addPend s p) c (trefOf b th) acc p.id
      | none => addPend s p) = _
    rw [hblock']
  obtain ⟨⟨bs, he⟩, hlane⟩ := advanceIn_wentAlone (u := enterTicket (addPend s p) (b.updThread th.tid f) (trefOf b th) acc p.id) h
    (fun x => ticketed (f x)) (raised_trap p.tok) (by rw [hent, hadd]; exact (congrArg State.blocks hseq :)) n ws
  refine ⟨_, ws, hset, ?_, ?_, ?_, hlane.mono fun _ _ _ hx => hx.1⟩
  · rw [he, hent, hadd]
    rfl
  · rw [he, hent, hadd]
    rfl
  · have hentry : ticketOf (trefOf b th) (f th) acc p.id = ticketOf (trefOf b th) th acc p.id := by
      rw [ticketOf, ticketOf, raised_segment, raised_order]
    rw [he, hent, hentry, hadd]
    refine (congrArg Die.tickets (State.die_updDie s (dieOf b.core) (dieOf b.core) fun d =>
      { d with tickets := d.tickets ++ [ticketOf (trefOf b th) th acc p.id] })).trans ?_
    rw [if_pos rfl]

theorem exec_atomic_ordered {o : AtomOp} {y : AtomTy} {sc : Scope} {a : Access} (hi : atomics i = some (o, y, .ord, sc, a))
    (h : IssuingAlone s b g m th i) (ho : s.ordered b.grid = true) (hok : accFaults s b (!th.priv) (a.of th) = (s, [])) :
    ∃ t p x, exec i s = .next t ∧ t.mem = s.mem ∧ t.pend = s.pend ++ [p] ∧ p.kind = .ticket ∧ p.acc = a.of th ∧ p.who = me b th ∧
      p.tok = a.k.toNat ∧ (t.die (dieOf b.core)).tickets = (s.die (dieOf b.core)).tickets ++ [x] ∧ x.id = p.id ∧ x.who = me b th ∧
      x.acc = a.of th ∧ x.seg = th.segment ∧ x.order = th.order ∧
      OneLane s t b g fun _ x x' => x'.content = ({ raise a.k x with stores := x.stores + 1, order := x.order + 1 } : Thread).content := by
  have hop : (a.of th).op = .atom o y .ord sc := (exec_atomic_eq hi s).1
  obtain ⟨w, ws, hset, hmem, hpend, htick, hlane⟩ := settle_ticket (acc := a.of th) h (Instr.len i)
  have hact := (actAcc_plain (State.cur?_block h.current).1 (by rw [hop]; rfl) (performAcc_ord hop ho (trefOf b th) (!th.priv) s.nextId) nofun
    g.hdr g.idx).trans hset
  have htok : (pendOf s (trefOf b th) g.hdr g.idx (a.of th) .ticket).tok = a.k.toNat := by rw [pendOf, hop]; rfl
  rw [htok, raised_token] at hlane
  refine ⟨_, _, _, exec_atomic_alone hi h hok (fun hs => absurd hs.1 nofun) hact, hmem, hpend, rfl, rfl, rfl, htok, htick, rfl, rfl, rfl, rfl,
    rfl, hlane.mono fun _ x x' hx => hx.trans ?_⟩
  rw [ticketed, raise]
  split_ifs <;> rfl

/-- The entry of a staged AADDF (R223, R224). -/
def stagedOf (b : Block) (th : Thread) (acc : Acc) : Staged :=
  { va := acc.ea.toNat, x := acc.x.extractLsb' 0 32, order := th.order, who := trefOf b th, batch := th.flushes + 1, spilled := false }

/-- Of an ordered grid AADDF of order 0 is staged where the core's buffer has room. -/
theorem performAcc_staged {acc : Acc} {y : AtomTy} {sc : Scope} (hop : acc.op = .atom .addf y .none sc) (ho : s.ordered b.grid = true)
    (hth : s.thread? (trefOf b th) = some th) (hroom : ((s.core b.core).staged.filter fun e => !e.spilled).length < 512)
    (user : Bool) (upTo : Nat) :
    performAcc s b (trefOf b th) user acc upTo =
      (drawOrder (s.updCore b.core fun k => { k with staged := k.staged ++ [stagedOf b th acc] }) (trefOf b th), .done) := by
  have hstage : stageRoom s b.core = (s, true) := by rw [stageRoom, if_pos hroom]
  simp only [performAcc, hop, hth, hstage]
  exact if_pos ho

theorem exec_aaddf_staged {d r : Reg} {o : BitVec 26} {k : BitVec 3} {l : BitVec 4} {sc : Scope} {pa : Nat} {e : Word}
    (h : IssuingAlone s b g m th (.aaddf d r o k l .none sc)) (ho : s.ordered b.grid = true)
    (hr : Reaches s b th (mkAcc (.atom .addf .w .none sc) th (ea_ th r o.toInt) d k l) pa e)
    (hroom : ((s.core b.core).staged.filter fun x => !x.spilled).length < 512) :
    ∃ t x, exec (.aaddf d r o k l .none sc) s = .next t ∧ t.mem = s.mem ∧ t.pend = s.pend ∧
      (t.core b.core).staged = (s.core b.core).staged ++ [x] ∧ x.va = (ea_ th r o.toInt).toNat ∧
      x.x = (th.reg d).extractLsb' 0 32 ∧ x.who = me b th ∧ x.order = th.order ∧ x.batch = th.flushes + 1 ∧
      OneLane s t b g fun _ y y' => y'.content = ({ y with order := y.order + 1 } : Thread).content := by
  let f := Access.of ⟨.atom .addf .w .none sc, fun th => ea_ th r o.toInt, d, k, l⟩
  let u := s.updCore b.core fun k => { k with staged := k.staged ++ [stagedOf b th (f th)] }
  have hperf := performAcc_staged (acc := f th) rfl ho h.thread?_eq hroom (!th.priv) s.nextId
  have hact : actAcc s (trefOf b th) g.hdr g.idx (!th.priv) (f th) = (drawOrder u (trefOf b th), []) :=
    actAcc_plain (State.cur?_block h.current).1 rfl hperf nofun g.hdr g.idx
  have hfree : ¬stageFree s b.core ≤ 0 := by rw [stageFree]; omega
  have hcheck : aaddfCheck b (lowerGood b g s th f).length s th (f th) = (s, .go) := by
    have hok : accFaults s b (!th.priv) (f th) = (s, []) := hr.sound
    rw [lowerGood_alone h]
    simp [aaddfCheck, accCheck, hok, hfree]
  have hexec : exec (.aaddf d r o k l .none sc) s = runAaddf (.aaddf d r o k l .none sc) s f := by
    rw [show f = _ from access_long ..]
    rfl
  obtain ⟨⟨bs, he⟩, hlane⟩ := advanceIn_wentAlone (u := drawOrder u (trefOf b th)) h (fun x => { x with order := x.order + 1 }) (fun _ => rfl)
    rfl (Instr.len (.aaddf d r o k l .none sc)) []
  refine ⟨_, stagedOf b th (f th), hexec.trans (runLanes_alone h _ _ hcheck hact), ?_, ?_, ?_, rfl, rfl, rfl, rfl, rfl,
    hlane.mono fun _ _ _ hx => hx.1⟩
  · rw [he]
    rfl
  · rw [he]
    rfl
  · rw [he]
    refine (congrArg Core.staged (State.core_updCore s b.core b.core fun k => { k with staged := k.staged ++ [stagedOf b th (f th)] })).trans ?_
    rw [if_pos rfl]

/-- Settles O17, clause by clause: performed here (`performAcc_atom`), staged (`performAcc_staged`), of the Halyard's SC order
(`actAcc_pod_waits`), in the ticket unit (`settle_ticket`). -/
theorem atomicResult : Obligations.AtomicResult := by
  refine ⟨fun s b g m th i o y od sc a pa e hi h hd hr hp hord hticket hturn => ?_,
    fun _ _ _ _ _ _ _ _ _ _ _ _ _ h ho hr hroom => exec_aaddf_staged h ho hr hroom,
    fun _ _ _ _ _ _ _ _ _ hi h hd hok => exec_atomic_ticket hi h hd hok,
    fun _ _ _ _ _ _ _ _ _ _ hi h ho hok => exec_atomic_ordered hi h ho hok⟩
  have ht := exec_atomic_here hi h hd hr hp hord hticket hturn
  rw [atomOld_eq] at ht
  exact ht

end Sys2Proof.Machine
end

section
/-! PROOFS. Signal writes, SIGWAIT and SIGARM (O26). -/

namespace Sys2Proof.Machine

open Sys2Proof Sys2Proof.Rules

variable {s : State} {b : Block} {g : Group} {m : Member} {th : Thread} {i : Instr}

/- The word of a signal object (R231, R232). -/

theorem sigWith_toNat (w : Word) (c : Int) : (sigWith w c).toNat = w.toNat / 2 ^ 60 * 2 ^ 60 + wrap 60 c := by
  have hw := w.isLt
  have hc : wrap 60 c < 2 ^ 60 := by rw [wrap]; omega
  rw [sigWith, pteSet, setBits, bits, BitVec.toNat_ofNat]
  simp only [Nat.shiftRight_zero, Nat.shiftLeft_zero, Nat.sub_zero, Nat.reduceAdd, Nat.mod_eq_of_lt hc]
  omega

theorem sigCount_eq (w : Word) : sigCount w = s_ 60 (w.toNat % 2 ^ 60) := sgn_eq (by decide) _

theorem sigNew_toNat (o : SigOp) {old : Nat} (h : old < 2 ^ 64) (x : Word) :
    (sigNew o (BitVec.ofNat 64 old) x).toNat = signalNext o old x := by
  have hold : (BitVec.ofNat 64 old).toNat = old := by rw [BitVec.toNat_ofNat, Nat.mod_eq_of_lt h]
  cases o with
  | set => rw [sigNew, signalNext, BitVec.toNat_ofNat]; omega
  | dec | inc =>
    rw [sigNew, signalNext, sigWith_toNat, sigCount_eq, hold, wrap, s_]
    split <;> omega

/-- A SIGWAIT's condition, of the object's 64 bits. -/
theorem sigMet_iff {w : Nat} (h : w < 2 ^ 64) (t : Int) :
    sigMet (BitVec.ofNat 64 w) t = true ↔ s_ 60 (w % 2 ^ 60) ≤ t ∨ w / 2 ^ 63 % 2 = 1 := by
  have hw : (BitVec.ofNat 64 w).toNat = w := by rw [BitVec.toNat_ofNat, Nat.mod_eq_of_lt h]
  rw [sigMet, sigErr, sigCount_eq, hw, BitVec.getLsbD, hw, Nat.testBit_eq_decide_div_mod_eq, Bool.or_eq_true, decide_eq_true_iff,
    decide_eq_true_iff]

/- Signal writes. -/

theorem exec_signal_eq {o : SigOp} {od : Order} {sc : Scope} {a : Access} (h : signals i = some (o, od, sc, a)) (s : State) :
    a.op = .sig o od sc ∧ exec i s = runAcc i s a.of := by
  unfold signals at h
  split at h <;> cases h
  · exact ⟨rfl, by rw [access_short]; rfl⟩
  all_goals exact ⟨rfl, by rw [access_long]; rfl⟩

/-- A signal write of a thread with nothing outstanding puts the object's next word (R232). -/
theorem performAcc_sig {acc : Acc} {o : SigOp} {od : Order} {sc : Scope} {pa : Nat} {e : Word} (hop : acc.op = .sig o od sc)
    (hf : Free s b th acc.ea pa od sc) (hr : Reaches s b th acc pa e) (upTo : Nat) :
    ∃ ds ws, performAcc s b (trefOf b th) (!th.priv) acc upTo =
      ({ s with mem := s.mem.write pa (leBytes (signalNext o (s.mem.num pa 8) acc.x) 8), dies := ds, opWrites := ws }, .done) := by
  obtain ⟨ds, hheat, harms⟩ := noteHeat_own s (s.jobOf b.grid) acc.ea.toNat pa e true
  let v := sigNew o (BitVec.ofNat 64 (s.mem.num pa 8)) acc.x
  obtain ⟨ds', ws, hput⟩ := wordWrite_unwatched (s := { s with dies := ds }) hf.plain.above
    (fun p hp q od sc x hk e => hf.plain.waits p hp q od sc x hk (by omega))
    (fun j a ha e => hf.plain.arms j a (by rwa [harms] at ha) (by omega)) (armCount { s with dies := ds }) v
  refine ⟨ds', ws, ?_⟩
  have hhere := hr.here
  rw [hop, AccOp.writes] at hhere
  rw [← sigNew_toNat o (Memory.num_lt s.mem pa 8)]
  simp only [performAcc, hop, settleBefore_drained hf.drained, AccOp.writes, hhere, hf.plain.free, hf.plain.dsm, hheat, signalPut,
    Bool.not_true, Bool.and_false, Bool.false_eq_true, if_false, if_true]
  rw [hput]

theorem exec_signal_free {o : SigOp} {od : Order} {sc : Scope} {a : Access} {pa : Nat} {e : Word} (hi : signals i = some (o, od, sc, a))
    (h : IssuingAlone s b g m th i) (hf : Free s b th (a.ea th) pa od sc) (hr : Reaches s b th (a.of th) pa e) :
    ∃ t, exec i s = .next t ∧ t.mem = s.mem.write pa (leBytes (signalNext o (s.mem.num pa 8) (th.reg a.d)) 8) ∧ t.writes = s.writes ∧
      t.pend = s.pend ∧ OneLane s t b g fun _ x x' => x'.content = x.content := by
  obtain ⟨hop, hexec⟩ := exec_signal_eq hi s
  have hop' : (a.of th).op = .sig o od sc := hop
  obtain ⟨ds, ws', hperf⟩ := performAcc_sig hop' hf hr s.nextId
  obtain ⟨w, ws, hact, ⟨bs, n, l, he⟩, hlane⟩ := actAcc_inTurn_done h hf.drained (by rw [hop', scOrder_sig]) hf.ticket hf.turn hperf rfl
    (Instr.len i)
  exact ⟨_, hexec.trans (runAcc_alone h a.of hr.sound hact), by rw [he]; rfl, by rw [he], by rw [he], hlane⟩

theorem exec_signal_ticket {o : SigOp} {a : Access} (hi : signals i = some (o, .sc, .pod, a)) (h : IssuingAlone s b g m th i)
    (hd : Drained s b th) (hok : accFaults s b (!th.priv) (a.of th) = (s, [])) :
    ∃ t p, exec i s = .next t ∧ t.mem = s.mem ∧ t.pend = s.pend ++ [p] ∧ p.kind = .scTicket ∧ p.acc = a.of th ∧ p.who = me b th ∧
      t.outEvents = s.outEvents ++ [.ticket { seq := 0, origin := s.pkg, job := s.jobOf b.grid }] ∧
      OneLane s t b g fun _ x x' => x'.content = ({ x with stores := x.stores + 1 } : Thread).content := by
  obtain ⟨hop, hexec⟩ := exec_signal_eq hi s
  have hop' : (a.of th).op = .sig o .sc .pod := hop
  obtain ⟨w, ws, p, hact, hp, hmem, hpend, hev, hlane⟩ := actAcc_pod_waits h hd (by rw [hop']; rfl) (Instr.len i)
  have htok : p.tok = 8 := by rw [hp, pendOf, hop']; rfl
  rw [htok] at hlane
  exact ⟨_, p, hexec.trans (runAcc_alone h a.of hok hact), hmem, hpend, by rw [hp]; rfl, by rw [hp]; rfl, by rw [hp]; rfl, hev, hlane⟩

/- SIGWAIT. -/

/-- A SIGWAIT whose condition holds has the object's word, in its turn of the SC order (R112, R232). -/
theorem performAcc_sigwait_met {acc : Acc} {od : Order} {sc : Scope} {pa : Nat} {e : Word} (hop : acc.op = .sigwait od sc)
    (hf : Free s b th acc.ea pa od sc) (hr : Reaches s b th acc pa e)
    (hmet : sigMet (BitVec.ofNat 64 (s.mem.num pa 8)) (sigCount acc.x) = true) (upTo : Nat) :
    ∃ ds n, performAcc s b (trefOf b th) (!th.priv) acc upTo =
      ({ s with dies := ds, scNext := n }, .value (BitVec.ofNat 64 (s.mem.num pa 8)) 0) := by
  obtain ⟨ds, hheat, -⟩ := noteHeat_own s (s.jobOf b.grid) acc.ea.toNat pa e false
  have hhere := hr.here
  simp only [hop, AccOp.writes] at hhere
  by_cases hask : od = .sc ∧ (!(s.scOut.any fun x => x.2.2 == upTo)) = true
  · have hpod : sc ≠ .pod := fun e => hf.ticket ⟨hask.1, e⟩
    have hturn : scTurn { s with dies := ds } false s.scNext = true := scTurn_first (s := { s with dies := ds }) (hf.turn hask.1) s.scNext
    refine ⟨ds, s.scNext + 1, ?_⟩
    simp [performAcc, hop, settleBefore_drained hf.drained, AccOp.writes, hhere, hheat, hmet, hask, hpod, hturn]
  · refine ⟨ds, s.scNext, ?_⟩
    have hask' : ¬(decide (od = .sc) && !(s.scOut.any fun x => x.2.2 == upTo)) = true := by simpa using hask
    simp [performAcc, hop, settleBefore_drained hf.drained, AccOp.writes, hhere, hheat, hmet, hask']

theorem performAcc_sigwait_unmet {acc : Acc} {od : Order} {sc : Scope} {pa : Nat} {e : Word} (hop : acc.op = .sigwait od sc)
    (hf : Free s b th acc.ea pa od sc) (hr : Reaches s b th acc pa e)
    (hmet : sigMet (BitVec.ofNat 64 (s.mem.num pa 8)) (sigCount acc.x) = false) (upTo : Nat) :
    ∃ ds, performAcc s b (trefOf b th) (!th.priv) acc upTo = ({ s with dies := ds }, .wait (.signal pa od sc (sigCount acc.x))) := by
  obtain ⟨ds, hheat, -⟩ := noteHeat_own s (s.jobOf b.grid) acc.ea.toNat pa e false
  have hhere := hr.here
  simp only [hop, AccOp.writes] at hhere
  refine ⟨ds, ?_⟩
  simp [performAcc, hop, settleBefore_drained hf.drained, AccOp.writes, hhere, hheat, hmet]

/-- The thread of a SIGWAIT that waits: in SIGNAL where tok = 7, else its token raised (R37, R137). -/
def awaiting (k : BitVec 3) (x : Thread) : Thread := if k = 7 then { x with status := .signal } else raise k x

theorem awaiting_content (k : BitVec 3) (x : Thread) :
    (awaiting k x).content = (if k = 7 then x else x.setTok k.toNat (x.tok k.toNat + 1)).content := by
  rw [awaiting, raise]
  split <;> rfl

theorem settle_signal {acc : Acc} {k : BitVec 3} (hcounts : acc.op.counts = false) (hk : acc.k = k.toNat) (s : State) (who : Tref)
    (hdr : Va) (idx q : Nat) (od : Order) (sc : Scope) (t : Int) :
    ∃ ws, settle s who hdr idx acc (.wait (.signal q od sc t)) =
      ({ s.updThread who (awaiting k) with
          pend := s.pend ++ [pendOf s who hdr idx acc (.signal q od sc t)], nextId := s.nextId + 1 }, ws) := by
  let p := pendOf s who hdr idx acc (.signal q od sc t)
  have htok : p.tok = k.toNat := by simp [p, pendOf, hcounts, hk]
  have hadd : addPend s p = { s.updThread who (raise k) with pend := s.pend ++ [p], nextId := s.nextId + 1 } := by
    rw [addPend_eq, htok, raised_token]
    rfl
  refine ⟨_, Prod.ext ?_ rfl⟩
  change (if p.tok == 7 then (addPend s p).updThread who fun x => { x with status := .signal } else addPend s p) = _
  rw [htok, hadd]
  by_cases h7 : k = 7
  · have ha : awaiting k = fun x => { x with status := .signal } := funext fun x => if_pos h7
    have hr : raise k = id := funext fun x => if_pos h7
    rw [ha, hr, State.updThread_id, h7]
    rfl
  · have ha : awaiting k = raise k := funext fun x => if_neg h7
    have hne : (k.toNat == 7) = false := beq_eq_false_iff_ne.2 fun e => h7 (BitVec.eq_of_toNat_eq e)
    rw [ha, hne]
    rfl

/-- What SIGWAIT does with the object's 64 bits. -/
structure SignalAwaited (s t : State) (b : Block) (g : Group) (th : Thread) (d : Reg) (k : BitVec 3) (od : Order) (sc : Scope) (pa : Nat) :
    Prop where
  met : sigMet (BitVec.ofNat 64 (s.mem.num pa 8)) (sigCount (th.reg d)) = true → Delivers s t b g th d k (BitVec.ofNat 64 (s.mem.num pa 8)) 0
  pend : sigMet (BitVec.ofNat 64 (s.mem.num pa 8)) (sigCount (th.reg d)) = false →
    ∃ p, t.pend = s.pend ++ [p] ∧ p.who = me b th ∧ p.tok = k.toNat ∧ p.acc.d = d ∧ p.kind = .signal pa od sc (sigCount (th.reg d))
  lane : sigMet (BitVec.ofNat 64 (s.mem.num pa 8)) (sigCount (th.reg d)) = false →
    OneLane s t b g fun _ x x' => x'.content = (if k = 7 then x else x.setTok k.toNat (x.tok k.toNat + 1)).content ∧
      (k = 7 → x'.status = .signal)

theorem exec_sigwait {d r : Reg} {o : BitVec 26} {k : BitVec 3} {l : BitVec 4} {od : Order} {sc : Scope} {pa : Nat} {e : Word}
    (h : IssuingAlone s b g m th (.sigwait d r o k l od sc)) (hf : Free s b th (ea_ th r o.toInt) pa od sc)
    (hr : Reaches s b th (mkAcc (.sigwait od sc) th (ea_ th r o.toInt) d k l) pa e) :
    ∃ t, exec (.sigwait d r o k l od sc) s = .next t ∧ t.mem = s.mem ∧ t.writes = s.writes ∧ SignalAwaited s t b g th d k od sc pa := by
  let f := Access.of ⟨.sigwait od sc, fun th => ea_ th r o.toInt, d, k, l⟩
  have hexec : exec (.sigwait d r o k l od sc) s = runAcc (.sigwait d r o k l od sc) s f := by
    rw [show f = _ from access_long ..]
    rfl
  rw [hexec]
  cases hmet : sigMet (BitVec.ofNat 64 (s.mem.num pa 8)) (sigCount (th.reg d)) with
  | true =>
    obtain ⟨ds, n, hperf⟩ := performAcc_sigwait_met (acc := f th) rfl hf hr hmet s.nextId
    obtain ⟨t, ht, hmem, hwrites, -, hdel⟩ := runAcc_delivers (u := { s with dies := ds, scNext := n }) (k := k) h hr.sound rfl rfl rfl
      hperf rfl rfl
    exact ⟨t, ht, hmem, hwrites, fun _ => hdel, fun he => absurd (hmet.symm.trans he) nofun, fun he => absurd (hmet.symm.trans he) nofun⟩
  | false =>
    obtain ⟨ds, hperf⟩ := performAcc_sigwait_unmet (acc := f th) rfl hf hr hmet s.nextId
    let u : State := { s with dies := ds }
    let p := pendOf u (trefOf b th) g.hdr g.idx (f th) (.signal pa od sc (sigCount (th.reg d)))
    obtain ⟨ws, hset⟩ := settle_signal (acc := f th) (k := k) rfl rfl u (trefOf b th) g.hdr g.idx pa od sc (sigCount (th.reg d))
    have hact := (actAcc_plain (State.cur?_block h.current).1 rfl hperf nofun g.hdr g.idx).trans hset
    obtain ⟨⟨bs, he⟩, hlane⟩ := advanceIn_wentAlone (u := { u.updThread (trefOf b th) (awaiting k) with
      pend := u.pend ++ [p], nextId := u.nextId + 1 }) h (awaiting k) (fun x => by rw [awaiting, raise]; split <;> rfl) rfl
      (Instr.len (.sigwait d r o k l od sc)) ws
    refine ⟨_, runAcc_alone h f hr.sound hact, (congrArg State.mem he :), (congrArg State.writes he :), fun he => absurd (hmet.symm.trans he) nofun,
      fun _ => ⟨p, (congrArg State.pend he :), rfl, rfl, rfl, rfl⟩,
      fun _ => hlane.mono fun _ x x' hx => ⟨hx.1.trans (awaiting_content k x), fun h7 => ?_⟩⟩
    have ha : awaiting k x = { x with status := .signal } := if_pos h7
    rw [hx.2 (by rw [ha]; exact nofun), ha]

/- SIGARM. -/

/-- Of a threshold that COUNT has not reached, an entry joins the table of the object's die. -/
theorem armEntry_above {a : Arm} (h : a.t < sigCount (BitVec.ofNat 64 (s.mem.num a.obj 8))) :
    armEntry s a = s.updDie (homeDie a.obj) fun d => { d with arms := d.arms ++ [a] } := by
  rw [armEntry, if_neg (by omega)]

/-- An action word of R233: a signal decrement of an aligned object, or an event of an aligned record. -/
theorem armReserved_false {y : Word} (h : y.toNat / 2 ^ 57 = 0 ∧ y.toNat % 8 = 0 ∨ y.toNat / 2 ^ 57 = 16 ∧ y.toNat % 64 = 0) :
    armReserved y.toNat = false := by
  have hy := y.isLt
  simp only [armReserved, bits, Nat.shiftRight_eq_div_pow, Bool.or_eq_false_iff, decide_eq_false_iff_not, bne_eq_false_iff_eq]
  rcases h with ⟨h57, h8⟩ | ⟨h57, h64⟩
  · have h61 : y.toNat / 2 ^ 61 % 2 ^ (63 + 1 - 61) = 0 := by omega
    simp only [h61, beq_self_eq_true, if_true]
    omega
  · have h61 : y.toNat / 2 ^ 61 % 2 ^ (63 + 1 - 61) = 1 := by omega
    simp only [h61, Nat.one_ne_zero, beq_iff_eq, if_false]
    omega

/-- The entry of an SIGARM whose object lies at pa. -/
def armOf (s : State) (b : Block) (th : Thread) (acc : Acc) (pa : Nat) : Arm :=
  { obj := pa, job := s.jobOf b.grid, user := !th.priv, t := sigCount acc.x, kind := bits acc.y.toNat 63 61, addr := acc.y.toNat % 2 ^ 57 }

theorem performAcc_sigarm {acc : Acc} {od : Order} {sc : Scope} {pa : Nat} {e : Word} (hop : acc.op = .sigarm od sc)
    (hf : Free s b th acc.ea pa od sc) (hr : Reaches s b th acc pa e)
    (habove : sigCount acc.x < sigCount (BitVec.ofNat 64 (s.mem.num pa 8))) (upTo : Nat) :
    ∃ ds, performAcc s b (trefOf b th) (!th.priv) acc upTo = ({ s with dies := ds }, .done) ∧
      (State.die { s with dies := ds } (homeDie pa)).arms = (s.die (homeDie pa)).arms ++ [armOf s b th acc pa] := by
  obtain ⟨ds, hheat, harms⟩ := noteHeat_own s (s.jobOf b.grid) acc.ea.toNat pa e false
  have hhere := hr.here
  simp only [hop, AccOp.writes] at hhere
  have harm := armEntry_above (s := { s with dies := ds }) (a := armOf s b th acc pa) habove
  refine ⟨(State.updDie { s with dies := ds } (homeDie pa) fun d => { d with arms := d.arms ++ [armOf s b th acc pa] }).dies, ?_, ?_⟩
  · have hperf : performAcc s b (trefOf b th) (!th.priv) acc upTo = (armEntry { s with dies := ds } (armOf s b th acc pa), .done) := by
      simp [performAcc, hop, settleBefore_drained hf.drained, AccOp.writes, hhere, hheat, armOf]
    rw [hperf, harm]
    rfl
  · refine (congrArg Die.arms (State.die_updDie { s with dies := ds } (homeDie pa) (homeDie pa) fun d =>
      { d with arms := d.arms ++ [armOf s b th acc pa] })).trans ?_
    rw [if_pos rfl]
    exact congrArg (· ++ _) (harms _)

/-- The check of an SIGARM lane alone: its access, room in the arm table, the action word. -/
theorem armLane_alone {f : Thread → Acc} {pa : Nat} {e : Word} {od : Order} {sc : Scope} (h : IssuingAlone s b g m th i)
    (hop : (f th).op = .sigarm od sc) (hr : Reaches s b th (f th) pa e) (hroom : (s.die (homeDie pa)).arms.length < 4096)
    (hres : armReserved (f th).y.toNat = false) : armLane b g f s th = (s, .go) := by
  have hhere := hr.here
  simp only [hop, AccOp.writes] at hhere
  have hcause : armCause s b (!th.priv) [] (f th) = none := by
    simp [armCause, armHome, hhere, hres, hroom]
  simp [armLane, accCheck, hr.sound, lowerGood_alone h, hcause]

theorem exec_sigarm {d r : Reg} {o : BitVec 26} {od : Order} {sc : Scope} {pa : Nat} {e : Word}
    (h : IssuingAlone s b g m th (.sigarm d r o od sc)) (hf : Free s b th (ea_ th r o.toInt) pa od sc)
    (hr : Reaches s b th (mkAcc (.sigarm od sc) th (ea_ th r o.toInt) d 7 0) pa e) (hroom : (s.die (homeDie pa)).arms.length < 4096)
    (habove : sigCount (th.reg d) < sigCount (BitVec.ofNat 64 (s.mem.num pa 8))) (hres : armReserved (th.reg (d + 1)).toNat = false) :
    ∃ t, exec (.sigarm d r o od sc) s = .next t ∧ t.mem = s.mem ∧ t.pend = s.pend ∧
      (t.die (homeDie pa)).arms =
        (s.die (homeDie pa)).arms ++ [armOf s b th (mkAcc (.sigarm od sc) th (ea_ th r o.toInt) d 7 0) pa] ∧
      OneLane s t b g fun _ x x' => x'.content = x.content := by
  let f := Access.of ⟨.sigarm od sc, fun th => ea_ th r o.toInt, d, 7, 0⟩
  have hexec : exec (.sigarm d r o od sc) s = runLanes (.sigarm d r o od sc) s (fun b g s _ th => armLane b g f s th)
      fun b g s _ th => actLane b g s th (f th) := by
    rw [show f = _ from access_long ..]
    rfl
  obtain ⟨ds, hperf, harms⟩ := performAcc_sigarm (acc := f th) rfl hf hr habove s.nextId
  obtain ⟨w, ws, hact, ⟨bs, n, l, he⟩, hlane⟩ := actAcc_inTurn_done h hf.drained (scOrder_sigarm od sc) hf.ticket hf.turn hperf rfl
    (Instr.len (.sigarm d r o od sc))
  exact ⟨_, hexec.trans (runLanes_alone h _ _ (armLane_alone h rfl hr hroom hres) hact), by rw [he], by rw [he], by rw [he]; exact harms, hlane⟩

/-- Settles O26, clause by clause: a signal write performed (`performAcc_sig`) or waiting for its ticket (`actAcc_pod_waits`), SIGWAIT, SIGARM. -/
theorem signalResult : Obligations.SignalResult := by
  refine ⟨fun _ _ _ _ _ _ _ _ _ _ _ _ hi h hf hr => exec_signal_free hi h hf hr,
    fun _ _ _ _ _ _ _ _ hi h hd hok => exec_signal_ticket hi h hd hok,
    fun s b g m th d r o k l od sc pa e h hf hr => ?_, fun s b g m th d r o od sc pa e h hf hr hroom habove hword => ?_⟩
  · obtain ⟨t, ht, hmem, hwrites, hmet, hpend, hlane⟩ := exec_sigwait h hf hr
    have hiff := sigMet_iff (Memory.num_lt s.mem pa 8) (sigCount (th.reg d))
    rw [sigCount_eq] at hiff hmet hpend hlane
    exact ⟨t, ht, hmem, hwrites, fun hc => hmet (hiff.2 hc), fun hc =>
      have hno := Bool.eq_false_iff.2 fun hm => hc (hiff.1 hm)
      ⟨hpend hno, hlane hno⟩⟩
  · have hcount : sigCount (th.reg d) < sigCount (BitVec.ofNat 64 (s.mem.num pa 8)) := by
      rw [sigCount_eq, sigCount_eq, BitVec.toNat_ofNat, Nat.mod_eq_of_lt (Memory.num_lt s.mem pa 8)]
      exact habove
    obtain ⟨t, ht, hmem, hpend, harms, hlane⟩ := exec_sigarm h hf hr hroom hcount (armReserved_false hword)
    refine ⟨t, ht, hmem, hpend, harms.trans ?_, hlane⟩
    have hkind (y : Word) : bits y.toNat 63 61 = y.toNat / 2 ^ 61 := by
      have hy := y.isLt
      rw [bits, Nat.shiftRight_eq_div_pow]
      omega
    simp only [armOf, hkind, sigCount_eq]
    rfl

end Sys2Proof.Machine
end

section
/-! PROOFS. AFLUSH and DIGRD (O25). -/

namespace Sys2Proof.Machine

open Sys2Proof Sys2Proof.Rules

variable {s : State} {b : Block} {g : Group} {m : Member} {th : Thread} {i : Instr}

/- AFLUSH. -/

theorem exec_aflush_unordered {k : BitVec 3} {l : BitVec 4} (h : IssuingAlone s b g m th (.aflush k l)) (ho : s.ordered b.grid = false) :
    ∃ t, exec (.aflush k l) s = .next t ∧ LanesDid s t b g fun _ x x' => x'.content = x.content := by
  have hidle : exec (.aflush k l) s = onLanes (.aflush k l) s fun _ _ _ th => th :=
    runLanes_idle h.toIssuing fun _ _ => if_neg (by rw [ho]; exact Bool.false_ne_true)
  rw [hidle]
  exact onLanes_did h.toIssuing _ fun _ _ => rfl

theorem exec_aflush_ordered {k : BitVec 3} {l : BitVec 4} (h : IssuingAlone s b g m th (.aflush k l)) (ho : s.ordered b.grid = true) :
    ∃ t p, exec (.aflush k l) s = .next t ∧ t.mem = s.mem ∧ t.pend = s.pend ++ [p] ∧ p.who = me b th ∧ p.tok = k.toNat ∧
      p.kind = .flush (th.flushes + 1) ∧
      OneLane s t b g fun _ x x' => x'.content = ({ raise k x with flushes := x.flushes + 1 } : Thread).content := by
  let u := s.updThread (trefOf b th) fun t => { t with flushes := t.flushes + 1 }
  let p := plainPend u b g th 0 k (.flush (th.flushes + 1))
  have hadd : addPend u p = { s.updThread (trefOf b th) (fun x => raise k { x with flushes := x.flushes + 1 }) with
      pend := s.pend ++ [p], nextId := s.nextId + 1 } := by
    have hseq := State.updThread_updThread s (trefOf b th) (fun x => { x with flushes := x.flushes + 1 }) (raise k) fun _ => rfl
    rw [addPend_eq, show p.tok = k.toNat from rfl, raised_token]
    exact congrArg (fun t : State => { t with pend := s.pend ++ [p], nextId := s.nextId + 1 }) hseq
  obtain ⟨⟨bs, he⟩, hlane⟩ := advanceIn_wentAlone (u := addPend u p) h (fun x => raise k { x with flushes := x.flushes + 1 })
    (fun x => by rw [raise]; split <;> rfl) (by rw [hadd]) (Instr.len (.aflush k l)) [{ id := s.nextId, left := if k == 7 then 0 else l.toNat }]
  rw [hadd] at he
  refine ⟨advanceIn (addPend u p) b.grid b.bidx g.gid (Instr.len (.aflush k l)) _, p, runLanes_alone h _ _ rfl (if_pos ho), ?_, ?_, rfl, rfl, rfl,
    hlane.mono fun _ x _ hx => hx.1.trans ?_⟩
  · rw [hadd]
    exact (congrArg State.mem he :)
  · rw [hadd]
    exact (congrArg State.pend he :)
  · rw [raise, raise]
    split <;> rfl

/- DIGRD. -/

theorem digestReady_none (h : ∀ p ∈ s.pend, p.kind ≠ .digest) : digestReady s = s := by
  refine foldl_fixed_of_mem fun p hp => ?_
  split
  next hk => exact absurd hk (h p hp)
  next => rfl

/-- The one outstanding DIGRD, of a thread with no .ord operation left, has the digest pair (R228). -/
theorem digestReady_last {l : List Pend} {p : Pend} {gr : Grid} (hpend : s.pend = l ++ [p]) (hl : ∀ q ∈ l, q.kind ≠ .digest)
    (hk : p.kind = .digest) (ht : hasTickets s p.who = false) (hg : s.grid? p.who.grid = some gr) :
    digestReady s = complete s p [(p.acc.d, gr.h0), (nextReg p.acc.d, gr.h1)] 0 := by
  rw [digestReady, hpend, List.foldl_append, List.foldl_cons, List.foldl_nil, foldl_fixed_of_mem (l := l) fun q hq => ?_]
  · simp only [hk, ht, hg, Bool.false_eq_true, if_false]
  · split
    next hk => exact absurd hk (hl q hq)
    next => rfl

theorem hasTickets_none {who : Tref} (h : ∀ j, ∀ x ∈ (s.die j).tickets, x.who ≠ who) : hasTickets s who = false := by
  rw [hasTickets, List.any_eq_false]
  intro j _
  rw [Bool.not_eq_true, List.any_eq_false]
  intro x hx
  simpa using h j x hx

theorem LanesDid.of_oneLane {t : State} {r : Member → Thread → Thread → Prop} (he : ∃ bs, t = { s with blocks := bs, issuing := none })
    (h : OneLane s t b g r) : LanesDid s t b g r := by
  obtain ⟨bs, rfl⟩ := he
  obtain ⟨b', hblocks, -, hshell, hw⟩ := h
  exact ⟨b', congrArg (fun bs => { s with blocks := bs, issuing := none }) hblocks, hshell, hw⟩

/-- A relation of the lanes that the one active lane's thread meets. -/
theorem OneLane.mono_alone {t : State} {r r' : Member → Thread → Thread → Prop} (h : IssuingAlone s b g m th i) (ho : OneLane s t b g r)
    (hr : ∀ x', r m th x' → r' m th x') : OneLane s t b g r' := by
  obtain ⟨b', hblocks, hidle, hshell, hw⟩ := ho
  refine ⟨b', hblocks, hidle, hshell, hw.mono_active fun m' x x' hx hr' => ?_⟩
  rw [h.alone, List.mem_singleton] at hx
  obtain ⟨rfl, rfl⟩ := Prod.mk.inj hx
  exact hr x' hr'

theorem exec_digrd_unordered {d : Reg} {k : BitVec 3} {l : BitVec 4} (h : IssuingAlone s b g m th (.digrd d k l))
    (ho : s.ordered b.grid = false) (hnone : ∀ p ∈ s.pend, p.kind ≠ .digest) :
    ∃ t, exec (.digrd d k l) s = .next t ∧ LanesDid s t b g fun _ x x' => x'.content = ((x.setReg d 0).setReg (d + 1) 0).content := by
  let f (x : Thread) : Thread := (x.setReg d 0).setReg (nextReg d) 0
  let u := s.updThread (trefOf b th) f
  have hready : digestReady u = u := digestReady_none hnone
  have hexec : exec (.digrd d k l) s = .next (advanceIn (digestReady u) b.grid b.bidx g.gid (Instr.len (.digrd d k l)) []) :=
    runLanesThen_alone (s2 := u) (ws := []) h _ _ (fun _ _ s => digestReady s) rfl (if_neg (by rw [ho]; exact Bool.false_ne_true))
  obtain ⟨he, hlane⟩ := advanceIn_wentAlone (u := u) h f (fun _ => rfl) rfl (Instr.len (.digrd d k l)) []
  rw [hready] at hexec
  exact ⟨_, hexec, LanesDid.of_oneLane he (hlane.mono fun _ _ _ hx => hx.1)⟩

/-- A token raised and lowered again (R137). -/
theorem setTok_raised (x : Thread) (k : Nat) : ((x.setTok k (x.tok k + 1)).setTok k ((x.setTok k (x.tok k + 1)).tok k - 1)) = x := by
  have htoks : (x.toks.set k (x.toks.getD k 0 + 1)).set k ((x.toks.set k (x.toks.getD k 0 + 1)).getD k 0 - 1) = x.toks := by
    by_cases hk : k < x.toks.length
    · simp [List.getD_eq_getElem?_getD, hk]
    · rw [List.set_eq_of_length_le (by simpa using hk), List.set_eq_of_length_le (by simpa using hk)]
  exact congrArg (fun ts => { x with toks := ts }) htoks

/-- A DIGRD that is complete as soon as it is outstanding leaves its thread the digest pair. -/
theorem finishThread_digest {p : Pend} {k : BitVec 3} (hp : p.tok = k.toNat) (hth : th.status = .issuing) (x y : Reg) (v w : Word) :
    finishThread p [(x, v), (y, w)] 0 (raise k th) = ((th.setReg x v).setReg y w) := by
  by_cases h7 : k = 7
  · have hr : raise k th = th := if_pos h7
    have hnot : th.status ≠ .exited := by rw [hth]; exact nofun
    rw [hr, finishThread_untracked (by rw [hp, h7]; rfl) hth, resultIn, if_neg hnot, Thread.setFlags_zero]
    rfl
  · have hlt : k.toNat < 7 := by
      have hk := k.isLt
      have hne : k.toNat ≠ 7 := fun e => h7 (BitVec.eq_of_toNat_eq e)
      omega
    have hr : raise k th = th.setTok k.toNat (th.tok k.toNat + 1) := if_neg h7
    have hstatus : (raise k th).status = .issuing := by rw [hr]; exact hth
    have hnot : (raise k th).status ≠ .exited := by rw [hstatus]; exact nofun
    have hin : resultIn [(x, v), (y, w)] 0 (raise k th) = ((raise k th).setReg x v).setReg y w := by
      rw [resultIn, if_neg hnot, Thread.setFlags_zero]
      rfl
    rw [finishThread_token (hp ▸ hlt) (by rw [hstatus]; exact nofun), hin, hp, hr]
    exact congrArg (fun z : Thread => (z.setReg x v).setReg y w) (setTok_raised th k.toNat)

theorem exec_digrd_ordered {d : Reg} {k : BitVec 3} {l : BitVec 4} {gr : Grid} (h : IssuingAlone s b g m th (.digrd d k l))
    (hth : th.status = .issuing) (ho : s.ordered b.grid = true) (hnone : ∀ p ∈ s.pend, p.kind ≠ .digest) (hg : s.grid? b.grid = some gr)
    (ht : ∀ j, ∀ x ∈ (s.die j).tickets, x.who ≠ me b th) :
    ∃ t, exec (.digrd d k l) s = .next t ∧ t.mem = s.mem ∧
      OneLane s t b g fun _ x x' => x'.content = ((x.setReg d gr.h0).setReg (d + 1) gr.h1).content := by
  let p := plainPend s b g th d k .digest
  let f (x : Thread) : Thread := finishThread p [(d, gr.h0), (nextReg d, gr.h1)] 0 (raise k x)
  have hadd : addPend s p = { s.updThread (trefOf b th) (raise k) with pend := s.pend ++ [p], nextId := s.nextId + 1 } := by
    rw [addPend_eq, show p.tok = k.toNat from rfl, raised_token]
    rfl
  have hready : digestReady (addPend s p) = complete (addPend s p) p [(d, gr.h0), (nextReg d, gr.h1)] 0 := by
    rw [hadd]
    exact digestReady_last rfl hnone rfl (hasTickets_none ht) hg
  have hexec : exec (.digrd d k l) s = .next (advanceIn (complete (addPend s p) p [(d, gr.h0), (nextReg d, gr.h1)] 0) b.grid b.bidx g.gid
      (Instr.len (.digrd d k l)) [{ id := s.nextId, left := if k == 7 then 0 else l.toNat }]) := by
    rw [← hready]
    exact runLanesThen_alone (s2 := addPend s p) h _ _ (fun _ _ s => digestReady s) rfl (if_pos ho)
  have hblocks : (complete (addPend s p) p [(d, gr.h0), (nextReg d, gr.h1)] 0).blocks = (s.updThread (trefOf b th) f).blocks := by
    have hseq := State.updThread_updThread s (trefOf b th) (raise k) (finishThread p [(d, gr.h0), (nextReg d, gr.h1)] 0)
      (raised_token k ▸ raised_tid _)
    rw [hadd]
    exact (congrArg State.blocks hseq :)
  have hcalm (x : Thread) : (f x).trapAfter = x.trapAfter :=
    (finishThread_trapAfter ..).trans (raised_token k ▸ raised_trap k.toNat x)
  obtain ⟨⟨bs, he⟩, hlane⟩ := advanceIn_wentAlone h f hcalm hblocks (Instr.len (.digrd d k l))
    [{ id := s.nextId, left := if k == 7 then 0 else l.toNat }]
  refine ⟨_, hexec, ?_, hlane.mono_alone h fun _ hx => hx.1.trans
    (congrArg Thread.content (finishThread_digest rfl hth d (nextReg d) gr.h0 gr.h1))⟩
  rw [he]
  exact (congrArg State.mem hadd :)

/-- Settles O25, clause by clause. -/
theorem flushAndDigestResult : Obligations.FlushAndDigestResult :=
  ⟨fun _ _ _ _ _ _ _ h ho => exec_aflush_unordered h ho, fun _ _ _ _ _ _ _ h ho => exec_aflush_ordered h ho,
   fun _ _ _ _ _ _ _ _ h ho hn => exec_digrd_unordered h ho hn,
   fun _ _ _ _ _ _ _ _ _ h hth ho hn hg ht => exec_digrd_ordered h hth ho hn hg ht⟩

end Sys2Proof.Machine
end

section
/-! PROOFS. A store performed and a load result delivered (O16). -/

namespace Sys2Proof.Machine

open Sys2Proof Sys2Proof.Rules

variable {s : State} {w : PWrite} {who : Tref}

/- A thread's lines toward other packages (R119, R317). -/

/-- Without a line of a thread before a number, no line holds a store of it below the number. -/
theorem lines_none {n : Nat} (h : linesBefore s who n = false) :
    (∀ c ∈ s.cores, ∀ l ∈ c.2.wc, l.of who n = false) ∧ ∀ f ∈ s.inFlight, f.2.2.of who n = false := by
  simp only [linesBefore, Bool.or_eq_false_iff, List.any_eq_false, Bool.not_eq_true] at h
  exact h

theorem lineBefore_none {n : Nat} (h : linesBefore s who n = false) (job va k : Nat) : lineBefore s who n job va k = false := by
  obtain ⟨hcores, hflight⟩ := lines_none h
  simp only [lineBefore, Bool.or_eq_false_iff, List.any_eq_false, Bool.not_eq_true, Bool.and_eq_false_iff]
  exact ⟨fun c hc l hl => .inl (hcores c hc l hl), fun f hf => .inl (hflight f hf)⟩

theorem of_false_mono {l : WcLine} {n k : Nat} (h : l.of who n = false) (hk : k ≤ n) : l.of who k = false := by
  rw [WcLine.of, List.any_eq_false] at h ⊢
  intro x hx hm
  refine h x hx ?_
  simp only [Bool.and_eq_true, decide_eq_true_iff] at hm ⊢
  exact ⟨hm.1, by omega⟩

theorem linesBefore_mono {n k : Nat} (h : linesBefore s who n = false) (hk : k ≤ n) : linesBefore s who k = false := by
  obtain ⟨hcores, hflight⟩ := lines_none h
  simp only [linesBefore, Bool.or_eq_false_iff, List.any_eq_false, Bool.not_eq_true]
  exact ⟨fun c hc l hl => of_false_mono (hcores c hc l hl) hk, fun f hf => of_false_mono (hflight f hf) hk⟩

theorem whos_of_false {l : WcLine} {id : Nat} (h : l.of who (id + 1) = false) : l.whos.contains (id, who) = false := by
  rw [WcLine.of, List.any_eq_false] at h
  rw [Bool.eq_false_iff]
  intro hc
  exact h _ (List.contains_iff_mem.1 hc) (by simp)

/-- With no line of the thread, sending its lines changes nothing. -/
theorem sendOwn_noLines (h : ∀ n, linesBefore s who n = false) (core : Nat) : sendOwn s core who = s := by
  have hnone : (s.core core).wc.filter (fun l => l.whos.any fun x => x.2 == who) = [] := by
    refine List.filter_eq_nil_iff.2 fun l hl => ?_
    rw [Bool.not_eq_true, List.any_eq_false]
    intro x hx he
    rcases tget_mem_or coreInit core s.cores with hc | ⟨e, hmem, hc⟩
    · rw [State.core, hc] at hl
      cases hl
    · rw [State.core, hc] at hl
      have hof := (lines_none (h (x.1 + 1))).1 e hmem l hl
      rw [WcLine.of, List.any_eq_false] at hof
      exact hof x hx (by simp [he])
  rw [sendOwn, sendLines, hnone, List.foldl_nil]

/- A store that nothing precedes (R102). -/

theorem foremost_not_blocked (h : Foremost s w) : w.blocked s = false := by
  have hlines := linesBefore_mono h.lines (Nat.le_succ w.id)
  have hfirst : s.writes.any (fun x => x.before w) = false := by
    rw [List.any_eq_false]
    exact fun x hx => by rw [h.first x hx]; exact Bool.false_ne_true
  simp [PWrite.blocked, h.free, hfirst, hlines, h.reads, lineBefore_none hlines]

/-- It is performed as the only one of its list (R102). -/
theorem performStore_foremost (hmem : w ∈ s.writes) (h : Foremost s w) (hset : w.set = true → ∀ n, linesBefore s w.who n = false) :
    performStore s w = performWrite s w := by
  have hsend : (if w.set then sendOwn s (((s.block? w.who.grid w.who.bidx).map fun b => b.core).getD 0) w.who else s) = s := by
    split
    next hs => exact sendOwn_noLines (hset hs) _
    next => rfl
  have hnone : s.writes.filter (fun x => x.before w) = [] := List.filter_eq_nil_iff.2 fun x hx => by rw [h.first x hx]; exact Bool.false_ne_true
  simp only [performStore, hsend, performAfter, hnone, List.foldl_nil, foremost_not_blocked h, List.contains_iff_mem.2 hmem]
  rfl

theorem filter_ne_eq (h : ∀ x ∈ s.writes, x.id = w.id → x = w) : (s.writes.filter fun x => x != w) = s.writes.filter fun x => x.id != w.id :=
  List.filter_congr fun x hx => by
    rw [Bool.eq_iff_iff, bne_iff_ne, bne_iff_ne]
    exact ⟨fun hne he => hne (h x hx he), fun hne he => hne (congrArg PWrite.id he)⟩

/-- The store leaves the list, and its thread's store count (R210). -/
theorem writeDone_whole {u : State} (hwrites : u.writes = s.writes) (hcores : u.cores = s.cores) (hflight : u.inFlight = s.inFlight)
    (h : Foremost s w) :
    writeDone u w = { u.updThread w.who fun th => { th with stores := th.stores - 1 } with writes := s.writes.filter fun x => x.id != w.id } := by
  obtain ⟨hc, hf⟩ := lines_none h.lines
  have hout : pieceOut { u with writes := s.writes.filter fun x => x.id != w.id } w.who w.id = false := by
    simp only [pieceOut, hcores, hflight, Bool.or_eq_false_iff, List.any_eq_false, Bool.not_eq_true]
    refine ⟨⟨fun x hx => ?_, fun c hmem l hl => whos_of_false (hc c hmem l hl)⟩, fun f hmem => whos_of_false (hf f hmem)⟩
    have hne := (List.mem_filter.1 hx).2
    rw [bne_iff_ne] at hne
    simp [hne]
  rw [writeDone, hwrites, filter_ne_eq h.whole, storeGone, hout]
  rfl

theorem performAt_plain {pa : Nat} (h : Foremost s w) (hp : Plain s w.job w.va pa w.bytes.length) :
    ∃ ws, performAt s w pa = { s.updThread w.who fun th => { th with stores := th.stores - 1 } with
      mem := s.mem.write pa w.bytes, writes := s.writes.filter fun x => x.id != w.id, opWrites := ws } := by
  have hsound : ((partGranules pa w.bytes.length).find? fun q => s.mem.err q != 0) = none := by
    refine List.find?_eq_none.2 fun q hq => ?_
    obtain ⟨hlo, hhi⟩ := partGranules_meet hp.some_ hq
    simp [hp.seals q hlo hhi]
  obtain ⟨ws, hput⟩ := memPutAs_unwatched hp.above hp.waits hp.arms w.id
  refine ⟨ws, ?_⟩
  rw [performAt, hsound]
  dsimp only
  rw [hp.dsm, hput]
  exact (writeDone_whole (u := { s with mem := s.mem.write pa w.bytes, opWrites := ws }) (s := s) rfl rfl rfl h).trans rfl

theorem performWrite_plain {pa : Nat} (hplace : w.place = .pa pa) (hp : Plain s w.job w.va pa w.bytes.length) :
    performWrite s w = performAt s w pa := by
  simp only [performWrite, hplace, hp.here, hp.free, Bool.false_eq_true, if_false]

/-- The number finds the store itself. -/
theorem mem_of_found (h : s.writes.find? (fun x => x.id == w.id) = some w) : w ∈ s.writes := List.mem_of_find?_eq_some h

theorem exec_storePerformed_quiet {u : State} (hw : s.writes.find? (fun x => x.id == w.id) = some w) (h : Foremost s w)
    (hset : w.set = true → ∀ n, linesBefore s w.who n = false) (hperf : performWrite s w = u) (hq : Quiet u) :
    exec (.storePerformed w.id) s = .next u := by
  rw [exec, execStorePerformed, hw]
  dsimp only
  rw [performStore_foremost (mem_of_found hw) h hset, hperf, goOn_quiet hq]

theorem exec_storePerformed_memory {pa : Nat} (hw : s.writes.find? (fun x => x.id == w.id) = some w) (hplace : w.place = .pa pa)
    (h : Foremost s w) (hq : Quiet s) (hp : Plain s w.job w.va pa w.bytes.length) (hset : w.set = true → ∀ n, linesBefore s w.who n = false) :
    ∃ t, exec (.storePerformed w.id) s = .next t ∧ t.mem = s.mem.write pa w.bytes ∧ t.pend = s.pend ∧
      t.writes = s.writes.filter (fun x => x.id != w.id) ∧
      t.blocks = (s.updThread w.who fun th => { th with stores := th.stores - 1 }).blocks := by
  obtain ⟨ws, hperf⟩ := performAt_plain h hp
  exact ⟨_, exec_storePerformed_quiet hw h hset ((performWrite_plain hplace hp).trans hperf) ⟨hq.held, hq.sigs, hq.bars⟩, rfl, rfl, rfl, rfl⟩

/- A store of the scratchpad (R73, R216, R217). -/

theorem waitsFull_none {grid bidx : Nat} {p : Pend}
    (h : ∀ o n c, p.kind = .fullEmpty o n c → p.who.grid ≠ grid ∨ p.who.bidx ≠ bidx) (gran : Nat) (clr : Bool) :
    waitsFull grid bidx gran clr p = false := by
  rw [waitsFull]
  cases hk : p.kind
  case fullEmpty o n c => rcases h o n c hk with hne | hne <;> simp [hne]
  all_goals exact Bool.and_false _

/-- Where no load of the block waits, a granule's full bit is set and nothing follows (R73). -/
theorem granuleFull_unwaited {grid bidx : Nat}
    (h : ∀ p ∈ s.pend, ∀ o n c, p.kind = .fullEmpty o n c → p.who.grid ≠ grid ∨ p.who.bidx ≠ bidx) (gran : Nat) :
    granuleFull s grid bidx gran = s.updBlock grid bidx fun b => { b with full := markSet b.full gran true } := by
  have hnone (c : Bool) : s.pend.filter (waitsFull grid bidx gran c) = [] :=
    List.filter_eq_nil_iff.2 fun p hp => by rw [waitsFull_none (h p hp)]; exact Bool.false_ne_true
  have hpend : (s.updBlock grid bidx fun b => { b with full := markSet b.full gran true }).pend = s.pend := rfl
  simp only [granuleFull, hpend, hnone, List.foldl_nil]
  rfl

/-- The full bits after those of granules are set. -/
def fullSet (first : Nat) (l : List Nat) (full : List Nat) : List Nat := l.foldl (fun f i => markSet f (first + i) true) full

theorem granulesFull_unwaited {grid bidx : Nat} (first : Nat) : ∀ (l : List Nat) (s : State),
    (∀ p ∈ s.pend, ∀ o n c, p.kind = .fullEmpty o n c → p.who.grid ≠ grid ∨ p.who.bidx ≠ bidx) →
    l.foldl (fun s i => granuleFull s grid bidx (first + i)) s = s.updBlock grid bidx fun b => { b with full := fullSet first l b.full }
  | [], s, _ => by
    have hid : (fun b : Block => { b with full := fullSet first [] b.full }) = id := rfl
    rw [hid, State.updBlock, replaceFirst_id]
    rfl
  | i :: l, s, h => by
    rw [List.foldl_cons, granuleFull_unwaited h,
      granulesFull_unwaited first l (s.updBlock grid bidx fun b => { b with full := markSet b.full (first + i) true }) h,
      State.updBlock_updBlock _ _ _ (fun b => { b with full := markSet b.full (first + i) true }) _ fun _ hb => hb]
    rfl

/-- The granules that n bytes from an offset touch. -/
def granulesTouched (off n : Nat) : List Nat := List.range ((off + n + 15) / 16 - off / 16)

theorem scratchPutAs_unwaited {grid bidx off : Nat} {bs : List Byte} {set : Bool}
    (h : set = true → ∀ p ∈ s.pend, ∀ o n c, p.kind = .fullEmpty o n c → p.who.grid ≠ grid ∨ p.who.bidx ≠ bidx) (num : Nat) :
    ∃ ws, scratchPutAs s num grid bidx off bs set = { s.updBlock grid bidx fun b => { b with
      scratch := b.scratch.write off bs
      full := if set then fullSet (off / 16) (granulesTouched off bs.length) b.full else b.full } with opWrites := ws } := by
  obtain ⟨ws, hnote⟩ := noteOperand_frame s num (scratchGran grid bidx off) ((off + bs.length + 7) / 8 - off / 8)
  refine ⟨ws, ?_⟩
  rw [scratchPutAs, hnote]
  cases set with
  | false => rfl
  | true =>
    let u := State.updBlock { s with opWrites := ws } grid bidx fun b => { b with scratch := b.scratch.write off bs }
    refine (granulesFull_unwaited (off / 16) (granulesTouched off bs.length) u (h rfl)).trans ?_
    refine (State.updBlock_updBlock { s with opWrites := ws } grid bidx (fun b => { b with scratch := b.scratch.write off bs }) _
      fun _ hb => hb).trans ?_
    rfl

theorem exec_storePerformed_scratch {off : Nat} (hw : s.writes.find? (fun x => x.id == w.id) = some w) (hplace : w.place = .scratch off)
    (h : Foremost s w) (hq : Quiet s) (hset : w.set = true → (∀ n, linesBefore s w.who n = false) ∧
      ∀ p ∈ s.pend, ∀ o n c, p.kind = .fullEmpty o n c → p.who.grid ≠ w.who.grid ∨ p.who.bidx ≠ w.who.bidx) :
    ∃ t, exec (.storePerformed w.id) s = .next t ∧ t.mem = s.mem ∧ t.writes = s.writes.filter (fun x => x.id != w.id) ∧
      t.blocks = ((s.updBlock w.who.grid w.who.bidx fun b => { b with
          scratch := b.scratch.write off w.bytes
          full := if w.set then fullSet (off / 16) (granulesTouched off w.bytes.length) b.full else b.full }).updThread w.who
        fun th => { th with stores := th.stores - 1 }).blocks := by
  obtain ⟨ws, hput⟩ := scratchPutAs_unwaited (off := off) (bs := w.bytes) (fun hs => (hset hs).2) w.id
  let u := s.updBlock w.who.grid w.who.bidx fun b => { b with
    scratch := b.scratch.write off w.bytes
    full := if w.set then fullSet (off / 16) (granulesTouched off w.bytes.length) b.full else b.full }
  have hperf : performWrite s w = writeDone { u with opWrites := ws } w := by
    simp only [performWrite, hplace, hput]
    rfl
  rw [writeDone_whole (s := s) (u := { u with opWrites := ws }) rfl rfl rfl h] at hperf
  exact ⟨_, exec_storePerformed_quiet hw h (fun hs => (hset hs).1) hperf ⟨hq.held, hq.sigs, hq.bars⟩, rfl, rfl, rfl⟩

/- A load result (R137, R139, R182). -/

/-- Changes of a thread that agree on the thread itself. -/
theorem State.updThread_congr {th : Thread} {f k : Thread → Thread} (hth : s.thread? who = some th) (hfk : f th = k th) :
    s.updThread who f = s.updThread who k := by
  obtain ⟨b, hb, hbt⟩ := Option.bind_eq_some_iff.1 hth
  have hthreads : replaceFirst (fun x : Thread => x.tid == who.tid) f b.threads = replaceFirst (fun x => x.tid == who.tid) k b.threads :=
    replaceFirst_congr _ f k b.threads fun x hx => by
      rw [show b.threads.find? _ = some th from hbt] at hx
      cases hx
      exact hfk
  have hupd : b.updThread who.tid f = b.updThread who.tid k := congrArg (fun ts => { b with threads := ts }) hthreads
  calc s.updThread who f = s.updBlock who.grid who.bidx fun _ => b.updThread who.tid f := State.updBlock_found hb _
    _ = s.updBlock who.grid who.bidx fun _ => b.updThread who.tid k := by rw [hupd]
    _ = s.updThread who k := (State.updBlock_found hb fun c => c.updThread who.tid k).symm

theorem exec_loadResult_result {p : Pend} {b : Block} {th : Thread} {v : Word} {f : BitVec 6}
    (hp : s.pend.find? (fun x => x.id == p.id) = some p) (hk : p.kind = .result v f) (hop : ∀ t k, p.acc.op ≠ .jump t k) (htok : p.tok < 7)
    (hb : s.block? p.who.grid p.who.bidx = some b) (hrun : b.place = 0) (hth : s.thread? p.who = some th) (hsh : th.status ≠ .shelved) :
    ∃ t, exec (.loadResult p.id) s = .next t ∧ t.mem = s.mem ∧ t.pend = s.pend.filter (fun x => x.id != p.id) ∧
      t.blocks = (s.updThread p.who fun x =>
        (resultIn [(p.acc.d, v)] f x).setTok p.tok ((resultIn [(p.acc.d, v)] f x).tok p.tok - 1)).blocks := by
  have h8 : (p.tok == 8) = false := by rw [beq_eq_false_iff_ne]; omega
  have hexec : exec (.loadResult p.id) s = .next (complete s p [(p.acc.d, v)] f) := by
    rw [exec, execLoadResult, hp]
    simp only [hb, Option.map_some, Option.getD_some, hrun, bne_self_eq_false, Bool.false_eq_true, if_false, hk, h8]
  have hupd := State.updThread_congr (f := finishThread p [(p.acc.d, v)] f)
    (k := fun x => (resultIn [(p.acc.d, v)] f x).setTok p.tok ((resultIn [(p.acc.d, v)] f x).tok p.tok - 1)) hth
    (finishThread_token htok hsh [(p.acc.d, v)] f)
  exact ⟨_, hexec, rfl, rfl, (congrArg State.blocks hupd :)⟩

/-- Settles O16, clause by clause: a store of memory (`performAt_plain`), of the scratchpad (`scratchPutAs_unwaited`), a load result
(`finishThread_token`). -/
theorem outstandingAccessCompletes : Obligations.OutstandingAccessCompletes :=
  ⟨fun _ _ _ hw hplace h hq hp hset => exec_storePerformed_memory hw hplace h hq hp hset,
   fun _ _ _ hw hplace h hq hset => exec_storePerformed_scratch hw hplace h hq hset,
   fun _ _ _ _ _ _ hp hk hop htok hb hrun hth hsh => exec_loadResult_result hp hk hop htok hb hrun hth hsh⟩

end Sys2Proof.Machine
end

section
/-! PROOFS. Gathers and scatters: why O12 and O15 fail. The lanes of one instruction share a packet for their region (R316), and a lane knows
that packet by the cycle it left in. A state that holds a packet of this cycle from elsewhere is taken for one whose packet has gone, although the
lane's page is here. -/

namespace Sys2Proof.Machine

open Sys2Proof Sys2Proof.Rules

/-- Every page of the lower half of the address space on this package, one frame up, readable and writable. -/
def soloExtent : Extent :=
  { v := true, w := true, u := true, fmt := 0, geom := 0, cbslot := 0, pages := 2 ^ 17, pkg := 0, frame := 1, vabase := 0 }

def soloBlock (i : Instr) : Block := { probeBlock (encode i) with extents := [soloExtent] }

/-- One block of one thread that has won its issue cycle at the instruction, with the packets kept and the lines on their way. -/
def soloState (i : Instr) (kept : List Kept) (flight : List (Nat × Nat × WcLine)) : State :=
  { State.reset with
    grids := [probeGrid], blocks := [soloBlock i], issuing := some { grid := probeHandle, bidx := 0, gid := 0 }
    retained := kept, inFlight := flight }

def soloMember : Member := { tid := 0, lane := 0, active := true }

/-- The leaf entry of page 0 of the extent. -/
def soloLeaf : Word := 0x20000007

theorem solo_issuing (i : Instr) (kept : List Kept) (flight : List (Nat × Nat × WcLine))
    (h : entryFault (soloState i kept flight) (soloBlock i) (probeGroup (encode i)) i = none) :
    IssuingAlone (soloState i kept flight) (soloBlock i) (probeGroup (encode i)) soloMember probeThread i :=
  ⟨⟨rfl, h, by simp [soloBlock, probeBlock, probeThread]⟩, rfl⟩

/- A gather beside a VREAD of this cycle (O12). -/

def soloGather : Instr := .ldgD 2 1 0 7 0

/-- A VREAD to package 1 that left this cycle, for the granule the gather reads. -/
def soloVread : Kept := { p := { blankPacket with typ := 4, dst := 1, score := 0, offs := [0] }, link := 0, at_ := 0, sent := true }

def gatherState : State := soloState soloGather [soloVread] []

theorem gatherState_issuing : IssuingAlone gatherState (soloBlock soloGather) (probeGroup (encode soloGather)) soloMember probeThread soloGather :=
  solo_issuing _ _ _ (by decide +kernel)

theorem gatherState_drained : Drained gatherState (soloBlock soloGather) probeThread :=
  ⟨fun _ h => absurd h List.not_mem_nil, fun _ _ h => absurd h List.not_mem_nil, fun _ => rfl, fun _ h => absurd h List.not_mem_nil⟩

theorem gatherState_reaches :
    Reaches gatherState (soloBlock soloGather) probeThread (mkAcc (.ld 8 false true) probeThread (ea_ probeThread 1 0) 2 7 0) 0x10000 soloLeaf :=
  ⟨rfl, by decide +kernel, rfl, rfl⟩

/-- The gather awaits the VREAD's answer. -/
theorem exec_gatherState : ∀ t, exec soloGather gatherState = .next t → t.pend.length = 1 := by
  have hrun : (match exec soloGather gatherState with
    | .next t => t.pend.length
    | _ => 0) = 1 := by decide +kernel
  intro t ht
  rwa [ht] at hrun

/-- Refutes O12: a gather whose page is here delivers nothing where a VREAD of its core for its granule has left in the same cycle; it waits
for that packet's answer (`vreadSent`). -/
theorem not_loadResult : ¬Obligations.LoadResult := by
  intro h
  obtain ⟨t, ht, -, -, -, -, hdel, -⟩ := h gatherState (soloBlock soloGather) (probeGroup (encode soloGather)) soloMember probeThread soloGather
    ⟨.ld 8 false true, fun th => ea_ th 1 0, 2, 7, 0⟩ 8 false true 0x10000 soloLeaf rfl rfl gatherState_issuing gatherState_drained
    gatherState_reaches
  obtain ⟨hpend, -⟩ := hdel rfl
  have hone := exec_gatherState t ht
  rw [hpend] at hone
  cases hone

/- A scatter beside a line of this cycle (O15). -/

def soloScatter : Instr := .stgD 2 1 0 false

/-- A line to package 1 of this cycle, for the scatter's region and thread. -/
def soloLine : WcLine :=
  { peer := 1, job := 0, user := false, va := 0, bytes := [], whos := [(0, { grid := probeHandle, bidx := 0, tid := 0 })], born := 0 }

def scatterState : State := soloState soloScatter [] [(1, 0, soloLine)]

theorem scatterState_issuing :
    IssuingAlone scatterState (soloBlock soloScatter) (probeGroup (encode soloScatter)) soloMember probeThread soloScatter :=
  solo_issuing _ _ _ (by decide +kernel)

theorem scatterState_reaches :
    Reaches scatterState (soloBlock soloScatter) probeThread (mkAcc (.st 8 false true) probeThread (ea_ probeThread 1 0) 2 7 0) 0x10000 soloLeaf :=
  ⟨rfl, by decide +kernel, rfl, rfl⟩

/-- The scatter issues no write. -/
theorem exec_scatterState : ∀ t, exec soloScatter scatterState = .next t → t.writes.length = 0 := by
  have hrun : (match exec soloScatter scatterState with
    | .next t => t.writes.length
    | _ => 1) = 0 := by decide +kernel
  intro t ht
  rwa [ht] at hrun

/-- Refutes O15: a scatter whose page is here issues no write where a line of its thread for its region has left in the same cycle; it is
taken for one of that packet's lanes (`scatterLane`). -/
theorem not_storeAndPrefetchIssue : ¬Obligations.StoreAndPrefetchIssue := by
  rintro ⟨⟨h, -, -⟩, -⟩
  obtain ⟨t, ht, -, -, hwrites, -⟩ := h scatterState (soloBlock soloScatter) (probeGroup (encode soloScatter)) soloMember probeThread soloScatter
    ⟨.st 8 false true, fun th => ea_ th 1 0, 2, 7, 0⟩ 8 false true 0x10000 soloLeaf rfl rfl scatterState_issuing scatterState_reaches (.inl rfl)
  have hnone := exec_scatterState t ht
  rw [hwrites] at hnone
  cases hnone

end Sys2Proof.Machine
end
